-- ==== Sys2Proof/Word.lean ====
section
/-! DEFINITION. The word types and the sparse map type that every part of the state is made of (R3, R6, R78). -/

namespace Sys2Proof

/-- A byte. -/
abbrev Byte := BitVec 8

/-- A 32-bit instruction word or register value. -/
abbrev Word := BitVec 32

/-- A 64-bit value: a register pair or a virtual address. -/
abbrev DWord := BitVec 64

/-- A mask of the 96 lanes of a wave (R6): lane L is bit L. -/
abbrev Lanes := BitVec 96

/-- A 128-byte line as one value; the byte at the lowest address holds bits 7:0 (R3). -/
abbrev LineData := BitVec 1024

/-- A sparse map from natural keys: a list of key and value pairs.  Its canonical form has strictly rising keys and no
entry equal to the default an unlisted key reads as. -/
abbrev SMap (α : Type) := List (Nat × α)

end Sys2Proof
end

