-- ==== Sys2Proof/Syntax.lean ====
section
/-! DEFINITION. The syntax: one constructor of `Instr` for each row of spec/opcode_table.json.  The first 211 rows are
words of a strand's instruction stream (R53 to R77); the last 72 are whole steps of the device that no word encodes
(spec/95_what_each_step_holds.md). -/

namespace Sys2Proof

/-- A vector register number (R11). -/
abbrev VReg := BitVec 7
/-- A scalar register number (R14). -/
abbrev SReg := BitVec 6
/-- A mask triple number, 0 to 20 (R6). -/
abbrev KReg := BitVec 5
/-- The vector operand code vb (R56). -/
abbrev Code := BitVec 8

/-- The type field of class 0 (R65). -/
inductive FTy | f32 | f16x2 | bf16x2 | f64
deriving DecidableEq, Repr

/-- The type field of class 1 (R65). -/
inductive ITy | i32 | i16x2 | i8x4 | i64
deriving DecidableEq, Repr

/-- The narrow formats (R67). -/
inductive NFmt | d8 | e4m3 | e5m2 | e2m1 | int8 | int4
deriving DecidableEq, Repr

/-- The conversion pairs of VCVT (R68), named destination first. -/
inductive CvtPair
  | f32f16 | f32bf16 | f16f32 | bf16f32 | f32f64 | f64f32 | s32f32 | n32f32 | f32s32 | f32n32 | s32f64 | f64s32
  | f32s8 | f32n8
deriving DecidableEq, Repr

/-- The op selects of VSCAN and VREDS (R66). -/
inductive RedOp | addF32 | addI32 | maxF32 | minF32 | maxS32 | minS32 | orB32
deriving DecidableEq, Repr

/-- Compare conditions of the f64, s32 and n32 compares (R66). -/
inductive Cond | eq | ne | lt | le | gt | ge
deriving DecidableEq, Repr

/-- Compare conditions of the f32 compares (R66). -/
inductive FCond | eq | ne | lt | le | gt | ge | un | ord
deriving DecidableEq, Repr

/-- Qualifiers of VLD (R70). -/
inductive LdQ | plain | cn | acq | sc | nt
deriving DecidableEq, Repr

/-- Qualifiers of VST (R70). -/
inductive StQ | plain | sc | rel | nt
deriving DecidableEq, Repr

/-- Qualifiers of VATOM (R70). -/
inductive AtQ | relaxed | acq | rel | sc | ar
deriving DecidableEq, Repr

/-- Qualifiers of VRED (R70). -/
inductive RdQ | relaxed | rel | sc
deriving DecidableEq, Repr

/-- The atomic operations (R70).  VRED takes all but the last two. -/
inductive AtomOp
  | addI32 | addF32 | addI64 | addF16x2 | addBf16x2 | minS32 | minN32 | maxS32 | maxN32 | minF32 | maxF32
  | andB32 | orB32 | xorB32 | exchB32 | casB32
deriving DecidableEq, Repr

/-- Scopes (R62, R247). -/
inductive Scope | wv | blk | dt | dev | sys
deriving DecidableEq, Repr

/-- Matrix shapes (R73). -/
inductive Shape | s1x4 | s2x2 | s4x1 | ind | d1x8 | d2x4 | d4x2 | d8x1
deriving DecidableEq, Repr

/-- Accumulator formats of MSTACC and MLDACC (R74). -/
inductive AccFmt | f32 | bf16 | f16
deriving DecidableEq, Repr

/-- The operand b of class 4 (R71, R109): a register or the field imm9. -/
inductive SOp
  | reg (sb : SReg)
  | imm (v : BitVec 9)
deriving DecidableEq, Repr

/-- Whose register space a host register write names (R277, R328). -/
inductive RegSpace
  | vi (v : Nat)
  | pf
deriving DecidableEq, Repr

/-- The two kinds of window of R357. -/
inductive Window
  | pf
  | vi (v : Nat)
deriving DecidableEq, Repr

/-- What the other members of a collective bring to its completion (R198): their loss, their disagreement, or the data
that each member sends in member order, with the order in which the engine combines the members' values. -/
inductive CollInput
  | lost
  | disagree
  | sends (data : List (List Byte)) (order : List Nat)
deriving DecidableEq, Repr

/-- An access that another device sends to this device's HBM (R266, R326). -/
inductive RemoteOp
  | load (off n : Nat)
  | store (off : Nat) (data : List Byte)
  | atomic (op : AtomOp) (off : Nat) (operand expected : DWord)
deriving DecidableEq, Repr

/-- Where such an access comes in (R326): the local port, the sending device and its partition. -/
structure RemoteSource where
  port : Nat
  dev : Nat
  part : Nat
deriving DecidableEq, Repr

/-- Where a dump goes (R340): a buffer in host memory, or an Ethernet target. -/
inductive DumpTarget
  | host (addr : Nat)
  | ethernet (target : Nat)
deriving DecidableEq, Repr

/-- A DUMP message (R340): the VI and the target. -/
structure DumpRequest where
  vi : Nat
  target : DumpTarget
deriving DecidableEq, Repr

/-- One partition of a new layout (R275, R276): lowest domain, number of domains, lent quadrants (stack, quadrant), VIs assigned to it, those
of them whose owners have asked to save their contexts, and what firmware sets of R292 and R296: the counted-way quota, TL, TH and W. -/
structure PartSpec where
  low : Nat
  size : Nat
  lent : List (Nat × Nat)
  vis : List Nat
  saves : List Nat := []
  quota : Nat := 4
  tl : Nat := 0
  th : Nat := 0
  w : Nat := 0
deriving DecidableEq, Repr

/-- The instructions of the opcode table.  `m` is the park marker S of a word (R53, R54). -/
inductive Instr
  -- class 0, vector float (R65, R140)
  | vadd (m : Bool) (ty : FTy) (d a : VReg) (b : Code)
  | vsub (m : Bool) (ty : FTy) (d a : VReg) (b : Code)
  | vmul (m : Bool) (ty : FTy) (d a : VReg) (b : Code)
  | vfma (m : Bool) (ty : FTy) (d a : VReg) (b : Code)
  | vfnma (m : Bool) (ty : FTy) (d a : VReg) (b : Code)
  | vmin (m : Bool) (ty : FTy) (d a : VReg) (b : Code)
  | vmax (m : Bool) (ty : FTy) (d a : VReg) (b : Code)
  | vcpsgn (m : Bool) (ty : FTy) (d a : VReg) (b : Code)
  | vscale (m : Bool) (ty : FTy) (d a : VReg) (b : Code)
  | vabsd (m : Bool) (ty : FTy) (d a : VReg) (b : Code)
  -- class 1, vector integer (R65, R142)
  | viadd (m : Bool) (ty : ITy) (d a : VReg) (b : Code)
  | visub (m : Bool) (ty : ITy) (d a : VReg) (b : Code)
  | vimul (m : Bool) (ty : ITy) (d a : VReg) (b : Code)
  | vimad (m : Bool) (ty : ITy) (d a : VReg) (b : Code)
  | vimulhs (m : Bool) (ty : ITy) (d a : VReg) (b : Code)
  | vimulhn (m : Bool) (ty : ITy) (d a : VReg) (b : Code)
  | vimins (m : Bool) (ty : ITy) (d a : VReg) (b : Code)
  | viminn (m : Bool) (ty : ITy) (d a : VReg) (b : Code)
  | vimaxs (m : Bool) (ty : ITy) (d a : VReg) (b : Code)
  | vimaxn (m : Bool) (ty : ITy) (d a : VReg) (b : Code)
  | viaddss (m : Bool) (ty : ITy) (d a : VReg) (b : Code)
  | viaddsn (m : Bool) (ty : ITy) (d a : VReg) (b : Code)
  | vshl (m : Bool) (ty : ITy) (d a : VReg) (b : Code)
  | vshr (m : Bool) (ty : ITy) (d a : VReg) (b : Code)
  | vsra (m : Bool) (ty : ITy) (d a : VReg) (b : Code)
  | visubss (m : Bool) (ty : ITy) (d a : VReg) (b : Code)
  -- class 2, vector miscellaneous (R66)
  | vand (m : Bool) (d a : VReg) (b : Code)
  | vor (m : Bool) (d a : VReg) (b : Code)
  | vxor (m : Bool) (d a : VReg) (b : Code)
  | vandn (m : Bool) (d a : VReg) (b : Code)
  | vbfes (m : Bool) (d a : VReg) (b : Code)
  | vbfen (m : Bool) (d a : VReg) (b : Code)
  | vbfi (m : Bool) (d a : VReg) (b : Code)
  | vpopc (m : Bool) (d : VReg) (b : Code)
  | vclz (m : Bool) (d : VReg) (b : Code)
  | vpermb (m : Bool) (d a : VReg) (b : Code)
  | vmov (m : Bool) (d : VReg) (b : Code)
  | vsel (m : Bool) (d a : VReg) (b : Code)
  | vcvt (m : Bool) (d a : VReg) (pair : CvtPair) (rnd sel : BitVec 2)
  | vqnt (m : Bool) (d a : VReg) (fmt : NFmt) (sat : Bool) (slot : BitVec 3)
  | vdq (m : Bool) (d a : VReg) (fmt : NFmt) (slot : BitVec 3)
  | vbscale (m : Bool) (d a : VReg) (fmt : NFmt)
  | vrcp (m : Bool) (d : VReg) (b : Code)
  | vrsq (m : Bool) (d : VReg) (b : Code)
  | vsqrt (m : Bool) (d : VReg) (b : Code)
  | vex2 (m : Bool) (d : VReg) (b : Code)
  | vlg2 (m : Bool) (d : VReg) (b : Code)
  | vsin (m : Bool) (d : VReg) (b : Code)
  | vcos (m : Bool) (d : VReg) (b : Code)
  | vtanh (m : Bool) (d : VReg) (b : Code)
  | vlane (m : Bool) (d : VReg)
  | vshfl (m : Bool) (d a : VReg) (b : Code)
  | vbcast (m : Bool) (d a : VReg) (b : Code)
  | vscan (m : Bool) (d : VReg) (op : RedOp) (b : Code)
  | vreds (m : Bool) (d : SReg) (op : RedOp) (b : Code)
  | vrdl (m : Bool) (d : SReg) (a : VReg) (b : Code)
  | vwrl (m : Bool) (d : VReg) (lane : BitVec 7) (b : Code)
  | vrdi (m : Bool) (d : VReg) (n : SReg)
  | vwri (m : Bool) (n : SReg) (a : VReg)
  | vcmpEqF64 (m : Bool) (k : KReg) (a : VReg) (b : Code)
  | vcmpNeF64 (m : Bool) (k : KReg) (a : VReg) (b : Code)
  | vcmpLtF64 (m : Bool) (k : KReg) (a : VReg) (b : Code)
  | vcmpLeF64 (m : Bool) (k : KReg) (a : VReg) (b : Code)
  | vcmpGtF64 (m : Bool) (k : KReg) (a : VReg) (b : Code)
  | vcmpGeF64 (m : Bool) (k : KReg) (a : VReg) (b : Code)
  | vclassF32 (m : Bool) (k : KReg) (a : VReg) (b : Code)
  | vcmpF32 (m : Bool) (c : FCond) (k : KReg) (a : VReg) (b : Code)
  | vcmpS32 (m : Bool) (c : Cond) (k : KReg) (a : VReg) (b : Code)
  | vcmpN32 (m : Bool) (c : Cond) (k : KReg) (a : VReg) (b : Code)
  -- class 3, vector memory (R69, R70)
  | vldB32 (m : Bool) (t a : VReg) (b : BitVec 5) (q : LdQ)
  | vldB64 (m : Bool) (t a : VReg) (b : BitVec 5) (q : LdQ)
  | vldB128 (m : Bool) (t a : VReg) (b : BitVec 5) (q : LdQ)
  | vldS8 (m : Bool) (t a : VReg) (b : BitVec 5) (q : LdQ)
  | vldN8 (m : Bool) (t a : VReg) (b : BitVec 5) (q : LdQ)
  | vldS16 (m : Bool) (t a : VReg) (b : BitVec 5) (q : LdQ)
  | vldN16 (m : Bool) (t a : VReg) (b : BitVec 5) (q : LdQ)
  | vstB32 (m : Bool) (t a : VReg) (b : BitVec 5) (q : StQ)
  | vstB64 (m : Bool) (t a : VReg) (b : BitVec 5) (q : StQ)
  | vstB128 (m : Bool) (t a : VReg) (b : BitVec 5) (q : StQ)
  | vstB8 (m : Bool) (t a : VReg) (b : BitVec 5) (q : StQ)
  | vstB16 (m : Bool) (t a : VReg) (b : BitVec 5) (q : StQ)
  | vpref (m : Bool) (l2 : Bool) (a : VReg) (b : BitVec 5)
  | fget (m : Bool) (t a : VReg) (b : BitVec 5) (acq : Bool)
  | fput (m : Bool) (t a : VReg) (b : BitVec 5) (rel : Bool)
  | vatom (m : Bool) (op : AtomOp) (t a : VReg) (b : BitVec 5) (q : AtQ)
  | vred (m : Bool) (op : AtomOp) (t a : VReg) (b : BitVec 5) (q : RdQ)
  -- class 4, scalar and mask (R71)
  | sadd (m : Bool) (d a : SReg) (b : SOp)
  | ssub (m : Bool) (d a : SReg) (b : SOp)
  | smul (m : Bool) (d a : SReg) (b : SOp)
  | smulhs (m : Bool) (d a : SReg) (b : SOp)
  | smulhn (m : Bool) (d a : SReg) (b : SOp)
  | sand (m : Bool) (d a : SReg) (b : SOp)
  | sor (m : Bool) (d a : SReg) (b : SOp)
  | sxor (m : Bool) (d a : SReg) (b : SOp)
  | sandn (m : Bool) (d a : SReg) (b : SOp)
  | sshl (m : Bool) (d a : SReg) (b : SOp)
  | sshr (m : Bool) (d a : SReg) (b : SOp)
  | ssra (m : Bool) (d a : SReg) (b : SOp)
  | smins (m : Bool) (d a : SReg) (b : SOp)
  | sminn (m : Bool) (d a : SReg) (b : SOp)
  | smaxs (m : Bool) (d a : SReg) (b : SOp)
  | smaxn (m : Bool) (d a : SReg) (b : SOp)
  | sslt (m : Bool) (d a : SReg) (b : SOp)
  | ssltn (m : Bool) (d a : SReg) (b : SOp)
  | sseq (m : Bool) (d a : SReg) (b : SOp)
  | ssne (m : Bool) (d a : SReg) (b : SOp)
  | ssle (m : Bool) (d a : SReg) (b : SOp)
  | sslen (m : Bool) (d a : SReg) (b : SOp)
  | smov (m : Bool) (d : SReg) (b : SOp)
  | scmov (m : Bool) (d a : SReg) (b : SOp)
  | sadd64 (m : Bool) (d a : SReg) (b : SOp)
  | ssub64 (m : Bool) (d a : SReg) (b : SOp)
  | sshl64 (m : Bool) (d a : SReg) (b : SOp)
  | sshr64 (m : Bool) (d a : SReg) (b : SOp)
  | spopc (m : Bool) (d a : SReg)
  | sclz (m : Bool) (d a : SReg)
  | sbfen (m : Bool) (d a : SReg) (b : SOp)
  | smulw (m : Bool) (d a : SReg) (b : SOp)
  | kand (m : Bool) (d a b : KReg)
  | kor (m : Bool) (d a b : KReg)
  | kxor (m : Bool) (d a b : KReg)
  | kandn (m : Bool) (d a b : KReg)
  | kmov (m : Bool) (d : KReg) (b : SOp)
  | kpopc (m : Bool) (d : SReg) (a : KReg)
  | kffs (m : Bool) (d : SReg) (a : KReg)
  | klane (m : Bool) (d : KReg) (a : SReg) (b : SOp)
  | sldB32 (m : Bool) (d a : SReg) (b : SOp)
  | sldB64 (m : Bool) (d a : SReg) (b : SOp)
  | sldB128 (m : Bool) (d a : SReg) (b : SOp)
  | sstB32 (m : Bool) (d a : SReg) (b : SOp)
  | sstB64 (m : Bool) (d a : SReg) (b : SOp)
  | satomAdd (m : Bool) (d a b : SReg)
  | satomCas (m : Bool) (d a b : SReg)
  | satomExch (m : Bool) (d a b : SReg)
  | sget (m : Bool) (d : SReg) (x : BitVec 9)
  | sset (m : Bool) (a : SReg) (x : BitVec 9)
  -- class 5, control (R72)
  | br (m : Bool) (off : BitVec 23)
  | brany (m : Bool) (k : KReg) (off : BitVec 18)
  | brall (m : Bool) (k : KReg) (off : BitVec 18)
  | brnone (m : Bool) (k : KReg) (off : BitVec 18)
  | brnz (m : Bool) (r : SReg) (off : BitVec 17)
  | brz (m : Bool) (r : SReg) (off : BitVec 17)
  | call (m : Bool) (p : SReg) (off : BitVec 17)
  | jmpr (m : Bool) (p : SReg)
  | split (m : Bool) (k : KReg) (offA offC : BitVec 9)
  | ends (m : Bool)
  | pub (m : Bool) (v : VReg) (vcnt : BitVec 5) (r : SReg) (scnt : BitVec 4)
  | join (m : Bool) (d a b : VReg)
  | joins (m : Bool) (d a : SReg) (armF : Bool)
  | joinm (m : Bool)
  | barW (m : Bool) (id : BitVec 5)
  | barA (m : Bool) (id : BitVec 5) (d : SReg)
  | barD (m : Bool) (id : BitVec 5)
  | barJ (m : Bool) (id : BitVec 5)
  | barwp (m : Bool) (id : BitVec 5) (r : SReg)
  | fence (m : Bool) (scope : Scope)
  | qfence (m : Bool) (mask : BitVec 8)
  | twait (m : Bool) (r : SReg)
  | mwait (m : Bool) (r : SReg)
  | rpoll (m : Bool) (d : SReg)
  | vgive (m : Bool) (n : BitVec 4)
  | vclaim (m : Bool) (n : BitVec 4)
  | exit (m : Bool)
  | trap (m : Bool) (code : BitVec 8)
  | tret (m : Bool)
  | nop (m : Bool)
  -- class 6, engines (R73, R74)
  | acopy (m : Bool) (d a b : SReg) (q : BitVec 2)
  | gath (m : Bool) (d a : SReg)
  | scat (m : Bool) (d a : SReg)
  | mma (m : Bool) (sh : Shape) (acc : BitVec 3) (a b : BitVec 5) (f : BitVec 3)
  | mmasp (m : Bool) (sh : Shape) (acc : BitVec 3) (a b : BitVec 5) (f : BitVec 3)
  | mzacc (m : Bool) (sh : Shape) (acc : BitVec 3)
  | mstacc (m : Bool) (sh : Shape) (acc : BitVec 3) (a b : BitVec 5) (fmt : AccFmt)
  | mldacc (m : Bool) (sh : Shape) (acc : BitVec 3) (a b : BitVec 5) (fmt : AccFmt)
  | mfence (m : Bool) (d : SReg)
  | coll (m : Bool) (d a : SReg)
  | tenq (m : Bool) (a : VReg) (b : Code)
  | tgaina (m : Bool) (a : VReg) (b : Code)
  | tgainm (m : Bool) (a : VReg) (b : Code)
  | tgains (m : Bool) (a : VReg) (b : Code)
  | tdone (m : Bool) (a : VReg)
  | tjset (m : Bool) (a : VReg) (b : Code)
  | hres (m : Bool) (d : SReg) (heap : BitVec 6)
  | ringp (m : Bool) (d a : SReg) (ring : BitVec 2)
  | ringc (m : Bool) (d a : SReg) (ring : BitVec 2)
  | ringq (m : Bool) (d : SReg) (ring : BitVec 2)
  | smap (m : Bool) (d a : SReg) (zero : Bool)
  | sunmap (m : Bool) (d a : SReg) (wb : Bool)
  | cdrop (m : Bool) (d a b : SReg)
  | cqry (m : Bool) (d a : SReg)
  | l2pin (m : Bool) (ways a b : SReg) (slot : BitVec 3)
  | l2unpin (m : Bool) (slot : BitVec 3)
  | cinv (m : Bool) (d a b : SReg)
  | cinvI (m : Bool) (d a b : SReg)
  | cwb (m : Bool) (d a b : SReg)
  -- class 7, hints and system (R75)
  | xmod (k : BitVec 5) (z : Bool) (rnd : BitVec 3) (v4 : VReg) (v4ok : Bool) (aux : BitVec 5)
  | limm (p : BitVec 22)
  | limmh (h : BitVec 16)
  | limml (h : BitVec 16)
  | limmf (p : BitVec 22)
  | sched (m : Bool) (lvl : BitVec 3)
  | sysld (m : Bool) (d a : SReg)
  | sysst (m : Bool) (d a : SReg)
  | tlbinv (m : Bool) (a : SReg)
  | cntrd (m : Bool) (d : SReg) (meter : BitVec 4)
  | trace (m : Bool) (a : SReg)
  | brkpt (m : Bool)
  | waiti (m : Bool)
  | metsnap (m : Bool) (t : SReg)
  -- the emulation space (R76, R77)
  | vidivS32 (m : Bool) (d a : VReg) (b : Code)
  | emulation (m : Bool) (op : BitVec 4) (x : BitVec 22)
  -- steps of the device, waves and dispatcher; the requests of R329, the messages of R340 and what the outside does come last
  | strandWake (core slot strand : Nat)
  | resultWrite (core slot idx : Nat) (lanes : Lanes)
  | ssqEntryRelease (core slot id : Nat)
  | pageWalk (core slot id : Nat)
  | takeTrap (core slot : Nat)
  | contextEnd (core slot : Nat)
  | waveEnd (core slot : Nat)
  | acopyComplete (blk q : Nat)
  | gathScatComplete (blk : Nat)
  | sunmapComplete (core slot id : Nat)
  | cdropComplete (core slot id : Nat)
  | cinvCwbComplete (core slot id : Nat)
  | metsnapComplete (core slot id : Nat)
  | matrixOpComplete (blk : Nat)
  | batchComplete (blk : Nat)
  | heapOpPerform (part heap : Nat)
  | tdoneParentUpdate (part heap : Nat)
  | turnstilePop (part heap : Nat)
  | heapRunEnd (part heap : Nat)
  | registerWrite (space : RegSpace) (off : Nat) (val : DWord)
  | packetAccept (vi q : Nat)
  | packetStart (id : Nat)
  | grid (id : Nat)
  | heapConfigure (id : Nat)
  | heapRun (id : Nat)
  | heapRelease (id : Nat)
  | marker (id : Nat)
  | packetComplete (id : Nat)
  | ticketDispatch (part core : Nat)
  | contextSwitch (part : Nat)
  | schedulingPass (part : Nat) (maps : List (Nat × Nat × Nat))
  | partitionReconfigure (layout : List PartSpec)
  | illegalWord (w : Word)
  | collComplete (blk : Nat) (inp : CollInput)
  | notify (vi q : Nat) (idx : Word)
  | hostWrite (w : Window) (off : Nat) (data : List Byte)
  | hostRead (w : Window) (off n : Nat)
  | dumpKey (vi : Nat) (key : BitVec 256)
  | laneCycleRecord (core quarter : Nat)
  | remoteAccess (src : RemoteSource) (op : RemoteOp)
  | dump (req : DumpRequest)
  | resume (vi q idx : Nat) (x y z : Nat)
  | stop (vi q idx : Nat) (x y z : Nat)
  | settrace (vi : Nat) (base : DWord) (size : Nat) (kinds : BitVec 8)
  | getbins (vi : Nat)
  | setbin (vi bin : Nat) (base limit : DWord) (binVi : Nat)
  | getmemb (vi : Nat)
  | getsnap (vi : Nat)
  | setjob (vi : Nat) (job : DWord)
  | overTemperature (part : Nat)
  | linkFailure (port : Nat)
  | linkUp (port partner partnerPort : Nat) (ident : BitVec 256)
  | activationAlert (stack chan bank : Nat)
  | refreshInterval (stack chan bank : Nat)
  | gracePeriodEnd (base : Nat)
  | extentRelease (base : Nat) (forced : Bool)
  | extentAdd (base len vi : Nat)
  | sliceEnd (part : Nat)
  | strandCapped (core slot strand : Nat)
  | fetchFill (core vi : Nat) (va : DWord)
  | roleToLoader (blk : Nat)
  | roleToCompute (blk : Nat)
  | powerOverrun
  | settrap
  | setroot
  | group
  | schedp
  | assign
  | resetvi
  | extdone
  | imggo
  | powerOn
deriving DecidableEq, Repr

end Sys2Proof
end

