-- ==== Sys2Proof/Machine/Types.lean ====
section
/-! DEFINITION. The data that the state is made of: strands, waves, blocks, cores, partitions, virtual interfaces, packets, heaps and the
choices of the agenda.  Plain data only. -/

namespace Sys2Proof.Machine

/-! ## Causes -/

/-- The causes of R300. -/
inductive Cause
  | mcheck | dbghalt | blockhalt | illegal | emulate | priv | xmoduse | badop | vregrange | tokenwrite | stranddepth
  | pubwrite | joinctx | barstrand | mmarole | mfmt | align | translate | protect | region | stashrange | extentgone
  | overread | uncounted | heaperr | fpexc | usertrap | break_
deriving DecidableEq, Repr

/-- The code of a cause (R300). -/
def Cause.code : Cause → Nat
  | .mcheck => 0x01 | .dbghalt => 0x02 | .blockhalt => 0x03 | .illegal => 0x08 | .emulate => 0x09 | .priv => 0x0A
  | .xmoduse => 0x0B | .badop => 0x0C | .vregrange => 0x0D | .tokenwrite => 0x0E | .stranddepth => 0x10
  | .pubwrite => 0x11 | .joinctx => 0x12 | .barstrand => 0x13 | .mmarole => 0x14 | .mfmt => 0x15 | .align => 0x20
  | .translate => 0x21 | .protect => 0x22 | .region => 0x23 | .stashrange => 0x24 | .extentgone => 0x25
  | .overread => 0x28 | .uncounted => 0x29 | .heaperr => 0x30 | .fpexc => 0x31 | .usertrap => 0x38 | .break_ => 0x39

/-- The kinds of R299. -/
inductive CauseKind | precise | restartable | reported | after | terminal | halt
deriving DecidableEq, Repr

/-- The kind of a cause (R300). -/
def Cause.kind : Cause → CauseKind
  | .mcheck => .terminal
  | .dbghalt | .blockhalt => .halt
  | .translate | .protect | .region | .extentgone => .restartable
  | .overread | .uncounted | .heaperr => .reported
  | .fpexc | .usertrap | .break_ => .after
  | _ => .precise

/-- A cause with its TVAL, as an instruction finds it. -/
structure Raise where
  cause : Cause
  val : DWord
deriving DecidableEq, Repr

/-- A fault as the trap logic latches it (R299, R301): the strand slot (8 for the trap slot), TPC, the replay mask, the
faulting word for the record of R311, and how many words the strand had issued with it (for TSKID, R302). -/
structure FaultRec where
  cause : Cause
  val : DWord
  strand : Nat
  tpc : DWord
  mask : Lanes
  word : Word
  seq : Nat
  /-- the cause was noted and is raised at a reporting point: TRET does not replay the word there (R190, R299) -/
  noted : Bool
deriving DecidableEq, Repr

/-- A noted error (R164, R200): the cause, the lowest address or handle, the lanes that noted it, the word that noted it. -/
structure Note where
  cause : Cause
  val : DWord
  lanes : Lanes
  word : Word
deriving DecidableEq, Repr

/-! ## Strands -/

/-- The state of a strand slot (R7). -/
inductive SlotState | free | ready | parked | ended
deriving DecidableEq, Repr

/-- The kind of a strand (R7). -/
inductive SlotKind | root | armT | armF | cont
deriving DecidableEq, Repr

/-- One arm record of a continuation (R7). -/
structure Arm where
  slot : Nat := 0
  live : Bool := false
  ended : Bool := false
  lanes : Lanes := 0
deriving DecidableEq, Repr

/-- The states of a serial stack entry (R120). -/
inductive SerState | fPending | fRunning | cPending | cRunning
deriving DecidableEq, Repr

/-- A serial stack entry (R120, R305). -/
structure SerEntry where
  state : SerState
  pc : DWord
  lanes : Lanes
deriving DecidableEq, Repr

/-- The park conditions of R209 (with 12, a pending fault, of R305), and WAITI's wait for an interrupt (R206). -/
inductive Park
  | none | marker | publication | arms | predecessors | token | batch | barrier | ring | future | pool | queue
  | fault | interrupt
deriving DecidableEq, Repr

/-- The park codes of R305.  The wait of WAITI has no code of R305: service cores have no trap frame. -/
def Park.code : Park → Nat
  | .none => 0 | .marker => 1 | .publication => 2 | .arms => 3 | .predecessors => 4 | .token => 5 | .batch => 6
  | .barrier => 7 | .ring => 8 | .future => 9 | .pool => 10 | .queue => 11 | .fault => 12 | .interrupt => 0

/-- The fields of an XMOD word (R62). -/
structure XMod where
  k : BitVec 5
  z : Bool
  rnd : BitVec 3
  v4 : VReg
  v4ok : Bool
  aux : BitVec 5
deriving DecidableEq, Repr

/-- A wide-immediate group in progress (R59): the payload of LIMM or LIMMF, the high half of LIMMH alone, or the 32 bits of
a complete LIMMH and LIMML pair. -/
inductive Wide
  | limm (p : BitVec 22)
  | limmf (p : BitVec 22)
  | high (h : BitVec 16)
  | full (w : Word)
deriving DecidableEq, Repr

/-- The prefix that a strand has issued (R30): the address of its first word, its XMOD and its wide group, each with the
word that carried it. -/
structure Pfx where
  start : DWord
  xmod : Option (XMod × Word) := none
  wide : Option (Wide × Word) := none
deriving DecidableEq, Repr

/-- A strand slot (R7), with its park condition (R209), its prefix in progress (R30), its replay mask (R309), its noted
errors (R299), its pending fault (R301), its SCHED level (R206) and the issue counters of R216. -/
structure Strand where
  state : SlotState := .free
  kind : SlotKind := .root
  pc : DWord := 0
  memb : Lanes := 0
  am : Lanes := 0
  parent : Option Nat := none
  armT : Arm := {}
  armF : Arm := {}
  pubV : BitVec 128 := 0
  pubS : BitVec 64 := 0
  age : Word := 0
  /-- ages of the strands that precede this one in some lane (R119) -/
  before : List Word := []
  /-- what its lanes had under way before its arm began (R119): the entries of an age that have a lower id -/
  old : List (Word × Nat) := []
  stack : List SerEntry := []
  trap : Bool := false
  park : Park := .none
  /-- the word that parked by its own condition and completes at its wake -/
  parkI : Option Instr := none
  /-- what that word waits for: an arrival phase, a batch number, a token register -/
  parkArg : Word := 0
  /-- that word also carries the park marker (R209) -/
  parkM : Bool := false
  pfx : Option Pfx := none
  replay : Option Lanes := none
  noted : List Note := []
  /-- pending faults in the order in which they arose (R301, R302) -/
  pend : List FaultRec := []
  sched : BitVec 3 := 0
  /-- words issued, from which TSKID is counted (R302) -/
  issued : Nat := 0
  /-- the cycle in which its last word issued (R349) -/
  issuedAt : Nat := 0
  readyAt : Nat := 0
  waits : Nat := 0
  cappedAt : Option Nat := none
  /-- the cycle in which the strand ended: its slot is free from the next one on (R208) -/
  endedAt : Option Nat := none
deriving DecidableEq, Repr

/-! ## Results and memory operations -/

/-- A result that an instruction has issued and that is not yet written (R29, R219): vector values keyed 96 * register +
lane, scalar values (registers 60 to 62 are the AM words), the lanes of a mask triple with their bits, the FSTAT flags and
the meter increments it carries, and for FPEXC the word, the address after it and the AM. -/
structure Result where
  strand : Nat
  vec : List (Nat × Word) := []
  sca : List (Nat × Word) := []
  bits : Option (Nat × Lanes × Lanes) := none
  flags : BitVec 5 := 0
  /-- the enable bits of FMODE at issue (R19, R116) -/
  enables : BitVec 5 := 0
  meters : List (Nat × Nat) := []
  word : Word := 0
  after : DWord := 0
  am : Lanes := 0
  seq : Nat := 0
  /-- the queue of the quarter that it goes through (R220): 1 the SFU queue, 2 the conversion queue, and its place in it, the cycle of its
  issue: a quarter issues one word in a cycle -/
  unit : Nat := 0
  place : Nat := 0
  /-- the miss registers that it holds until it is written (R245) -/
  misses : Nat := 0
deriving DecidableEq, Repr

/-- One lane's access: its address, its data operand (up to 128 bits) and the expected value of a cas. -/
structure Acc where
  lane : Nat
  addr : DWord
  data : BitVec 128 := 0
  cmp : Word := 0
deriving DecidableEq, Repr

/-- The orderings of R161. -/
inductive Ordq | rlx | cn | acq | rel | ar | sc | nt
deriving DecidableEq, Repr

/-- What a memory instruction does at each of its addresses. -/
inductive MemKind
  | load (size : Nat) (sgn : Bool) (t : Nat)
  | store (size : Nat)
  | fget (t : Nat)
  | fput
  | atom (op : AtomOp) (ret : Option Nat)
  | pref (l2 : Bool)
  | sload (size d : Nat)
  | sstore (size : Nat)
  | satom (op : AtomOp) (d : Nat)
  | cqry (d : Nat)
deriving DecidableEq, Repr

/-- A memory operation with its operands as read at issue (R157, R113). -/
structure MemOp where
  kind : MemKind
  accs : List Acc
  ord : Ordq := .rlx
  scope : Scope := .dev
  pol : BitVec 2 := 0
  /-- lanes of AM outside EXM that XMOD z zeroes -/
  zero : Lanes := 0
deriving DecidableEq, Repr

/-- The work of an engine queue entry (R174, R176, R197, R128). -/
inductive EngOp
  | acopy (dst src : DWord) (len cnt : Nat)
  | gath (table index arr : DWord) (n es iw : Nat) (ok : Bool)
  | scat (table index arr : DWord) (n op es iw : Nat) (ok : Bool)
  | coll (send recv : DWord) (n group root redop ty op : Nat) (ok : Bool)
  | join (id : Nat) (scatDev : Bool)
deriving DecidableEq, Repr

/-- An engine queue entry (R172): its work, its token, the wave and the word that issued it, its progress index. -/
structure EngEntry where
  op : EngOp
  token : Nat := 63
  core : Nat := 0
  slot : Nat := 0
  pc : DWord := 0
  opcode : Nat := 0
  pix : Nat := 0
  /-- the accesses of its wave, by their ids, that it does not begin before (R172) -/
  gate : List Nat := []
  /-- its operands have been checked (R174 to R176) -/
  begun : Bool := false
  /-- the lines that a counted fill has yet to reserve a way for, and those it has reserved and not yet filled (R175, R238) -/
  todo : List Nat := []
  held : List Nat := []
  /-- where a counted fill's check found an address without a translation: the offset in its destination and the fault with which it ends there
  (R175) -/
  stop : Option (Nat × Raise) := none
deriving DecidableEq, Repr

/-- The format block of MMA and MMASP (R187). -/
structure FmtBlock where
  cb : Bool := false
  ca : Bool := false
  narrow : Bool := false
  blk : Nat := 16
  bfmt : Nat := 0
  afmt : Nat := 0
  kg : Nat := 1
  astr : Nat := 0
  bstr : Nat := 0
  ascl : DWord := 0
  bscl : DWord := 0
deriving DecidableEq, Repr

/-- A matrix operation (R185). -/
inductive MatKind
  | mma (a b : DWord) (f : FmtBlock)
  | mmasp (a b : DWord) (f : FmtBlock) (meta_ : List (List Word))
  | mzacc
  | mstacc (addr : DWord) (stride : Nat) (fmt : AccFmt)
  | mldacc (addr : DWord) (stride : Nat) (fmt : AccFmt)
  | join (id : Nat) (scatDev : Bool)
deriving DecidableEq, Repr

/-- A translation held by a TLB: the VI, the first address of the page, the log2 of its size, the leaf entry (R314). -/
structure TlbEntry where
  vi : Nat
  base : Nat
  size : Nat
  pte : DWord
deriving DecidableEq, Repr

/-- A line that a matrix operation has read: its address, the line of its holder, its bytes and what it met there (R190). -/
structure ReadLine where
  va : Nat
  key : Option Nat
  data : LineData
  met : Option Raise
deriving DecidableEq, Repr

/-- An entry of mq: the operation, its shape and accumulator, the wave and the word that issued it, the batch it belongs to, the
translations that stay valid for it (R185), its global operand lines and those of them that are pinned in L2 (R240), its progress index in
K groups (R185), and the lines that it has read, those it consumed apart, each with its bytes and what it met there (R190). -/
structure MatEntry where
  kind : MatKind
  shape : Shape := .s1x4
  acc : Nat := 0
  core : Nat
  slot : Nat
  batch : Word := 0
  pc : DWord
  word : Word := 0
  pins : List TlbEntry := []
  lines : List Nat := []
  pinned : List Nat := []
  /-- lines that a pin has fetched and the unit has not read yet: the fetch was their line access (R235) -/
  fetched : List Nat := []
  pix : Nat := 0
  /-- the accesses of its wave, by their ids, that it does not begin before (R196) -/
  gate : List Nat := []
  taken : List ReadLine := []
  read : List ReadLine := []
deriving DecidableEq, Repr

/-- The task-heap operations (R200, R202). -/
inductive HeapKind | tenq | gaina | gainm | gains | tdone | tjset | hres
deriving DecidableEq, Repr

/-- The operations of the quarter's memory port that carry a token (R178, R179, R183). -/
inductive PortKind | sunmap (wb : Bool) | cdrop | cinv | cinvI | cwb
deriving DecidableEq, Repr

/-- A memory-port operation in progress: a range, or for SUNMAP the window number; and how the operation ended: the status that its
token will receive, the faulting address, the cause and the offset at which it stopped (R173). -/
structure PortOp where
  id : Nat := 0
  kind : PortKind
  base : DWord
  len : Nat
  token : Nat
  pc : DWord
  opcode : Nat
  status : Nat := 0
  va : DWord := 0
  cause : Nat := 0
  pix : Nat := 0
  /-- its effect has taken place, and only its end is to come: an unmapped window is unmapped in the release order (R178, R255) -/
  acted : Bool := false
  /-- the lanes of its entry: operations of one lane end in the order in which they were released (R183, R269) -/
  lanes : Lanes := 0
deriving DecidableEq, Repr

/-- What a strand store queue entry performs at its release (R210), or a barrier arrival when the accesses that it releases are performed
(R33). -/
inductive QOp
  | mem (op : MemOp)
  | fence (scope : Scope)
  | qfence (mask : BitVec 8)
  | engine (q : Nat) (e : EngEntry)
  | matrix (e : MatEntry)
  | heap (kind : HeapKind) (ops : List (Nat × Word × Word))
  | ring (prod : Bool) (ring : Nat) (n : Word) (d : Nat)
  | port (op : PortOp)
  | pin (slot ways : Nat) (base : DWord) (size : Nat)
  | arrive (id : Nat) (adj : Int) (d : Option Nat)
deriving DecidableEq, Repr

/-- An operation that has issued and is not yet performed: an SSQ entry (R210), or, with `ssq` false, a plain load that waits for a page
walk or for its own strand's held store (R256, R314), an FGET that waits at the home (R167), a barrier arrival (R33). -/
structure QEntry where
  id : Nat
  strand : Nat
  /-- the strand's age, what precedes it, its membership and its AM, at issue (R119, R211) -/
  age : Word := 0
  before : List Word := []
  old : List (Word × Nat) := []
  memb : Lanes := 0
  /-- the strand's AM at issue (R26, R299) -/
  am : Lanes := 0
  op : QOp
  lanes : Lanes
  ssq : Bool
  /-- an FGET that has left the port and waits at the home (R167) -/
  atHome : Bool := false
  pc : DWord
  after : DWord
  word : Word
  seq : Nat
  /-- the cycle in which it was released; none while it is held (R211) -/
  rel : Option Nat := none
  /-- a word that TRET has made the strand issue again: later accesses of its wave had their turn before, and wait for none of it (R33, R309) -/
  again : Bool := false
  /-- the cycle in which it issued (R349) -/
  cycle : Nat := 0
deriving DecidableEq, Repr

/-! ## Waves -/

/-- A task of a task wave: its lane, its handle, its generation at the pop (R294). -/
structure TaskLane where
  lane : Nat
  handle : Word
  gen : Nat
deriving DecidableEq, Repr

/-- A METSNAP in progress (R206): the VI named and the token. -/
structure SnapOp where
  id : Nat
  vi : Nat
  token : Nat
deriving DecidableEq, Repr

/-- A stop record (R353) as bytes 0 to 31. -/
structure StopRec where
  live : BitVec 8
  mode : Nat
  skid : Nat
  pend : Nat
  pc : DWord
  cycle : Nat
deriving DecidableEq, Repr

/-- A wave: its registers, strands and special registers (R14 to R21), and what it has under way. -/
structure Wave where
  live : Bool := false
  vi : Nat := 0
  blk : Nat := 0
  part : Nat := 0
  firmware : Bool := false
  pop : Lanes := 0
  /-- vector registers, keyed 96 * register + lane; default 0 -/
  v : SMap Word := []
  /-- scalar registers s0 to s59; default 0 -/
  s : SMap Word := []
  /-- strand slots 0 to 7, and 8 the trap slot -/
  strands : SMap Strand := []
  /-- pending token registers -/
  tokens : List Nat := []
  outs : List Result := []
  queue : List QEntry := []
  port : List PortOp := []
  snaps : List SnapOp := []
  nextId : Nat := 0
  /-- registers that a later word of a strand has written, or holds as a token, before an earlier word's result has come: the strand, the
  later word's place, the key.  The earlier value does not land (R29) -/
  shadow : List (Nat × Nat × Nat) := []
  vbudget : Nat := 8
  fmode : BitVec 9 := 0
  fstat : BitVec 5 := 0
  mstat : BitVec 5 := 0
  /-- the bits of FSTAT and MSTAT that events have set in the cycle named: a clearing write of that cycle leaves them set (R20) -/
  setAt : Nat := 0
  setF : BitVec 5 := 0
  setM : BitVec 5 := 0
  role : Nat := 0
  pendRole : Option (Nat × Nat) := none
  formerBudget : Nat := 8
  blockX : Word := 0
  blockY : Word := 0
  blockZ : Word := 0
  waveInBlk : Nat := 0
  nblocks : Word := 0
  duetRole : Nat := 2
  taskHeap : Word := 0xFFFFFFFF
  cycHi : Word := 0
  barphase : Word := 0
  tcause : Nat := 0
  tval : DWord := 0
  tpc : DWord := 0
  tskid : Nat := 0
  tlane : Lanes := 0
  tstrand : Nat := 0
  tpcWritten : Bool := false
  /-- the cause of the trap was a noted one (R190, R299) -/
  tNoted : Bool := false
  created : Word := 0
  /-- where the frame of the trap in progress stands: a trap keeps the TFB that it was entered with (R329) -/
  frameAt : Option Nat := none
  latched : Option FaultRec := none
  /-- the cycle in which the latched fault reached the trap logic (R301) -/
  latchedAt : Nat := 0
  halted : Bool := false
  sinceHalt : Nat := 0
  /-- words issued since a STOP has reached the wave (R353) -/
  stopSkid : Nat := 0
  tasks : List TaskLane := []
  heapId : Nat := 0
  /-- strands with heap operations that their controllers have not performed, one element each (R200) -/
  heapOut : List Nat := []
  /-- causes that matrix operations of a batch noted (R190) -/
  matNotes : List (Word × Note) := []
  stop : Option StopRec := none
deriving DecidableEq, Repr

/-! ## Blocks -/

/-- A barrier (R22), with the arrival masks and the flip count that R352 and R349 show. -/
structure Barrier where
  e : Nat := 0
  a : Nat := 0
  p : Word := 0
  pending : Int := 0
  arrived : BitVec 32 := 0
  flips : Word := 0
  /-- the cycle of the last flip, with the count and the adjustments that it began from: arrivals of one cycle form one set (R126) -/
  flipAt : Option Nat := none
  baseE : Nat := 0
  adjs : Int := 0
deriving DecidableEq, Repr

/-- A slot of a stage ring that is in use (R203): its index, the wave that reserved it and whether it is filled, the wave that
claimed it and whether it is freed. -/
structure RingSlot where
  idx : Word
  reserver : Nat
  filled : Bool := false
  claimer : Option Nat := none
  freed : Bool := false
deriving DecidableEq, Repr

/-- A strand that waits at a ring (R204), with its n and its destination register, and the entry that brought it there. -/
structure RingWait where
  wave : Nat
  strand : Nat
  prod : Bool
  n : Word
  d : Nat
  age : Word := 0
  id : Nat := 0
  seq : Nat := 0
deriving DecidableEq, Repr

/-- A stage ring (R203) with its waiters in arrival order. -/
structure Ring where
  base : Nat := 0
  size : Nat := 0
  cnt : Nat := 0
  pr : Word := 0
  pf : Word := 0
  cc : Word := 0
  cf : Word := 0
  slots : List RingSlot := []
  waiters : List RingWait := []
deriving DecidableEq, Repr

/-- The state of a stash window line (R225). -/
inductive WinLine | invalid | clean | dirty | recalled
deriving DecidableEq, Repr

/-- A mapped stash window (R177): lines are keyed from the window's start, default invalid; `phys` holds the physical line and the region
of a valid line, as it was when the line became valid (R226). -/
structure StashWin where
  off : Nat := 0
  len : Nat := 0
  base : DWord := 0
  zero : Bool := false
  lines : SMap WinLine := []
  phys : SMap (Nat × Nat) := []
deriving DecidableEq, Repr

/-- The count of a stash line (R236, R237). -/
inductive Count | none | live (n : Nat) | spent
deriving DecidableEq, Repr

/-- The mode tag of an accumulator (R193). -/
inductive AccTag | fp32 | narrow | int
deriving DecidableEq, Repr

/-- The unit descriptor of R282. -/
structure UnitDesc where
  entry : DWord := 0
  text : Nat := 0
  kind : Nat := 0
  waves : Nat := 1
  vregs : Nat := 1
  acc : Nat := 0
  barriers : Nat := 0
  duet : Bool := false
  loaders : Nat := 0
  storers : Nat := 0
  stash : Nat := 0
  lbud : Nat := 1
deriving DecidableEq, Repr

/-- A block (R22), or the block slot of a task wave. -/
structure Block where
  live : Bool := false
  vi : Nat := 0
  part : Nat := 0
  core : Nat := 0
  desc : UnitDesc := {}
  packet : Nat := 0
  task : Bool := false
  x : Word := 0
  y : Word := 0
  z : Word := 0
  /-- the peer block of a duet -/
  peer : Option Nat := none
  follower : Bool := false
  waves : List Nat := []
  /-- b0 to b15; b16 to b19 are held by the duet's leader -/
  bars : SMap Barrier := []
  rings : SMap Ring := []
  /-- queues 0 to 3 cq0 to cq3, 4 gq, 6 xq -/
  queues : SMap (List EngEntry) := []
  mq : List MatEntry := []
  batch : Word := 1
  batchDone : Word := 0
  batchFlags : List (Word × Nat × BitVec 5) := []
  nextJoin : Nat := 0
  /-- where the block's stash begins in the stash part of its core (R224) -/
  stashBase : Nat := 0
  stash : SMap Byte := []
  /-- stash lines with an uncorrectable error (R243) -/
  bad : List Nat := []
  counts : SMap Count := []
  countVa : SMap DWord := []
  wins : SMap StashWin := []
  /-- accumulator cells keyed ((sub-array * 8 + acc) * 16 + row) * 16 + column -/
  accs : SMap Word := []
  tags : SMap AccTag := []
  /-- registers of the pool, and all registers that the block holds, by quarter (R132) -/
  pool : SMap Nat := []
  claimed : SMap Nat := []
  watch : Bool := false
  watchRing : Nat := 0
  below : Nat := 0
  above : Nat := 0
  converted : List Nat := []
  halted : Bool := false
  stopped : Bool := false
  /-- STOP has come while a strand had a prefix open: the strand completes its instruction, then the block is stopped (R351) -/
  stopping : Bool := false
  dead : Bool := false
  exited : Bool := false
  errors : Nat := 0
deriving DecidableEq, Repr

/-! ## Cores, TLBs, caches -/

/-- The states of an L1 line: the states of R228 for C pages (I is an absent line), a read-shared copy of an RS page, and a
clean or dirty line of a P page. -/
inductive L1State
  | s | e | m
  | u (op : AtomOp)
  | rs
  | pClean | pDirty
deriving DecidableEq, Repr

/-- An L1 line, with the VI that is charged for its write-back. -/
structure L1Line where
  st : L1State
  data : LineData
  vi : Nat
  /-- the elements of a U copy that a VRED has combined an operand into, by byte offset (log entry 7) -/
  touched : List Nat := []
  /-- the sectors that hold data, and those whose data the home does not have yet (R224, R231) -/
  valid : BitVec 4 := 15
  dirty : BitVec 4 := 0
  /-- the copy has an uncorrectable error (R243) -/
  bad : Bool := false
deriving DecidableEq, Repr

/-- A code range register (R222). -/
structure CodeRange where
  vi : Nat
  base : DWord
  len : Nat
  users : Nat
deriving DecidableEq, Repr

/-- One word as the lane-cycle record sees it (R347, R348): the cycle it holds from, the VI, the PC, EXM, the membership, the wave's
population, its beat, and for how many cycles. -/
structure BeatRec where
  cycle : Nat
  vi : Nat
  pc : DWord
  exm : Lanes
  memb : Lanes
  pop : Lanes
  beat : Nat
  len : Nat
deriving DecidableEq, Repr

/-- A quarter's vector pipe and issue slot as the lane-cycle record sees them (R347). -/
structure Quarter where
  lastIssue : Option Nat := none
  /-- beats that occupy the vector pipe -/
  beats : List BeatRec := []
  word : Option BeatRec := none
  /-- the last cycle that the record has classified -/
  recorded : Option Nat := none
deriving DecidableEq, Repr

/-- A line in the tile fetch unit's buffer (R240), with the block and the batch that it was read for. -/
structure TileLine where
  line : Nat
  blk : Nat
  batch : Word
  data : LineData
  /-- the buffered line has an uncorrectable error (R243) -/
  bad : Bool := false
deriving DecidableEq, Repr

/-- A core.  The lists of ages name the lines of a cache, the next victim of a set first; a line that the cache no longer holds may stand
there still. -/
structure Core where
  split : Nat := 0
  l1 : SMap L1Line := []
  l1Age : List Nat := []
  tlb : List TlbEntry := []
  /-- instruction cache lines, keyed by VI * 2^57 + line address -/
  icache : SMap LineData := []
  icacheAge : List Nat := []
  /-- the tile fetch unit's buffer, the newest line first -/
  tile : List TileLine := []
  ranges : List CodeRange := []
  quarters : SMap Quarter := []
  /-- the core's sequencer (R161) -/
  ticket : Nat := 0
  /-- the cycle in which the core last took a unit of a grid (R289) -/
  tookAt : Option Nat := none
deriving DecidableEq, Repr

/-! ## L2 -/

/-- The insertion policies of R233. -/
inductive Policy | normal | first | last | none
deriving DecidableEq, Repr

/-- What the tags of an L2 way hold (R231, R233, R236, R237). -/
structure Way where
  line : Nat
  pol : Policy := .normal
  slot : Option (Nat × Nat) := none
  counted : Bool := false
  spent : Bool := false
  pins : Nat := 0
  valid : BitVec 4 := 0
  dirty : BitVec 4 := 0
  vi : Nat := 0
deriving DecidableEq, Repr

/-- A live counted global line (R236): the count, the data at its home, and for R239 the virtual address, the VI and the packet
whose work filled it. -/
structure Counted where
  count : Nat := 0
  data : LineData := 0
  va : DWord := 0
  vi : Nat := 0
  packet : Nat := 0
deriving DecidableEq, Repr

/-- The owner of a P page (R227): the core, the log2 of the page's size, and the page's physical address. -/
structure Owner where
  core : Nat
  size : Nat
  pa : Nat
deriving DecidableEq, Repr

/-- A retention slot (R181, R235). -/
structure Retention where
  used : Bool := false
  ways : Nat := 0
  /-- physical line ranges: first line and number of lines -/
  ranges : List (Nat × Nat) := []
  hit : Nat := 0
  miss : Nat := 0
  ovf : Nat := 0
deriving DecidableEq, Repr

/-! ## The Carousel -/

/-- A task record (R199). -/
structure TaskRec where
  code : DWord := 0
  frame : DWord := 0
  parent : Word := 0
  join : Word := 0
  gain : Word := 0
  pending : Word := 0
  state : Word := 0
deriving DecidableEq, Repr

/-- An operation that has arrived at a heap's controller. -/
structure HeapOp where
  core : Nat
  slot : Nat
  strand : Nat
  lane : Nat
  kind : HeapKind
  handle : Word
  val : Word
  /-- destination pair of HRES -/
  d : Nat := 0
  after : DWord := 0
  word : Word := 0
  /-- the word's place among those of its strand -/
  seq : Nat := 0
deriving DecidableEq, Repr

/-- A heap run (R294, R295). -/
structure HeapRun where
  packet : Nat
  running : Nat := 0
  latch : Bool := false
  failed : Bool := false
  started : Nat := 0
  pops : Nat := 0
deriving DecidableEq, Repr

/-- A configured heap (R293). -/
structure Heap where
  vi : Nat
  hdesc : DWord := 0
  base : DWord := 0
  cap : Nat := 1
  thr : Word := 0
  b : Nat := 0
  pop : Nat := 1
  conc : Nat := 1
  tol : DWord := 0
  srr : DWord := 0
  image : DWord := 0
  /-- records cached by the controller -/
  recs : SMap TaskRec := []
  arrivals : List HeapOp := []
  parentUps : List (Word × Nat) := []
  dropped : Nat := 0
  run : Option HeapRun := none
deriving DecidableEq, Repr

/-! ## Packets, virtual interfaces, partitions, the device -/

/-- The states of an accepted packet. -/
inductive PktState | accepted | started | done
deriving DecidableEq, Repr

/-- A launch packet as accepted (R281), with its progress (R284, R289). -/
structure Packet where
  vi : Nat
  part : Nat
  q : Nat
  idx : Word
  state : PktState := .accepted
  kind : Nat := 0
  order : Bool := false
  irq : Bool := false
  watch : Bool := false
  watchRing : Nat := 0
  bsize : Nat := 0
  unit : DWord := 0
  args : DWord := 0
  x : Nat := 0
  y : Nat := 0
  z : Nat := 0
  heap : Nat := 0
  rings : List Word := []
  done : DWord := 0
  hdesc : DWord := 0
  /-- the packet breaks a rule of R283 -/
  err : Bool := false
  desc : UnitDesc := {}
  /-- unit ranges not yet taken: chiplet, first unit, first unit beyond (R289) -/
  tickets : List (Nat × Nat × Nat) := []
  /-- the packet's place in the order in which packets started (R290); 0 before -/
  began : Nat := 0
  /-- 0 until the packet's own event has taken place -/
  seq : Nat := 0
  /-- the cycle at which the packet started (R284) -/
  startedAt : Nat := 0
  start : Option Nat := none
  count : Nat := 0
  status : Nat := 0
  errors : Nat := 0
  under : List (DWord × Nat) := []
  srr : DWord := 0
  unrun : Nat := 0
  dropped : Nat := 0
  pops : Nat := 0
deriving DecidableEq, Repr

/-- A launch queue of a VI (R277, R280). -/
structure LQueue where
  base : DWord := 0
  size : Nat := 0
  enable : Bool := false
  word : DWord := 0
  cons : Word := 0
  pending : Bool := false
  saved : Word := 0
deriving DecidableEq, Repr

/-- A trace buffer (R349, R350). -/
structure TraceBuf where
  base : DWord := 0
  size : Nat := 0
  kinds : BitVec 8 := 0
  lost : Nat := 0
deriving DecidableEq, Repr

/-- A collective group (R329): member count and index, and the members as the entries of the list. -/
structure Group where
  m : Nat := 0
  q : Nat := 0
  members : List DWord := []
deriving DecidableEq, Repr

/-- What a context switch saves of a VI (R287): its waves, blocks and heaps, each under its key. -/
structure Saved where
  waves : SMap Wave := []
  blocks : SMap Block := []
  heaps : SMap Heap := []
  /-- the near-memory split of each core that holds a block (R224) -/
  splits : SMap Nat := []
deriving DecidableEq, Repr

/-- A virtual interface (R277). -/
structure Vi where
  queues : SMap LQueue := []
  eqbase : DWord := 0
  eqsize : Nat := 0
  eqprod : Word := 0
  eqcons : Word := 0
  eqlost : Word := 0
  prio : Nat := 0
  slice : Nat := 5000
  part : Option Nat := none
  assigns : Nat := 0
  tba : DWord := 0
  tfb : DWord := 0
  root : DWord := 0
  meters : SMap Nat := []
  sat : BitVec 16 := 0
  /-- increments of this VI's waves do not show in other waves' CNTRD while `holding` (R206): what each wave has counted meanwhile, keyed 16 * wave + meter -/
  holding : Bool := false
  late : SMap Nat := []
  ret : SMap Retention := []
  /-- owners of P pages, by page address (R227) -/
  owners : SMap Owner := []
  groups : SMap Group := []
  job : DWord := 0
  memb : List Byte := []
  trace : TraceBuf := {}
  key : Option (BitVec 256) := none
  saved : Option Saved := none
deriving DecidableEq, Repr

/-- A lane-cycle bin (R348). -/
structure Bin where
  base : DWord := 0
  limit : DWord := 0
  vi : Nat := 0xFFFF
  sat : BitVec 5 := 0
  counts : List Nat := [0, 0, 0, 0, 0]
deriving DecidableEq, Repr

/-- A queue slot in use (R279, R280): the VI, the queue and the slot's producer index. -/
structure QSlot where
  vi : Nat
  q : Nat
  prod : Word
deriving DecidableEq, Repr

/-- A partition (R275), keyed by the number of its lowest domain. -/
structure Part where
  /-- number of domains; 0 when no partition has this number -/
  size : Nat := 0
  lent : List (Nat × Nat) := []
  quota : Nat := 4
  tl : Nat := 0
  th : Nat := 0
  w : Nat := 0
  resident : Option Nat := none
  sliceStart : Nat := 0
  sliceOver : Bool := false
  slots : SMap QSlot := []
  ticket : Nat := 0
  errs : List (List Byte) := []
  /-- errors that the ECC has corrected (R243) -/
  fixed : Nat := 0
  heaps : SMap Heap := []
  snaps : SMap (List Byte) := []
  snapOk : Bool := true
  bins : SMap Bin := []
  cycle : Nat := 0
  /-- postponed refreshes per bank, and activations of a bank since they were last reset (R333), keyed 384 * bank + 32 * stack + channel -/
  refresh : SMap Nat := []
  acts : SMap Nat := []
  /-- firmware is resetting the partition (R340) -/
  resetting : Bool := false
deriving DecidableEq, Repr

/-- A Lomior Link port (R334), with whether it has failed since it was last up (R335), and the partitions of other devices that may reach a local
partition through it (R326): the device, its partition, the local partition. -/
structure Port where
  up : Bool := false
  failed : Bool := false
  reach : List (Nat × Nat × Nat) := []
  dev : Nat := 0
  port : Nat := 0
  ident : BitVec 256 := 0
deriving DecidableEq, Repr

/-- A capacity-tier extent (R330, R332). -/
structure Extent where
  base : Nat
  len : Nat
  vi : Nat
  pending : Bool := false
  gone : Bool := false
deriving DecidableEq, Repr

/-- The physical function and the device-wide state (R325 to R339). -/
structure Device where
  stage : Nat := 0
  failCode : Nat := 0
  /-- the image under verification is the host's, not that of the flash (R337) -/
  hostImage : Bool := false
  /-- what the last verification that IMGGO started found (R328) -/
  checked : Option Bool := none
  /-- the measurement and the security version of the image that runs (R337, R338), and the attestation log with its signature -/
  measure : BitVec 256 := 0
  version : Word := 0
  attlog : List (BitVec 256) := []
  attsig : BitVec 512 := 0
  imgBase : DWord := 0
  imgLen : Nat := 0
  devNum : Nat := 0x3FF
  reqBase : DWord := 0
  reqSize : Nat := 0
  reqProd : Word := 0
  reqCons : Word := 0
  ports : SMap Port := []
  /-- what other devices' link programming refuses this device (R326): the local partition, the device, the domain of its HBM -/
  refused : List (Nat × Nat × Nat) := []
  extents : List Extent := []
  seq : Nat := 0
  epoch : Word := 0
  /-- boots that the flash has counted since the model's reset state (R344) -/
  boots : Word := 0
  /-- cycles since the device left reset -/
  time : Nat := 0
  dumpSeq : Nat := 0
  /-- the device's sequencer (R161) -/
  ticket : Nat := 0
  /-- service cores with an interrupt pending -/
  irqs : List Nat := []
  withhold : Bool := false
deriving DecidableEq, Repr

/-- What the device has sent to the outside. -/
inductive Out
  | hostData (data : List Byte)
  | msix (vi : Nat)
  | pfMsix (vector : Nat)
  | reply (status : Nat) (data : List Byte)
  | released (base : Nat)
  | chunk (target : Nat) (data : List Byte)
  | link (dev : Nat) (data : List Byte)
  | refuse (dev : Nat)
deriving DecidableEq, Repr

/-- The next move (log entry 1): a strand issues its next word, an event of the opcode table takes place, an L1 or L2 line or a TLB entry
leaves, engine work advances by n, the power limiter withholds issue slots or stops withholding them, traps are taken at once or as events of
their own, memory operations are performed at once or in steps of their own (R256), n cycles pass, the next additions of a scatter are
performed in an order of their own (R272), a miss register or a miss entry is served (R245), firmware programs a link port or learns what
other devices refuse (R326), an owner changes remote bytes (R334), a CWB carries its lines to the capacity device before its token is
written (R332), a bank is activated or refreshed (R333), firmware begins or gives up a partition's reset (R340), the boot goes on (R337), an
interrupt comes for a core (R206), the ECC corrects an error of a partition, or finds an uncorrectable one in a global line, in a core's L1
copy or tile buffer alone, or in a line of a block's stash (R243), the increments of a VI's waves come to be seen late by the others' CNTRD or
are seen (R206). -/
inductive Choice
  | issue (core slot strand : Nat)
  | event (i : Instr)
  | evict (core line : Nat)
  | evictTlb (core n : Nat)
  | progress (blk q n : Nat)
  | withhold (on : Bool)
  | defer (on : Bool)
  | tick (n : Nat)
  | lag (on : Bool)
  | scat (blk : Nat) (order : List Nat)
  | served (key n : Nat)
  | eccFixed (part : Nat)
  | eccLine (line : Nat)
  | eccCopy (core line : Nat)
  | eccTile (core line : Nat)
  | eccStash (blk line : Nat)
  | program (port : Nat) (reach : List (Nat × Nat × Nat))
  | refused (l : List (Nat × Nat × Nat))
  | owner (pa : Nat) (data : List Byte)
  | port (core slot id : Nat)
  | activate (stack chan bank : Nat)
  | refresh (stack chan bank : Nat)
  | resetting (part : Nat) (on : Bool)
  | holdMeters (vi : Nat) (on : Bool)
  | boot
  | interrupt (core : Nat)
deriving DecidableEq, Repr

end Sys2Proof.Machine
end

