-- ==== Sys2Proof/Machine/State.lean ====
section
/-! DEFINITION. The state of the machine, the state after reset, and the reasons a step can stop. -/

namespace Sys2Proof.Machine

/-- Why a step could stop with a fault.  No meaning of this model does: every cause of R300 is taken as a next state. -/
inductive Fault
  /-- Raised by nothing; safe. -/
  | stuck
deriving DecidableEq, Repr

/-- Why a step could be refused. -/
inductive Refusal
  /-- Raised by an arm of `exec` whose instruction has no meaning yet; safe: no claim about such a step can be proved. -/
  | notModelled (mnemonic : String)
deriving DecidableEq, Repr

/-- The machine.  The fields `asked`, `agenda`, `cur`, `deferTraps`, `lag` and `outbox` are the model's own (log entries 1 and 5). -/
structure State where
  /-- waves, keyed core * 64 + slot (R18, R291); service core n is core 160 + n (R206) -/
  waves : SMap Wave
  /-- blocks and task waves by the number the dispatcher gave them -/
  blocks : SMap Block
  nextBlk : Nat
  cores : SMap Core
  /-- chiplet TLBs (R314) -/
  ctlb : SMap (List TlbEntry)
  parts : SMap Part
  vis : SMap Vi
  /-- accepted packets by number, in order of acceptance -/
  packets : SMap Packet
  nextPkt : Nat
  /-- physical memory as the home slices and what lies behind them hold it (R326); default 0 (log entry 2) -/
  mem : List Host.Cell
  /-- what the capacity devices have acknowledged (R331) -/
  capDev : List Host.Cell
  /-- the keys under which the capacity devices hold their lines: the VI and its assignment count, by physical line (R330) -/
  atRest : SMap (Nat × Nat)
  /-- live counted global lines by physical line number (R236) -/
  counted : SMap Counted
  /-- L2 sets by slice * 1024 + set: ways in recency order, the most recently used first (R231, R233) -/
  l2 : SMap (List Way)
  /-- the spent tables of the slices (R237), newest first -/
  spent : SMap (List Nat)
  /-- physical lines with an uncorrectable error (R243) -/
  bad : List Nat
  /-- the lines that the memory operation in progress has requested at L2: the coalescer makes one request for each (R231) -/
  asked : Option (List Nat)
  /-- what is under way: the miss entries of slice k under key k, the miss registers of core c that no outstanding result holds under
  key 128 + c (R245) -/
  inFlight : SMap Nat
  /-- words written to the system spaces of the service cores (R206) -/
  sysmem : SMap Word
  dev : Device
  agenda : List Choice
  cur : Nat × Nat × Nat
  deferTraps : Bool
  /-- memory operations are not performed in the step of their issue (R256) -/
  lag : Bool
  outbox : List Out
deriving DecidableEq, Repr

/-- The device right after reset: no partition, no context, no wave; registers as R277 and R328 give them. -/
def State.reset : State where
  waves := []
  blocks := []
  nextBlk := 0
  cores := []
  ctlb := []
  parts := []
  vis := []
  packets := []
  nextPkt := 0
  mem := []
  capDev := []
  atRest := []
  counted := []
  l2 := []
  spent := []
  bad := []
  asked := none
  inFlight := []
  sysmem := []
  dev := {}
  agenda := []
  cur := (0, 0, 0)
  deferTraps := false
  lag := false
  outbox := []

end Sys2Proof.Machine
end

