-- ==== Sys2Proof/Machine/Map.lean ====
section
/-! DEFINITION. Sparse maps in canonical form, and memory as one of them: bytes by physical address, read and written
little-endian in one place (R3). -/

namespace Sys2Proof.Machine

/-- The entry of a key; the default where the map lists none. -/
def SMap.get (d : α) : SMap α → Nat → α
  | [], _ => d
  | (k', v) :: t, k => if k' = k then v else SMap.get d t k

/-- The entry of a key, if the map lists one. -/
def SMap.find? (m : SMap α) (k : Nat) : Option α := SMap.get none (m.map fun p => (p.1, some p.2)) k

/-- The map without a key. -/
def SMap.erase (m : SMap α) (k : Nat) : SMap α := m.filter fun p => p.1 != k

/-- A pair put before the first greater key. -/
def SMap.ins (k : Nat) (v : α) : SMap α → SMap α
  | [] => [(k, v)]
  | (k', v') :: t => if k < k' then (k, v) :: (k', v') :: t else (k', v') :: SMap.ins k v t

/-- The map with an entry, whatever its value. -/
def SMap.put (m : SMap α) (k : Nat) (v : α) : SMap α := SMap.ins k v (SMap.erase m k)

/-- The map with an entry: a default value is not listed, so equal contents are equal data. -/
def SMap.set [DecidableEq α] (d : α) (m : SMap α) (k : Nat) (v : α) : SMap α :=
  if v = d then SMap.erase m k else SMap.put m k v

/-- The map with one entry changed by a function. -/
def SMap.upd (d : α) (m : SMap α) (k : Nat) (f : α → α) : SMap α := SMap.put m k (f (SMap.get d m k))

/-- The map with every entry of another put into it. -/
def SMap.putAll (m n : SMap α) : SMap α := n.foldl (fun m p => SMap.put m p.1 p.2) m

/-- Strictly rising keys. -/
def SMap.sorted : SMap α → Bool
  | [] => true
  | [_] => true
  | (k, _) :: (k', v') :: t => k < k' && SMap.sorted ((k', v') :: t)

/-- The canonical form: strictly rising keys, and no entry equal to the default. -/
def SMap.wf [DecidableEq α] (d : α) (m : SMap α) : Bool := SMap.sorted m && m.all fun p => p.2 != d

/-! ## Memory -/

/-- The canonical form of memory.  An unlisted byte reads as 0 (log entry 2). -/
def Memory.wf (m : List Host.Cell) : Bool := SMap.wf 0 m

/-- One byte of memory. -/
def Memory.byte (m : List Host.Cell) (a : Nat) : Byte := SMap.get 0 m a

/-- Memory with one byte written. -/
def Memory.setByte (m : List Host.Cell) (a : Nat) (b : Byte) : List Host.Cell := SMap.set 0 m a b

/-- n bytes at rising addresses, little-endian (R3). -/
def Memory.read (m : List Host.Cell) (a : Nat) : Nat → Nat
  | 0 => 0
  | n + 1 => (Memory.byte m a).toNat + 256 * Memory.read m (a + 1) n

/-- Memory with the low n bytes of v written little-endian (R3). -/
def Memory.write (m : List Host.Cell) (a : Nat) : Nat → Nat → List Host.Cell
  | 0, _ => m
  | n + 1, v => Memory.write (Memory.setByte m a (BitVec.ofNat 8 v)) (a + 1) n (v / 256)

/-- Memory with a list of bytes written at rising addresses. -/
def Memory.writeBytes (m : List Host.Cell) (a : Nat) : List Byte → List Host.Cell
  | [] => m
  | b :: t => Memory.writeBytes (Memory.setByte m a b) (a + 1) t

/-- n bytes at rising addresses as a list. -/
def Memory.bytes (m : List Host.Cell) (a : Nat) : Nat → List Byte
  | 0 => []
  | n + 1 => Memory.byte m a :: Memory.bytes m (a + 1) n

/-- A line of 128 bytes by its line number (R159). -/
def Memory.line (m : List Host.Cell) (l : Nat) : LineData := BitVec.ofNat 1024 (Memory.read m (l * 128) 128)

/-- Memory with a line written whole. -/
def Memory.setLine (m : List Host.Cell) (l : Nat) (d : LineData) : List Host.Cell := Memory.write m (l * 128) 128 d.toNat

/-- The little-endian bytes of a number. -/
def leBytes : Nat → Nat → List Byte
  | 0, _ => []
  | n + 1, v => BitVec.ofNat 8 v :: leBytes n (v / 256)

/-- The number of little-endian bytes. -/
def leNat : List Byte → Nat
  | [] => 0
  | b :: t => b.toNat + 256 * leNat t

/-- n bytes of a line from an offset. -/
def lineGet (d : LineData) (off n : Nat) : Nat := d.toNat / 2 ^ (8 * off) % 2 ^ (8 * n)

/-- A line with n bytes from an offset replaced. -/
def lineSet (d : LineData) (off n v : Nat) : LineData :=
  BitVec.ofNat 1024
    (d.toNat % 2 ^ (8 * off) + (v % 2 ^ (8 * n)) * 2 ^ (8 * off) + d.toNat / 2 ^ (8 * (off + n)) * 2 ^ (8 * (off + n)))

/-- The lanes of a mask in ascending order. -/
def lanesOf (m : Lanes) : List Nat := (List.range 96).filter fun l => m.getLsbD l

/-- The mask of a list of lanes. -/
def maskOf (ls : List Nat) : Lanes := ls.foldl (fun m l => m ||| (1#96 <<< l)) 0

/-- The first of a list's elements that a key ranks lowest. -/
def minBy (f : α → Nat) : List α → Option α
  | [] => none
  | x :: t =>
    match minBy f t with
    | none => some x
    | some y => if f x ≤ f y then some x else some y

end Sys2Proof.Machine
end

