-- ==== Sys2Proof/Machine/Crypto.lean ====
section
/-! DEFINITION. The hash and the cipher that the spec names: SHA-256 (R344, FIPS 180-4), and AES-256 (FIPS 197) in GCM (R354, SP 800-38D) and in
XTS (R330, IEEE 1619). -/

namespace Sys2Proof.Machine

/-! ## SHA-256 -/

/-- The round constants of SHA-256, eight to a row, the first at the left. -/
def shaRows : List Nat :=
  [0x428a2f9871374491b5c0fbcfe9b5dba53956c25b59f111f1923f82a4ab1c5ed5, 0xd807aa9812835b01243185be550c7dc372be5d7480deb1fe9bdc06a7c19bf174,
   0xe49b69c1efbe47860fc19dc6240ca1cc2de92c6f4a7484aa5cb0a9dc76f988da, 0x983e5152a831c66db00327c8bf597fc7c6e00bf3d5a7914706ca635114292967,
   0x27b70a852e1b21384d2c6dfc53380d13650a7354766a0abb81c2c92e92722c85, 0xa2bfe8a1a81a664bc24b8b70c76c51a3d192e819d6990624f40e3585106aa070,
   0x19a4c1161e376c082748774c34b0bcb5391c0cb34ed8aa4a5b9cca4f682e6ff3, 0x748f82ee78a5636f84c878148cc7020890befffaa4506cebbef9a3f7c67178f2]

/-- A round constant. -/
def shaK (i : Nat) : Word := BitVec.ofNat 32 (shaRows.getD (i / 8) 0 / 2 ^ (32 * (7 - i % 8)))

/-- The initial hash value. -/
def shaInit : List Word :=
  [0x6a09e667, 0xbb67ae85, 0x3c6ef372, 0xa54ff53a, 0x510e527f, 0x9b05688c, 0x1f83d9ab, 0x5be0cd19]

/-- The XOR of two rotations and a third term. -/
def shaMix (x : Word) (i j : Nat) (y : Word) : Word := x.rotateRight i ^^^ x.rotateRight j ^^^ y

/-- The message schedule, the newest word first, with n more words. -/
def shaSchedule : Nat → List Word → List Word
  | 0, w => w
  | n + 1, w =>
    let (a, b) := (w.getD 14 0, w.getD 1 0)
    shaSchedule n ((shaMix b 17 19 (b >>> 10) + w.getD 6 0 + shaMix a 7 18 (a >>> 3) + w.getD 15 0) :: w)

/-- One round on the working variables a to h. -/
def shaRound (v : List Word) (kw : Word) : List Word :=
  let x (i : Nat) : Word := v.getD i 0
  let t1 := x 7 + shaMix (x 4) 6 11 ((x 4).rotateRight 25) + ((x 4 &&& x 5) ^^^ (~~~(x 4) &&& x 6)) + kw
  let t2 := shaMix (x 0) 2 13 ((x 0).rotateRight 22) + ((x 0 &&& x 1) ^^^ (x 0 &&& x 2) ^^^ (x 1 &&& x 2))
  [t1 + t2, x 0, x 1, x 2, x 3 + t1, x 4, x 5, x 6]

/-- The hash value after a block of 16 words. -/
def shaBlock (h m : List Word) : List Word :=
  let w := (shaSchedule 48 m.reverse).reverse
  h.zipWith (· + ·) ((w.zipIdx.map fun p => shaK p.2 + p.1).foldl shaRound h)

/-- The number that bytes write with the most significant first. -/
def beNat (l : List Byte) : Nat := l.foldl (fun n b => 256 * n + b.toNat) 0

/-- n bytes of a number, the most significant first. -/
def beBytes (n v : Nat) : List Byte := (leBytes n v).reverse

/-- The first n words of bytes in big-endian order. -/
def beWords (l : List Byte) (n : Nat) : List Word := (List.range n).map fun i => BitVec.ofNat 32 (beNat ((l.drop (4 * i)).take 4))

/-- The hash value after n blocks. -/
def shaBlocks : Nat → List Word → List Byte → List Word
  | 0, h, _ => h
  | n + 1, h, l => shaBlocks n (shaBlock h (beWords l 16)) (l.drop 64)

/-- SHA-256 of a byte string, as its 32 bytes read with the most significant first. -/
def sha256 (l : List Byte) : BitVec 256 :=
  let n := l.length
  let m := l ++ [0x80] ++ List.replicate ((119 - n % 64) % 64) 0 ++ beBytes 8 (8 * n)
  BitVec.ofNat 256 ((shaBlocks (m.length / 64) shaInit m).foldl (fun x w => 2 ^ 32 * x + w.toNat) 0)

/-! ## AES-256 -/

/-- The S-box, sixteen bytes to a row, the first at the left. -/
def sboxRows : List Nat :=
  [0x637c777bf26b6fc53001672bfed7ab76, 0xca82c97dfa5947f0add4a2af9ca472c0,
   0xb7fd9326363ff7cc34a5e5f171d83115, 0x04c723c31896059a071280e2eb27b275,
   0x09832c1a1b6e5aa0523bd6b329e32f84, 0x53d100ed20fcb15b6acbbe394a4c58cf,
   0xd0efaafb434d338545f9027f503c9fa8, 0x51a3408f929d38f5bcb6da2110fff3d2,
   0xcd0c13ec5f974417c4a77e3d645d1973, 0x60814fdc222a908846eeb814de5e0bdb,
   0xe0323a0a4906245cc2d3ac629195e479, 0xe7c8376d8dd54ea96c56f4ea657aae08,
   0xba78252e1ca6b4c6e8dd741f4bbd8b8a, 0x703eb5664803f60e613557b986c11d9e,
   0xe1f8981169d98e949b1e87e9ce5528df, 0x8ca1890dbfe6426841992d0fb054bb16]

/-- The S-box. -/
def sbox (x : Nat) : Nat := sboxRows.getD (x / 16) 0 / 2 ^ (8 * (15 - x % 16)) % 256

/-- Multiplication by x in the field of AES. -/
def xtime (x : Nat) : Nat := (2 * x) ^^^ (if x < 128 then 0 else 0x11B)

/-- The bytes of a word, each through the S-box. -/
def subWord (w : Nat) : Nat := (List.range 4).foldl (fun n i => n + 2 ^ (8 * i) * sbox (w / 2 ^ (8 * i) % 256)) 0

/-- The round constant of a step of the key schedule. -/
def aesRcon (i : Nat) : Nat := 2 ^ (24 + i - 1)

/-- The key schedule of AES-256, the newest word first, with n more words, the next of which has the number i. -/
def aesExpand : Nat → Nat → List Nat → List Nat
  | 0, _, w => w
  | n + 1, i, w =>
    let t := w.getD 0 0
    let t := if i % 8 = 0 then subWord (t % 2 ^ 24 * 256 + t / 2 ^ 24) ^^^ aesRcon (i / 8) else if i % 8 = 4 then subWord t else t
    aesExpand n (i + 1) ((w.getD 7 0 ^^^ t) :: w)

/-- The fifteen round keys of a key, each as 16 bytes. -/
def aesKeys (key : BitVec 256) : List (List Nat) :=
  let w := (aesExpand 52 8 ((List.range 8).map fun i => key.toNat / 2 ^ (32 * i) % 2 ^ 32)).reverse
  (List.range 15).map fun r => (List.range 16).map fun i => w.getD (4 * r + i / 4) 0 / 2 ^ (8 * (3 - i % 4)) % 256

/-- The XOR of two lists of bytes. -/
def xorBytes (a b : List Nat) : List Nat := a.zipWith (· ^^^ ·) b

/-- SubBytes and ShiftRows on a state of 16 bytes, column by column. -/
def aesShift (s : List Nat) : List Nat := (List.range 16).map fun i => sbox (s.getD ((i + 4 * (i % 4)) % 16) 0)

/-- MixColumns. -/
def aesMix (s : List Nat) : List Nat :=
  (List.range 16).map fun i =>
    let x (k : Nat) : Nat := s.getD (i / 4 * 4 + (i + k) % 4) 0
    xtime (x 0) ^^^ xtime (x 1) ^^^ x 1 ^^^ x 2 ^^^ x 3

/-- The rounds after the first key addition. -/
def aesRounds : List (List Nat) → List Nat → List Nat
  | [], s => s
  | [k], s => xorBytes (aesShift s) k
  | k :: t, s => aesRounds t (xorBytes (aesMix (aesShift s)) k)

/-- One block of 128 bits, read with the most significant byte first, under the round keys of a key. -/
def aesBlock (ks : List (List Nat)) (x : Nat) : Nat :=
  let s := (List.range 16).map fun i => x / 2 ^ (8 * (15 - i)) % 256
  (aesRounds (ks.drop 1) (xorBytes s (ks.getD 0 []))).foldl (fun n b => 256 * n + b) 0

/-- The inverse of the S-box. -/
def invSbox (x : Nat) : Nat := ((List.range 256).find? fun y => sbox y = x).getD 0

/-- The inverse of SubBytes and ShiftRows. -/
def aesUnshift (s : List Nat) : List Nat := (List.range 16).map fun i => invSbox (s.getD ((i + 12 * (i % 4)) % 16) 0)

/-- The inverse of MixColumns: its matrix has order 4. -/
def aesUnmix (s : List Nat) : List Nat := aesMix (aesMix (aesMix s))

/-- One block decrypted under the round keys of a key: the last round's key addition first, then each middle round undone. -/
def aesUnblock (ks : List (List Nat)) (x : Nat) : Nat :=
  let s := (List.range 16).map fun i => x / 2 ^ (8 * (15 - i)) % 256
  let u := ((ks.take 14).drop 1).reverse.foldl (fun s k => aesUnshift (aesUnmix (xorBytes s k))) (aesUnshift (xorBytes s (ks.getD 14 [])))
  (xorBytes u (ks.getD 0 [])).foldl (fun n b => 256 * n + b) 0

/-! ## XTS -/

/-- The bytes of a number of 128 bits in the other order. -/
def swap16 (x : Nat) : Nat := beNat (leBytes 16 x)

/-- A tweak multiplied by the element 2 of XTS's field, as a little-endian number. -/
def xtsNext (t : Nat) : Nat := 2 * t % 2 ^ 128 ^^^ (if t < 2 ^ 127 then 0 else 0x87)

/-- n blocks of a line through a block cipher, from block i on, under the tweak reached. -/
def xtsBlocks (c : Nat → Nat) (d : Nat) : Nat → Nat → Nat → Nat
  | 0, _, _ => 0
  | n + 1, i, t =>
    let x := swap16 (c (swap16 (d / 2 ^ (128 * i) % 2 ^ 128 ^^^ t))) ^^^ t
    2 ^ (128 * i) * x + xtsBlocks c d n (i + 1) (xtsNext t)

/-- AES-256-XTS of a 128-byte data unit: the key's low 256 bits encrypt the data and its high 256 bits the tweak (log entry 47). -/
def xtsLine (decrypt : Bool) (key : BitVec 512) (tweak : Nat) (d : LineData) : LineData :=
  let ks := aesKeys (key.extractLsb' 0 256)
  let t := swap16 (aesBlock (aesKeys (key.extractLsb' 256 256)) (swap16 tweak))
  BitVec.ofNat 1024 (xtsBlocks (if decrypt then aesUnblock ks else aesBlock ks) d.toNat 8 0 t)

/-! ## GCM -/

/-- The product of two elements of GCM's field: n bits of x are left, v is y times the power reached, z the sum so far. -/
def ghashMul (x : Nat) : Nat → Nat → Nat → Nat
  | 0, _, z => z
  | n + 1, v, z =>
    ghashMul x n (if v % 2 = 1 then (v / 2) ^^^ (0xE1 * 2 ^ 120) else v / 2) (if x / 2 ^ n % 2 = 1 then z ^^^ v else z)

/-- A 16-byte block of a text, padded with zeros. -/
def gcmBlock (l : List Byte) : Nat := beNat ((l.take 16) ++ List.replicate (16 - l.length) 0)

/-- GHASH over n blocks of a text, from a sum so far. -/
def ghash (h : Nat) : Nat → List Byte → Nat → Nat
  | 0, _, y => y
  | n + 1, l, y => ghash h n (l.drop 16) (ghashMul (y ^^^ gcmBlock l) 128 h 0)

/-- The text encrypted in counter mode, n blocks from a counter on. -/
def gcmCtr (ks : List (List Nat)) (iv : Nat) : Nat → Nat → List Byte → List Byte
  | 0, _, _ => []
  | n + 1, c, l =>
    let k := beBytes 16 (aesBlock ks (iv * 2 ^ 32 + c % 2 ^ 32))
    ((l.take 16).zipWith (· ^^^ ·) k) ++ gcmCtr ks iv n (c + 1) (l.drop 16)

/-- AES-256-GCM of a text without additional data under a 96-bit IV: the ciphertext, then the tag of 16 bytes. -/
def sealGcm (key : BitVec 256) (iv : BitVec 96) (l : List Byte) : List Byte :=
  let ks := aesKeys key
  let n := (l.length + 15) / 16
  let c := gcmCtr ks iv.toNat n 2 l
  let h := aesBlock ks 0
  let y := ghashMul (ghash h n c 0 ^^^ (8 * l.length)) 128 h 0
  c ++ beBytes 16 (y ^^^ aesBlock ks (iv.toNat * 2 ^ 32 + 1))

end Sys2Proof.Machine
end

