-- ==== Sys2Proof/WellFormed.lean ====
section
/-! DEFINITION. Well-formed instructions: the field rules of R12, R14, R16, R18, R55 to R58 and R65 to R77 that do not depend on the
state.  A word whose instruction breaks one of them is not an instruction and raises ILLEGAL. -/

namespace Sys2Proof

/-- The operand kinds of R58. -/
inductive Kind | f32 | f16 | bf16 | f64 | i32 | i16 | i8 | i64 | raw | amount | amount64
deriving DecidableEq, Repr

/-- The operand kind of a class 0 type (R65). -/
def FTy.kind : FTy → Kind
  | .f32 => .f32 | .f16x2 => .f16 | .bf16x2 => .bf16 | .f64 => .f64

/-- The operand kind of a class 1 type (R65). -/
def ITy.kind : ITy → Kind
  | .i32 => .i32 | .i16x2 => .i16 | .i8x4 => .i8 | .i64 => .i64

/-- The kinds whose float codes 240 to 254 are ILLEGAL (R58). -/
def Kind.integer : Kind → Bool
  | .i32 | .i16 | .i8 | .i64 | .amount | .amount64 => true
  | _ => false

/-- The kinds of a 64-bit type (R56). -/
def Kind.wide : Kind → Bool
  | .f64 | .i64 => true
  | _ => false

/-- An even vector register (R12). -/
def evenV (r : VReg) : Bool := r.toNat % 2 == 0

/-- A pair operand: an even register other than s60 and s62, or zr (R14). -/
def pairOk (r : SReg) : Bool := r == 63 || (r.toNat % 2 == 0 && r != 60 && r != 62)

/-- A register that can be a token, or an s field of class 5: s0 to s59 (R16, R72). -/
def low60 (r : SReg) : Bool := r.toNat ≤ 59

/-- The head of a parameter block of n registers within s0 to s59 (R74). -/
def blockOk (n : Nat) (r : SReg) : Bool := r.toNat % 2 == 0 && r.toNat + n ≤ 60

/-- A mask triple number (R6). -/
def kOk (k : KReg) : Bool := k.toNat ≤ 20

/-- The operand code rules of R56 and R58. -/
def codeOk (k : Kind) (c : Code) : Bool :=
  !(k.integer && 240 ≤ c.toNat && c.toNat ≤ 254) &&
  (if k.wide then
    (if c.toNat ≤ 127 then c.toNat % 2 == 0
     else if c.toNat ≤ 191 then pairOk (BitVec.ofNat 6 (c.toNat - 128))
     else true)
   else if k == .amount64 then 127 < c.toNat || c.toNat % 2 == 0
   else true)

/-- The rules of layout V (R65). -/
def okV (k kb : Kind) (d a : VReg) (b : Code) : Bool :=
  (!k.wide || (evenV d && evenV a)) && codeOk kb b

/-- Class 0. -/
def okF (ty : FTy) (d a : VReg) (b : Code) : Bool := okV ty.kind ty.kind d a b

/-- Class 1, but for the shifts. -/
def okI (ty : ITy) (d a : VReg) (b : Code) : Bool := okV ty.kind ty.kind d a b

/-- The shifts of class 1, whose vb is of kind amount (R65). -/
def okSh (ty : ITy) (d a : VReg) (b : Code) : Bool :=
  okV ty.kind (if ty == .i64 then .amount64 else .amount) d a b

/-- The narrow formats of 4 bits (R67). -/
def NFmt.four : NFmt → Bool
  | .e2m1 | .int4 => true
  | _ => false

/-- The integer narrow formats. -/
def NFmt.integer : NFmt → Bool
  | .int8 | .int4 => true
  | _ => false

/-- The slot rule of R67. -/
def slotOk (f : NFmt) (slot : BitVec 3) : Bool := f.four || slot.toNat ≤ 3

/-- The pairs of VCVT that are exact (R68). -/
def CvtPair.exact : CvtPair → Bool
  | .f32f16 | .f32bf16 | .f64f32 | .f64s32 | .f32s8 | .f32n8 => true
  | _ => false

/-- The highest select value that a pair uses (R68). -/
def CvtPair.maxSel : CvtPair → Nat
  | .f32f16 | .f32bf16 | .f16f32 | .bf16f32 => 1
  | .f32s8 | .f32n8 => 3
  | _ => 0

/-- The rules of R68. -/
def okCvt (d a : VReg) (p : CvtPair) (rnd sel : BitVec 2) : Bool :=
  (!p.exact || rnd == 0) && sel.toNat ≤ p.maxSel &&
  (match p with
   | .f32f64 | .s32f64 => evenV a
   | .f64f32 | .f64s32 => evenV d
   | _ => true)

/-- The operand kind of a VSCAN or VREDS select (R66). -/
def RedOp.kind : RedOp → Kind
  | .addF32 | .maxF32 | .minF32 => .f32
  | _ => .i32

/-- The base pair field of class 3 and of layout E2 (R69, R73). -/
def baseOk (b : BitVec 5) : Bool := b.toNat ≤ 29

/-- A register whose number is a multiple of 4 (R12). -/
def quadV (r : VReg) : Bool := r.toNat % 4 == 0

/-- The data register of an atomic (R70). -/
def atomOk (op : AtomOp) (t : VReg) : Bool :=
  match op with
  | .addI64 | .casB32 => evenV t
  | _ => true

/-- VRED has no exch and no cas (R70). -/
def redOk : AtomOp → Bool
  | .exchB32 | .casB32 => false
  | _ => true

/-- The pair rule for the operand b of a 64-bit class 4 op (R71). -/
def SOp.pair : SOp → Bool
  | .reg r => pairOk r
  | .imm _ => true

/-- The operand of KMOV (R71): a triple, or the immediates 0 and -1. -/
def SOp.mask : SOp → Bool
  | .reg r => r.toNat ≤ 20
  | .imm v => v == 0 || v == -1

/-- The destination of SLD.b128: a multiple of 4, at most 56 (R71). -/
def quadS (r : SReg) : Bool := r.toNat % 4 == 0 && r.toNat ≤ 56

/-- The special registers that an SSET may name (R18): FMODE, FSTAT, MSTAT, TPC lo and hi. -/
def ssetOk (x : BitVec 9) : Bool := x == 8 || x == 9 || x == 10 || x == 19 || x == 20

/-- Whether an instruction obeys the field rules of its row.  Events have no word and no field rule. -/
def Instr.wf : Instr → Bool
  | .vadd _ ty d a b | .vsub _ ty d a b | .vmul _ ty d a b | .vfma _ ty d a b | .vfnma _ ty d a b
  | .vmin _ ty d a b | .vmax _ ty d a b | .vcpsgn _ ty d a b | .vscale _ ty d a b | .vabsd _ ty d a b => okF ty d a b
  | .viadd _ ty d a b | .visub _ ty d a b | .vimul _ ty d a b | .vimad _ ty d a b | .vimulhs _ ty d a b
  | .vimulhn _ ty d a b | .vimins _ ty d a b | .viminn _ ty d a b | .vimaxs _ ty d a b | .vimaxn _ ty d a b
  | .viaddss _ ty d a b | .viaddsn _ ty d a b | .visubss _ ty d a b => okI ty d a b
  | .vshl _ ty d a b | .vshr _ ty d a b | .vsra _ ty d a b => okSh ty d a b
  | .vand _ _ _ b | .vor _ _ _ b | .vxor _ _ _ b | .vandn _ _ _ b | .vsel _ _ _ b => codeOk .raw b
  | .vbfes _ _ _ b | .vbfen _ _ _ b | .vbfi _ _ _ b | .vpermb _ _ _ b | .vshfl _ _ _ b | .vbcast _ _ _ b => codeOk .i32 b
  | .vpopc _ _ b | .vclz _ _ b => codeOk .i32 b
  | .vmov _ _ b => codeOk .raw b
  | .vcvt _ d a p rnd sel => okCvt d a p rnd sel
  | .vqnt _ _ _ f sat slot => slotOk f slot && !(f.integer && sat)
  | .vdq _ _ _ f slot => slotOk f slot
  | .vbscale _ _ _ _ => true
  | .vrcp _ _ b | .vrsq _ _ b | .vsqrt _ _ b | .vex2 _ _ b | .vlg2 _ _ b | .vsin _ _ b | .vcos _ _ b
  | .vtanh _ _ b => codeOk .f32 b
  | .vlane _ _ => true
  | .vscan _ _ op b => codeOk op.kind b
  | .vreds _ _ op b => codeOk op.kind b
  | .vrdl _ _ _ b => codeOk .i32 b
  | .vwrl _ _ lane b => lane.toNat ≤ 95 && codeOk .raw b
  | .vrdi _ _ _ | .vwri _ _ _ => true
  | .vcmpEqF64 _ k a b | .vcmpNeF64 _ k a b | .vcmpLtF64 _ k a b | .vcmpLeF64 _ k a b | .vcmpGtF64 _ k a b
  | .vcmpGeF64 _ k a b => kOk k && evenV a && codeOk .f64 b
  | .vclassF32 _ k _ b => kOk k && codeOk .i32 b
  | .vcmpF32 _ _ k _ b => kOk k && codeOk .f32 b
  | .vcmpS32 _ _ k _ b | .vcmpN32 _ _ k _ b => kOk k && codeOk .i32 b
  | .vldB32 _ _ _ b _ | .vldS8 _ _ _ b _ | .vldN8 _ _ _ b _ | .vldS16 _ _ _ b _ | .vldN16 _ _ _ b _ => baseOk b
  | .vldB64 _ t _ b _ => evenV t && baseOk b
  | .vldB128 _ t _ b _ => quadV t && baseOk b
  | .vstB32 _ _ _ b _ | .vstB8 _ _ _ b _ | .vstB16 _ _ _ b _ => baseOk b
  | .vstB64 _ t _ b _ => evenV t && baseOk b
  | .vstB128 _ t _ b _ => quadV t && baseOk b
  | .vpref _ _ _ b => baseOk b
  | .fget _ _ _ b _ | .fput _ _ _ b _ => baseOk b
  | .vatom _ op t _ b _ => atomOk op t && baseOk b
  | .vred _ op t _ b _ => redOk op && atomOk op t && baseOk b
  | .sadd _ _ _ _ | .ssub _ _ _ _ | .smul _ _ _ _ | .smulhs _ _ _ _ | .smulhn _ _ _ _ | .sand _ _ _ _ | .sor _ _ _ _
  | .sxor _ _ _ _ | .sandn _ _ _ _ | .sshl _ _ _ _ | .sshr _ _ _ _ | .ssra _ _ _ _ | .smins _ _ _ _ | .sminn _ _ _ _
  | .smaxs _ _ _ _ | .smaxn _ _ _ _ | .sslt _ _ _ _ | .ssltn _ _ _ _ | .sseq _ _ _ _ | .ssne _ _ _ _ | .ssle _ _ _ _
  | .sslen _ _ _ _ | .smov _ _ _ | .scmov _ _ _ _ => true
  | .sadd64 _ d a b | .ssub64 _ d a b => pairOk d && pairOk a && b.pair
  | .sshl64 _ d a _ | .sshr64 _ d a _ => pairOk d && pairOk a
  | .spopc _ _ _ | .sclz _ _ _ | .sbfen _ _ _ _ => true
  | .smulw _ d _ _ => pairOk d
  | .kand _ d a b | .kor _ d a b | .kxor _ d a b | .kandn _ d a b => kOk d && kOk a && kOk b
  | .kmov _ d b => kOk d && b.mask
  | .kpopc _ _ a | .kffs _ _ a => kOk a
  | .klane _ d _ _ => kOk d
  | .sldB32 _ _ a _ | .sstB32 _ _ a _ => pairOk a
  | .sldB64 _ d a _ | .sstB64 _ d a _ => pairOk d && pairOk a
  | .sldB128 _ d a _ => quadS d && pairOk a
  | .satomAdd _ _ a _ | .satomCas _ _ a _ | .satomExch _ _ a _ => pairOk a
  | .sget _ _ x => x.toNat ≤ 29
  | .sset _ _ x => ssetOk x
  | .br _ _ => true
  | .brany _ k _ | .brall _ k _ | .brnone _ k _ => kOk k
  | .brnz _ _ _ | .brz _ _ _ => true
  | .call _ p _ | .jmpr _ p => pairOk p
  | .split _ k _ _ => kOk k
  | .ends _ | .joinm _ | .exit _ | .tret _ | .nop _ | .trap _ _ => true
  | .pub _ v vcnt r scnt =>
    v.toNat + vcnt.toNat ≤ 128 && r.toNat + scnt.toNat ≤ 60 && 1 ≤ vcnt.toNat + scnt.toNat &&
    (vcnt != 0 || v == 0) && (scnt != 0 || r == 0)
  | .join _ _ _ _ => true
  | .joins _ d a _ => low60 d && low60 a
  | .barW _ id | .barD _ id | .barJ _ id => id.toNat ≤ 19
  | .barA _ id d => id.toNat ≤ 19 && low60 d
  | .barwp _ id r => id.toNat ≤ 19 && low60 r
  | .fence _ _ => true
  | .qfence _ mask => mask != 0 && (!mask.getLsbD 7 || mask.getLsbD 4)
  | .twait _ r | .mwait _ r => low60 r
  | .rpoll _ _ => true
  | .vgive _ n | .vclaim _ n => n != 0
  | .acopy _ d a _ _ => low60 d && blockOk 4 a
  | .gath _ d a | .scat _ d a | .coll _ d a => low60 d && blockOk 8 a
  | .mma _ _ _ a b _ | .mmasp _ _ _ a b _ | .mstacc _ _ _ a b _ | .mldacc _ _ _ a b _ => baseOk a && baseOk b
  | .mzacc _ _ _ | .mfence _ _ => true
  | .tenq _ _ b | .tgaina _ _ b | .tgainm _ _ b | .tgains _ _ b => codeOk .f32 b
  | .tdone _ _ => true
  | .tjset _ _ b => codeOk .i32 b
  | .hres _ d _ => pairOk d
  | .ringp _ _ _ _ | .ringc _ _ _ _ | .ringq _ _ _ => true
  | .smap _ _ a _ => blockOk 4 a
  | .sunmap _ d _ _ => low60 d
  | .cdrop _ d a _ | .cinv _ d a _ | .cinvI _ d a _ | .cwb _ d a _ => low60 d && pairOk a
  | .cqry _ _ a => pairOk a
  | .l2pin _ ways a _ _ => 1 ≤ ways.toNat && ways.toNat ≤ 8 && pairOk a
  | .l2unpin _ _ => true
  | .xmod k _ rnd v4 v4ok _ => (k.toNat ≤ 20 || k == 31) && rnd.toNat ≤ 5 && (v4ok || v4 == 0)
  | .limm _ | .limmh _ | .limml _ | .limmf _ => true
  | .sched _ _ | .trace _ _ | .brkpt _ | .waiti _ => true
  | .sysld _ _ a | .sysst _ _ a | .tlbinv _ a => pairOk a
  | .cntrd _ d _ => pairOk d
  | .metsnap _ t => low60 t
  | .vidivS32 _ _ _ _ => true
  | .emulation _ op _ => op != 0
  | .strandWake .. | .resultWrite .. | .strandCapped .. | .ssqEntryRelease .. | .pageWalk .. | .fetchFill ..
  | .takeTrap .. | .contextEnd .. | .waveEnd .. | .acopyComplete .. | .gathScatComplete .. | .sunmapComplete ..
  | .cdropComplete .. | .cinvCwbComplete .. | .collComplete .. | .metsnapComplete .. | .matrixOpComplete ..
  | .batchComplete .. | .heapOpPerform .. | .tdoneParentUpdate .. | .turnstilePop .. | .heapRunEnd .. | .notify ..
  | .registerWrite .. | .packetAccept .. | .packetStart .. | .grid .. | .heapConfigure .. | .heapRun .. | .heapRelease ..
  | .marker .. | .packetComplete .. | .ticketDispatch .. | .roleToLoader .. | .roleToCompute .. | .sliceEnd ..
  | .contextSwitch .. | .schedulingPass .. | .partitionReconfigure .. | .settrap | .setroot | .group | .schedp | .assign
  | .resetvi | .extdone | .imggo | .powerOn | .hostWrite .. | .hostRead .. | .extentAdd .. | .extentRelease ..
  | .gracePeriodEnd .. | .refreshInterval .. | .activationAlert .. | .linkUp .. | .linkFailure .. | .powerOverrun
  | .overTemperature .. | .setjob .. | .getsnap .. | .getmemb .. | .setbin .. | .getbins .. | .settrace .. | .stop ..
  | .resume .. | .dump .. | .remoteAccess .. | .laneCycleRecord .. | .dumpKey .. => true
  | .illegalWord _ => true

/-- Whether a 32-bit word carries the instruction: the first 211 rows of the table, but not a word that is no instruction. -/
def Instr.isWord : Instr → Bool
  | .strandWake .. | .resultWrite .. | .strandCapped .. | .ssqEntryRelease .. | .pageWalk .. | .fetchFill ..
  | .takeTrap .. | .contextEnd .. | .waveEnd .. | .acopyComplete .. | .gathScatComplete .. | .sunmapComplete ..
  | .cdropComplete .. | .cinvCwbComplete .. | .collComplete .. | .metsnapComplete .. | .matrixOpComplete ..
  | .batchComplete .. | .heapOpPerform .. | .tdoneParentUpdate .. | .turnstilePop .. | .heapRunEnd .. | .notify ..
  | .registerWrite .. | .packetAccept .. | .packetStart .. | .grid .. | .heapConfigure .. | .heapRun .. | .heapRelease ..
  | .marker .. | .packetComplete .. | .ticketDispatch .. | .roleToLoader .. | .roleToCompute .. | .sliceEnd ..
  | .contextSwitch .. | .schedulingPass .. | .partitionReconfigure .. | .settrap | .setroot | .group | .schedp | .assign
  | .resetvi | .extdone | .imggo | .powerOn | .hostWrite .. | .hostRead .. | .extentAdd .. | .extentRelease ..
  | .gracePeriodEnd .. | .refreshInterval .. | .activationAlert .. | .linkUp .. | .linkFailure .. | .powerOverrun
  | .overTemperature .. | .setjob .. | .getsnap .. | .getmemb .. | .setbin .. | .getbins .. | .settrace .. | .stop ..
  | .resume .. | .dump .. | .remoteAccess .. | .laneCycleRecord .. | .dumpKey .. | .illegalWord _ => false
  | _ => true

end Sys2Proof
end

