-- ==== Sys2Proof/Decode.lean ====
section
/-! DEFINITION. The decoder and the encoder (R53 to R77).  The layouts are written once, as `layV`, `layM` and so on, and the field
codes once, as tables with an inverse.  A word decodes to the instruction that `parse` reads from its fields when that
instruction is well formed and its encoding is the word itself: so every field that must be zero is zero (R55).  Every other word is `illegalWord`. -/

namespace Sys2Proof

/-! ## Field codes -/

/-- The type field of class 0 (R65). -/
def FTy.code : FTy → BitVec 2
  | .f32 => 0
  | .f16x2 => 1
  | .bf16x2 => 2
  | .f64 => 3

/-- The inverse of the table, `none` for a code it does not hold. -/
def FTy.ofCode (c : BitVec 2) : Option FTy :=
  match c.toNat with
  | 0 => some .f32
  | 1 => some .f16x2
  | 2 => some .bf16x2
  | 3 => some .f64
  | _ => none

/-- The type field of class 1 (R65). -/
def ITy.code : ITy → BitVec 2
  | .i32 => 0
  | .i16x2 => 1
  | .i8x4 => 2
  | .i64 => 3

/-- The inverse of the table, `none` for a code it does not hold. -/
def ITy.ofCode (c : BitVec 2) : Option ITy :=
  match c.toNat with
  | 0 => some .i32
  | 1 => some .i16x2
  | 2 => some .i8x4
  | 3 => some .i64
  | _ => none

/-- The narrow-format codes (R67). -/
def NFmt.code : NFmt → BitVec 4
  | .d8 => 0
  | .e4m3 => 1
  | .e5m2 => 2
  | .e2m1 => 3
  | .int8 => 4
  | .int4 => 5

/-- The inverse of the table, `none` for a code it does not hold. -/
def NFmt.ofCode (c : BitVec 4) : Option NFmt :=
  match c.toNat with
  | 0 => some .d8
  | 1 => some .e4m3
  | 2 => some .e5m2
  | 3 => some .e2m1
  | 4 => some .int8
  | 5 => some .int4
  | _ => none

/-- The conversion pairs (R68). -/
def CvtPair.code : CvtPair → BitVec 4
  | .f32f16 => 0
  | .f32bf16 => 1
  | .f16f32 => 2
  | .bf16f32 => 3
  | .f32f64 => 4
  | .f64f32 => 5
  | .s32f32 => 6
  | .n32f32 => 7
  | .f32s32 => 8
  | .f32n32 => 9
  | .s32f64 => 10
  | .f64s32 => 11
  | .f32s8 => 12
  | .f32n8 => 13

/-- The inverse of the table, `none` for a code it does not hold. -/
def CvtPair.ofCode (c : BitVec 4) : Option CvtPair :=
  match c.toNat with
  | 0 => some .f32f16
  | 1 => some .f32bf16
  | 2 => some .f16f32
  | 3 => some .bf16f32
  | 4 => some .f32f64
  | 5 => some .f64f32
  | 6 => some .s32f32
  | 7 => some .n32f32
  | 8 => some .f32s32
  | 9 => some .f32n32
  | 10 => some .s32f64
  | 11 => some .f64s32
  | 12 => some .f32s8
  | 13 => some .f32n8
  | _ => none

/-- The op selects of VSCAN and VREDS (R66). -/
def RedOp.code : RedOp → BitVec 7
  | .addF32 => 0
  | .addI32 => 1
  | .maxF32 => 2
  | .minF32 => 3
  | .maxS32 => 4
  | .minS32 => 5
  | .orB32 => 6

/-- The inverse of the table, `none` for a code it does not hold. -/
def RedOp.ofCode (c : BitVec 7) : Option RedOp :=
  match c.toNat with
  | 0 => some .addF32
  | 1 => some .addI32
  | 2 => some .maxF32
  | 3 => some .minF32
  | 4 => some .maxS32
  | 5 => some .minS32
  | 6 => some .orB32
  | _ => none

/-- The condition bits of ops 40 to 47 (R66). -/
def FCond.code : FCond → BitVec 3
  | .eq => 0
  | .ne => 1
  | .lt => 2
  | .le => 3
  | .gt => 4
  | .ge => 5
  | .un => 6
  | .ord => 7

/-- The inverse of the table, `none` for a code it does not hold. -/
def FCond.ofCode (c : BitVec 3) : Option FCond :=
  match c.toNat with
  | 0 => some .eq
  | 1 => some .ne
  | 2 => some .lt
  | 3 => some .le
  | 4 => some .gt
  | 5 => some .ge
  | 6 => some .un
  | 7 => some .ord
  | _ => none

/-- The condition bits of ops 48 to 53 and 56 to 61 (R66). -/
def Cond.code : Cond → BitVec 3
  | .eq => 0
  | .ne => 1
  | .lt => 2
  | .le => 3
  | .gt => 4
  | .ge => 5

/-- The inverse of the table, `none` for a code it does not hold. -/
def Cond.ofCode (c : BitVec 3) : Option Cond :=
  match c.toNat with
  | 0 => some .eq
  | 1 => some .ne
  | 2 => some .lt
  | 3 => some .le
  | 4 => some .gt
  | 5 => some .ge
  | _ => none

/-- The q values of loads (R70). -/
def LdQ.code : LdQ → BitVec 3
  | .plain => 0
  | .cn => 1
  | .acq => 2
  | .sc => 3
  | .nt => 5

/-- The inverse of the table, `none` for a code it does not hold. -/
def LdQ.ofCode (c : BitVec 3) : Option LdQ :=
  match c.toNat with
  | 0 => some .plain
  | 1 => some .cn
  | 2 => some .acq
  | 3 => some .sc
  | 5 => some .nt
  | _ => none

/-- The q values of stores (R70). -/
def StQ.code : StQ → BitVec 3
  | .plain => 0
  | .sc => 3
  | .rel => 4
  | .nt => 5

/-- The inverse of the table, `none` for a code it does not hold. -/
def StQ.ofCode (c : BitVec 3) : Option StQ :=
  match c.toNat with
  | 0 => some .plain
  | 3 => some .sc
  | 4 => some .rel
  | 5 => some .nt
  | _ => none

/-- The q values of VATOM (R70). -/
def AtQ.code : AtQ → BitVec 3
  | .relaxed => 0
  | .acq => 1
  | .rel => 2
  | .sc => 3
  | .ar => 4

/-- The inverse of the table, `none` for a code it does not hold. -/
def AtQ.ofCode (c : BitVec 3) : Option AtQ :=
  match c.toNat with
  | 0 => some .relaxed
  | 1 => some .acq
  | 2 => some .rel
  | 3 => some .sc
  | 4 => some .ar
  | _ => none

/-- The q values of VRED (R70). -/
def RdQ.code : RdQ → BitVec 3
  | .relaxed => 0
  | .rel => 2
  | .sc => 3

/-- The inverse of the table, `none` for a code it does not hold. -/
def RdQ.ofCode (c : BitVec 3) : Option RdQ :=
  match c.toNat with
  | 0 => some .relaxed
  | 2 => some .rel
  | 3 => some .sc
  | _ => none

/-- The atomic operations: op - 16 for VATOM, op - 32 for VRED (R70). -/
def AtomOp.code : AtomOp → BitVec 4
  | .addI32 => 0
  | .addF32 => 1
  | .addI64 => 2
  | .addF16x2 => 3
  | .addBf16x2 => 4
  | .minS32 => 5
  | .minN32 => 6
  | .maxS32 => 7
  | .maxN32 => 8
  | .minF32 => 9
  | .maxF32 => 10
  | .andB32 => 11
  | .orB32 => 12
  | .xorB32 => 13
  | .exchB32 => 14
  | .casB32 => 15

/-- The inverse of the table, `none` for a code it does not hold. -/
def AtomOp.ofCode (c : BitVec 4) : Option AtomOp :=
  match c.toNat with
  | 0 => some .addI32
  | 1 => some .addF32
  | 2 => some .addI64
  | 3 => some .addF16x2
  | 4 => some .addBf16x2
  | 5 => some .minS32
  | 6 => some .minN32
  | 7 => some .maxS32
  | 8 => some .maxN32
  | 9 => some .minF32
  | 10 => some .maxF32
  | 11 => some .andB32
  | 12 => some .orB32
  | 13 => some .xorB32
  | 14 => some .exchB32
  | 15 => some .casB32
  | _ => none

/-- The scope codes (R62, R72). -/
def Scope.code : Scope → BitVec 3
  | .wv => 0
  | .blk => 1
  | .dt => 2
  | .dev => 3
  | .sys => 4

/-- The inverse of the table, `none` for a code it does not hold. -/
def Scope.ofCode (c : BitVec 3) : Option Scope :=
  match c.toNat with
  | 0 => some .wv
  | 1 => some .blk
  | 2 => some .dt
  | 3 => some .dev
  | 4 => some .sys
  | _ => none

/-- The shape codes (R73). -/
def Shape.code : Shape → BitVec 4
  | .s1x4 => 0
  | .s2x2 => 1
  | .s4x1 => 2
  | .ind => 3
  | .d1x8 => 4
  | .d2x4 => 5
  | .d4x2 => 6
  | .d8x1 => 7

/-- The inverse of the table, `none` for a code it does not hold. -/
def Shape.ofCode (c : BitVec 4) : Option Shape :=
  match c.toNat with
  | 0 => some .s1x4
  | 1 => some .s2x2
  | 2 => some .s4x1
  | 3 => some .ind
  | 4 => some .d1x8
  | 5 => some .d2x4
  | 6 => some .d4x2
  | 7 => some .d8x1
  | _ => none

/-- The fb codes of MSTACC and MLDACC (R74). -/
def AccFmt.code : AccFmt → BitVec 5
  | .f32 => 0
  | .bf16 => 1
  | .f16 => 2

/-- The inverse of the table, `none` for a code it does not hold. -/
def AccFmt.ofCode (c : BitVec 5) : Option AccFmt :=
  match c.toNat with
  | 0 => some .f32
  | 1 => some .bf16
  | 2 => some .f16
  | _ => none

/-! ## Layouts -/

/-- A one-bit field. -/
def bit (b : Bool) : BitVec 1 := BitVec.ofBool b

/-- Layout V of classes 0 and 1 (R65). -/
def layV (m : Bool) (cls : BitVec 3) (op : BitVec 4) (ty : BitVec 2) (d a : VReg) (b : Code) : Word :=
  bit m ++ cls ++ op ++ ty ++ d ++ a ++ b

/-- Layout M of class 2, and the V-like layout of VIDIV (R66, R77). -/
def layM (m : Bool) (cls : BitVec 3) (op : BitVec 6) (d a : BitVec 7) (b : Code) : Word :=
  bit m ++ cls ++ op ++ d ++ a ++ b

/-- Layout VM of class 3 (R69). -/
def layVM (m : Bool) (op : BitVec 6) (t a : BitVec 7) (b : BitVec 5) (q : BitVec 3) : Word :=
  bit m ++ (3 : BitVec 3) ++ op ++ t ++ a ++ b ++ q

/-- Layout S of class 4 (R71). -/
def layS (m : Bool) (op : BitVec 6) (d a : BitVec 6) (i : BitVec 1) (b : BitVec 9) : Word :=
  bit m ++ (4 : BitVec 3) ++ op ++ d ++ a ++ i ++ b

/-- Class 5 (R72). -/
def layC (m : Bool) (op : BitVec 5) (x : BitVec 23) : Word :=
  bit m ++ (5 : BitVec 3) ++ op ++ x

/-- Layout E1 of class 6, and class 7 with its fields at the places of E1 (R73, R75). -/
def layE1 (m : Bool) (cls : BitVec 3) (op : BitVec 6) (d a b : BitVec 6) (f : BitVec 4) : Word :=
  bit m ++ cls ++ op ++ d ++ a ++ b ++ f

/-- Layout E2 of class 6 (R73). -/
def layE2 (m : Bool) (op : BitVec 6) (sh : BitVec 4) (acc : BitVec 3) (a b f : BitVec 5) : Word :=
  bit m ++ (6 : BitVec 3) ++ op ++ sh ++ acc ++ a ++ b ++ f

/-- A hint or an emulation word: class 7 with 22 payload bits (R59, R62, R76). -/
def layH (m : Bool) (op : BitVec 6) (x : BitVec 22) : Word :=
  bit m ++ (7 : BitVec 3) ++ op ++ x

/-- The i bit of an operand b (R71). -/
def SOp.i : SOp → BitVec 1
  | .reg _ => 0
  | .imm _ => 1

/-- The low nine bits of an operand b (R71). -/
def SOp.bits : SOp → BitVec 9
  | .reg r => (0 : BitVec 3) ++ r
  | .imm v => v

/-! ## The encoder -/

/-- The word of an instruction (R65 to R77); 0 for what no word encodes. -/
def encode : Instr → Word
  | .vadd m ty d a b => layV m 0 0 ty.code d a b
  | .vsub m ty d a b => layV m 0 1 ty.code d a b
  | .vmul m ty d a b => layV m 0 2 ty.code d a b
  | .vfma m ty d a b => layV m 0 3 ty.code d a b
  | .vfnma m ty d a b => layV m 0 4 ty.code d a b
  | .vmin m ty d a b => layV m 0 5 ty.code d a b
  | .vmax m ty d a b => layV m 0 6 ty.code d a b
  | .vcpsgn m ty d a b => layV m 0 7 ty.code d a b
  | .vscale m ty d a b => layV m 0 8 ty.code d a b
  | .vabsd m ty d a b => layV m 0 9 ty.code d a b
  | .viadd m ty d a b => layV m 1 0 ty.code d a b
  | .visub m ty d a b => layV m 1 1 ty.code d a b
  | .vimul m ty d a b => layV m 1 2 ty.code d a b
  | .vimad m ty d a b => layV m 1 3 ty.code d a b
  | .vimulhs m ty d a b => layV m 1 4 ty.code d a b
  | .vimulhn m ty d a b => layV m 1 5 ty.code d a b
  | .vimins m ty d a b => layV m 1 6 ty.code d a b
  | .viminn m ty d a b => layV m 1 7 ty.code d a b
  | .vimaxs m ty d a b => layV m 1 8 ty.code d a b
  | .vimaxn m ty d a b => layV m 1 9 ty.code d a b
  | .viaddss m ty d a b => layV m 1 10 ty.code d a b
  | .viaddsn m ty d a b => layV m 1 11 ty.code d a b
  | .vshl m ty d a b => layV m 1 12 ty.code d a b
  | .vshr m ty d a b => layV m 1 13 ty.code d a b
  | .vsra m ty d a b => layV m 1 14 ty.code d a b
  | .visubss m ty d a b => layV m 1 15 ty.code d a b
  | .vand m d a b => layM m 2 0 d a b
  | .vor m d a b => layM m 2 1 d a b
  | .vxor m d a b => layM m 2 2 d a b
  | .vandn m d a b => layM m 2 3 d a b
  | .vbfes m d a b => layM m 2 4 d a b
  | .vbfen m d a b => layM m 2 5 d a b
  | .vbfi m d a b => layM m 2 6 d a b
  | .vpopc m d b => layM m 2 7 d 0 b
  | .vclz m d b => layM m 2 8 d 0 b
  | .vpermb m d a b => layM m 2 9 d a b
  | .vmov m d b => layM m 2 10 d 0 b
  | .vsel m d a b => layM m 2 11 d a b
  | .vcvt m d a p rnd sel => layM m 2 12 d a (p.code ++ rnd ++ sel)
  | .vqnt m d a f sat slot => layM m 2 13 d a (f.code ++ bit sat ++ slot)
  | .vdq m d a f slot => layM m 2 14 d a (f.code ++ (0 : BitVec 1) ++ slot)
  | .vbscale m d a f => layM m 2 15 d a (f.code ++ (0 : BitVec 4))
  | .vrcp m d b => layM m 2 16 d 0 b
  | .vrsq m d b => layM m 2 17 d 0 b
  | .vsqrt m d b => layM m 2 18 d 0 b
  | .vex2 m d b => layM m 2 19 d 0 b
  | .vlg2 m d b => layM m 2 20 d 0 b
  | .vsin m d b => layM m 2 21 d 0 b
  | .vcos m d b => layM m 2 22 d 0 b
  | .vtanh m d b => layM m 2 23 d 0 b
  | .vlane m d => layM m 2 24 d 0 0
  | .vshfl m d a b => layM m 2 25 d a b
  | .vbcast m d a b => layM m 2 26 d a b
  | .vscan m d op b => layM m 2 27 d op.code b
  | .vreds m d op b => layM m 2 28 ((0 : BitVec 1) ++ d) op.code b
  | .vrdl m d a b => layM m 2 29 ((0 : BitVec 1) ++ d) a b
  | .vwrl m d lane b => layM m 2 30 d lane b
  | .vrdi m d n => layM m 2 31 d 0 ((2 : BitVec 2) ++ n)
  | .vwri m n a => layM m 2 32 0 a ((2 : BitVec 2) ++ n)
  | .vcmpEqF64 m k a b => layM m 2 33 ((0 : BitVec 2) ++ k) a b
  | .vcmpNeF64 m k a b => layM m 2 34 ((0 : BitVec 2) ++ k) a b
  | .vcmpLtF64 m k a b => layM m 2 35 ((0 : BitVec 2) ++ k) a b
  | .vcmpLeF64 m k a b => layM m 2 36 ((0 : BitVec 2) ++ k) a b
  | .vcmpGtF64 m k a b => layM m 2 37 ((0 : BitVec 2) ++ k) a b
  | .vcmpGeF64 m k a b => layM m 2 38 ((0 : BitVec 2) ++ k) a b
  | .vclassF32 m k a b => layM m 2 39 ((0 : BitVec 2) ++ k) a b
  | .vcmpF32 m c k a b => layM m 2 ((5 : BitVec 3) ++ c.code) ((0 : BitVec 2) ++ k) a b
  | .vcmpS32 m c k a b => layM m 2 ((6 : BitVec 3) ++ c.code) ((0 : BitVec 2) ++ k) a b
  | .vcmpN32 m c k a b => layM m 2 ((7 : BitVec 3) ++ c.code) ((0 : BitVec 2) ++ k) a b
  | .vldB32 m t a b q => layVM m 0 t a b q.code
  | .vldB64 m t a b q => layVM m 1 t a b q.code
  | .vldB128 m t a b q => layVM m 2 t a b q.code
  | .vldS8 m t a b q => layVM m 3 t a b q.code
  | .vldN8 m t a b q => layVM m 4 t a b q.code
  | .vldS16 m t a b q => layVM m 5 t a b q.code
  | .vldN16 m t a b q => layVM m 6 t a b q.code
  | .vstB32 m t a b q => layVM m 8 t a b q.code
  | .vstB64 m t a b q => layVM m 9 t a b q.code
  | .vstB128 m t a b q => layVM m 10 t a b q.code
  | .vstB8 m t a b q => layVM m 11 t a b q.code
  | .vstB16 m t a b q => layVM m 12 t a b q.code
  | .vpref m l2 a b => layVM m 13 ((0 : BitVec 6) ++ bit l2) a b 0
  | .fget m t a b acq => layVM m 14 t a b ((0 : BitVec 1) ++ bit acq ++ (0 : BitVec 1))
  | .fput m t a b rel => layVM m 15 t a b (bit rel ++ (0 : BitVec 2))
  | .vatom m op t a b q => layVM m ((1 : BitVec 2) ++ op.code) t a b q.code
  | .vred m op t a b q => layVM m ((2 : BitVec 2) ++ op.code) t a b q.code
  | .sadd m d a b => layS m 0 d a b.i b.bits
  | .ssub m d a b => layS m 1 d a b.i b.bits
  | .smul m d a b => layS m 2 d a b.i b.bits
  | .smulhs m d a b => layS m 3 d a b.i b.bits
  | .smulhn m d a b => layS m 4 d a b.i b.bits
  | .sand m d a b => layS m 5 d a b.i b.bits
  | .sor m d a b => layS m 6 d a b.i b.bits
  | .sxor m d a b => layS m 7 d a b.i b.bits
  | .sandn m d a b => layS m 8 d a b.i b.bits
  | .sshl m d a b => layS m 9 d a b.i b.bits
  | .sshr m d a b => layS m 10 d a b.i b.bits
  | .ssra m d a b => layS m 11 d a b.i b.bits
  | .smins m d a b => layS m 12 d a b.i b.bits
  | .sminn m d a b => layS m 13 d a b.i b.bits
  | .smaxs m d a b => layS m 14 d a b.i b.bits
  | .smaxn m d a b => layS m 15 d a b.i b.bits
  | .sslt m d a b => layS m 16 d a b.i b.bits
  | .ssltn m d a b => layS m 17 d a b.i b.bits
  | .sseq m d a b => layS m 18 d a b.i b.bits
  | .ssne m d a b => layS m 19 d a b.i b.bits
  | .ssle m d a b => layS m 20 d a b.i b.bits
  | .sslen m d a b => layS m 21 d a b.i b.bits
  | .smov m d b => layS m 22 d 0 b.i b.bits
  | .scmov m d a b => layS m 23 d a b.i b.bits
  | .sadd64 m d a b => layS m 24 d a b.i b.bits
  | .ssub64 m d a b => layS m 25 d a b.i b.bits
  | .sshl64 m d a b => layS m 26 d a b.i b.bits
  | .sshr64 m d a b => layS m 27 d a b.i b.bits
  | .spopc m d a => layS m 28 d a 0 0
  | .sclz m d a => layS m 29 d a 0 0
  | .sbfen m d a b => layS m 30 d a b.i b.bits
  | .smulw m d a b => layS m 31 d a b.i b.bits
  | .kand m d a b => layS m 32 ((0 : BitVec 1) ++ d) ((0 : BitVec 1) ++ a) 0 ((0 : BitVec 4) ++ b)
  | .kor m d a b => layS m 33 ((0 : BitVec 1) ++ d) ((0 : BitVec 1) ++ a) 0 ((0 : BitVec 4) ++ b)
  | .kxor m d a b => layS m 34 ((0 : BitVec 1) ++ d) ((0 : BitVec 1) ++ a) 0 ((0 : BitVec 4) ++ b)
  | .kandn m d a b => layS m 35 ((0 : BitVec 1) ++ d) ((0 : BitVec 1) ++ a) 0 ((0 : BitVec 4) ++ b)
  | .kmov m d b => layS m 36 ((0 : BitVec 1) ++ d) 0 b.i b.bits
  | .kpopc m d a => layS m 37 d ((0 : BitVec 1) ++ a) 0 0
  | .kffs m d a => layS m 38 d ((0 : BitVec 1) ++ a) 0 0
  | .klane m d a b => layS m 39 ((0 : BitVec 1) ++ d) a b.i b.bits
  | .sldB32 m d a b => layS m 40 d a b.i b.bits
  | .sldB64 m d a b => layS m 41 d a b.i b.bits
  | .sldB128 m d a b => layS m 42 d a b.i b.bits
  | .sstB32 m d a b => layS m 43 d a b.i b.bits
  | .sstB64 m d a b => layS m 44 d a b.i b.bits
  | .satomAdd m d a b => layS m 45 d a 0 ((0 : BitVec 3) ++ b)
  | .satomCas m d a b => layS m 46 d a 0 ((0 : BitVec 3) ++ b)
  | .satomExch m d a b => layS m 47 d a 0 ((0 : BitVec 3) ++ b)
  | .sget m d x => layS m 48 d 0 1 x
  | .sset m a x => layS m 49 0 a 1 x
  | .br m off => layC m 0 (off)
  | .brany m k off => layC m 1 (k ++ off)
  | .brall m k off => layC m 2 (k ++ off)
  | .brnone m k off => layC m 3 (k ++ off)
  | .brnz m r off => layC m 4 (r ++ off)
  | .brz m r off => layC m 5 (r ++ off)
  | .call m r off => layC m 6 (r ++ off)
  | .jmpr m p => layC m 7 (p ++ (0 : BitVec 17))
  | .split m k offA offC => layC m 8 (k ++ offA ++ offC)
  | .ends m => layC m 9 (0)
  | .pub m v vcnt r scnt => layC m 10 (v ++ vcnt ++ r ++ scnt ++ (0 : BitVec 1))
  | .join m d a b => layC m 11 (d ++ a ++ b ++ (0 : BitVec 2))
  | .joins m d a armF => layC m 12 (d ++ a ++ bit armF ++ (0 : BitVec 10))
  | .joinm m => layC m 13 (0)
  | .barW m id => layC m 14 ((0 : BitVec 2) ++ id ++ (0 : BitVec 16))
  | .barA m id d => layC m 14 ((1 : BitVec 2) ++ id ++ d ++ (0 : BitVec 10))
  | .barD m id => layC m 14 ((2 : BitVec 2) ++ id ++ (0 : BitVec 16))
  | .barJ m id => layC m 14 ((3 : BitVec 2) ++ id ++ (0 : BitVec 16))
  | .barwp m id r => layC m 15 ((0 : BitVec 2) ++ id ++ r ++ (0 : BitVec 10))
  | .fence m sc => layC m 16 (sc.code ++ (0 : BitVec 20))
  | .qfence m mask => layC m 17 (mask ++ (0 : BitVec 15))
  | .twait m r => layC m 18 (r ++ (0 : BitVec 17))
  | .mwait m r => layC m 19 (r ++ (0 : BitVec 17))
  | .rpoll m r => layC m 20 (r ++ (0 : BitVec 17))
  | .vgive m n => layC m 21 (n ++ (0 : BitVec 19))
  | .vclaim m n => layC m 22 (n ++ (0 : BitVec 19))
  | .exit m => layC m 23 (0)
  | .trap m code => layC m 24 (code ++ (0 : BitVec 15))
  | .tret m => layC m 25 (0)
  | .nop m => layC m 26 (0)
  | .acopy m d a b q => layE1 m 6 0 d a b ((0 : BitVec 2) ++ q)
  | .gath m d a => layE1 m 6 1 d a 0 0
  | .scat m d a => layE1 m 6 2 d a 0 0
  | .mma m sh acc a b f => layE2 m 3 sh.code acc a b ((0 : BitVec 2) ++ f)
  | .mmasp m sh acc a b f => layE2 m 4 sh.code acc a b ((0 : BitVec 2) ++ f)
  | .mzacc m sh acc => layE2 m 5 sh.code acc 0 0 0
  | .mstacc m sh acc a b fmt => layE2 m 6 sh.code acc a b fmt.code
  | .mldacc m sh acc a b fmt => layE2 m 7 sh.code acc a b fmt.code
  | .mfence m d => layE1 m 6 8 d 0 0 0
  | .coll m d a => layE1 m 6 9 d a 0 0
  | .tenq m a b => layM m 6 10 0 a b
  | .tgaina m a b => layM m 6 11 0 a b
  | .tgainm m a b => layM m 6 12 0 a b
  | .tgains m a b => layM m 6 13 0 a b
  | .tdone m a => layM m 6 14 0 a 0
  | .tjset m a b => layM m 6 15 0 a b
  | .hres m d heap => layE1 m 6 16 d heap 0 0
  | .ringp m d a ring => layE1 m 6 17 d a 0 ((0 : BitVec 2) ++ ring)
  | .ringc m d a ring => layE1 m 6 18 d a 0 ((0 : BitVec 2) ++ ring)
  | .ringq m d ring => layE1 m 6 19 d 0 0 ((0 : BitVec 2) ++ ring)
  | .smap m d a zero => layE1 m 6 20 d a 0 ((0 : BitVec 3) ++ bit zero)
  | .sunmap m d a wb => layE1 m 6 21 d a 0 ((0 : BitVec 3) ++ bit wb)
  | .cdrop m d a b => layE1 m 6 22 d a b 0
  | .cqry m d a => layE1 m 6 23 d a 0 0
  | .l2pin m ways a b slot => layE1 m 6 24 ways a b ((0 : BitVec 1) ++ slot)
  | .l2unpin m slot => layE1 m 6 25 0 0 0 ((0 : BitVec 1) ++ slot)
  | .cinv m d a b => layE1 m 6 26 d a b 0
  | .cinvI m d a b => layE1 m 6 26 d a b 1
  | .cwb m d a b => layE1 m 6 27 d a b 0
  | .xmod k z rnd v4 v4ok aux => layH false 0 (k ++ bit z ++ rnd ++ v4 ++ bit v4ok ++ aux)
  | .limm p => layH false 1 p
  | .limmh h => layH false 2 ((0 : BitVec 6) ++ h)
  | .limml h => layH false 3 ((0 : BitVec 6) ++ h)
  | .limmf p => layH false 4 p
  | .sched m lvl => layH m 5 ((0 : BitVec 19) ++ lvl)
  | .sysld m d a => layE1 m 7 8 d a 0 0
  | .sysst m d a => layE1 m 7 9 d a 0 0
  | .tlbinv m a => layE1 m 7 10 0 a 0 0
  | .cntrd m d meter => layE1 m 7 11 d 0 0 meter
  | .trace m a => layE1 m 7 12 0 a 0 0
  | .brkpt m => layE1 m 7 13 0 0 0 0
  | .waiti m => layE1 m 7 14 0 0 0 0
  | .metsnap m t => layE1 m 7 15 t 0 0 0
  | .vidivS32 m d a b => layM m 7 48 d a b
  | .emulation m op x => layH m ((3 : BitVec 2) ++ op) x
  | .strandWake .. | .resultWrite .. | .strandCapped .. | .ssqEntryRelease .. | .pageWalk .. | .fetchFill ..
  | .takeTrap .. | .contextEnd .. | .waveEnd .. | .acopyComplete .. | .gathScatComplete .. | .sunmapComplete ..
  | .cdropComplete .. | .cinvCwbComplete .. | .collComplete .. | .metsnapComplete .. | .matrixOpComplete ..
  | .batchComplete .. | .heapOpPerform .. | .tdoneParentUpdate .. | .turnstilePop .. | .heapRunEnd .. | .notify ..
  | .registerWrite .. | .packetAccept .. | .packetStart .. | .grid .. | .heapConfigure .. | .heapRun .. | .heapRelease ..
  | .marker .. | .packetComplete .. | .ticketDispatch .. | .roleToLoader .. | .roleToCompute .. | .sliceEnd ..
  | .contextSwitch .. | .schedulingPass .. | .partitionReconfigure .. | .settrap | .setroot | .group | .schedp | .assign
  | .resetvi | .extdone | .imggo | .powerOn | .hostWrite .. | .hostRead .. | .extentAdd .. | .extentRelease ..
  | .gracePeriodEnd .. | .refreshInterval .. | .activationAlert .. | .linkUp .. | .linkFailure .. | .powerOverrun
  | .overTemperature .. | .setjob .. | .getsnap .. | .getmemb .. | .setbin .. | .getbins .. | .settrace .. | .stop ..
  | .resume .. | .dump .. | .remoteAccess .. | .laneCycleRecord .. | .dumpKey .. => 0
  | .illegalWord w => w

/-! ## The decoder: the fields of each class -/

/-- Class 0 by op (R65). -/
def parse0 (m : Bool) (op : BitVec 4) (ty : FTy) (d a : VReg) (b : Code) : Option Instr :=
  match op.toNat with
  | 0 => some (.vadd m ty d a b)
  | 1 => some (.vsub m ty d a b)
  | 2 => some (.vmul m ty d a b)
  | 3 => some (.vfma m ty d a b)
  | 4 => some (.vfnma m ty d a b)
  | 5 => some (.vmin m ty d a b)
  | 6 => some (.vmax m ty d a b)
  | 7 => some (.vcpsgn m ty d a b)
  | 8 => some (.vscale m ty d a b)
  | 9 => some (.vabsd m ty d a b)
  | _ => none

/-- Class 1 by op (R65). -/
def parse1 (m : Bool) (op : BitVec 4) (ty : ITy) (d a : VReg) (b : Code) : Option Instr :=
  match op.toNat with
  | 0 => some (.viadd m ty d a b)
  | 1 => some (.visub m ty d a b)
  | 2 => some (.vimul m ty d a b)
  | 3 => some (.vimad m ty d a b)
  | 4 => some (.vimulhs m ty d a b)
  | 5 => some (.vimulhn m ty d a b)
  | 6 => some (.vimins m ty d a b)
  | 7 => some (.viminn m ty d a b)
  | 8 => some (.vimaxs m ty d a b)
  | 9 => some (.vimaxn m ty d a b)
  | 10 => some (.viaddss m ty d a b)
  | 11 => some (.viaddsn m ty d a b)
  | 12 => some (.vshl m ty d a b)
  | 13 => some (.vshr m ty d a b)
  | 14 => some (.vsra m ty d a b)
  | 15 => some (.visubss m ty d a b)
  | _ => none

/-- Class 2 by op (R66). -/
def parse2 (m : Bool) (op : BitVec 6) (d a : BitVec 7) (b : Code) : Option Instr :=
  match op.toNat with
  | 0 => some (.vand m d a b)
  | 1 => some (.vor m d a b)
  | 2 => some (.vxor m d a b)
  | 3 => some (.vandn m d a b)
  | 4 => some (.vbfes m d a b)
  | 5 => some (.vbfen m d a b)
  | 6 => some (.vbfi m d a b)
  | 7 => some (.vpopc m d b)
  | 8 => some (.vclz m d b)
  | 9 => some (.vpermb m d a b)
  | 10 => some (.vmov m d b)
  | 11 => some (.vsel m d a b)
  | 12 => (CvtPair.ofCode (b.extractLsb' 4 4)).map fun p => .vcvt m d a p (b.extractLsb' 2 2) (b.extractLsb' 0 2)
  | 13 => (NFmt.ofCode (b.extractLsb' 4 4)).map fun f => .vqnt m d a f (b.getLsbD 3) (b.extractLsb' 0 3)
  | 14 => (NFmt.ofCode (b.extractLsb' 4 4)).map fun f => .vdq m d a f (b.extractLsb' 0 3)
  | 15 => (NFmt.ofCode (b.extractLsb' 4 4)).map fun f => .vbscale m d a f
  | 16 => some (.vrcp m d b)
  | 17 => some (.vrsq m d b)
  | 18 => some (.vsqrt m d b)
  | 19 => some (.vex2 m d b)
  | 20 => some (.vlg2 m d b)
  | 21 => some (.vsin m d b)
  | 22 => some (.vcos m d b)
  | 23 => some (.vtanh m d b)
  | 24 => some (.vlane m d)
  | 25 => some (.vshfl m d a b)
  | 26 => some (.vbcast m d a b)
  | 27 => (RedOp.ofCode a).map fun op => .vscan m d op b
  | 28 => (RedOp.ofCode a).map fun op => .vreds m (d.extractLsb' 0 6) op b
  | 29 => some (.vrdl m (d.extractLsb' 0 6) a b)
  | 30 => some (.vwrl m d a b)
  | 31 => some (.vrdi m d (b.extractLsb' 0 6))
  | 32 => some (.vwri m (b.extractLsb' 0 6) a)
  | 33 => some (.vcmpEqF64 m (d.extractLsb' 0 5) a b)
  | 34 => some (.vcmpNeF64 m (d.extractLsb' 0 5) a b)
  | 35 => some (.vcmpLtF64 m (d.extractLsb' 0 5) a b)
  | 36 => some (.vcmpLeF64 m (d.extractLsb' 0 5) a b)
  | 37 => some (.vcmpGtF64 m (d.extractLsb' 0 5) a b)
  | 38 => some (.vcmpGeF64 m (d.extractLsb' 0 5) a b)
  | 39 => some (.vclassF32 m (d.extractLsb' 0 5) a b)
  | 40 => (FCond.ofCode 0).map fun c => .vcmpF32 m c (d.extractLsb' 0 5) a b
  | 41 => (FCond.ofCode 1).map fun c => .vcmpF32 m c (d.extractLsb' 0 5) a b
  | 42 => (FCond.ofCode 2).map fun c => .vcmpF32 m c (d.extractLsb' 0 5) a b
  | 43 => (FCond.ofCode 3).map fun c => .vcmpF32 m c (d.extractLsb' 0 5) a b
  | 44 => (FCond.ofCode 4).map fun c => .vcmpF32 m c (d.extractLsb' 0 5) a b
  | 45 => (FCond.ofCode 5).map fun c => .vcmpF32 m c (d.extractLsb' 0 5) a b
  | 46 => (FCond.ofCode 6).map fun c => .vcmpF32 m c (d.extractLsb' 0 5) a b
  | 47 => (FCond.ofCode 7).map fun c => .vcmpF32 m c (d.extractLsb' 0 5) a b
  | 48 => (Cond.ofCode 0).map fun c => .vcmpS32 m c (d.extractLsb' 0 5) a b
  | 49 => (Cond.ofCode 1).map fun c => .vcmpS32 m c (d.extractLsb' 0 5) a b
  | 50 => (Cond.ofCode 2).map fun c => .vcmpS32 m c (d.extractLsb' 0 5) a b
  | 51 => (Cond.ofCode 3).map fun c => .vcmpS32 m c (d.extractLsb' 0 5) a b
  | 52 => (Cond.ofCode 4).map fun c => .vcmpS32 m c (d.extractLsb' 0 5) a b
  | 53 => (Cond.ofCode 5).map fun c => .vcmpS32 m c (d.extractLsb' 0 5) a b
  | 54 => (Cond.ofCode 6).map fun c => .vcmpS32 m c (d.extractLsb' 0 5) a b
  | 55 => (Cond.ofCode 7).map fun c => .vcmpS32 m c (d.extractLsb' 0 5) a b
  | 56 => (Cond.ofCode 0).map fun c => .vcmpN32 m c (d.extractLsb' 0 5) a b
  | 57 => (Cond.ofCode 1).map fun c => .vcmpN32 m c (d.extractLsb' 0 5) a b
  | 58 => (Cond.ofCode 2).map fun c => .vcmpN32 m c (d.extractLsb' 0 5) a b
  | 59 => (Cond.ofCode 3).map fun c => .vcmpN32 m c (d.extractLsb' 0 5) a b
  | 60 => (Cond.ofCode 4).map fun c => .vcmpN32 m c (d.extractLsb' 0 5) a b
  | 61 => (Cond.ofCode 5).map fun c => .vcmpN32 m c (d.extractLsb' 0 5) a b
  | 62 => (Cond.ofCode 6).map fun c => .vcmpN32 m c (d.extractLsb' 0 5) a b
  | 63 => (Cond.ofCode 7).map fun c => .vcmpN32 m c (d.extractLsb' 0 5) a b
  | _ => none

/-- Class 3 by op (R70). -/
def parse3 (m : Bool) (op : BitVec 6) (t a : BitVec 7) (b : BitVec 5) (q : BitVec 3) : Option Instr :=
  match op.toNat with
  | 0 => (LdQ.ofCode q).map fun q => .vldB32 m t a b q
  | 1 => (LdQ.ofCode q).map fun q => .vldB64 m t a b q
  | 2 => (LdQ.ofCode q).map fun q => .vldB128 m t a b q
  | 3 => (LdQ.ofCode q).map fun q => .vldS8 m t a b q
  | 4 => (LdQ.ofCode q).map fun q => .vldN8 m t a b q
  | 5 => (LdQ.ofCode q).map fun q => .vldS16 m t a b q
  | 6 => (LdQ.ofCode q).map fun q => .vldN16 m t a b q
  | 8 => (StQ.ofCode q).map fun q => .vstB32 m t a b q
  | 9 => (StQ.ofCode q).map fun q => .vstB64 m t a b q
  | 10 => (StQ.ofCode q).map fun q => .vstB128 m t a b q
  | 11 => (StQ.ofCode q).map fun q => .vstB8 m t a b q
  | 12 => (StQ.ofCode q).map fun q => .vstB16 m t a b q
  | 13 => some (.vpref m (t.getLsbD 0) a b)
  | 14 => some (.fget m t a b (q.getLsbD 1))
  | 15 => some (.fput m t a b (q.getLsbD 2))
  | n =>
    if 16 ≤ n && n < 32 then
      (AtomOp.ofCode (op.extractLsb' 0 4)).bind fun o => (AtQ.ofCode q).map fun q => .vatom m o t a b q
    else if 32 ≤ n && n < 48 then
      (AtomOp.ofCode (op.extractLsb' 0 4)).bind fun o => (RdQ.ofCode q).map fun q => .vred m o t a b q
    else none

/-- The operand b of a class 4 word (R71). -/
def parseB (i : Bool) (x : BitVec 9) : SOp :=
  if i then .imm x else .reg (x.extractLsb' 0 6)

/-- Class 4 by op (R71). -/
def parse4 (m : Bool) (op d a : BitVec 6) (b : SOp) (x : BitVec 9) : Option Instr :=
  match op.toNat with
  | 0 => some (.sadd m d a b)
  | 1 => some (.ssub m d a b)
  | 2 => some (.smul m d a b)
  | 3 => some (.smulhs m d a b)
  | 4 => some (.smulhn m d a b)
  | 5 => some (.sand m d a b)
  | 6 => some (.sor m d a b)
  | 7 => some (.sxor m d a b)
  | 8 => some (.sandn m d a b)
  | 9 => some (.sshl m d a b)
  | 10 => some (.sshr m d a b)
  | 11 => some (.ssra m d a b)
  | 12 => some (.smins m d a b)
  | 13 => some (.sminn m d a b)
  | 14 => some (.smaxs m d a b)
  | 15 => some (.smaxn m d a b)
  | 16 => some (.sslt m d a b)
  | 17 => some (.ssltn m d a b)
  | 18 => some (.sseq m d a b)
  | 19 => some (.ssne m d a b)
  | 20 => some (.ssle m d a b)
  | 21 => some (.sslen m d a b)
  | 22 => some (.smov m d b)
  | 23 => some (.scmov m d a b)
  | 24 => some (.sadd64 m d a b)
  | 25 => some (.ssub64 m d a b)
  | 26 => some (.sshl64 m d a b)
  | 27 => some (.sshr64 m d a b)
  | 28 => some (.spopc m d a)
  | 29 => some (.sclz m d a)
  | 30 => some (.sbfen m d a b)
  | 31 => some (.smulw m d a b)
  | 32 => some (.kand m (d.extractLsb' 0 5) (a.extractLsb' 0 5) (x.extractLsb' 0 5))
  | 33 => some (.kor m (d.extractLsb' 0 5) (a.extractLsb' 0 5) (x.extractLsb' 0 5))
  | 34 => some (.kxor m (d.extractLsb' 0 5) (a.extractLsb' 0 5) (x.extractLsb' 0 5))
  | 35 => some (.kandn m (d.extractLsb' 0 5) (a.extractLsb' 0 5) (x.extractLsb' 0 5))
  | 36 => some (.kmov m (d.extractLsb' 0 5) b)
  | 37 => some (.kpopc m d (a.extractLsb' 0 5))
  | 38 => some (.kffs m d (a.extractLsb' 0 5))
  | 39 => some (.klane m (d.extractLsb' 0 5) a b)
  | 40 => some (.sldB32 m d a b)
  | 41 => some (.sldB64 m d a b)
  | 42 => some (.sldB128 m d a b)
  | 43 => some (.sstB32 m d a b)
  | 44 => some (.sstB64 m d a b)
  | 45 => some (.satomAdd m d a (x.extractLsb' 0 6))
  | 46 => some (.satomCas m d a (x.extractLsb' 0 6))
  | 47 => some (.satomExch m d a (x.extractLsb' 0 6))
  | 48 => some (.sget m d x)
  | 49 => some (.sset m a x)
  | _ => none

/-- BAR by its kind field (R72). -/
def parseBar (m : Bool) (kind : BitVec 2) (id : BitVec 5) (d : BitVec 6) : Option Instr :=
  match kind.toNat with
  | 0 => some (.barW m id)
  | 1 => some (.barA m id d)
  | 2 => some (.barD m id)
  | 3 => some (.barJ m id)
  | _ => none

/-- Class 5 by op (R72). -/
def parse5 (m : Bool) (op : BitVec 5) (x : BitVec 23) : Option Instr :=
  match op.toNat with
  | 0 => some (.br m x)
  | 1 => some (.brany m (x.extractLsb' 18 5) (x.extractLsb' 0 18))
  | 2 => some (.brall m (x.extractLsb' 18 5) (x.extractLsb' 0 18))
  | 3 => some (.brnone m (x.extractLsb' 18 5) (x.extractLsb' 0 18))
  | 4 => some (.brnz m (x.extractLsb' 17 6) (x.extractLsb' 0 17))
  | 5 => some (.brz m (x.extractLsb' 17 6) (x.extractLsb' 0 17))
  | 6 => some (.call m (x.extractLsb' 17 6) (x.extractLsb' 0 17))
  | 7 => some (.jmpr m (x.extractLsb' 17 6))
  | 8 => some (.split m (x.extractLsb' 18 5) (x.extractLsb' 9 9) (x.extractLsb' 0 9))
  | 9 => some (.ends m)
  | 10 => some (.pub m (x.extractLsb' 16 7) (x.extractLsb' 11 5) (x.extractLsb' 5 6) (x.extractLsb' 1 4))
  | 11 => some (.join m (x.extractLsb' 16 7) (x.extractLsb' 9 7) (x.extractLsb' 2 7))
  | 12 => some (.joins m (x.extractLsb' 17 6) (x.extractLsb' 11 6) (x.getLsbD 10))
  | 13 => some (.joinm m)
  | 14 => parseBar m (x.extractLsb' 21 2) (x.extractLsb' 16 5) (x.extractLsb' 10 6)
  | 15 => some (.barwp m (x.extractLsb' 16 5) (x.extractLsb' 10 6))
  | 16 => (Scope.ofCode (x.extractLsb' 20 3)).map fun sc => .fence m sc
  | 17 => some (.qfence m (x.extractLsb' 15 8))
  | 18 => some (.twait m (x.extractLsb' 17 6))
  | 19 => some (.mwait m (x.extractLsb' 17 6))
  | 20 => some (.rpoll m (x.extractLsb' 17 6))
  | 21 => some (.vgive m (x.extractLsb' 19 4))
  | 22 => some (.vclaim m (x.extractLsb' 19 4))
  | 23 => some (.exit m)
  | 24 => some (.trap m (x.extractLsb' 15 8))
  | 25 => some (.tret m)
  | 26 => some (.nop m)
  | _ => none

/-- Class 6 by op: the fields of E1, E2 and E3 (R73, R74). -/
def parse6 (m : Bool) (op d a b : BitVec 6) (f : BitVec 4) (sh : BitVec 4) (acc : BitVec 3) (a5 b5 f5 : BitVec 5)
    (a7 : BitVec 7) (b8 : BitVec 8) : Option Instr :=
  match op.toNat with
  | 0 => some (.acopy m d a b (f.extractLsb' 0 2))
  | 1 => some (.gath m d a)
  | 2 => some (.scat m d a)
  | 3 => (Shape.ofCode sh).map fun sh => .mma m sh acc a5 b5 (f5.extractLsb' 0 3)
  | 4 => (Shape.ofCode sh).map fun sh => .mmasp m sh acc a5 b5 (f5.extractLsb' 0 3)
  | 5 => (Shape.ofCode sh).map fun sh => .mzacc m sh acc
  | 6 => (Shape.ofCode sh).bind fun sh => (AccFmt.ofCode f5).map fun fmt => .mstacc m sh acc a5 b5 fmt
  | 7 => (Shape.ofCode sh).bind fun sh => (AccFmt.ofCode f5).map fun fmt => .mldacc m sh acc a5 b5 fmt
  | 8 => some (.mfence m d)
  | 9 => some (.coll m d a)
  | 10 => some (.tenq m a7 b8)
  | 11 => some (.tgaina m a7 b8)
  | 12 => some (.tgainm m a7 b8)
  | 13 => some (.tgains m a7 b8)
  | 14 => some (.tdone m a7)
  | 15 => some (.tjset m a7 b8)
  | 16 => some (.hres m d a)
  | 17 => some (.ringp m d a (f.extractLsb' 0 2))
  | 18 => some (.ringc m d a (f.extractLsb' 0 2))
  | 19 => some (.ringq m d (f.extractLsb' 0 2))
  | 20 => some (.smap m d a (f.getLsbD 0))
  | 21 => some (.sunmap m d a (f.getLsbD 0))
  | 22 => some (.cdrop m d a b)
  | 23 => some (.cqry m d a)
  | 24 => some (.l2pin m d a b (f.extractLsb' 0 3))
  | 25 => some (.l2unpin m (f.extractLsb' 0 3))
  | 26 => some (if f.getLsbD 0 then .cinvI m d a b else .cinv m d a b)
  | 27 => some (.cwb m d a b)
  | _ => none

/-- Class 7 by op (R75, R76). -/
def parse7 (m : Bool) (op d a : BitVec 6) (f : BitVec 4) (x : BitVec 22) (d7 a7 : BitVec 7) (b8 : BitVec 8) : Option Instr :=
  match op.toNat with
  | 0 => some (.xmod (x.extractLsb' 17 5) (x.getLsbD 16) (x.extractLsb' 13 3) (x.extractLsb' 6 7) (x.getLsbD 5) (x.extractLsb' 0 5))
  | 1 => some (.limm x)
  | 2 => some (.limmh (x.extractLsb' 0 16))
  | 3 => some (.limml (x.extractLsb' 0 16))
  | 4 => some (.limmf x)
  | 5 => some (.sched m (x.extractLsb' 0 3))
  | 8 => some (.sysld m d a)
  | 9 => some (.sysst m d a)
  | 10 => some (.tlbinv m a)
  | 11 => some (.cntrd m d f)
  | 12 => some (.trace m a)
  | 13 => some (.brkpt m)
  | 14 => some (.waiti m)
  | 15 => some (.metsnap m d)
  | 48 => some (.vidivS32 m d7 a7 b8)
  | 49 => some (.emulation m 1 x)
  | 50 => some (.emulation m 2 x)
  | 51 => some (.emulation m 3 x)
  | 52 => some (.emulation m 4 x)
  | 53 => some (.emulation m 5 x)
  | 54 => some (.emulation m 6 x)
  | 55 => some (.emulation m 7 x)
  | 56 => some (.emulation m 8 x)
  | 57 => some (.emulation m 9 x)
  | 58 => some (.emulation m 10 x)
  | 59 => some (.emulation m 11 x)
  | 60 => some (.emulation m 12 x)
  | 61 => some (.emulation m 13 x)
  | 62 => some (.emulation m 14 x)
  | 63 => some (.emulation m 15 x)
  | _ => none

/-- The instruction that the fields of a word name, before the rules of its row. -/
def parse (w : Word) : Option Instr :=
  let m := w.getLsbD 31
  let op4 := w.extractLsb' 24 4
  let op := w.extractLsb' 22 6
  let d7 := w.extractLsb' 15 7
  let a7 := w.extractLsb' 8 7
  let b8 := w.extractLsb' 0 8
  match (w.extractLsb' 28 3).toNat with
  | 0 => (FTy.ofCode (w.extractLsb' 22 2)).bind fun ty => parse0 m op4 ty d7 a7 b8
  | 1 => (ITy.ofCode (w.extractLsb' 22 2)).bind fun ty => parse1 m op4 ty d7 a7 b8
  | 2 => parse2 m op d7 a7 b8
  | 3 => parse3 m op d7 a7 (w.extractLsb' 3 5) (w.extractLsb' 0 3)
  | 4 => parse4 m op (w.extractLsb' 16 6) (w.extractLsb' 10 6) (parseB (w.getLsbD 9) (w.extractLsb' 0 9)) (w.extractLsb' 0 9)
  | 5 => parse5 m (w.extractLsb' 23 5) (w.extractLsb' 0 23)
  | 6 => parse6 m op (w.extractLsb' 16 6) (w.extractLsb' 10 6) (w.extractLsb' 4 6) (w.extractLsb' 0 4)
      (w.extractLsb' 18 4) (w.extractLsb' 15 3) (w.extractLsb' 10 5) (w.extractLsb' 5 5) (w.extractLsb' 0 5) a7 b8
  | 7 => parse7 m op (w.extractLsb' 16 6) (w.extractLsb' 10 6) (w.extractLsb' 0 4) (w.extractLsb' 0 22) d7 a7 b8
  | _ => none

/-- The instruction of a word (R53 to R77). -/
def decode (w : Word) : Instr :=
  match parse w with
  | some i => if i.wf && encode i == w then i else .illegalWord w
  | none => .illegalWord w

/-- The word that four bytes hold, little-endian (R3, R53). -/
def wordOfBytes (b0 b1 b2 b3 : Byte) : Word := b3 ++ b2 ++ b1 ++ b0

/-- The instruction that the decoder reads from bytes: the first word of the list. -/
def decodeBytes : List Byte → Option Instr
  | b0 :: b1 :: b2 :: b3 :: _ => some (decode (wordOfBytes b0 b1 b2 b3))
  | _ => none

/-- The bytes of a word at rising addresses (R3). -/
def bytesOfWord (w : Word) : List Byte :=
  [w.extractLsb' 0 8, w.extractLsb' 8 8, w.extractLsb' 16 8, w.extractLsb' 24 8]

/-- What the decoder reads from an instruction with the bits w of the opcode table: words are 32 bits, so a row of another length
names none. -/
def decodeTableWord (nbits w : Nat) : Option Instr :=
  if nbits ≤ 32 then decodeBytes (bytesOfWord (BitVec.ofNat 32 w)) else none

end Sys2Proof
end

