-- ==== Sys2Proof/Config.lean ====
section
/-! DEFINITION. What an implementation fixes, and the free values: opaque constants without a body, of which nothing can be proved. -/

namespace Sys2Proof.Config

/-- The word that a system-space address holds before anything was written to it (R206 gives the service cores a system
space and says nothing of its contents).  Free; log entry 4. -/
opaque systemWord : Nat → BitVec 32

/-- Whether the Helny image in SPI flash passes the checks of R337
step 1.  Fixed by the device and its flash; free in the model; log entry 6. -/
opaque flashImageOk : Bool

/-- The measurement and the security version of the image in SPI flash (R337, R338).  Fixed by the flash; free; log entry 6. -/
opaque flashMeasure : BitVec 256
opaque flashVersion : BitVec 32

/-- The security version of a host-supplied image, by its bytes (R337).  Free; log entry 6. -/
opaque imageVersion : List (BitVec 8) → BitVec 32

/-- The secret of a boot, by the number of boots before it (R330).  Free; log entry 47. -/
opaque bootSecret : BitVec 32 → BitVec 256

/-- The AES-256-XTS key of a VI (R330): derived from the secret of the boot, the VI number and the count of the VI's assignments, by a function
that the spec does not give.  Free; log entry 47. -/
opaque storageKey : BitVec 256 → Nat → Nat → BitVec 512

/-- Whether a host-supplied image passes the ROM's checks (R337 steps 1 and 2); a function of its bytes.  Free; log
entry 6. -/
opaque imageOk : List (BitVec 8) → Bool

/-- The SHA-256 of the DevID public key (R338, R344).  Fixed at manufacture; free; log entry 6. -/
opaque identity : BitVec 256

/-- The ECDSA P-256 signature, r then s, over a SHA-256 hash (R344, R346) by the alias key, which follows from the device's secret, the image's
measurement and its security version (R338).  Free; log entry 6. -/
opaque signature : BitVec 256 → BitVec 32 → BitVec 256 → BitVec 512

/-- The bytes that the device sends over the links for one member of a collective, by the operation, its count and element size, the members
and the member's index (R198, R341: no rule gives the exchange that the engine uses).  Free; log entry 37. -/
opaque collBytes : Nat → Nat → Nat → Nat → Nat → Nat

/-- The code that BOOTSTAT shows after a second failure of image verification (R328, R337).  Free; log entry 6. -/
opaque failureCode : BitVec 8

/-- The number that firmware gives the device at link bring-up (R334).  Free; log entry 6. -/
opaque deviceNumber : BitVec 10

/-- How the dump stream lays out a structure whose bytes no rule gives (R354), by structure and content.  Free; log entry 6. -/
opaque dumpLayout : Nat → List (BitVec 8) → List (BitVec 8)

/-- The bytes of a heap image, by its entries in rank order, each the record index and the gain (R293 gives an entry 8 bytes and no layout).
Free; log entry 27. -/
opaque heapImage : List (Nat × BitVec 32) → List (BitVec 8)

/-- The epoch that firmware keeps in flash before this boot (R344).  Free; log entry 6. -/
opaque flashEpoch : BitVec 32

end Sys2Proof.Config
end

