-- ==== Sys2Proof/Machine/Access.lean ====
section
/-! DEFINITION. The accessors of the state: every read and write of a register goes through these (R14, R15, R10, R11). -/

namespace Sys2Proof.Machine

/-! ## Waves and strands -/

/-- The key of the wave in a slot of a core. -/
def waveKey (core slot : Nat) : Nat := core * 64 + slot

/-- The wave in a slot. -/
def State.wave (s : State) (core slot : Nat) : Wave := SMap.get {} s.waves (waveKey core slot)

/-- A wave by its key. -/
def State.waveK (s : State) (k : Nat) : Wave := SMap.get {} s.waves k

/-- The state with the wave in a slot replaced. -/
def State.setWave (s : State) (core slot : Nat) (w : Wave) : State :=
  { s with waves := SMap.put s.waves (waveKey core slot) w }

/-- The state with the wave in a slot changed. -/
def State.updWave (s : State) (core slot : Nat) (f : Wave → Wave) : State := s.setWave core slot (f (s.wave core slot))

/-- The state with a wave changed, by its key. -/
def State.updWaveK (s : State) (k : Nat) (f : Wave → Wave) : State :=
  { s with waves := SMap.put s.waves k (f (s.waveK k)) }

/-- A strand slot of a wave. -/
def Wave.strand (w : Wave) (n : Nat) : Strand := SMap.get {} w.strands n

/-- The wave with a strand slot replaced. -/
def Wave.setStrand (w : Wave) (n : Nat) (st : Strand) : Wave := { w with strands := SMap.put w.strands n st }

/-- The wave with a strand slot changed. -/
def Wave.updStrand (w : Wave) (n : Nat) (f : Strand → Strand) : Wave := w.setStrand n (f (w.strand n))

/-- The state with a strand changed. -/
def State.updStrand (s : State) (core slot n : Nat) (f : Strand → Strand) : State :=
  s.updWave core slot fun w => w.updStrand n f

/-- The wave of the strand that is issuing. -/
def State.cw (s : State) : Wave := s.wave s.cur.1 s.cur.2.1

/-- The strand that is issuing. -/
def State.cs (s : State) : Strand := s.cw.strand s.cur.2.2

/-- The state with the issuing strand's wave changed. -/
def State.updCw (s : State) (f : Wave → Wave) : State := s.updWave s.cur.1 s.cur.2.1 f

/-- The state with the issuing strand changed. -/
def State.updCs (s : State) (f : Strand → Strand) : State := s.updCw fun w => w.updStrand s.cur.2.2 f

/-- A slot is live when its state is ready or parked (R8). -/
def Strand.live (st : Strand) : Bool := st.state == .ready || st.state == .parked

/-- The slots 0 to 7 that are live. -/
def Wave.liveSlots (w : Wave) : List Nat := (List.range 8).filter fun n => (w.strand n).live

/-- The slot that an SGET of STRANDID shows: a trap strand shows TSTRAND (R306). -/
def Wave.shownSlot (w : Wave) (n : Nat) : Nat := if n == 8 then w.tstrand else n

/-! ## Registers -/

/-- Word i of a 96-lane mask (R6). -/
def maskWord (m : Lanes) (i : Nat) : Word := m.extractLsb' (32 * i) 32

/-- The mask of three words (R6). -/
def maskOfWords (w0 w1 w2 : Word) : Lanes := w2 ++ w1 ++ w0

/-- The mask with word i replaced. -/
def setMaskWord (m : Lanes) (i : Nat) (w : Word) : Lanes :=
  match i with
  | 0 => maskOfWords w (maskWord m 1) (maskWord m 2)
  | 1 => maskOfWords (maskWord m 0) w (maskWord m 2)
  | _ => maskOfWords (maskWord m 0) (maskWord m 1) w

/-- A scalar register as a strand reads it: s60 to s62 are its AM, s63 reads 0 (R15). -/
def Wave.sreg (w : Wave) (n r : Nat) : Word :=
  if r = 63 then 0 else if 60 ≤ r then maskWord (w.strand n).am (r - 60) else SMap.get 0 w.s r

/-- A scalar pair: the low word in the even register; s63 reads 0 in both (R14). -/
def Wave.spair (w : Wave) (n r : Nat) : DWord :=
  if r = 63 then 0 else w.sreg n (r + 1) ++ w.sreg n r

/-- A mask triple (R6); triple 20 is AM. -/
def Wave.ktriple (w : Wave) (n k : Nat) : Lanes :=
  maskOfWords (w.sreg n (3 * k)) (w.sreg n (3 * k + 1)) (w.sreg n (3 * k + 2))

/-- A write of a scalar register by strand n: s60 to s62 write AM ANDed with the membership (R10), s63 discards (R15). -/
def Wave.setSreg (w : Wave) (n r : Nat) (x : Word) : Wave :=
  if r = 63 then w
  else if 60 ≤ r then w.updStrand n fun st => { st with am := setMaskWord st.am (r - 60) x &&& st.memb }
  else { w with s := SMap.set 0 w.s r x }

/-- A list of scalar writes of strand n, in order. -/
def Wave.setSregs (w : Wave) (n : Nat) : List (Nat × Word) → Wave
  | [] => w
  | (r, x) :: t => (w.setSreg n r x).setSregs n t

/-- The key of a vector register's lane. -/
def vkey (r lane : Nat) : Nat := 96 * r + lane

/-- A lane of a vector register (R11). -/
def Wave.vreg (w : Wave) (r lane : Nat) : Word := SMap.get 0 w.v (vkey r lane)

/-- A lane of a vector register pair, the low word in the even register (R12). -/
def Wave.vpair (w : Wave) (r lane : Nat) : DWord := w.vreg (r + 1) lane ++ w.vreg r lane

/-- Vector lanes written by key. -/
def Wave.setVregs (w : Wave) : List (Nat × Word) → Wave
  | [] => w
  | (k, x) :: t => { w with v := SMap.set 0 w.v k x }.setVregs t

/-- The registers of a sequence, as read 32-bit little-endian words. -/
def Wave.sregs (w : Wave) (n r : Nat) : Nat → List Word
  | 0 => []
  | c + 1 => w.sreg n r :: w.sregs n (r + 1) c

/-! ## Blocks, cores, partitions, virtual interfaces -/

/-- A block by its number. -/
def State.block (s : State) (b : Nat) : Block := SMap.get {} s.blocks b

/-- The state with a block changed. -/
def State.updBlock (s : State) (b : Nat) (f : Block → Block) : State :=
  { s with blocks := SMap.upd {} s.blocks b f }

/-- A core by its number. -/
def State.core (s : State) (c : Nat) : Core := SMap.get {} s.cores c

/-- The state with a core changed. -/
def State.updCore (s : State) (c : Nat) (f : Core → Core) : State :=
  { s with cores := SMap.upd {} s.cores c f }

/-- A partition by its number. -/
def State.part (s : State) (p : Nat) : Part := SMap.get {} s.parts p

/-- The state with a partition changed. -/
def State.updPart (s : State) (p : Nat) (f : Part → Part) : State :=
  { s with parts := SMap.upd {} s.parts p f }

/-- A virtual interface by its number. -/
def State.vi (s : State) (v : Nat) : Vi := SMap.get {} s.vis v

/-- The state with a virtual interface changed. -/
def State.updVi (s : State) (v : Nat) (f : Vi → Vi) : State :=
  { s with vis := SMap.upd {} s.vis v f }

/-- An accepted packet by its number. -/
def State.pkt (s : State) (p : Nat) : Option Packet := SMap.find? s.packets p

/-- The state with an accepted packet changed. -/
def State.updPkt (s : State) (p : Nat) (f : Packet → Packet) : State :=
  match s.pkt p with
  | some x => { s with packets := SMap.put s.packets p (f x) }
  | none => s

/-- The domain of a core (R325): core div 20, or for service core n, which the model numbers 160 + n, n div 2. -/
def domainOf (core : Nat) : Nat := if core < 160 then core / 20 else (core - 160) / 2

/-- The number of no partition: of a core whose domain belongs to none, and of a VI that has none (R275). -/
def noPart : Nat := 8

/-- The partition that a core belongs to: the partition whose domains hold it (R275, R325). -/
def State.partOf (s : State) (core : Nat) : Nat :=
  (((List.range 8).filter fun p => p ≤ domainOf core && domainOf core < p + (s.part p).size).headD noPart)

/-- The partition of a virtual interface, `noPart` where it has none. -/
def State.viPart (s : State) (v : Nat) : Nat := (s.vi v).part.getD noPart

/-- The cycle of a partition (R21). -/
def State.cycle (s : State) (p : Nat) : Nat := (s.part p).cycle

/-- The keys of a map. -/
def keysOf (m : SMap α) : List Nat := m.map (·.1)

/-- The keys of a block's waves. -/
def State.blockWaves (s : State) (b : Nat) : List Nat := (s.block b).waves

/-- A wave of a block that a STOP has halted: its state is fixed until the RESUME (R351). -/
def State.isStopped (s : State) (core slot : Nat) : Bool := (s.block (s.wave core slot).blk).stopped

/-- A wave has a pending token in a register (R17). -/
def Wave.isPending (w : Wave) (r : Nat) : Bool := w.tokens.contains r

/-- The wave with a token made pending (R16). -/
def Wave.addToken (w : Wave) (r : Nat) : Wave := { w with tokens := w.tokens ++ [r] }

/-- A token's completion: the status word lands and the register is no longer pending (R16). -/
def Wave.completeToken (w : Wave) (r : Nat) (status : Word) : Wave :=
  { w with tokens := w.tokens.filter (· != r), s := SMap.set 0 w.s r status }

end Sys2Proof.Machine
end

