-- ==== Sys2Proof/Machine/Float.lean ====
section
/-! DEFINITION. Floating-point arithmetic (R81 to R90): values are unpacked to exact dyadic numbers, the exact result is computed, and
one function rounds it into a format. -/

namespace Sys2Proof.Machine

/-- A binary format: exponent bits and fraction bits (R81). -/
structure Fmt where
  eb : Nat
  fb : Nat
deriving DecidableEq, Repr

/-- binary64, binary32, binary16 and bfloat16 (R81). -/
def Fmt.f64 : Fmt := ⟨11, 52⟩
@[inherit_doc Fmt.f64] def Fmt.f32 : Fmt := ⟨8, 23⟩
@[inherit_doc Fmt.f64] def Fmt.f16 : Fmt := ⟨5, 10⟩
@[inherit_doc Fmt.f64] def Fmt.bf16 : Fmt := ⟨8, 7⟩

/-- The bits of +inf. -/
def Fmt.infBits (F : Fmt) : Nat := (2 ^ F.eb - 1) * 2 ^ F.fb

/-- The sign bit. -/
def Fmt.signBit (F : Fmt) : Nat := 2 ^ (F.eb + F.fb)

/-- The canonical NaN (R81). -/
def Fmt.nan (F : Fmt) : Nat := F.infBits + 2 ^ (F.fb - 1)

/-- The bits of the largest finite value. -/
def Fmt.maxBits (F : Fmt) : Nat := F.infBits - 1

/-- The exponent of the unit in the last place of a subnormal. -/
def Fmt.qmin (F : Fmt) : Int := 2 - 2 ^ (F.eb - 1) - F.fb

/-- The rounding rules of R84. -/
inductive Rnd | rne | rtz | rup | rdn | rna
deriving DecidableEq, Repr

/-- The flag bits of FSTAT (R20). -/
def flNV : BitVec 5 := 1
def flDZ : BitVec 5 := 2
def flOF : BitVec 5 := 4
def flUF : BitVec 5 := 8
def flNX : BitVec 5 := 16

/-- A result with the flags it raises. -/
structure FRes where
  bits : Nat
  fl : BitVec 5 := 0
deriving DecidableEq, Repr

/-- An unpacked value: a NaN (signalling or not), an infinity, or (-1)^neg * m * 2^e. -/
inductive FVal
  | nan (sig : Bool)
  | inf (neg : Bool)
  | fin (neg : Bool) (m : Nat) (e : Int)
deriving DecidableEq, Repr

/-- The value of the bits of a format. -/
def Fmt.unpack (F : Fmt) (x : Nat) : FVal :=
  let neg := x / F.signBit % 2 == 1
  let ex := x / 2 ^ F.fb % 2 ^ F.eb
  let fr := x % 2 ^ F.fb
  if ex = 2 ^ F.eb - 1 then
    if fr = 0 then .inf neg else .nan (fr < 2 ^ (F.fb - 1))
  else if ex = 0 then .fin neg fr F.qmin
  else .fin neg (2 ^ F.fb + fr) (F.qmin + ex - 1)

/-- A sign put on magnitude bits. -/
def Fmt.withSign (F : Fmt) (neg : Bool) (b : Nat) : Nat := if neg then F.signBit + b else b

/-- The number of bits of a number: the least n with m < 2^n. -/
def bitLen (m : Nat) : Nat := if m = 0 then 0 else Nat.log2 m + 1

/-- Whether the quotient k of a value, cut with remainder r below 2^d and a sticky part below that, rounds up (R84). -/
def roundsUp (rm : Rnd) (neg : Bool) (k r d : Nat) (st : Bool) : Bool :=
  let half := 2 ^ d / 2
  let inexact := r != 0 || st
  match rm with
  | .rne => d != 0 && (half < r || (r == half && (st || k % 2 == 1)))
  | .rna => d != 0 && half ≤ r
  | .rtz => false
  | .rup => !neg && inexact
  | .rdn => neg && inexact

/-- Rounding of the positive magnitude m * 2^e, with a part strictly between 0 and 2^e more when st holds, to a multiple of
2^q: the quotient and whether it is inexact. -/
def roundAt (rm : Rnd) (neg : Bool) (m : Nat) (e q : Int) (st : Bool) : Nat × Bool :=
  if q ≤ e then
    let k := m * 2 ^ (e - q).toNat
    (k + (if roundsUp rm neg k 0 0 st then 1 else 0), st)
  else
    let d := (q - e).toNat
    let k := m / 2 ^ d
    let r := m % 2 ^ d
    (k + (if roundsUp rm neg k r d st then 1 else 0), r != 0 || st)

/-- The overflow result of R84. -/
def Fmt.overflow (F : Fmt) (rm : Rnd) (neg : Bool) : Nat :=
  F.withSign neg
    (match rm with
     | .rne | .rna => F.infBits
     | .rtz => F.maxBits
     | .rup => if neg then F.maxBits else F.infBits
     | .rdn => if neg then F.infBits else F.maxBits)

/-- Rounding of a finite magnitude into a format, with the flags of R85: tininess is detected after rounding. -/
def Fmt.round (F : Fmt) (rm : Rnd) (neg : Bool) (m : Nat) (e : Int) (st : Bool := false) : FRes :=
  if m = 0 && !st then ⟨F.withSign neg 0, 0⟩
  else
    let q0 := e + bitLen m - (F.fb + 1)
    let q := max q0 F.qmin
    let (k, nx) := roundAt rm neg m e q st
    let bits := (q - F.qmin).toNat * 2 ^ F.fb + k
    if F.infBits ≤ bits then ⟨F.overflow rm neg, flOF ||| flNX⟩
    else
      let (k0, _) := roundAt rm neg m e q0 st
      let tiny := q0 + (if k0 = 2 ^ (F.fb + 1) then 1 else 0) < F.qmin
      ⟨F.withSign neg bits, (if nx then flNX else 0) ||| (if nx && tiny then flUF else 0)⟩

/-- The canonical NaN with NV (R85). -/
def Fmt.invalid (F : Fmt) : FRes := ⟨F.nan, flNV⟩

/-- FTZ on an input: a subnormal reads as zero of its sign (R86). -/
def Fmt.flushIn (F : Fmt) (ftz : Bool) (x : Nat) : Nat :=
  if ftz && x / 2 ^ F.fb % 2 ^ F.eb = 0 then F.withSign (x / F.signBit % 2 == 1) 0 else x

/-- FTZ on a result: a subnormal is written as zero of its sign, with UF and NX (R86). -/
def Fmt.flushOut (F : Fmt) (ftz : Bool) (r : FRes) : FRes :=
  let mag := r.bits % F.signBit
  if ftz && mag != 0 && mag < 2 ^ F.fb then ⟨r.bits - mag, r.fl ||| flUF ||| flNX⟩ else r

/-- The exact sum of two finite values as an integer times a power of two. -/
def addExact (n1 : Bool) (m1 : Nat) (e1 : Int) (n2 : Bool) (m2 : Nat) (e2 : Int) : Int × Int :=
  let e := min e1 e2
  let a : Int := (m1 * 2 ^ (e1 - e).toNat : Nat)
  let b : Int := (m2 * 2 ^ (e2 - e).toNat : Nat)
  ((if n1 then -a else a) + (if n2 then -b else b), e)

/-- The sum of two unpacked values rounded into a format; an exact zero takes its sign by IEEE 754-2019. -/
def Fmt.addVals (F : Fmt) (rm : Rnd) (x y : FVal) : FRes :=
  match x, y with
  | .nan s, .nan t => ⟨F.nan, if s || t then flNV else 0⟩
  | .nan s, _ => ⟨F.nan, if s then flNV else 0⟩
  | _, .nan s => ⟨F.nan, if s then flNV else 0⟩
  | .inf a, .inf b => if a == b then ⟨F.withSign a F.infBits, 0⟩ else F.invalid
  | .inf a, _ => ⟨F.withSign a F.infBits, 0⟩
  | _, .inf b => ⟨F.withSign b F.infBits, 0⟩
  | .fin n1 m1 e1, .fin n2 m2 e2 =>
    let (t, e) := addExact n1 m1 e1 n2 m2 e2
    if t = 0 then
      ⟨F.withSign (if m1 = 0 && m2 = 0 && n1 == n2 then n1 else rm == .rdn) 0, 0⟩
    else F.round rm (t < 0) t.natAbs e

/-- The exact product of two unpacked values; `none` for 0 times inf. -/
def mulVals (x y : FVal) : Option FVal :=
  match x, y with
  | .nan s, .nan t => some (.nan (s || t))
  | .nan s, _ => some (.nan s)
  | _, .nan s => some (.nan s)
  | .inf a, .inf b => some (.inf (a != b))
  | .inf a, .fin n m _ => if m = 0 then none else some (.inf (a != n))
  | .fin n m _, .inf b => if m = 0 then none else some (.inf (n != b))
  | .fin n1 m1 e1, .fin n2 m2 e2 => some (.fin (n1 != n2) (m1 * m2) (e1 + e2))

/-- The negative of an unpacked value. -/
def FVal.negate : FVal → FVal
  | .nan s => .nan s
  | .inf a => .inf (!a)
  | .fin n m e => .fin (!n) m e

/-- A value is a signalling NaN. -/
def FVal.sig : FVal → Bool
  | .nan s => s
  | _ => false

/-- A value is a NaN. -/
def FVal.isNan : FVal → Bool
  | .nan _ => true
  | _ => false

/-- An unpacked value rounded into a format. -/
def Fmt.roundVal (F : Fmt) (rm : Rnd) (x : FVal) : FRes :=
  match x with
  | .nan s => ⟨F.nan, if s then flNV else 0⟩
  | .inf a => ⟨F.withSign a F.infBits, 0⟩
  | .fin n m e => F.round rm n m e

/-- What a float operation reads of its mode: the rounding rule and FTZ. -/
structure FMode where
  rm : Rnd
  ftz : Bool
deriving DecidableEq, Repr

/-- Addition. -/
def Fmt.add (F : Fmt) (md : FMode) (a b : Nat) : FRes :=
  F.flushOut md.ftz (F.addVals md.rm (F.unpack (F.flushIn md.ftz a)) (F.unpack (F.flushIn md.ftz b)))

/-- The bits of a value with its sign reversed. -/
def Fmt.flip (F : Fmt) (a : Nat) : Nat := if a / F.signBit % 2 = 1 then a - F.signBit else a + F.signBit

/-- Subtraction. -/
def Fmt.sub (F : Fmt) (md : FMode) (a b : Nat) : FRes := F.add md a (F.flip b)

/-- Multiplication. -/
def Fmt.mul (F : Fmt) (md : FMode) (a b : Nat) : FRes :=
  match mulVals (F.unpack (F.flushIn md.ftz a)) (F.unpack (F.flushIn md.ftz b)) with
  | none => F.invalid
  | some v => F.flushOut md.ftz (F.roundVal md.rm v)

/-- Fused multiply-add: a * b + c, or -(a * b) + c, rounded once (R87). -/
def Fmt.fma (F : Fmt) (md : FMode) (neg : Bool) (a b c : Nat) : FRes :=
  match mulVals (F.unpack (F.flushIn md.ftz a)) (F.unpack (F.flushIn md.ftz b)) with
  | none => F.invalid
  | some v =>
    F.flushOut md.ftz (F.addVals md.rm (if neg then v.negate else v) (F.unpack (F.flushIn md.ftz c)))

/-- An order key of finite values and infinities, -0 below +0: the sign and magnitude of the bits. -/
def Fmt.orderKey (F : Fmt) (x : Nat) : Int :=
  if x / F.signBit % 2 = 1 then -((x % F.signBit : Nat) : Int) - 1 else ((x % F.signBit : Nat) : Int)

/-- minimumNumber and maximumNumber (R88). -/
def Fmt.minMax (F : Fmt) (md : FMode) (mx : Bool) (a b : Nat) : FRes :=
  let a := F.flushIn md.ftz a
  let b := F.flushIn md.ftz b
  let x := F.unpack a
  let y := F.unpack b
  let fl := if x.sig || y.sig then flNV else 0
  if x.isNan && y.isNan then ⟨F.nan, fl⟩
  else if x.isNan then ⟨b, fl⟩
  else if y.isNan then ⟨a, fl⟩
  else ⟨if decide (F.orderKey a ≤ F.orderKey b) != mx then a else b, fl⟩

/-- The order of two values: `none` when either is a NaN; +0 and -0 are equal. -/
def Fmt.compare (F : Fmt) (a b : Nat) : Option Ordering :=
  let x := F.unpack a
  let y := F.unpack b
  if x.isNan || y.isNan then none
  else if a % F.signBit = 0 && b % F.signBit = 0 then some .eq
  else some (Ord.compare (F.orderKey a) (F.orderKey b))

/-- A conversion between float formats (R90). -/
def cvtFloat (src dst : Fmt) (md : FMode) (a : Nat) : FRes :=
  dst.flushOut md.ftz (dst.roundVal md.rm (src.unpack (src.flushIn md.ftz a)))

/-- A conversion of a float to an integer in lo ... hi, as a two's complement or unsigned 32-bit value (R90). -/
def cvtInt (src : Fmt) (md : FMode) (lo hi : Int) (a : Nat) : FRes :=
  let bits (x : Int) : Nat := (x % 2 ^ 32).toNat
  match src.unpack (src.flushIn md.ftz a) with
  | .nan _ => ⟨0, flNV⟩
  | .inf n => ⟨bits (if n then lo else hi), flNV⟩
  | .fin n m e =>
    let (k, nx) := roundAt md.rm n m e 0 false
    let v : Int := if n then -(k : Int) else k
    if v < lo then ⟨bits lo, flNV⟩
    else if hi < v then ⟨bits hi, flNV⟩
    else ⟨bits v, if nx then flNX else 0⟩

/-- A conversion of an integer to a float (R90). -/
def cvtFromInt (dst : Fmt) (md : FMode) (v : Int) : FRes := dst.round md.rm (v < 0) v.natAbs 0

/-- A small integer constant in a format, exactly (R58). -/
def Fmt.ofInt (F : Fmt) (v : Int) : Nat := (F.round .rne (v < 0) v.natAbs 0).bits

/-- The float addition of the atomics: RNE, subnormals kept, no flag (R170). -/
def Fmt.atomAdd (F : Fmt) (a b : Nat) : Nat := (F.add ⟨.rne, false⟩ a b).bits

/-- A packed pair of 16-bit results. -/
def pack2 (lo hi : FRes) : FRes := ⟨lo.bits + 2 ^ 16 * hi.bits, lo.fl ||| hi.fl⟩

/-- The smaller of two two's complement or unsigned values of n bits. -/
def minInt (n : Nat) (sgn mx : Bool) (a b : Nat) : Nat :=
  let v (x : Nat) : Int := if sgn && 2 ^ (n - 1) ≤ x then (x : Int) - 2 ^ n else x
  if decide (v a ≤ v b) != mx then a else b

/-- What an atomic operation leaves at its address (R169): the old value, the operand, the expected value of a cas. -/
def atomNew (op : AtomOp) (old x expected : Nat) : Nat :=
  match op with
  | .addI32 => (old + x) % 2 ^ 32
  | .addI64 => (old + x) % 2 ^ 64
  | .addF32 => Fmt.f32.atomAdd old x
  | .addF16x2 => Fmt.f16.atomAdd (old % 2 ^ 16) (x % 2 ^ 16) + 2 ^ 16 * Fmt.f16.atomAdd (old / 2 ^ 16) (x / 2 ^ 16)
  | .addBf16x2 => Fmt.bf16.atomAdd (old % 2 ^ 16) (x % 2 ^ 16) + 2 ^ 16 * Fmt.bf16.atomAdd (old / 2 ^ 16) (x / 2 ^ 16)
  | .minS32 => minInt 32 true false old x
  | .minN32 => minInt 32 false false old x
  | .maxS32 => minInt 32 true true old x
  | .maxN32 => minInt 32 false true old x
  | .minF32 => (Fmt.f32.minMax ⟨.rne, false⟩ false old x).bits
  | .maxF32 => (Fmt.f32.minMax ⟨.rne, false⟩ true old x).bits
  | .andB32 => old &&& x
  | .orB32 => old ||| x
  | .xorB32 => old ^^^ x
  | .exchB32 => x
  | .casB32 => if old = expected then x else old

/-- The access size of an atomic in bytes. -/
def atomSize : AtomOp → Nat
  | .addI64 => 8
  | _ => 4

/-- The identity that a partial value of a U copy starts at (R229). -/
def atomIdentity : AtomOp → Nat
  | .addF32 => 0
  | .andB32 => 0xFFFFFFFF
  | .minS32 => 0x7FFFFFFF
  | .minN32 => 0xFFFFFFFF
  | .maxS32 => 0x80000000
  | .maxN32 => 0
  | .minF32 => 0x7F800000
  | .maxF32 => 0xFF800000
  | _ => 0

end Sys2Proof.Machine
end

