-- ==== Sys2Proof/Machine/Hier.lean ====
section
/-! DEFINITION. The memory hierarchy (R224 to R242, R312 to R314, R326): physical targets, page walks and TLBs, L2 tags and
retention, coherence states and recalls, stash windows, counted lines, and the error records that a recall can post (R173, R285).  Each function is one atomic access of one agent. -/

namespace Sys2Proof.Machine

/-! ## Meters -/

/-- An increment of a meter (R342): exact, saturating at 2^64 - 1 with the SAT bit. -/
def Vi.addMeter (v : Vi) (m inc : Nat) : Vi :=
  let t := SMap.get 0 v.meters m + inc
  if 2 ^ 64 - 1 < t then
    { v with meters := SMap.set 0 v.meters m (2 ^ 64 - 1), sat := v.sat ||| (1#16 <<< m) }
  else { v with meters := SMap.set 0 v.meters m t }

/-- An increment of a VI's meter. -/
def State.addMeter (s : State) (vi m inc : Nat) : State :=
  if inc = 0 || 64 ≤ vi then s else s.updVi vi fun v => v.addMeter m inc

/-- An increment by a wave's instruction, which other waves' CNTRD may yet leave out (R206). -/
def State.waveMeter (s : State) (key vi m inc : Nat) : State :=
  let s := s.addMeter vi m inc
  if (s.vi vi).holding && inc != 0 then
    s.updVi vi fun v => { v with late := SMap.upd 0 v.late (16 * key + m) (· + inc) }
  else s

/-- A meter as a wave's CNTRD reads it (R206): without what other waves have counted while their increments are held back.  A meter that has
saturated reads so. -/
def Vi.meterFor (v : Vi) (key m : Nat) : Nat :=
  let t := SMap.get 0 v.meters m
  if v.sat.getLsbD m then t
  else t - ((v.late.filter fun p => p.1 % 16 = m && p.1 / 16 != key).map (·.2)).sum

/-! ## Physical targets -/

/-- The targets of R326. -/
inductive Target
  | hbm | cap | host
  | remote (dev : Nat)
deriving DecidableEq, Repr

/-- The target of a physical address, and the address under which the model keeps its bytes: an address with the device's own
number is local HBM (R326).  `none` for every other physical address. -/
def Device.target (d : Device) (pa : Nat) : Option (Target × Nat) :=
  if pa < 0x9000000000 then some (.hbm, pa)
  else if 0x100000000000 ≤ pa && pa < 0x200000000000 then some (.cap, pa)
  else if 0x400000000000 ≤ pa && pa < 0x800000000000 then some (.host, pa)
  else if 2 ^ 55 ≤ pa then
    let n := (pa - 2 ^ 55) / 2 ^ 45
    let o := (pa - 2 ^ 55) % 2 ^ 45
    if n < 1024 && o < 0x9000000000 then some (if n = d.devNum then (.hbm, o) else (.remote n, pa)) else none
  else none

/-- The extent of the capacity window that holds an offset. -/
def Device.extentAt (d : Device) (off : Nat) : Option Extent :=
  d.extents.find? fun e => e.base ≤ off && off < e.base + e.len

/-- The HBM of one domain: an eighth of the 576 GiB (log entry 78). -/
def domainHbm : Nat := 0x1200000000

/-- The link ports of a partition (R325). -/
def State.portsOf (s : State) (part : Nat) : List Port :=
  ((List.range 16).filter fun n => part ≤ n / 2 && n / 2 < part + (s.part part).size).map fun n => SMap.get {} s.dev.ports n

/-- A device that a partition has lost (R335): no port of the partition is up, or one that led to the device has failed and none that is up
leads there (log entry 44). -/
def State.lostTo (s : State) (part dev : Nat) : Bool :=
  let ps := s.portsOf part
  !(ps.any fun p => p.up) || ((ps.any fun p => p.failed && p.dev = dev) && !ps.any fun p => p.up && p.dev = dev)

/-- Why a VI may not use a physical address that a leaf names: a released extent, an offset outside the VI's extents, a lost device or one that
refuses the VI's partition (R242, R326, R335). -/
def State.physFault (s : State) (vi : Nat) (t : Target) (pa : Nat) : Option Cause :=
  match t with
  | .cap =>
    match s.dev.extentAt (pa - 0x100000000000) with
    | some e => if e.vi ≠ vi then some .translate else if e.gone then some .extentgone else none
    | none => some .translate
  | .remote n =>
    let part := s.viPart vi
    if s.lostTo part n then some .mcheck
    else if s.dev.refused.contains (part, n, pa % 2 ^ 45 / domainHbm) then some .protect else none
  | _ => none

/-! ## Coherence: copies of a line of a C page -/

/-- A U copy's partial values combined into a line (R229), one element after the other.  An element whose partial no VRED has changed
keeps its bits: an identity changes no value (log entry 7). -/
def combineU (op : AtomOp) (home : LineData) (y : L1Line) : LineData :=
  y.touched.foldl (fun d off =>
    lineSet d off (atomSize op) (atomNew op (lineGet d off (atomSize op)) (lineGet y.data off (atomSize op)) 0)) home

/-- Some sectors of a line taken from another (R231). -/
def mergeSectors (m : BitVec 4) (old new : LineData) : LineData :=
  if m = 15 then new
  else (List.range 4).foldl (fun d i => if m.getLsbD i then lineSet d (32 * i) 32 (lineGet new (32 * i) 32) else d) old

/-- The sectors of a copy that hold what its home does not (R228, R231): of a U copy, those of the elements that a VRED has changed. -/
def L1Line.ahead (y : L1Line) : BitVec 4 :=
  match y.st with
  | .m | .pDirty => y.dirty
  | .u _ => y.touched.foldl (fun m off => m ||| (1#4 <<< (off / 32))) 0
  | _ => 0

/-- The sectors of a request that a copy does not hold (R231). -/
def L1Line.lacks (y : L1Line) (sectors : BitVec 4) : BitVec 4 := sectors &&& ~~~y.valid

/-- A line of identities, as a new U copy holds it (R229). -/
def identityLine (op : AtomOp) : LineData :=
  (List.range (128 / (atomSize op))).foldl (fun d i => lineSet d (i * atomSize op) (atomSize op) (atomIdentity op)) 0

/-- The cores that hold a line in L1. -/
def State.holders (s : State) (l : Nat) : List (Nat × L1Line) :=
  s.cores.filterMap fun p => (SMap.find? p.2.l1 l).map fun x => (p.1, x)

/-- A state of R228 that the directory tracks. -/
def L1State.tracked : L1State → Bool
  | .s | .e | .m | .u _ => true
  | _ => false

/-- A U copy. -/
def L1State.isU : L1State → Bool
  | .u _ => true
  | _ => false

/-- A line as its home holds it: a live counted line's own data, or memory. -/
def State.homeLine (s : State) (l : Nat) : LineData :=
  match SMap.find? s.counted l with
  | some c => c.data
  | none => Memory.line s.mem l

/-- The home's line written whole. -/
def State.setHomeLine (s : State) (l : Nat) (d : LineData) : State :=
  match SMap.find? s.counted l with
  | some c => { s with counted := SMap.put s.counted l { c with data := d } }
  | none => { s with mem := Memory.setLine s.mem l d }

/-- The state with an L1 line of a core replaced, or taken away. -/
def State.setL1 (s : State) (c l : Nat) (x : Option L1Line) : State :=
  s.updCore c fun k => match x with
    | some y => { k with l1 := SMap.put k.l1 l y }
    | none => { k with l1 := SMap.erase k.l1 l, l1Age := k.l1Age.erase l }

/-- A line's home has an uncorrectable error (R243). -/
def State.markBad (s : State) (l : Nat) : State := { s with bad := if s.bad.contains l then s.bad else l :: s.bad }

/-- The tile fetch units' buffers lose a line (R228, R240). -/
def State.dropTile (s : State) (l : Nat) : State :=
  if s.cores.any fun p => p.2.tile.any fun x => x.line = l then
    { s with cores := s.cores.map fun p => (p.1, { p.2 with tile := p.2.tile.filter fun x => x.line != l }) }
  else s

/-- What a copy holds that the home does not, handed to the home: its dirty sectors, or its partial values (R228, R229, R231).  An
uncorrectable error goes with them (R243).  What a tile fetch unit has buffered of the line is void then (R196, R240). -/
def State.handIn (s : State) (l : Nat) (y : L1Line) : State :=
  let s := if y.bad && y.ahead != 0 then s.markBad l else s
  let s := if y.ahead = 0 then s else s.dropTile l
  match y.st with
  | .u op => s.setHomeLine l (combineU op (s.homeLine l) y)
  | _ => if y.ahead = 0 then s else s.setHomeLine l (mergeSectors y.ahead (s.homeLine l) y.data)

/-- One copy handed to the home (R228, R229): M data is written back, a U copy is combined; `keep` leaves a clean copy in S. -/
def State.recallOne (s : State) (l : Nat) (keep : Bool) (h : Nat × L1Line) : State :=
  match h.2.st with
  | .m => (s.handIn l h.2).setL1 h.1 l (if keep then some { h.2 with st := .s, dirty := 0 } else none)
  | .u _ => (s.handIn l h.2).setL1 h.1 l none
  | .e => s.setL1 h.1 l (if keep then some { h.2 with st := .s } else none)
  | .s => if keep then s else s.setL1 h.1 l none
  | _ => s

/-! ## Stash windows (R177, R225, R226) -/

/-- The number and the state of a window line under a stash offset. -/
def Block.winAt (b : Block) (off : Nat) : Option (Nat × StashWin) :=
  (b.wins.find? fun p => p.2.off ≤ off && off < p.2.off + p.2.len)

/-- The bytes of a stash line. -/
def Block.stashLine (b : Block) (off : Nat) : LineData := BitVec.ofNat 1024 (Memory.read b.stash off 128)

/-- The state of one line of a window. -/
def State.setWinLine (s : State) (blk win j : Nat) (st : WinLine) : State :=
  s.updBlock blk fun b => { b with wins := SMap.upd {} b.wins win fun w => { w with lines := SMap.set .invalid w.lines j st } }

/-- A window line becomes valid over a physical line of a region. -/
def State.setWinPhys (s : State) (blk win j : Nat) (x : Nat × Nat) : State :=
  s.updBlock blk fun b => { b with wins := SMap.upd {} b.wins win fun w => { w with phys := SMap.put w.phys j x } }

/-- A window line holds data. -/
def WinLine.valid (x : WinLine) : Bool := x = .clean || x = .dirty

/-- The valid window lines over a physical line of a C page, as the home's directory knows them (R226): block, window, line number, state. -/
def State.winCopies (s : State) (l : Nat) : List (Nat × Nat × Nat × WinLine) :=
  s.blocks.flatMap fun pb => pb.2.wins.flatMap fun pw => pw.2.phys.filterMap fun pl =>
    let st := SMap.get .invalid pw.2.lines pl.1
    if pl.2 = (l, 2) && st.valid then some (pb.1, pw.1, pl.1, st) else none

/-- A line of a C page with every copy combined in, as an agent at the home reads it, a window's dirty line among them (R226, R228). -/
def State.homeView (s : State) (l : Nat) : LineData :=
  match (s.winCopies l).find? fun c => c.2.2.2 = .dirty with
  | some c => (s.block c.1).stashLine ((SMap.get {} (s.block c.1).wins c.2.1 : StashWin).off + 128 * c.2.2.1)
  | none => (((s.holders l).filter fun h => h.2.st.tracked).foldl (fun s h => s.recallOne l true h) s).homeLine l

/-! ## Page walks -/

/-- The levels of R312: the lowest index bit, the number of index bits, whether a leaf may stand there, and the alignment of the
next table. -/
def walkLevels : List (Nat × Nat × Bool × Nat) :=
  [(48, 9, false, 4096), (39, 9, false, 4096), (30, 9, true, 4096), (21, 9, true, 256), (16, 5, true, 0)]

/-- An entry that ends a walk with TRANSLATE whatever its level (R313): not valid, or with a field set that must be zero. -/
def entryBad (e : Nat) : Bool := e % 2 = 0 || e / 2 ^ 56 != 0 || e / 4 % 2 != 0 || e / 64 % 4 == 3

/-- The address field of an entry (R312). -/
def entryAddr (e : Nat) : Nat := e / 256 % 2 ^ 48 * 256

/-- A walk over the levels that remain (R313): the leaf entry and the log2 of its page size, or `none` for TRANSLATE. -/
def walkGo (rd : Nat → Nat) (va : Nat) : List (Nat × Nat × Bool × Nat) → Nat → Option (Nat × Nat)
  | [], _ => none
  | (sh, bits, leafOk, al) :: rest, tbl =>
    let e := rd (tbl + 8 * (va / 2 ^ sh % 2 ^ bits))
    if entryBad e then none
    else if e / 2 % 2 = 1 then (if leafOk && entryAddr e % 2 ^ sh = 0 then some (e, sh) else none)
    else if al = 0 || entryAddr e % al != 0 then none
    else walkGo rd va rest (entryAddr e)

/-- A canonical virtual address: bits 63:57 equal bit 56 (R157). -/
def canonical (va : Nat) : Bool := va / 2 ^ 56 = 0 || va / 2 ^ 56 = 0xFF

/-- Bytes of one line as the home reads them: what a page walk reads. -/
def State.homeRead (s : State) (a n : Nat) : Nat := lineGet (s.homeView (a / 128)) (a % 128) n

/-- The partition that owns an HBM address (R275, R326): the one that holds its domain, if any does.  That the addresses lie domain after domain
is the model's choice (log entry 78). -/
def State.hbmOwner (s : State) (pa : Nat) : Option Nat :=
  (s.parts.find? fun p => p.1 ≤ pa / domainHbm && pa / domainHbm < p.1 + p.2.size).map (·.1)

/-- HBM that belongs to another partition than the VI's: no access of one partition touches the state of another (R275, R296). -/
def State.foreign (s : State) (vi pa : Nat) : Bool :=
  pa < 0x9000000000 && (s.vi vi).part.any fun p => (s.hbmOwner pa).any fun o => o != p

/-- Where a walk of a VI reads the entry at a physical address: none where the address has no target or the target refuses the VI (R275, R296,
R326). -/
def State.tableAt (s : State) (vi a : Nat) : Option Nat :=
  (s.dev.target a).bind fun t => if s.foreign vi t.2 || (s.physFault vi t.1 t.2).isSome then none else some t.2

/-- The entry at a physical address as a walk of a VI reads it.  One that the walk cannot read counts as not valid (log entry 78). -/
def State.tableEntry (s : State) (vi a : Nat) : Nat := (s.tableAt vi a).elim 0 fun pa => s.homeRead pa 8

/-- A VI's page walk (R312 to R314): the leaf and the log2 of the page size. -/
def State.walk (s : State) (vi va : Nat) : Option (Nat × Nat) :=
  if canonical va then
    (walkGo (s.tableEntry vi) (va % 2 ^ 57) walkLevels (s.vi vi).root.toNat).filter fun p => (s.dev.target (entryAddr p.1)).isSome
  else none

/-- A translation: the leaf's fields, the virtual page, and the target with the address of the byte (R313). -/
structure Xlat where
  page : Nat
  size : Nat
  pte : Nat
  target : Target
  pa : Nat
deriving DecidableEq, Repr

/-- The REGION field (R227): 0 P, 1 RS, 2 C. -/
def Xlat.region (x : Xlat) : Nat := x.pte / 64 % 4

/-- The physical line of the byte. -/
def Xlat.line (x : Xlat) : Nat := x.pa / 128

/-- The translation that a leaf gives an address. -/
def State.xlatOf (s : State) (va pte size : Nat) : Option Xlat :=
  (s.dev.target (entryAddr pte + va % 2 ^ size)).map fun t => ⟨va - va % 2 ^ size, size, pte, t.1, t.2⟩

/-- A TLB entry that covers an address. -/
def tlbFind (l : List TlbEntry) (vi va : Nat) : Option TlbEntry :=
  l.find? fun e => e.vi = vi && e.base ≤ va && va < e.base + 2 ^ e.size

/-- The chiplet of a core, whose TLB it shares (R2, R314).  The spec counts the cores of its chiplets without the service cores: that these have a
chiplet TLB and a CHIPLET number of their own, 4, is the model's choice (log entry 88). -/
def chipletOf (core : Nat) : Nat := core / 40

/-- The entry of the core's L1 TLB, or of its chiplet's TLB (R314). -/
def State.tlbLookup (s : State) (core vi va : Nat) : Option TlbEntry :=
  (tlbFind (s.core core).tlb vi va).or (tlbFind (SMap.get [] s.ctlb (chipletOf core)) vi va)

/-- Both TLBs with an entry, within their capacities (R314). -/
def State.tlbFill (s : State) (core : Nat) (e : TlbEntry) : State :=
  let s := s.updCore core fun k => if k.tlb.contains e then k else { k with tlb := (e :: k.tlb).take 256 }
  if (SMap.get [] s.ctlb (chipletOf core)).contains e then s
  else { s with ctlb := SMap.upd [] s.ctlb (chipletOf core) fun t => (e :: t).take 32768 }

/-- What an access needs of its page (R313); `any` needs a valid translation alone (R183). -/
inductive Need | rd | wr | both | fetch | any
deriving DecidableEq, Repr

/-- The permission test of a leaf. -/
def Need.ok (n : Need) (pte : Nat) : Bool :=
  match n with
  | .rd => pte / 8 % 2 == 1
  | .wr => pte / 16 % 2 == 1
  | .both => pte / 8 % 2 == 1 && pte / 16 % 2 == 1
  | .fetch => pte / 32 % 2 == 1
  | .any => true

/-- A translation that leads to HBM of another partition (R275, R296). -/
def State.otherHbm (s : State) (vi : Nat) (x : Xlat) : Bool := x.target = .hbm && s.foreign vi x.pa

/-- The cause of an access whose translation is known, the lowest code of those that arise (R242, R301, R313, R326, R335): what the target
refuses, HBM of another partition, which is no target of the VI (log entry 78), a missing permission, a P page of another core. -/
def State.accessFault (s : State) (vi : Nat) (x : Xlat) (permitted owned : Bool) : Option Cause :=
  minBy Cause.code ((s.physFault vi x.target x.pa).toList ++ (if s.otherHbm vi x then [.translate] else []) ++ (if permitted then [] else [.protect]) ++ (if owned then [] else [.region]))

/-- A cause as it is raised: MCHECK names the physical address, any other the virtual one (R300). -/
def Xlat.fault (x : Xlat) (va : Nat) (c : Cause) : Raise := ⟨c, BitVec.ofNat 64 (if c = .mcheck then x.pa else va)⟩

/-- Translation by an agent at the home (the host, a heap controller, the collective engine, the dispatcher): no ownership, no REGION (R227). -/
def State.translateHome (s : State) (vi va : Nat) (need : Need) : Except Raise Xlat :=
  match s.walk vi va with
  | none => .error ⟨.translate, BitVec.ofNat 64 va⟩
  | some (pte, size) =>
    match s.xlatOf va pte size with
    | none => .error ⟨.translate, BitVec.ofNat 64 va⟩
    | some x =>
      match s.accessFault vi x (need.ok pte) true with
      | some c => .error (x.fault va c)
      | none => .ok x

/-! ## Recalls (R225, R226, R228) -/

/-- The mark of a window line over a C page that has lost its translation: the directory still has its entry (R226, R227). -/
def wasC : Nat := 6

/-- The physical line and the region of a valid window line (R226): as recorded when it became valid, or, for one that was filled with zeros
before its page had a translation, as the tables map its page now; a page of another partition's HBM is none (R296). -/
def State.winPhys (s : State) (vi : Nat) (w : StashWin) (j : Nat) : Nat × Nat :=
  let p := SMap.get (0, 3) w.phys j
  if p.2 = 3 || p.2 = wasC then
    let va := w.base.toNat + 128 * j
    match ((s.walk vi va).bind fun e => s.xlatOf va e.1 e.2).filter fun x => !s.otherHbm vi x with
    | some x => (x.line, x.region)
    | none => if p.2 = wasC then (p.1, 2) else p
  else p

/-- The valid window lines over a physical line of a C page, those that became valid before the page had a translation among them (R226). -/
def State.winsOver (s : State) (l : Nat) : List (Nat × Nat × Nat × WinLine) :=
  s.blocks.flatMap fun pb => pb.2.wins.flatMap fun pw => pw.2.phys.filterMap fun pl =>
    let st := SMap.get .invalid pw.2.lines pl.1
    if st.valid && s.winPhys pb.2.vi pw.2 pl.1 = (l, 2) then some (pb.1, pw.1, pl.1, st) else none

/-- The physical line and the region under a window line, as the block's VI maps it now. -/
def State.winXlat (s : State) (b : Block) (w : StashWin) (j : Nat) : Option Xlat :=
  match s.translateHome b.vi (w.base.toNat + 128 * j) .rd with
  | .ok x => some x
  | .error _ => none

/-- A window line's data written to its home. -/
def State.winWriteHome (s : State) (blk win j line : Nat) : State :=
  let b := s.block blk
  let w := SMap.get {} b.wins win
  s.setHomeLine line (b.stashLine (w.off + 128 * j))

/-- A window line whose write-back cannot be made at a recall (R225): block, window, line number, cause. -/
structure LostLine where
  blk : Nat
  win : Nat
  j : Nat
  cause : Cause
deriving DecidableEq, Repr

/-- A recalled window line: its data goes home where its page can be written and its bytes are good, else it is discarded (R225). -/
def State.recallWin (s : State) (l : Nat) (keep : Bool) (c : Nat × Nat × Nat × WinLine) : State × List LostLine :=
  let b := s.block c.1
  let w : StashWin := SMap.get {} b.wins c.2.1
  if c.2.2.2 = .dirty then
    match if b.bad.contains ((w.off + 128 * c.2.2.1) / 128) then .error ⟨.mcheck, 0⟩
        else s.translateHome b.vi (w.base.toNat + 128 * c.2.2.1) .wr with
    | .ok _ => ((s.winWriteHome c.1 c.2.1 c.2.2.1 l).setWinLine c.1 c.2.1 c.2.2.1 .recalled, [])
    | .error r => (s.setWinLine c.1 c.2.1 c.2.2.1 .recalled, [⟨c.1, c.2.1, c.2.2.1, r.cause⟩])
  else if keep then (s, [])
  else (s.setWinLine c.1 c.2.1 c.2.2.1 .recalled, [])

/-- Every copy of a C line but a core's own (and but one window line) handed to the home (R228): for a read, M data is written back and
the copy stays in S; for any other access, every copy goes.  The window lines whose write-back failed are answered. -/
def State.recallCopies (s : State) (l : Nat) (keep : Bool) (exceptCore : Option Nat) (exceptWin : Option (Nat × Nat × Nat)) :
    State × List LostLine :=
  let s := if keep then s else s.dropTile l
  let s := ((s.holders l).filter fun h => h.2.st.tracked && some h.1 ≠ exceptCore).foldl (fun s h => s.recallOne l keep h) s
  ((s.winsOver l).filter fun c => some (c.1, c.2.1, c.2.2.1) ≠ exceptWin).foldl
    (fun a c => let (s, f) := a.1.recallWin l keep c; (s, a.2 ++ f)) (s, [])

/-! ## Error records (R173, R225, R285) -/

/-- A record of R173. -/
structure ErrRec where
  va : DWord := 0
  pc : DWord := 0
  pix : Nat := 0
  core : Nat := 0
  slot : Nat := 0
  token : Nat := 0xFF
  status : Nat := 2
  cause : Nat := 0
  opcode : Nat := 0xFF
  queue : Nat := 0
deriving DecidableEq, Repr

/-- The 32 bytes of a record (R173). -/
def ErrRec.bytes (r : ErrRec) (vi : Nat) : List Byte :=
  leBytes 8 r.va.toNat ++ leBytes 8 r.pc.toNat ++ leBytes 4 r.pix ++ leBytes 2 r.core ++ leBytes 1 r.slot ++
  leBytes 1 r.token ++ leBytes 1 r.status ++ leBytes 1 r.cause ++ leBytes 1 r.opcode ++ leBytes 1 r.queue ++
  leBytes 2 vi ++ leBytes 2 0

/-- A byte stored at the home of a line. -/
def State.homeByte (s : State) (pa : Nat) (b : Byte) : State :=
  match SMap.find? s.counted (pa / 128) with
  | some c => { s with counted := SMap.put s.counted (pa / 128) { c with data := lineSet c.data (pa % 128) 1 b.toNat } }
  | none => { s with mem := Memory.setByte s.mem pa b }

/-- The bytes of a record written at a virtual address of a VI: all of them, or none when a page refuses (R285). -/
def State.writeRec (s : State) (vi : Nat) : Nat → List Byte → Option (State × List LostLine)
  | _, [] => some (s, [])
  | va, b :: t =>
    match s.translateHome vi va .wr with
    | .error _ => none
    | .ok x =>
      match s.writeRec vi (va + 1) t with
      | none => none
      | some (s, f) =>
        let (s, g) := if x.region = 2 then s.recallCopies x.line false none none else (s, [])
        some (s.homeByte x.pa b, f ++ g)

/-- A record posted to a VI's error queue, or dropped and counted in EQLOST (R285). -/
def State.postRec (s : State) (vi : Nat) (r : ErrRec) : State × List LostLine :=
  let v := s.vi vi
  let drop := s.updVi vi fun v => { v with eqlost := if v.eqlost = 0xFFFFFFFF then v.eqlost else v.eqlost + 1 }
  if v.eqsize < 4 || 16 < v.eqsize || 2 ^ v.eqsize ≤ (v.eqprod - v.eqcons).toNat then (drop, [])
  else
    match s.writeRec vi (v.eqbase.toNat + v.eqprod.toNat % 2 ^ v.eqsize * 32) (r.bytes vi) with
    | some (s, f) => (s.updVi vi fun v => { v with eqprod := v.eqprod + 1 }, f)
    | none => (drop, [])

/-- The record of a window line lost at a recall, which counts for the block's packet (R225).  No wave has issued that write-back: that the
record's wave slot is then 0 and its opcode 0xFF, as for the release of the stash, is the model's choice (log entry 76). -/
def State.postLost (s : State) (f : LostLine) : State × List LostLine :=
  let b := s.block f.blk
  let w : StashWin := SMap.get {} b.wins f.win
  let (s, g) := s.postRec b.vi { va := w.base + BitVec.ofNat 64 (128 * f.j), pix := w.off + 128 * f.j, core := b.core,
                                 cause := f.cause.code, queue := 0xFD }
  (s.updPkt b.packet fun p => { p with errors := p.errors + 1 }, g)

/-- The records of lost lines, and of the lines that are lost as these are written: each line is lost once, so that the bound, the
number of lines that all windows can hold, is not met. -/
def State.postLosts : Nat → State → List LostLine → State
  | 0, s, _ => s
  | _, s, [] => s
  | n + 1, s, f :: t => let (s, g) := s.postLost f; State.postLosts n s (t ++ g)

/-- The bound of R224: 160 cores of 7,168 stash lines. -/
def maxWinLines : Nat := 1146880

/-- The copies of a line handed to the home, with the records of the window lines whose write-back failed (R225, R228). -/
def State.takeBack (s : State) (l : Nat) (keep : Bool) (exceptCore : Option Nat) (exceptWin : Option (Nat × Nat × Nat)) : State :=
  let (s, f) := s.recallCopies l keep exceptCore exceptWin
  State.postLosts maxWinLines s f

/-- A record written to a VI's error queue (R285). -/
def State.putError (s : State) (vi : Nat) (r : ErrRec) : State :=
  let (s, f) := s.postRec vi r
  State.postLosts maxWinLines s f

/-- A line as an agent at the home reads it: on a C page every copy, in an L1 or in a window, is combined in first (R228). -/
def State.homeData (s : State) (x : Xlat) : LineData :=
  if x.region = 2 then (s.takeBack x.line true none none).homeLine x.line else s.homeLine x.line

/-! ## L2 tags, retention, spent marks (R231 to R237) -/

/-- The XOR of the successive n-bit fields of a number, from bit 0 up (R232). -/
def foldXor (n : Nat) : Nat → Nat → Nat
  | 0, _ => 0
  | fuel + 1, x => if x = 0 then 0 else (x % 2 ^ n) ^^^ foldXor n fuel (x / 2 ^ n)

/-- The key (slice * 1024 + set) of a line in a partition (R232). -/
def l2Key (part size line : Nat) : Nat :=
  let sl := 16 * size
  let n := sl * 1024
  let g := (line % n) ^^^ foldXor (bitLen n - 1) 64 (line / n)
  (16 * part + g % sl) * 1024 + g / sl

/-- The key of a line at a partition's slices, where the partition's L2 caches it (R232, R241, R266): a line of HBM or the capacity tier; no partition
of size 0 has a slice. -/
def State.l2KeyOf (s : State) (part line : Nat) : Option Nat :=
  match s.dev.target (line * 128) with
  | some (.hbm, _) | some (.cap, _) => if (s.part part).size = 0 then none else some (l2Key part (s.part part).size line)
  | _ => none

/-- The lowest-numbered retention slot of a VI whose physical range holds a line, with its effective budget: the budgets of all slots
together never exceed 8, and lower-numbered slots keep theirs first (R181). -/
def Vi.retSlot (v : Vi) (line : Nat) : Option (Nat × Nat) :=
  let go := (List.range 8).foldl (fun (acc : Nat × Option (Nat × Nat)) i =>
    let r := SMap.get {} v.ret i
    if r.used then
      let eff := min r.ways (8 - acc.1)
      (acc.1 + eff,
       if acc.2.isNone && r.ranges.any (fun g => g.1 ≤ line && line < g.1 + g.2) then some (i, eff) else acc.2)
    else acc) (0, none)
  go.2

/-- Bytes carried to or from HBM or a capacity device (R341 meters 13 and 14), 32 for each sector. -/
def State.chargeBytes (s : State) (vi line sectors : Nat) : State :=
  match s.dev.target (line * 128) with
  | some (.hbm, _) => s.addMeter vi 13 (32 * sectors)
  | some (.cap, _) => s.addMeter vi 14 (32 * sectors)
  | _ => s

/-- Bytes that a VI's work sends over the links (R341 meter 15): the payload of a request to another device. -/
def State.sendMeter (s : State) (vi : Nat) (t : Target) (n : Nat) : State :=
  match t with
  | .remote _ => s.addMeter vi 15 n
  | _ => s

/-- Where the capacity window stands in the physical map (R326). -/
def capBase : Nat := 0x100000000000

/-- The data of a line of the capacity tier reach its device, which holds them under the key of the VI that has the extent (R330, R331). -/
def State.toDevice (s : State) (line : Nat) : State :=
  if line * 128 < capBase || 2 * capBase ≤ line * 128 then s
  else match s.dev.extentAt (line * 128 - capBase) with
    | some e =>
      if e.gone then s
      else { s with
        capDev := Memory.setLine s.capDev line (s.homeLine line)
        atRest := SMap.put s.atRest line (e.vi, (s.vi e.vi).assigns) }
    | none => s

/-- The key of an assignment of a VI (R330): from the secret of this boot, the VI number and the count of its assignments. -/
def State.storageKey (s : State) (k : Nat × Nat) : BitVec 512 := Config.storageKey (Config.bootSecret s.dev.boots) k.1 k.2

/-- A line of a capacity device as a VI's key decrypts it (R330).  `capDev` keeps what the writer's key k gives; another key meets what that one
has encrypted, under the same tweak, the line's device physical address. -/
def State.decrypted (s : State) (vi line : Nat) (k : Nat × Nat) : LineData :=
  let d := Memory.line s.capDev line
  let mine := (vi, (s.vi vi).assigns)
  let tweak := line * 128 - capBase
  if k = mine then d else xtsLine true (s.storageKey mine) tweak (xtsLine false (s.storageKey k) tweak d)

/-- The lines of an extent as its VI now reads them from the device (R330); a line that an L2 holds stays as it is there. -/
def State.rekey (s : State) (vi base len : Nat) : State :=
  (s.atRest.filter fun p => capBase + base ≤ p.1 * 128 && p.1 * 128 < capBase + base + len &&
      !s.l2.any fun x => x.2.any fun w => w.line = p.1).foldl (fun s p =>
    { s with mem := Memory.setLine s.mem p.1 (s.decrypted vi p.1 p.2) }) s

/-- The number of sectors in a mask. -/
def popSectors (m : BitVec 4) : Nat := ((List.range 4).filter fun i => m.getLsbD i).length

/-- The index of the victim way of a full set (R233): a spent way, of several the one used last, which is the model's choice as is that an
empty way is taken while there is one (log entry 77); then evict-first, normal, evict-last, then the retained lines of
the highest-numbered slot; pinned and live counted lines never. -/
def victim (ws : List Way) : Option Nat :=
  let rank (w : Way) (i : Nat) : Option Nat :=
    if w.pins ≠ 0 || w.counted then none
    else if w.spent then some (1000 + i)
    else match w.slot with
      | some (_, k) => some (5000 + (8 - k) * 100 + (99 - i))
      | none =>
        match w.pol with
        | .first => some (2000 + (99 - i))
        | .normal | .none => some (3000 + (99 - i))
        | .last => some (4000 + (99 - i))
  ((minBy (fun p => p.1) (ws.zipIdx.filterMap fun p => (rank p.1 p.2).map fun r => (r, p.2)))).map (·.2)

/-- A spent mark put into a slice's spent table of 512 entries (R237). -/
def State.pushSpent (s : State) (key line : Nat) : State :=
  { s with spent := SMap.upd [] s.spent (key / 1024) fun t => (line :: t.filter (· != line)).take 512 }

/-- The copies of a line outside its home that hold data which the home does not (R226, R228): the partition and the VI of the first of
them, and the sectors concerned (R231). -/
def State.dirtyCopy (s : State) (l : Nat) : Option (Nat × Nat × BitVec 4) :=
  match (s.holders l).filter fun h => h.2.st.tracked && h.2.ahead != 0 with
  | h :: t => some (s.partOf h.1, h.2.vi, t.foldl (fun m x => m ||| x.2.ahead) h.2.ahead)
  | [] => ((s.winsOver l).find? fun c => c.2.2.2 = .dirty).map fun c => ((s.block c.1).part, (s.block c.1).vi, 15)

/-- Requests under way at a slice, or in a core's miss registers (R245): one beyond the limit takes the place of the oldest, which is served
first. -/
def State.request (s : State) (key limit n : Nat) : State :=
  if n = 0 then s
  else { s with inFlight := SMap.set 0 s.inFlight key (min limit (SMap.get 0 s.inFlight key + n)) }

/-- The miss entries of a slice (R245). -/
def sliceEntries : Nat := 1536

/-- The miss registers of a core (R245). -/
def coreRegisters : Nat := 512

/-- A line fetch or a write-back takes a miss entry of its slice (R245). -/
def State.sliceRequest (s : State) (key : Nat) : State := s.request (key / 1024) sliceEntries 1

/-- A way leaves a set (R228, R233, R235): copies of its line are recalled, dirty sectors are written back, a spent mark moves to the spent
table, a retained line counts as overflow. -/
def State.evictWay (s : State) (key : Nat) (w : Way) : State :=
  let s :=
    if w.spent then s.pushSpent key w.line
    else
      let dirty := w.dirty ||| (((s.dirtyCopy w.line).map fun x => x.2.2).getD 0)
      let s := (s.takeBack w.line false none none).chargeBytes w.vi w.line (popSectors dirty)
      if dirty = 0 then s else (s.sliceRequest key).toDevice w.line
  match w.slot with
  | some (v, k) => s.updVi v fun x =>
      { x with ret := SMap.upd {} x.ret k fun r => { r with ovf := (r.ovf + 1) % 2 ^ 48 } }
  | none => s

/-- A line put first into a set, after a victim has left it when 16 ways are in use. -/
def State.insertWay (s : State) (key : Nat) (w : Way) : State :=
  let ws := SMap.get [] s.l2 key
  if ws.length < 16 then { s with l2 := SMap.put s.l2 key (w :: ws) }
  else match victim ws with
    | some i =>
      let s := match ws[i]? with | some v => s.evictWay key v | none => s
      { s with l2 := SMap.put s.l2 key (w :: ws.eraseIdx i) }
    | none => s

/-- A count of the retention slot that holds a line (R235). -/
def State.retCount (s : State) (vi : Nat) (slot : Option (Nat × Nat)) (f : Retention → Retention) : State :=
  match slot with
  | some (k, _) => s.updVi vi fun x => { x with ret := SMap.upd {} x.ret k f }
  | none => s

/-- A line whose place among the victims does not change when it is used: evict-first and retained lines go oldest first (R233). -/
def Way.keepsPlace (w : Way) : Bool := w.slot.isSome || w.pol = .first

/-- A hit at L2: the line becomes the most recently used one, and a read fetches the sectors that it lacks (R231, R233). -/
def State.l2Hit (s : State) (key vi line : Nat) (sectors : BitVec 4) (write : Bool) (w : Way) : State :=
  let ws := SMap.get [] s.l2 key
  let w' := { w with valid := w.valid ||| sectors, dirty := if write then w.dirty ||| sectors else w.dirty }
  let miss : BitVec 4 := if write then 0 else sectors &&& ~~~w.valid
  let s := s.chargeBytes vi line (popSectors miss)
  let s := if miss = 0 then s else s.sliceRequest key
  let set := if w.keepsPlace then ws.map fun x => if x.line = line then w' else x else w' :: ws.filter fun x => x.line != line
  { s with l2 := SMap.put s.l2 key set }

/-- A spent way that a plain access meets is given up, and its mark moves to the spent table (R237); a way that a fill has reserved stays. -/
def State.dropSpent (s : State) (key line : Nat) : State :=
  let ws := SMap.get [] s.l2 key
  if ws.any (fun w => w.line = line && w.spent) then
    let set := (ws.filter fun x => x.line != line || x.counted).map fun x => if x.line = line then { x with spent := false } else x
    { s.pushSpent key line with l2 := SMap.put s.l2 key set }
  else s

/-- The lines of a set that are retained. -/
def retainedOf (ws : List Way) : Nat := (ws.filter fun w => w.slot.isSome).length

/-- Where a set already retains 8 lines, the retained line that makes way for one of slot k of a VI (R181): one of the highest-numbered slot
above k, or of another VI. -/
def makeWay (vi k : Nat) (ws : List Way) : Option Nat :=
  (minBy (fun w => 100 - (match w.slot with | some (v, j) => if v = vi then j else 50 + j | none => 0))
    (ws.filter fun w => match w.slot with | some (v, j) => v != vi || k < j | none => false)).map fun w => w.line

/-- The set of a new line of slot k, whose budget is n, when the line can be retained (R181, R234): the slot has a way left, and the set
retains at most 8 lines with it. -/
def retainIn (vi k n : Nat) (ws : List Way) : Option (List Way) :=
  if n ≤ (ws.filter fun w => w.slot = some (vi, k)).length then none
  else if retainedOf ws < 8 then some ws
  else (makeWay vi k ws).map fun l => ws.map fun w => if w.line = l then { w with slot := none } else w

/-- A line put into L2 after a miss, under the slot that retains it when its budget has a way left, else as overflow (R181, R233, R235). -/
def State.l2Fill (s : State) (key vi line : Nat) (sectors : BitVec 4) (write : Bool) (pol : Policy) (slot : Option (Nat × Nat)) : State :=
  let room := slot.bind fun p => retainIn vi p.1 p.2 (SMap.get [] s.l2 key)
  let retained := if room.isSome then slot else none
  let s := match room with
    | some ws => if (SMap.get [] s.l2 key) = ws then s else { s with l2 := SMap.put s.l2 key ws }
    | none => s.retCount vi slot fun r => { r with ovf := (r.ovf + 1) % 2 ^ 48 }
  s.insertWay key
    { line := line, pol := pol, slot := retained.map fun p => (vi, p.1), valid := sectors, dirty := if write then sectors else 0, vi := vi }

/-- The sectors of a request that the operation in progress has not asked for yet (R231): the coalescer merges the lanes of one instruction
into one request for each sector, and all of a line into one line access (R235). -/
def State.newSectors (s : State) (line : Nat) (sectors : BitVec 4) : BitVec 4 :=
  match s.asked with
  | none => sectors
  | some l => (List.range 4).foldl (fun m i => if l.contains (4 * line + i) then m &&& ~~~(1#4 <<< i) else m) sectors

/-- The operation in progress has asked for a line already. -/
def State.hasAsked (s : State) (line : Nat) : Bool := s.asked.any fun l => l.any fun x => x / 4 = line

/-- The sectors of a request are noted for the operation in progress. -/
def State.ask (s : State) (line : Nat) (sectors : BitVec 4) : State :=
  { s with asked := s.asked.map fun l => ((List.range 4).filter fun i => sectors.getLsbD i).map (4 * line + ·) ++ l }

/-- A line access at L2 (R231, R233, R235): the tags, the bytes that a miss fetches, and with `counts` HIT, MISS and OVF.  A plain access to a spent
line behaves as a miss (R237), and so does one that finds a tag without data, which stands for copies elsewhere (R228); a line that comes in
takes the tag's place. -/
def State.l2Touch (s : State) (counts : Bool) (part vi line : Nat) (sectors : BitVec 4) (write : Bool) (pol : Policy) : State :=
  let again := s.hasAsked line || !counts
  let fresh := s.newSectors line sectors
  let s := s.ask line sectors
  let count (s : State) (slot : Option (Nat × Nat)) (f : Retention → Retention) := if again then s else s.retCount vi slot f
  match s.l2KeyOf part line with
  | some key =>
    let slot := (s.vi vi).retSlot line
    match (SMap.get [] s.l2 key).find? fun w => w.line = line && !w.spent && w.valid != 0 with
    | some w => (count s slot fun r => { r with hit := (r.hit + 1) % 2 ^ 48 }).l2Hit key vi line sectors write w
    | none =>
      let s := (count s slot fun r => { r with miss := (r.miss + 1) % 2 ^ 48 }).dropSpent key line
      match (SMap.get [] s.l2 key).find? fun w => w.line = line && (w.valid != 0 || w.counted || w.pins != 0 || sectors = 0) with
      | some w => s.l2Hit key vi line sectors write w
      | none =>
        let n := if write && pol != .none then 0 else popSectors fresh
        let s := s.chargeBytes vi line n
        let s := if n = 0 then s else s.sliceRequest key
        if pol = .none then s
        else ({ s with l2 := SMap.upd [] s.l2 key fun ws => ws.filter fun w => w.line != line }).l2Fill key vi line sectors write pol slot
  | none => s

/-- One line access that R235 counts. -/
def State.l2Access (s : State) (part vi line : Nat) (sectors : BitVec 4) (write : Bool) (pol : Policy) : State :=
  s.l2Touch true part vi line sectors write pol

/-- A line whose copies the directory comes to record has a tag in L2 (R228), without data where the access brings none in. -/
def State.dirTag (s : State) (part vi line : Nat) : State :=
  match s.l2KeyOf part line with
  | some key => if (SMap.get [] s.l2 key).any (fun w => w.line = line && !w.spent) then s else (s.dropSpent key line).insertWay key { line := line, vi := vi }
  | none => s

/-- A line access at L2 that moves no line, counted as HIT or MISS (R235): `here` says that L2 holds the line's data. -/
def State.countLine (s : State) (vi line : Nat) (here : Bool) : State :=
  if s.hasAsked line then s
  else s.retCount vi ((s.vi vi).retSlot line) fun r =>
    if here then { r with hit := (r.hit + 1) % 2 ^ 48 } else { r with miss := (r.miss + 1) % 2 ^ 48 }

/-- L2 holds data of a line. -/
def State.inL2 (s : State) (part line : Nat) : Bool :=
  (s.l2KeyOf part line).any fun key => (SMap.get [] s.l2 key).any fun w => w.line = line && !w.spent && w.valid != 0

/-- A line is of the memory that L2 caches: HBM or the capacity tier (R241, R266). -/
def State.cacheable (s : State) (line : Nat) : Bool :=
  match s.dev.target (line * 128) with
  | some (.hbm, _) | some (.cap, _) => true
  | _ => false

/-- A line written back to its slice by an L1 or a window (R231): its sectors become dirty there, and neither HIT nor MISS counts it
(R235). -/
def State.l2Write (s : State) (part vi line : Nat) (sectors : BitVec 4) : State :=
  match s.l2KeyOf part line with
  | some key =>
    let s := s.dropSpent key line
    if (SMap.get [] s.l2 key).any fun w => w.line = line then
      { s with l2 := SMap.upd [] s.l2 key fun ws => ws.map fun w => if w.line = line then { w with valid := w.valid ||| sectors, dirty := w.dirty ||| sectors } else w }
    else
      let s := s.l2Fill key vi line sectors true .normal ((s.vi vi).retSlot line)
      if s.inL2 part line then s else s.toDevice line
  | none => s

/-- A recall (R228): the copies of a line go to the home, and data that was dirty makes the line dirty in L2. -/
def State.recall (s : State) (l : Nat) (keep : Bool) (exceptCore : Option Nat) (exceptWin : Option (Nat × Nat × Nat)) : State :=
  match s.dirtyCopy l with
  | some x => (s.takeBack l keep exceptCore exceptWin).l2Write x.1 x.2.1 l x.2.2
  | none => s.takeBack l keep exceptCore exceptWin

/-- The sectors that n bytes from an address touch. -/
def sectorsOf (a n : Nat) : BitVec 4 :=
  (List.range 4).foldl (fun m i => if a % 128 < 32 * (i + 1) && 32 * i < a % 128 + n then m ||| (1#4 <<< i) else m) 0

/-! ## Translation of a core's accesses (R158, R227, R313, R314) -/

/-- A page belongs to a core, which becomes its owner when it has none (R227): whether it does, and the state. -/
def State.ownPage (s : State) (core vi : Nat) (x : Xlat) : Bool × State :=
  match SMap.find? (s.vi vi).owners x.page with
  | none => (true, s.updVi vi fun v => { v with owners := SMap.put v.owners x.page ⟨core, x.size, x.pa - x.pa % 2 ^ x.size⟩ })
  | some o => (o.core = core, s)

/-- The entries that a walk reads, by address (R313). -/
def walkReads (rd : Nat → Nat) (va : Nat) : List (Nat × Nat × Bool × Nat) → Nat → List Nat
  | [], _ => []
  | (sh, bits, _, al) :: rest, tbl =>
    let a := tbl + 8 * (va / 2 ^ sh % 2 ^ bits)
    let e := rd a
    if entryBad e || e / 2 % 2 = 1 || al = 0 || entryAddr e % al != 0 then [a] else a :: walkReads rd va rest (entryAddr e)

/-- A walk reads its tables at L2, whatever it ends in, as far as it can read them: the home recalls the copies of their lines first (R228, R229, R235, R314). -/
def State.walkL2 (s : State) (part vi va : Nat) : State :=
  if canonical va then
    ((walkReads (s.tableEntry vi) (va % 2 ^ 57) walkLevels (s.vi vi).root.toNat).filterMap (s.tableAt vi)).foldl (fun s a =>
      (s.recall (a / 128) true none none).l2Access part vi (a / 128) (sectorsOf a 8) false .normal) s
  else s

/-- The walk of a core's translation, where no TLB holds the page (R314). -/
def State.walked (s : State) (core vi va : Nat) : State :=
  if (s.tlbLookup core vi va).isSome then s else s.walkL2 (s.partOf core) vi va

/-- The walk of an access that a fault has kept from being performed (R314). -/
def State.walkedFor (s : State) (core vi : Nat) (r : Raise) : State :=
  match r.cause with
  | .translate | .protect | .region | .extentgone => if r.val.toNat < 0xFFFFFF0000000000 then s.walked core vi r.val.toNat else s
  | _ => s

/-- Translation of a core's access with a walk where no TLB holds the page (R158, R313, R314): the causes TRANSLATE, PROTECT, REGION
and EXTENTGONE, and the first owner of a P page (R227). -/
def State.translate (s : State) (core vi va : Nat) (need : Need) : Except Raise (Xlat × State) :=
  let fail : Except Raise (Xlat × State) := .error ⟨.translate, BitVec.ofNat 64 va⟩
  let go (pte size : Nat) (s : State) : Except Raise (Xlat × State) :=
    match s.xlatOf va pte size with
    | none => fail
    | some x =>
      let (owned, t) := if x.region = 0 && need != .fetch && need != .any then s.ownPage core vi x else (true, s)
      match s.accessFault vi x (need.ok pte) owned with
      | some c => .error (x.fault va c)
      | none => .ok (x, t)
  match s.tlbLookup core vi va with
  | some e => go e.pte.toNat e.size (s.tlbFill core e)
  | none =>
    match s.walk vi va with
    | none => fail
    | some (pte, size) => go pte size ((s.walked core vi va).tlbFill core ⟨vi, va - va % 2 ^ size, size, BitVec.ofNat 64 pte⟩)

/-! ## Accesses of a core to a global line (R227 to R230, R163, R171) -/

/-- Who accesses: the core, its VI and partition, the block, and the insertion policy (R233). -/
structure Agent where
  core : Nat
  vi : Nat
  part : Nat
  blk : Nat
  pol : Policy := .normal
deriving DecidableEq, Repr

/-- A core's L1 line leaves: dirty data goes to the home, a U copy is combined (R183, R228). -/
def State.flushL1 (s : State) (core l : Nat) : State :=
  match SMap.find? (s.core core).l1 l with
  | some y =>
    match y.st with
    | .m | .pDirty | .u _ => ((s.handIn l y).setL1 core l none).l2Write (s.partOf core) y.vi l y.ahead
    | _ => s.setL1 core l none
  | none => s

/-- A core's dirty L1 line written to the home and kept clean; a U copy is handed to the home (R183, R262). -/
def State.cleanL1 (s : State) (core l : Nat) : State :=
  match SMap.find? (s.core core).l1 l with
  | some y =>
    let leave (x : Option L1Line) : State := ((s.handIn l y).setL1 core l x).l2Write (s.partOf core) y.vi l y.ahead
    match y.st with
    | .m => leave (some { y with st := .e, dirty := 0 })
    | .pDirty => leave (some { y with st := .pClean, dirty := 0 })
    | .u _ => leave none
    | _ => s
  | none => s

/-- The sets of 8 ways of an L1 of 1 MiB less the stash part (R224); a line goes to the set of its number modulo their number (log entry 63). -/
def Core.l1Sets (k : Core) : Nat := (1048576 - k.split) / 1024

/-- The line that leaves L1 when another comes in: none while its set has a way free, else the first of the set by age (log entry 63). -/
def Core.l1Victim (k : Core) (l : Nat) : Option Nat :=
  let held := (keysOf k.l1).filter fun x => x % k.l1Sets = l % k.l1Sets
  if (SMap.find? k.l1 l).isSome || held.length < 8 then none
  else (k.l1Age.find? held.contains).or held.head?

/-- A line put into a core's L1; a line of the evict-first policy is the next victim of its set (R161, R224). -/
def State.putL1 (s : State) (g : Agent) (l : Nat) (y : L1Line) : State :=
  let s := match (s.core g.core).l1Victim l with
    | some v => s.flushL1 g.core v
    | none => s
  if (SMap.find? (s.core g.core).l1 l).isSome then s.setL1 g.core l (some y)
  else s.updCore g.core fun k =>
    { k with l1 := SMap.put k.l1 l y, l1Age := if g.pol = .first then l :: k.l1Age.erase l else k.l1Age.erase l ++ [l] }

/-- A line of a C page has a copy outside its home: in an L1, a window or a tile fetch unit's buffer (R226, R228, R240). -/
def State.shared (s : State) (l : Nat) : Bool :=
  (s.holders l).any (fun h => h.2.st.tracked) || !(s.winsOver l).isEmpty || s.cores.any fun p => p.2.tile.any fun x => x.line = l

/-- A copy as far as a request needs it: the sectors that it lacks come from L2 (R224, R231), with an uncorrectable error of the line
(R243).  A copy that the directory records has a tag in L2, which a no-allocate access leaves without data (R228, R233). -/
def State.fillSectors (s : State) (g : Agent) (l : Nat) (sec : BitVec 4) (y : L1Line) : L1Line × State :=
  let m := y.lacks sec
  if m = 0 then (y, s)
  else
    let s := s.l2Access g.part g.vi l m false g.pol
    let s := if g.pol = .none && y.st.tracked then s.dirTag g.part g.vi l else s
    ({ y with valid := y.valid ||| m, data := mergeSectors m y.data (s.homeLine l), bad := (y.bad && y.valid != 0) || s.bad.contains l }, s)

/-- A line that L1 does not hold yet. -/
def Agent.newLine (g : Agent) (st : L1State) : L1Line := { st := st, data := 0, vi := g.vi, valid := 0 }

/-- A line of a C page brought into a core's L1 for a plain read: S when another core holds a copy, E otherwise (R228). -/
def State.fillC (s : State) (g : Agent) (l : Nat) (sec : BitVec 4) : L1Line × State :=
  match SMap.find? (s.core g.core).l1 l with
  | some x =>
    let (y, s) := if x.st.isU then (s.recall l false none none).fillSectors g l sec (g.newLine .e) else s.fillSectors g l sec x
    (y, s.putL1 g l y)
  | none =>
    let s := s.recall l true (some g.core) none
    let (y, s) := s.fillSectors g l sec (g.newLine (if s.shared l then .s else .e))
    (y, s.putL1 g l y)

/-- A line of a C page held in M by a core, every other copy invalidated (R228).  The upgrade from S is a request to L2 (R235). -/
def State.ownC (s : State) (g : Agent) (l : Nat) (sec : BitVec 4) : L1Line × State :=
  let own (p : L1Line × State) : L1Line × State := ({ p.1 with st := .m }, p.2)
  let fresh : L1Line × State := own ((s.recall l false none none).fillSectors g l sec (g.newLine .m))
  match SMap.find? (s.core g.core).l1 l with
  | some x =>
    match x.st with
    | .m | .e => own (s.fillSectors g l sec x)
    | .s =>
      let s := s.recall l false (some g.core) none
      let s := if x.lacks sec = 0 then s.l2Access g.part g.vi l 0 false g.pol else s
      own (s.fillSectors g l sec x)
    | _ => fresh
  | none => fresh

/-- A line that no L1 and no window copies: a live counted line (R236), or one that another device owns (R266). -/
def State.uncached (s : State) (x : Xlat) : Bool :=
  (SMap.find? s.counted x.line).isSome || (match x.target with | .remote _ => true | _ => false)

/-- What a read of some sectors finds of a copy of an RS or P page, which nothing keeps coherent: one `home` reads at the line's holder (R163, R227),
but for the sectors that the core itself has written. -/
def L1Line.forRead (y : L1Line) (sec : BitVec 4) (home : Bool) : L1Line :=
  if home then { y with valid := y.valid &&& ~~~(sec &&& ~~~y.dirty) } else y

/-- A read of n bytes by a core.  `home` reads at the line's holder or in a coherent copy (R163). -/
def State.readGlobal (s : State) (g : Agent) (x : Xlat) (n : Nat) (home : Bool) : Nat × State :=
  let l := x.line
  let off := x.pa % 128
  let sec := sectorsOf x.pa n
  if s.uncached x then
    let s := s.l2Access g.part g.vi l sec false .none
    (lineGet (s.homeLine l) off n, s)
  else if x.region = 2 then
    let (y, s) := s.fillC g l sec
    (lineGet y.data off n, s)
  else
    let fresh := g.newLine (if x.region = 1 then .rs else .pClean)
    let (z, s) := s.fillSectors g l sec (((SMap.find? (s.core g.core).l1 l).getD fresh).forRead sec home)
    (lineGet z.data off n, s.putL1 g l z)

/-- The data of a line as an agent at the home reads it have an uncorrectable error, the home's or that of the copy which it recalls (R243). -/
def State.badHome (s : State) (x : Xlat) : Bool :=
  s.bad.contains x.line || (x.region = 2 && (s.holders x.line).any fun h => h.2.st.tracked && h.2.bad && h.2.ahead != 0)

/-- The data that a core's read finds has an uncorrectable error (R243): its own copy when that serves it, else the line at its home, or the
copy that the home recalls. -/
def State.badFor (s : State) (g : Agent) (x : Xlat) (n : Nat) (home : Bool) : Bool :=
  let l := x.line
  let away := s.badHome x
  let sec := sectorsOf x.pa n
  match if s.uncached x then none else (SMap.find? (s.core g.core).l1 l).map fun y => y.forRead sec (home && x.region != 2) with
  | some y => (y.bad && sec &&& y.valid != 0) || ((y.st.isU || y.lacks sec != 0) && away)
  | none => away

/-- A write of n bytes at the home: copies are recalled first; what L2 does not take goes on to the device. -/
def State.writeHome (s : State) (g : Agent) (x : Xlat) (n v : Nat) : State :=
  let l := x.line
  let s := if x.region = 2 then s.recall l false none none else s.dropTile l
  let s := (s.l2Access g.part g.vi l (sectorsOf x.pa n) true g.pol).sendMeter g.vi x.target n
  match SMap.find? s.counted l with
  | some c => { s with counted := SMap.put s.counted l { c with data := lineSet c.data (x.pa % 128) n v } }
  | none =>
    let s := { s with mem := Memory.write s.mem x.pa n v }
    if x.target != .cap || s.inL2 g.part l then s else s.toDevice l

/-- A store of n bytes by a core (R227): write-back in M for a C page, written through with its own copy updated for an RS page,
write-back in L1 for a P page. -/
def State.writeGlobal (s : State) (g : Agent) (x : Xlat) (n v : Nat) : State :=
  let l := x.line
  let off := x.pa % 128
  if s.uncached x then s.writeHome g x n v
  else if x.region = 2 then
    let (y, s) := s.ownC g l (sectorsOf x.pa n)
    s.putL1 g l { y with data := lineSet y.data off n v, dirty := y.dirty ||| sectorsOf x.pa n }
  else if x.region = 1 then
    let s := s.writeHome g x n v
    match SMap.find? (s.core g.core).l1 l with
    | some y => s.setL1 g.core l (some { y with data := lineSet y.data off n v })
    | none => s
  else
    let s := (s.readGlobal g x n false).2
    match SMap.find? (s.core g.core).l1 l with
    | some y => s.setL1 g.core l (some { y with
        st := .pDirty, data := lineSet y.data off n v, vi := g.vi, dirty := y.dirty ||| sectorsOf x.pa n })
    | none => s

/-- Before a core gets a U copy for an operation, the home takes back every copy but the U copies for the same operation (R171, R229). -/
def State.recallForU (s : State) (l : Nat) (op : AtomOp) : State :=
  let dirty := ((s.holders l).any fun h => h.2.st = .m || (h.2.st.isU && h.2.st != .u op)) || (s.winsOver l).any fun c => c.2.2.2 = .dirty
  let who := s.dirtyCopy l
  let s := s.dropTile l
  let s := ((s.holders l).filter fun h => h.2.st.tracked && h.2.st != .u op).foldl (fun s h => s.recallOne l false h) s
  let (s, f) := (s.winsOver l).foldl (fun a c => let (s, f) := a.1.recallWin l false c; (s, a.2 ++ f)) (s, ([] : List LostLine))
  let s := State.postLosts maxWinLines s f
  match who with
  | some w => if dirty then s.l2Write w.1 w.2.1 l w.2.2 else s
  | none => s

/-- An atomic by a core: the old value and the state (R169, R171).  `near` allows L1 in E or M, `red` a U copy. -/
def State.atomGlobal (s : State) (g : Agent) (x : Xlat) (op : AtomOp) (v expected : Nat) (near red : Bool) : Nat × State :=
  let l := x.line
  let off := x.pa % 128
  let n := atomSize op
  let far (s : State) : Nat × State :=
    let s := if x.region = 2 then s.recall l false none none else s
    let old := lineGet (s.homeLine l) off n
    let s := s.writeHome g x n (atomNew op old v expected)
    (old, if x.region = 1 then s.setL1 g.core l none else s)
  let grant (s : State) : Nat × State :=
    -- the request reaches the home, whose tag holds the directory's entry (R228, R235)
    let s := (s.recallForU l op).l2Access g.part g.vi l 0 false (if g.pol = .none then .normal else g.pol)
    (0, s.putL1 g l { g.newLine (.u op) with
      data := lineSet (identityLine op) off n (atomNew op (atomIdentity op) v 0), touched := [off], valid := 15 })
  if s.uncached x then far s
  else if x.region = 0 then
    let (old, s) := s.readGlobal g x n false
    (old, s.writeGlobal g x n (atomNew op old v expected))
  else if x.region = 2 then
    match (SMap.find? (s.core g.core).l1 l) with
    | some y =>
      if near && (y.st = .e || y.st = .m) then
        let (y, s) := s.fillSectors g l (sectorsOf x.pa n) y
        let old := lineGet y.data off n
        (old, s.setL1 g.core l (some { y with
          st := .m, data := lineSet y.data off n (atomNew op old v expected), dirty := y.dirty ||| sectorsOf x.pa n }))
      else if red && y.st = .u op then
        let old := lineGet y.data off n
        (0, s.setL1 g.core l (some { y with data := lineSet y.data off n (atomNew op old v 0), touched := if y.touched.contains off then y.touched else off :: y.touched }))
      else if red && y.st.isU then grant s
      else far s
    | none =>
      if red then grant s else far s
  else far s

/-! ## Window write-backs -/

/-- Write-back of one window line to its global page (R225): it faults where the page cannot be written, or its bytes have an uncorrectable
error; a P page is the block's core's, or becomes so (R227). -/
def State.winWriteBack (s : State) (blk win j : Nat) : Except Raise State :=
  let b := s.block blk
  let w := SMap.get {} b.wins win
  let va := w.base.toNat + 128 * j
  match s.walk b.vi va with
  | none => .error ⟨.translate, BitVec.ofNat 64 va⟩
  | some (pte, size) =>
    match s.xlatOf va pte size with
    | none => .error ⟨.translate, BitVec.ofNat 64 va⟩
    | some x =>
      let s := s.walkL2 b.part b.vi va
      let (owned, t) := if x.region = 0 then s.ownPage b.core b.vi x else (true, s)
      match if b.bad.contains ((w.off + 128 * j) / 128) then some .mcheck else s.accessFault b.vi x (Need.wr.ok pte) owned with
      | some c => .error (x.fault va c)
      | none =>
        let s := if x.region = 2 then t.recall x.line false none (some (blk, win, j)) else t
        .ok (((s.winWriteHome blk win j x.line).l2Write b.part b.vi x.line 15).sendMeter b.vi x.target 128)

end Sys2Proof.Machine
end

