-- ==== Sys2Proof/Machine/Perform.lean ====
section
/-! DEFINITION. Performing memory operations: accesses by virtual address (R267), acquires and releases (R161, R252, R262), stash and window
accesses (R157, R258), consuming accesses (R164), futures (R167, R168), and a whole vector or scalar memory operation (R159, R160). -/

namespace Sys2Proof.Machine

/-! ## Accesses by virtual address -/

/-- Bytes written at a virtual address of a VI by an agent of .sys: all of them, or none when a page refuses (R267, R285). -/
def State.writeVirt (s : State) (vi : Nat) : Nat → List Byte → Except Raise State
  | _, [] => .ok s
  | va, b :: t =>
    match s.translateHome vi va .wr with
    | .error r => .error r
    | .ok x =>
      match s.writeVirt vi (va + 1) t with
      | .error r => .error r
      | .ok s' =>
        let s' := if x.region = 2 then s'.recall x.line false none none else s'
        .ok (s'.homeByte x.pa b)

/-- n bytes read at a virtual address of a VI at the home (R227, R267). -/
def State.readVirt (s : State) (vi : Nat) : Nat → Nat → Except Raise (List Byte)
  | _, 0 => .ok []
  | va, n + 1 =>
    match s.translateHome vi va .rd with
    | .error r => .error r
    | .ok x =>
      if s.badHome x then .error (x.fault va .mcheck)
      else match s.readVirt vi (va + 1) n with
        | .error r => .error r
        | .ok t => .ok (BitVec.ofNat 8 (lineGet (s.homeData x) (x.pa % 128) 1) :: t)

/-- The page walks of an access at the home, one for each page of 64 KiB (R235, R312). -/
def State.walkVirt (s : State) (part vi va n : Nat) : State :=
  (List.range ((va % 65536 + n + 65535) / 65536)).foldl (fun s i => s.walkL2 part vi (va - va % 65536 + 65536 * i)) s

/-- The lines of n bytes at a virtual address, each with the address and the number of those that it holds. -/
def State.linesVirt (s : State) (vi va n : Nat) (f : State → Xlat → Nat → Nat → State) : State :=
  (List.range ((va % 128 + n + 127) / 128)).foldl (fun s i =>
    let a := va - va % 128 + 128 * i
    let lo := max va a
    match s.translateHome vi a .any with
    | .ok x => f s x lo (min (va + n) (a + 128) - lo)
    | .error _ => s) s

/-- The lines of n bytes that an agent at the home has read or written reach L2 (R235): their copies are recalled first (R228). -/
def State.countVirt (s : State) (part vi va n : Nat) (write : Bool) : State :=
  (s.walkVirt part vi va n).linesVirt vi va n fun s x lo len =>
    ((if x.region = 2 then s.recall x.line (!write) none none else s).l2Access part vi x.line (sectorsOf lo len) write .normal).sendMeter vi
      x.target (if write then len else 0)

/-- The same for the dispatcher and firmware, whose own accesses no slot counts (R235): their walks do, their accesses recall copies (R228), meet
the tags and take their share of the meters (R237, R341). -/
def State.homeVirt (s : State) (part vi va n : Nat) (write : Bool := false) : State :=
  (s.walkVirt part vi va n).linesVirt vi va n fun s x lo len =>
    ((if x.region = 2 then s.recall x.line (!write) none none else s).l2Touch false part vi x.line (sectorsOf lo len) write .normal).sendMeter vi
      x.target (if write then len else 0)

/-- A read at the home that stops: one that has met an error has reached L2 (R235, R243), one that a page refuses has made its walks alone. -/
def State.stoppedVirt (s : State) (part vi va n : Nat) (r : Raise) : State :=
  if r.cause = .mcheck then s.countVirt part vi va n false else s.walkVirt part vi va n

/-- n bytes that the dispatcher or firmware reads at the home, and the state that the access leaves: one that a page refuses makes its walks
alone. -/
def State.fetchVirt (s : State) (part vi va n : Nat) : State × Option (List Byte) :=
  match s.readVirt vi va n with
  | .ok l => (s.homeVirt part vi va n, some l)
  | .error r => (if r.cause = .mcheck then s.homeVirt part vi va n else s.walkVirt part vi va n, none)

/-- Bytes that the dispatcher or firmware writes at the home: all of them, or none with the walks alone. -/
def State.postVirt (s : State) (part vi va : Nat) (l : List Byte) : State :=
  match s.writeVirt vi va l with
  | .ok s => s.homeVirt part vi va l.length true
  | .error _ => s.walkVirt part vi va l.length

/-! ## Faults reach the trap logic -/

/-- A fault ranks before another one that reaches the trap logic in the same cycle: by its code, then by its strand slot (R301). -/
def FaultRec.ranksBefore (a b : FaultRec) : Bool :=
  a.cause.code < b.cause.code || (a.cause.code = b.cause.code && a.strand < b.strand)

/-- A fault that is not the one taken stays pending in its strand, behind those that already are (R301, R302). -/
def Strand.addPend (st : Strand) (f : FaultRec) : Strand := { st with pend := st.pend ++ [f] }

/-- A strand with a pending fault shows park condition 12 (R301), once it has completed a prefix that it has begun (R214). -/
def Strand.parkPend (st : Strand) : Strand :=
  if !st.pend.isEmpty && st.pfx.isNone then { st with state := .parked, park := .fault, parkI := none } else st

/-- A fault that reaches a wave's trap logic (R301): the first is latched, and of those of one cycle the one that ranks first; one that
meets a latched fault, or a halted wave, stays pending in its strand. -/
def Wave.latchFault (w : Wave) (cycle : Nat) (f : FaultRec) : Wave :=
  let pend (w : Wave) (f : FaultRec) : Wave := w.updStrand f.strand fun st => (st.addPend f).parkPend
  if w.halted && f.strand != 8 then pend w f
  else match w.latched with
    | none => { w with latched := some f, latchedAt := cycle }
    | some g => if w.latchedAt = cycle && f.ranksBefore g then pend { w with latched := some f } g else pend w f

/-- A fault of a strand of a wave. -/
def State.latch (s : State) (core slot : Nat) (f : FaultRec) : State :=
  s.updWave core slot fun w => w.latchFault (s.cycle w.part) f

/-- An error noted by a strand, raised at its next reporting point (R164, R200, R299). -/
def State.note (s : State) (core slot n : Nat) (x : Note) : State :=
  s.updStrand core slot n fun st => { st with noted := st.noted ++ [x] }

/-! ## Stash accesses -/

/-- The offset of a stash address (R157). -/
def stashOff (a : Nat) : Option Nat :=
  if 0xFFFFFF0000000000 ≤ a && a < 0xFFFFFF0000200000 then some (a - 0xFFFFFF0000000000) else none

/-- The block whose stash an offset names, and the offset in it; `none` outside the configured stash of that block, or of a peer that
does not exist (R157). -/
def State.stashAt (s : State) (blk off n : Nat) : Option (Nat × Nat) :=
  let b := s.block blk
  if off < 0x100000 then (if off + n ≤ b.desc.stash then some (blk, off) else none)
  else match b.peer with
    | some p => if off - 0x100000 + n ≤ (s.block p).desc.stash then some (p, off - 0x100000) else none
    | none => none

/-- A core's translation of an address as a TLB or the tables give it now, whatever it permits; a page of another partition's HBM is none
(R296). -/
def State.pageOf (s : State) (core vi va : Nat) : Option Xlat :=
  (match s.tlbLookup core vi va with
    | some e => s.xlatOf va e.pte.toNat e.size
    | none => (s.walk vi va).bind fun p => s.xlatOf va p.1 p.2).filter fun x => !s.otherHbm vi x

/-- A window line becomes valid and clean with its bytes, over a physical line of a region (R225, R226). -/
def State.fillWin (s : State) (owner wn j : Nat) (x : Option Xlat) (d : Nat) : State :=
  let off := (SMap.get {} (s.block owner).wins wn : StashWin).off + 128 * j
  let s := (s.updBlock owner fun b =>
    { b with stash := Memory.write b.stash off 128 d, bad := b.bad.filter (· != off / 128) }).setWinLine owner wn j .clean
  s.setWinPhys owner wn j (match x with | some x => (x.line, x.region) | none => (0, 3))

/-- A window line over a P page is an access of the block's core, the page's owner or its first (R226, R227). -/
def State.winOwned (s : State) (owner wn j va : Nat) : Bool × State :=
  let b := s.block owner
  if (s.winPhys b.vi (SMap.get {} b.wins wn) j).2 = 0 then
    match s.pageOf b.core b.vi va with
    | some x => if x.region = 0 then s.ownPage b.core b.vi x else (true, s)
    | none => (true, s)
  else (true, s)

/-- The window line under a stash access made valid, and dirty for a store (R177, R225, R226).  A line that no window copies (R236, R266) is
answered, and the access is made at its home. -/
def State.winTouch (s : State) (owner off : Nat) (write : Bool) : Except Raise (Option Xlat × State) :=
  let b := s.block owner
  match b.winAt off with
  | none => .ok (none, s)
  | some (wn, w) =>
    let j := (off - w.off) / 128
    let va := w.base.toNat + 128 * j
    let me := some (owner, wn, j)
    let dirty (s : State) : Except Raise (Option Xlat × State) :=
      if write then
        let b := s.block owner
        let p := s.winPhys b.vi (SMap.get {} b.wins wn) j
        let s := if p.2 = 2 then s.recall p.1 false none me else s
        .ok (none, s.setWinLine owner wn j .dirty)
      else .ok (none, s)
    let home (s : State) : Except Raise (Option Xlat × State) :=
      (s.translate b.core b.vi va (if write then .wr else .rd)).map fun p => (some p.1, p.2)
    let st := SMap.get .invalid w.lines j
    if st.valid then
      let (owned, s) := s.winOwned owner wn j va
      if !owned then .error ⟨.region, BitVec.ofNat 64 va⟩
      else if st = .dirty then .ok (none, s)
      else dirty s
    else if st = .invalid && w.zero then
      let x := s.pageOf b.core b.vi va
      let s := s.walked b.core b.vi va
      match x with
      | none => dirty (s.fillWin owner wn j none 0)
      | some x =>
        if s.uncached x then home s
        else
          let (owned, s) := if x.region = 0 then s.ownPage b.core b.vi x else (true, s)
          if !owned then .error ⟨.region, BitVec.ofNat 64 va⟩
          else dirty ((if x.region = 2 then (s.recall x.line true none me).dirTag b.part b.vi x.line else s).fillWin owner wn j (some x) 0)
    else match s.translate b.core b.vi va .rd with
      | .error r => .error r
      | .ok (x, s) =>
        if s.uncached x then home s
        else if s.badHome x then .error (x.fault va .mcheck)
        else
          let s := if x.region = 2 then s.recall x.line true none me else s
          let s := s.l2Access b.part b.vi x.line 15 false .normal
          dirty (s.fillWin owner wn j (some x) (s.homeLine x.line).toNat)

/-! ## One access -/

/-- The insertion policy of an access (R161, R233). -/
def policyOf (ord : Ordq) (pol : BitVec 2) : Policy :=
  if ord = .nt then .first
  else match pol.toNat with
    | 1 => .first
    | 2 => .last
    | 3 => .none
    | _ => .normal

/-- The agent that a wave is for the memory hierarchy. -/
def State.agentOf (s : State) (core slot : Nat) (pol : Policy) : Agent :=
  let w := s.wave core slot
  ⟨core, w.vi, w.part, w.blk, pol⟩

/-- The access size in bytes. -/
def MemKind.size : MemKind → Nat
  | .load n _ _ | .store n | .sload n _ | .sstore n => n
  | .fget _ | .fput => 8
  | .atom op _ | .satom op _ => atomSize op
  | .pref _ | .cqry _ => 1

/-- What an access needs of its page (R313). -/
def MemKind.need : MemKind → Need
  | .load .. | .sload .. | .fget _ | .pref _ | .cqry _ => .rd
  | .store _ | .sstore _ | .fput => .wr
  | .atom .. | .satom .. => .both

/-- An atomic at .blk or narrower, or relaxed, may be performed near (R171). -/
def nearOk (ord : Ordq) (scope : Scope) : Bool :=
  ord = .rlx || (ord != .sc && (scope = .wv || scope = .blk))

/-- A global line has a spent mark in its tag or in its slice's spent table. -/
def State.isSpent (s : State) (part line : Nat) : Bool :=
  (s.l2KeyOf part line).any fun key =>
    (SMap.get [] s.l2 key).any (fun w => w.line = line && w.spent) || (SMap.get [] s.spent (key / 1024)).contains line

/-- The operation takes data from memory: an uncorrectable error in it raises MCHECK (R243). -/
def MemKind.takesData : MemKind → Bool
  | .store _ | .sstore _ | .fput | .pref _ | .cqry _ => false
  | _ => true

/-- A cell, and what an atomic finds in an RS page, are read at the home whatever the order (R167, R169). -/
def MemKind.readsHome (k : MemKind) (region : Nat) : Bool :=
  match k with
  | .fget _ => true
  | .atom .. | .satom .. => region = 1
  | _ => false

/-- One access to a global line (R162, R165 to R169, R113, R114). -/
def State.accessGlobal (s : State) (g : Agent) (op : MemOp) (a : Acc) (x : Xlat) : Except Raise (Nat × State) :=
  let n := op.kind.size
  let home := op.ord != .rlx && op.ord != .nt
  if op.kind.takesData && s.badFor g x n (home || op.kind.readsHome x.region) then .error (x.fault a.addr.toNat .mcheck)
  else match op.kind with
    | .pref l2 =>
      -- the whole line is brought in (R166)
      if l2 then .ok (0, s.l2Access g.part g.vi x.line 15 false g.pol)
      else .ok (0, (s.readGlobal g { x with pa := x.pa - x.pa % 128 } 128 false).2)
    | .load .. | .sload .. => .ok (s.readGlobal g x n home)
    | .fget _ => .ok (s.readGlobal g x n true)
    | .store _ | .sstore _ => .ok (0, s.writeGlobal g x n a.data.toNat)
    | .fput => .ok (0, s.writeGlobal g x 8 (a.data.toNat % 2 ^ 32 + 2 ^ 32))
    | .atom ao ret =>
      .ok (s.atomGlobal g x ao (a.data.toNat % 2 ^ (8 * n)) a.cmp.toNat (nearOk op.ord op.scope)
        (ret.isNone && op.ord = .rlx))
    | .satom ao _ => .ok (s.atomGlobal g x ao (a.data.toNat % 2 ^ 32) a.cmp.toNat true false)
    | .cqry _ => .ok (match SMap.find? s.counted x.line with
        | some c => c.count
        | none => if s.isSpent g.part x.line then 0 else 0xFFFFFFFF, s)

/-- One access to a line of a stash, of the block that owns it and at an offset in it (R162, R165 to R169, R113, R114, R166, R180).  MCHECK for
bad stash data has the access's address in stash form as its TVAL, since a stash byte has no physical address: the model's choice (R300, log
entry 79). -/
def State.accessStash (s : State) (g : Agent) (op : MemOp) (a : Acc) (owner o : Nat) : Except Raise (Nat × State) :=
  let n := op.kind.size
  let touch (write : Bool) (f : State → Nat × State) : Except Raise (Nat × State) :=
    match s.winTouch owner o write with
    | .error r => .error r
    | .ok (some x, s) => s.accessGlobal g op a { x with pa := x.pa + o % 128 }
    | .ok (none, s) =>
      if op.kind.takesData && (s.block owner).bad.contains (o / 128) then .error ⟨.mcheck, a.addr⟩ else .ok (f s)
  let put (s : State) (n v : Nat) : State := s.updBlock owner fun b => { b with stash := Memory.write b.stash o n v }
  let cell (s : State) : Nat := Memory.read (s.block owner).stash o n
  match op.kind with
  | .pref l2 =>
    match (s.block owner).winAt o with
    | some (_, w) => if l2 || w.zero then .ok (0, s) else (s.winTouch owner o false).map fun p => (0, p.2)
    | none => .ok (0, s)
  | .load .. | .sload .. | .fget _ => touch false fun s => (cell s, s)
  | .store _ | .sstore _ => touch true fun s => (0, put s n a.data.toNat)
  | .fput => touch true fun s => (0, put s 8 (a.data.toNat % 2 ^ 32 + 2 ^ 32))
  | .atom ao _ | .satom ao _ =>
    touch true fun s => (cell s, put s n (atomNew ao (cell s) (a.data.toNat % 2 ^ (8 * n)) a.cmp.toNat))
  | .cqry _ => .ok (match SMap.get .none (s.block owner).counts (o / 128) with
      | .live n => n
      | .spent => 0
      | .none => 0xFFFFFFFF, s)

/-- One access of a memory operation: the value read or returned, and the state. -/
def State.access1 (s : State) (g : Agent) (op : MemOp) (a : Acc) : Except Raise (Nat × State) :=
  match stashOff a.addr.toNat with
  | some off =>
    match s.stashAt g.blk off op.kind.size with
    | none => .error ⟨.stashrange, a.addr⟩
    | some (owner, o) => s.accessStash g op a owner o
  | none =>
    match s.translate g.core g.vi a.addr.toNat op.kind.need with
    | .error r => .error r
    | .ok (x, s) => s.accessGlobal g op a x

/-! ## Futures (R167, R168) -/

/-- One FGET lane tries its cell: a full cell gives the lane its value, which it keeps. -/
def State.tryCell (s : State) (g : Agent) (op : MemOp) (a : Acc) : Acc × State :=
  if a.cmp ≠ 0 then (a, s)
  else match s.access1 g op a with
    | .ok (v, s') => if v / 2 ^ 32 = 0 then (a, s') else ({ a with data := BitVec.ofNat 128 (v % 2 ^ 32), cmp := 1 }, s')
    | .error _ => (a, s)

/-- A lane that waits at the home is given its value when its cell is full (R167, R168).  It makes no request of its own: the home only looks into
the cell, and recalls a copy that holds what fills it. -/
def State.wakeCell (s : State) (g : Agent) (op : MemOp) (a : Acc) : Acc × State :=
  if a.cmp ≠ 0 then (a, s)
  else match s.access1 g op a with
    | .ok (v, s') =>
      if v / 2 ^ 32 = 0 then (a, s)
      else ({ a with data := BitVec.ofNat 128 (v % 2 ^ 32), cmp := 1 },
        if (stashOff a.addr.toNat).isSome then s'
        else match s.pageOf g.core g.vi a.addr.toNat with
          | some x => if x.region = 2 then s.recall x.line true none none else s
          | none => s)
    | .error _ => (a, s)

/-- A queued FGET looks into the cell of every lane. -/
def State.wakeCells (s : State) (g : Agent) (op : MemOp) : List Acc → List Acc × State
  | [] => ([], s)
  | a :: t =>
    let (a, s) := s.wakeCell g op a
    let (t, s) := s.wakeCells g op t
    (a :: t, s)

/-- A queued FGET tries every lane. -/
def State.tryCells (s : State) (g : Agent) (op : MemOp) : List Acc → List Acc × State
  | [] => ([], s)
  | a :: t =>
    let (a, s) := s.tryCell g op a
    let (t, s) := s.tryCells g op t
    (a :: t, s)

/-- A queue entry that is a parked FGET. -/
def QEntry.isFget (q : QEntry) : Bool :=
  match q.op with
  | .mem op => (match op.kind with | .fget _ => true | _ => false)
  | _ => false

/-- Every waiter whose cell is full takes its value: a wake-up is never lost (R168).  An FGET is a waiter once it has left the port. -/
def State.wakeFutures (s : State) : State :=
  if s.waves.any (fun p => p.2.queue.any QEntry.atHome) then
    s.waves.foldl (fun s p =>
      (s.waveK p.1).queue.foldl (fun s q =>
        match q.op with
        | .mem op =>
          if q.isFget && q.atHome then
            let (accs, s) := s.wakeCells (s.agentOf (p.1 / 64) (p.1 % 64) .normal) op op.accs
            s.updWaveK p.1 fun w => { w with queue := w.queue.map fun e =>
              if e.id = q.id then { e with op := .mem { op with accs := accs } } else e }
          else s
        | _ => s) s) s
  else s

/-! ## Acquire and release -/

/-- A scope of .dev or wider. -/
def devWide : Scope → Bool
  | .dev | .sys => true
  | _ => false

/-- A record posted to a VI's error queue (R285). -/
def State.postError (s : State) (vi : Nat) (r : ErrRec) : State :=
  let v := s.vi vi
  let t := s.putError vi r
  (if (t.vi vi).eqprod = v.eqprod then t
   else t.homeVirt (s.viPart vi) vi (v.eqbase.toNat + v.eqprod.toNat % 2 ^ v.eqsize * 32) 32 true).wakeFutures

/-- A record posted for the work of a block: it also counts in the packet's completion record (R284). -/
def State.postBlockError (s : State) (blk : Nat) (r : ErrRec) : State :=
  let b := s.block blk
  (s.postError b.vi r).updPkt b.packet fun p => { p with errors := p.errors + 1 }

/-- The opcode field of R173: bits 27:22 of the word. -/
def opcodeOf (w : Word) : Nat := (w.extractLsb' 22 6).toNat

/-- What a record says of the word that causes it (R173, R225): its address, its wave's slot, its opcode. -/
def ErrRec.by_ (pc : DWord) (slot : Nat) (word : Word) : ErrRec := { pc := pc, slot := slot, opcode := opcodeOf word }

/-- A window line's write-back at an event that it cannot stop: a failure drops the data and posts the record of R225, which names the
releasing word, if one causes the event. -/
def State.winWriteBackOr (s : State) (blk win j : Nat) (word : ErrRec) (after : WinLine) : State :=
  match s.winWriteBack blk win j with
  | .ok s => (s.setWinLine blk win j after).wakeFutures
  | .error r =>
    let b := s.block blk
    let w := SMap.get {} b.wins win
    ((s.walkedFor b.core b.vi r).postBlockError blk
      { word with
        va := w.base + BitVec.ofNat 64 (128 * j), pix := w.off + 128 * j, core := b.core, cause := r.cause.code,
        queue := 0xFD }).setWinLine blk win j .recalled

/-- The lines of a block's windows whose state satisfies a test and which lie over pages of a region. -/
def State.winLines (s : State) (blk : Nat) (p : WinLine → Bool) (region : Option Nat) : List (Nat × Nat) :=
  (s.block blk).wins.flatMap fun pw => pw.2.lines.filterMap fun pl =>
    if p pl.2 && (match region with
      | none => true
      | some r => (s.winPhys (s.block blk).vi pw.2 pl.1).2 = r) then some (pw.1, pl.1) else none

/-- What a release at a scope does before it is performed: at .dt or wider the core's U copies go to their homes (R262); at .dev or wider
the block's dirty window lines over RS pages are written back (R225), and the core's M lines over C pages reach the home (R261).  `word` is
the releasing word. -/
def State.release (s : State) (core blk : Nat) (scope : Scope) (word : ErrRec := {}) : State :=
  match scope with
  | .wv | .blk => s
  | .dt =>
    ((s.core core).l1.filterMap fun p => match p.2.st with | .u _ => some p.1 | _ => none).foldl
      (fun s l => s.cleanL1 core l) s
  | .dev | .sys =>
    let s := ((s.core core).l1.filterMap fun p => match p.2.st with | .u _ | .m => some p.1 | _ => none).foldl
      (fun s l => s.cleanL1 core l) s
    (s.winLines blk (· == .dirty) (some 1)).foldl (fun s p => s.winWriteBackOr blk p.1 p.2 word .clean) s

/-- What an acquire at a scope does: at .dev or wider the core's read-shared copies and the block's clean window lines over RS pages are
invalidated (R230). -/
def State.acquire (s : State) (core blk : Nat) (scope : Scope) : State :=
  if devWide scope then
    let s := s.updCore core fun k => { k with l1 := k.l1.filter fun p => p.2.st != .rs }
    (s.winLines blk (· == .clean) (some 1)).foldl (fun s p => s.setWinLine blk p.1 p.2 .recalled) s
  else s

/-! ## Consuming accesses (R164, R237) -/

/-- What a consuming access finds: the data of a live line, a spent line, or a line that is not counted. -/
inductive Consumed
  | data (d : LineData)
  | spent
  | uncounted
deriving DecidableEq, Repr

/-- A live counted line becomes spent: it is dropped without write-back and its tag keeps the mark (R237). -/
def State.spendLine (s : State) (part line : Nat) : State :=
  let s : State := { s with counted := SMap.erase s.counted line }
  match s.l2KeyOf part line with
  | some key =>
    { s with l2 := SMap.upd [] s.l2 key fun ws => ws.map fun w =>
        if w.line = line then { w with counted := false, spent := true, valid := 0, dirty := 0, slot := none } else w }
  | none => s

/-- A consuming access at the home slice: a dirty copy is recalled, and the count falls by one in the same step. -/
def State.consumeGlobal (s : State) (g : Agent) (x : Xlat) : Consumed × State :=
  let l := x.line
  match SMap.find? s.counted l with
  | some c =>
    let s := s.l2Access g.part g.vi l 15 false .none
    if c.count ≤ 1 then (.data c.data, s.spendLine g.part l)
    else (.data c.data, { s with counted := SMap.put s.counted l { c with count := c.count - 1 } })
  | none =>
    let s := if x.region = 2 then s.recall l true none none else s
    (if s.isSpent g.part l then .spent else .uncounted, s.countLine g.vi l (s.inL2 g.part l))

/-- A consuming access at a stash: a spent line keeps its bytes. -/
def State.consumeStash (s : State) (owner off : Nat) : Consumed × State :=
  let b := s.block owner
  match SMap.get .none b.counts (off / 128) with
  | .live n =>
    (.data (b.stashLine (off - off % 128)),
     s.updBlock owner fun b =>
       { b with counts := SMap.set .none b.counts (off / 128) (if n ≤ 1 then .spent else .live (n - 1)) })
  | .spent => (.spent, s)
  | .none => (.uncounted, s)

/-- The line of a stash as the memo of a consuming load names it: above every physical line. -/
def stashLineKey (owner o : Nat) : Nat := 2 ^ 60 + owner * 8192 + o / 128

/-- What a consuming load finds under one lane, and what it keeps of the lines it has consumed: one consume for each distinct line of a holder,
under whatever address a lane reaches it (R164).  Bad stash data: as in `accessStash` (log entry 79). -/
def State.consume1 (s : State) (g : Agent) (memo : List (Nat × Consumed)) (a : Acc) :
    Except Raise (Consumed × List (Nat × Consumed) × State) :=
  let va := a.addr.toNat
  let once (key : Nat) (c : Unit → Consumed × State) (s : State) : Except Raise (Consumed × List (Nat × Consumed) × State) :=
    match memo.find? fun p => p.1 = key with
    | some p => .ok (p.2, memo, s)
    | none => let (c, s) := c (); .ok (c, (key, c) :: memo, s)
  match stashOff va with
  | some off =>
    match s.stashAt g.blk off 1 with
    | none => .error ⟨.stashrange, a.addr⟩
    | some (owner, o) =>
      match s.winTouch owner o false with
      | .error r => .error r
      | .ok (_, s) =>
        if (s.block owner).bad.contains (o / 128) then .error ⟨.mcheck, a.addr⟩
        else once (stashLineKey owner o) (fun _ => s.consumeStash owner o) s
  | none =>
    match s.translate g.core g.vi va .rd with
    | .error r => .error r
    | .ok (x, s) =>
      if s.badHome x then .error (x.fault va .mcheck)
      else once x.line (fun _ => s.consumeGlobal g x) s

/-! ## A whole operation -/

/-- What performing an operation gave: the lanes' values in ascending order, the faults of the lanes that were not performed, the noted
errors. -/
structure Done where
  vals : List (Nat × Nat) := []
  faults : List (Nat × Raise) := []
  notes : List Note := []
deriving DecidableEq, Repr

/-- The accesses of an operation, lane by lane (R160), all of them in one step: the spec leaves open which accesses of other agents come
between them, and between the four words of a .b128 lane (R162, R251, log entry 65). -/
def State.accesses (s : State) (g : Agent) (op : MemOp) : List Acc → Done × State
  | [] => ({}, s)
  | a :: t =>
    match s.access1 g op a with
    | .ok (v, s) =>
      let s := match op.kind with
        | .store _ | .sstore _ | .fput | .atom .. | .satom .. => s.wakeFutures
        | _ => s
      let (d, s) := s.accesses g op t
      ({ d with vals := (a.lane, v) :: d.vals }, s)
    | .error r =>
      let (d, s) := (s.walkedFor g.core g.vi r).accesses g op t
      ({ d with faults := (a.lane, r) :: d.faults }, s)

/-- The accesses of a consuming load. -/
def State.consumes (s : State) (g : Agent) (n : Nat) (memo : List (Nat × Consumed)) : List Acc → Done × State
  | [] => ({}, s)
  | a :: t =>
    match s.consume1 g memo a with
    | .ok (c, memo, s) =>
      let (d, s) := s.consumes g n memo t
      match c with
      | .data l => ({ d with vals := (a.lane, lineGet l (a.addr.toNat % 128) n) :: d.vals }, s)
      | .spent => ({ d with vals := (a.lane, 0) :: d.vals, notes := ⟨.overread, a.addr, 1#96 <<< a.lane, 0⟩ :: d.notes }, s)
      | .uncounted => ({ d with vals := (a.lane, 0) :: d.vals, notes := ⟨.uncounted, a.addr, 1#96 <<< a.lane, 0⟩ :: d.notes }, s)
    | .error r =>
      let (d, s) := (s.walkedFor g.core g.vi r).consumes g n memo t
      ({ d with faults := (a.lane, r) :: d.faults }, s)

/-- The errors that an instruction notes (R158, R164): each cause once, with the address of the lowest lane that met it and with every
such lane. -/
def mergeNotes (l : List Note) : List Note :=
  [Cause.overread, Cause.uncounted].filterMap fun c =>
    match l.filter fun n => n.cause = c with
    | [] => none
    | n :: t => some { n with lanes := t.foldl (fun m x => m ||| x.lanes) n.lanes }

/-- A result among the outstanding results of its wave: before those of its strand whose words came later (R29). -/
def insertOut (r : Result) : List Result → List Result
  | [] => [r]
  | o :: t => if o.strand = r.strand && r.seq < o.seq then r :: o :: t else o :: insertOut r t

/-- The wave with a result outstanding. -/
def Wave.addOut (w : Wave) (r : Result) : Wave := { w with outs := insertOut r w.outs }

/-- The register words that a value of an access size fills. -/
def wordsOf (n v : Nat) : List Word :=
  if n ≤ 4 then [BitVec.ofNat 32 v]
  else (List.range (n / 4)).map fun j => BitVec.ofNat 32 (v / 2 ^ (32 * j))

/-- A loaded value extended to its register words (R162). -/
def loadWords (n : Nat) (sgn : Bool) (v : Nat) : List Word :=
  if n = 1 then [if sgn then (BitVec.ofNat 8 v).signExtend 32 else BitVec.ofNat 32 (v % 256)]
  else if n = 2 then [if sgn then (BitVec.ofNat 16 v).signExtend 32 else BitVec.ofNat 32 (v % 65536)]
  else wordsOf n v

/-- The vector writes of words to consecutive registers of a lane. -/
def laneWrites (t lane : Nat) (ws : List Word) : List (Nat × Word) :=
  ws.zipIdx.map fun p => (vkey (t + p.2) lane, p.1)

/-- The register writes of a performed operation: performed lanes take their values, zeroed lanes take 0 (R135). -/
def MemOp.writes (op : MemOp) (vals : List (Nat × Nat)) : List (Nat × Word) × List (Nat × Word) :=
  let vec (t n : Nat) (f : Nat → List Word) : List (Nat × Word) :=
    vals.flatMap (fun p => laneWrites t p.1 (f p.2)) ++
    (lanesOf op.zero).flatMap fun l => laneWrites t l (List.replicate n 0)
  match op.kind with
  | .load n sgn t => (vec t (max 1 (n / 4)) (loadWords n sgn), [])
  | .fget t => (vec t 1 fun v => [BitVec.ofNat 32 v], [])
  | .atom ao (some t) => (vec t (atomSize ao / 4) (wordsOf (atomSize ao)), [])
  | .sload n d =>
    ([], if d = 63 then [] else vals.flatMap fun p => (wordsOf n p.2).zipIdx.map fun q => (d + q.2, q.1))
  | .satom _ d | .cqry d => ([], if d = 63 then [] else vals.map fun p => (d, BitVec.ofNat 32 p.2))
  | _ => ([], [])

/-- The lowest code among the faults, with the address of its lowest lane (R158, R301). -/
def worstRaise (fs : List (Nat × Raise)) : Option Raise :=
  (minBy (fun p => p.2.cause.code * 128 + p.1) fs).map (·.2)

/-- Whether an operation returns a register result, which a park marker waits for (R209, R211). -/
def MemKind.hasResult : MemKind → Bool
  | .load .. | .fget _ | .sload .. | .satom .. | .cqry _ => true
  | .atom _ ret => ret.isSome
  | _ => false

/-- The ticket of an .sc access (R161, R263): of the partition's sequencer at .dev, of the device that owns an address at .sys, of the duet
leader's core at .dt, of its own core at .blk and .wv. -/
def State.ticket (s : State) (g : Agent) (op : MemOp) : State :=
  let core (s : State) (c : Nat) : State := s.updCore c fun k => { k with ticket := k.ticket + 1 }
  if op.ord != .sc then s
  else match op.scope with
    | .dev => s.updPart g.part fun p => { p with ticket := p.ticket + 1 }
    | .sys =>
      if op.accs.any fun a => (s.pageOf g.core g.vi a.addr.toNat).any fun x => match x.target with | .remote _ => false | _ => true then
        { s with dev := { s.dev with ticket := s.dev.ticket + 1 } }
      else s
    | .dt => core s (if (s.block g.blk).follower then (s.block ((s.block g.blk).peer.getD g.blk)).core else g.core)
    | _ => core s g.core

/-! ## Miss tracking (R245) -/

/-- The sectors of a line that an access asks of the memory system beyond its core's L1 (R162 to R171, R227, R228): those that L1 does not hold, and
all of them where the access is performed at the home or needs what only the home can grant. -/
def State.requestsOf (s : State) (g : Agent) (op : MemOp) (x : Xlat) : BitVec 4 :=
  let sec := match op.kind with | .pref _ => 15 | _ => if op.ord = .cn then 15 else sectorsOf x.pa op.kind.size
  let away := op.ord = .cn || s.uncached x || (match op.kind with | .cqry _ => true | _ => false)
  match if away then none else SMap.find? (s.core g.core).l1 x.line with
  | none => sec
  | some y =>
    let owned := if y.st = .e || y.st = .m then y.lacks sec else sec
    match op.kind with
    | .store _ | .sstore _ | .fput => if x.region = 1 then sec else if x.region = 2 then owned else y.lacks sec
    | .atom ao ret =>
      if x.region = 0 then y.lacks sec
      else if x.region = 1 then sec
      else if ret.isNone && op.ord = .rlx && y.st = .u ao then 0
      else if nearOk op.ord op.scope then owned else sec
    | .satom .. => if x.region = 0 then y.lacks sec else if x.region = 1 then sec else owned
    | k =>
      let home := (op.ord != .rlx && op.ord != .nt) || (match k with | .fget _ => true | _ => false)
      if x.region = 2 then (if y.st.isU then sec else y.lacks sec) else (y.forRead sec home).lacks sec

/-- The sectors of a mask as numbers of sectors of physical memory. -/
def sectorList (line : Nat) (m : BitVec 4) : List Nat := ((List.range 4).filter fun i => m.getLsbD i).map (4 * line + ·)

/-- The slice of a partition whose L2 caches a line and does not hold it. -/
def State.awaySlice (s : State) (part line : Nat) : Option Nat :=
  if s.inL2 part line then none else (s.l2KeyOf part line).map (· / 1024)

/-- The sector requests that an operation makes beyond its core's L1, each once (R231), and the slices of its lines that L2 does not hold. -/
def State.missesOf (s : State) (g : Agent) (op : MemOp) : Nat × List Nat :=
  let l := (op.accs.flatMap fun a =>
    if (stashOff a.addr.toNat).isSome then []
    else match s.pageOf g.core g.vi a.addr.toNat with
      | some x => sectorList x.line (s.requestsOf g op x)
      | none => []).eraseDups
  (l.length, (l.map (· / 4)).eraseDups.filterMap (s.awaySlice g.part))

/-- The core's 512 miss registers have room for n more requests: its outstanding results hold some, its other requests under way others. -/
def State.coreRoom (s : State) (core n : Nat) : Bool :=
  (s.waves.foldl (fun a w => if w.1 / 64 = core then a + w.2.outs.foldl (fun a r => a + r.misses) 0 else a) 0) +
    SMap.get 0 s.inFlight (128 + core) + n ≤ coreRegisters

/-- The slices' 1,536 miss entries have room for the requests named. -/
def State.sliceRoom (s : State) (slices : List Nat) : Bool :=
  slices.all fun k => SMap.get 0 s.inFlight k + slices.count k ≤ sliceEntries

/-- The core's miss registers and the slices' miss entries have room for an operation's requests. -/
def State.missRoom (s : State) (g : Agent) (op : MemOp) : Bool :=
  let (n, slices) := s.missesOf g op
  n = 0 || (s.coreRoom g.core n && s.sliceRoom slices)

/-- Requests of a core that no result brings back: they hold miss registers until they are served. -/
def State.coreRequest (s : State) (core n : Nat) : State := s.request (128 + core) coreRegisters n

/-- The requests under way are served. -/
def State.served (s : State) : State := { s with inFlight := [] }

/-! ## A memory operation performed -/

/-- The entries of a strand behind one of its own that meets a fault: the releases among them are not performed, because an access that
they order is not, and their words run again with its word (R252, R310, log entry 64). -/
def Wave.dropBehind (w : Wave) (q : QEntry) : Wave :=
  { w with queue := w.queue.filter fun e =>
      !(e.strand = q.strand && e.age = q.age && q.id < e.id &&
        (match e.op with
         | .mem op => op.ord = .rel || op.ord = .ar || op.ord = .sc
         | .fence _ | .arrive .. => true
         | _ => false)) }

/-- A memory operation performed (R159 to R171): release before, acquire after; the result becomes outstanding; lanes that met a fault
are not performed and form the replay mask.  All lanes, and the four words of a .b128 lane, are performed in this one step: which accesses
of other agents come between them the spec leaves open (R162, R251, log entry 65). -/
def State.performMem (s : State) (core slot : Nat) (q : QEntry) (op : MemOp) : State :=
  let g := s.agentOf core slot (policyOf op.ord op.pol)
  let rel := op.ord = .rel || op.ord = .ar || op.ord = .sc
  let acq := op.ord = .acq || op.ord = .ar || op.ord = .sc
  let s := if rel then s.release core g.blk op.scope (.by_ q.pc slot q.word) else s
  let s := { s.ticket g op with asked := some [] }
  let miss := s.missesOf g op
  let dropped := (match op.kind with | .pref _ => true | _ => false) && !s.coreRoom g.core miss.1
  let (d, s) := if op.ord = .cn then s.consumes g op.kind.size [] op.accs
    else match op.kind with
      | .fget _ => ({ vals := op.accs.map fun a => (a.lane, a.data.toNat) }, s)
      | .pref _ => if dropped then ({}, s) else s.accesses g op op.accs
      | _ => s.accesses g op op.accs
  let s := { s with asked := none }
  let s := if acq then s.acquire core g.blk op.scope else s
  let (vec, sca) := op.writes d.vals
  let s := if op.kind.hasResult then
      s.updWave core slot fun w => w.addOut
        { strand := q.strand, vec := vec, sca := sca, word := q.word, after := q.after, seq := q.seq, misses := miss.1 }
    else if dropped then s else s.coreRequest core miss.1
  let s := (mergeNotes d.notes).foldl (fun s n => s.note core slot q.strand { n with word := q.word }) s
  match op.kind with
  | .pref _ => s
  | _ =>
    match worstRaise d.faults with
    | none => s
    | some r => (s.updWave core slot fun w => w.dropBehind q).latch core slot
        { cause := r.cause, val := r.val, strand := q.strand, tpc := q.pc,
          mask := match op.kind with
            | .sload .. | .sstore _ | .satom .. | .cqry _ => q.am
            | _ => maskOf (d.faults.map (·.1)),
          word := q.word, seq := q.seq, noted := false }

end Sys2Proof.Machine
end

