-- ==== Sys2Proof/Machine/Trace.lean ====
section
/-! DEFINITION. Trace records (R349, R350). -/

namespace Sys2Proof.Machine

/-- The block that holds a barrier: its own block, or the duet's leader for b16 to b19 (R22). -/
def State.barHome (s : State) (blk id : Nat) : Nat :=
  if id < 16 then blk
  else if (s.block blk).follower then (s.block blk).peer.getD blk else blk

/-- A barrier of a block. -/
def State.barrier (s : State) (blk id : Nat) : Barrier := SMap.get {} (s.block (s.barHome blk id)).bars id

/-- The flips of the block's barriers b0 to b19 since launch (R349). -/
def State.flips (s : State) (blk : Nat) : Word := (List.range 20).foldl (fun n id => n + (s.barrier blk id).flips) 0

/-- The 48 bytes of a record (R349). -/
def traceBytes (kind strand slot core : Nat) (x y z phases payload : Word) (pc : DWord) (cycle vi aux : Nat) : List Byte :=
  leBytes 1 kind ++ leBytes 1 strand ++ leBytes 1 slot ++ leBytes 1 core ++
  leBytes 4 x.toNat ++ leBytes 4 y.toNat ++ leBytes 4 z.toNat ++ leBytes 4 phases.toNat ++ leBytes 4 payload.toNat ++
  leBytes 8 pc.toNat ++ leBytes 8 cycle ++ leBytes 2 vi ++ leBytes 2 aux ++ leBytes 4 0

/-- Records written to a VI's ring when it has room for all of them, and the producer index after them; `none` when there is no room or a
page refuses (R350). -/
def State.ringWrite (s : State) (vi : Nat) (recs : List (List Byte)) : Option State :=
  let t := (s.vi vi).trace
  let n := (t.size - 64) / 48
  let base := t.base.toNat
  match s.readVirt vi base 16 with
  | .error _ => none
  | .ok h =>
    let prod := leNat (h.take 8)
    let cons := leNat (h.drop 8)
    if n < (prod + recs.length - cons) then none
    else
      let go := recs.zipIdx.foldl (fun (a : Except Raise State) p =>
        a.bind fun s => s.writeVirt vi (base + 64 + 48 * ((prod + p.2) % n)) p.1) (.ok s)
      match go.bind fun s => s.writeVirt vi base (leBytes 8 (prod + recs.length)) with
      | .ok s =>
        let s := (s.homeVirt (s.viPart vi) vi base 16).homeVirt (s.viPart vi) vi base 8 true
        some ((recs.zipIdx.foldl (fun s p => s.homeVirt (s.viPart vi) vi (base + 64 + 48 * ((prod + p.2) % n)) 48 true) s).wakeFutures)
      | .error _ => none

/-- A record of a wave emitted when its kind is enabled: written, or dropped and counted; the first record that finds room afterwards is
preceded by one LOST record (R350). -/
def State.traceRec (s : State) (core slot kind strand : Nat) (payload : Word) (pc : DWord) (aux : Nat := 0) : State :=
  let w := s.wave core slot
  let t := (s.vi w.vi).trace
  if !t.kinds.getLsbD kind then s
  else
    let cyc := s.cycle w.part
    let r := traceBytes kind strand slot core w.blockX w.blockY w.blockZ (s.flips w.blk) payload pc cyc w.vi aux
    let lost := traceBytes 7 0 0 0 0 0 0 0 (BitVec.ofNat 32 (min t.lost 0xFFFFFFFF)) 0 cyc w.vi 0
    match s.ringWrite w.vi (if t.lost = 0 then [r] else [lost, r]) with
    | some s => s.updVi w.vi fun v => { v with trace := { v.trace with lost := 0 } }
    | none => s.updVi w.vi fun v => { v with trace := { v.trace with lost := v.trace.lost + 1 } }

end Sys2Proof.Machine
end

