-- ==== Sys2Proof/Machine/Barrier.lean ====
section
/-! DEFINITION. Arrivals at barriers (R33, R34, R126). -/

namespace Sys2Proof.Machine

/-- The expected count of a barrier after adjustments (R126). -/
def barClamp (emax : Int) (e : Nat) (adj : Int) : Nat := (max 0 (min emax ((e : Int) + adj))).toNat

/-- A barrier flips when its arrivals reach the expected count (R126). -/
def Barrier.flip (b : Barrier) (emax : Int) (cycle : Nat) : Barrier :=
  { b with
    p := b.p + 1
    a := 0
    e := barClamp emax b.e b.pending
    pending := 0
    arrived := 0
    flips := b.flips + 1
    flipAt := some cycle
    baseE := b.e
    adjs := b.pending }

/-- One arrival of a wave at a barrier with its adjustment: the phase that it counts in, and whether the barrier flips (R34, R126).  An
arrival in the cycle of a flip belongs to the set of that flip, whose adjustments are taken together. -/
def Barrier.arrive (b : Barrier) (emax adj : Int) (cycle bit : Nat) : Barrier × Word × Bool :=
  if b.flipAt = some cycle then
    ({ b with e := barClamp emax b.baseE (b.adjs + adj), adjs := b.adjs + adj }, b.p - 1, false)
  else
    let b' := { b with a := b.a + 1, pending := b.pending + adj, arrived := b.arrived ||| (1#32 <<< bit) }
    if b'.e ≤ b'.a then (b'.flip emax cycle, b.p, true) else (b', b.p, false)

/-- The scope of a barrier (R33). -/
def barScope (id : Nat) : Scope := if id < 16 then .blk else .dt

/-- An arrival of a wave at a barrier of its block: a release (R33), then the count (R126).  The arrival phase, and BARPHASE.  The record of a flip
by an arrival that waited for earlier accesses carries the cycle of the flip, not that of the word's issue, so that the records of a quarter stand
in cycle order (R349, R350): the model's choice (log entry 89). -/
def State.arrive (s : State) (core slot id : Nat) (adj : Int) (strand : Nat := 0) (pc : DWord := 0) : Word × State :=
  let w := s.wave core slot
  let s := s.release core w.blk (barScope id)
  let home := s.barHome w.blk id
  let bit := w.waveInBlk + (if 16 ≤ id && (s.block w.blk).follower then 16 else 0)
  let (b, ap, fl) := (s.barrier w.blk id).arrive (if id < 16 then 16 else 32) adj (s.cycle w.part) bit
  let s := s.updBlock home fun x => { x with bars := SMap.put x.bars id b }
  let s := s.updWave core slot fun w => { w with barphase := ap }
  (ap, if fl then s.traceRec core slot 6 strand b.p pc id else s)

/-- The phase that a wait sees: a barrier that flips in a cycle shows its new phase from the next cycle on, since what arrives in that cycle
still belongs to the old one (R34). -/
def Barrier.seen (b : Barrier) (cycle : Nat) : Word := if b.flipAt = some cycle then b.p - 1 else b.p

/-- Whether the block has a barrier (R126). -/
def Block.hasBarrier (b : Block) (id : Nat) : Bool :=
  if id < 16 then id < b.desc.barriers else b.desc.duet

end Sys2Proof.Machine
end

