-- ==== Sys2Proof/Machine/Maintain.lean ====
section
/-! DEFINITION. The operations of the memory port that carry a token: CDROP, CINV, CINV.i, CWB and SUNMAP (R178, R179, R183, R331). -/

namespace Sys2Proof.Machine

/-- The key of an instruction cache line. -/
def icacheKey (vi va : Nat) : Nat := vi * 2 ^ 57 + va % 2 ^ 57 / 128 * 128

/-- A live counted line is forced to zero at its holder (R179).  A stash address outside the block's stash stops the operation with FAULT and
the cause STASHRANGE, as an access to it would: the spec does not name this case (log entry 67). -/
def State.dropCount (s : State) (g : Agent) (va : Nat) : Except Raise State :=
  match stashOff va with
  | some off =>
    match s.stashAt g.blk off 1 with
    | none => .error ⟨.stashrange, BitVec.ofNat 64 va⟩
    | some (owner, o) =>
      .ok (s.updBlock owner fun b =>
        match SMap.get .none b.counts (o / 128) with
        | .live _ => { b with counts := SMap.put b.counts (o / 128) .spent }
        | _ => b)
  | none =>
    match s.translate g.core g.vi va .wr with
    | .error r => .error r
    | .ok (x, s) => .ok (if (SMap.find? s.counted x.line).isSome then s.spendLine g.part x.line else s)

/-- The dirty window lines of a core's blocks that a range covers, by stash address or by global address (R183, R225). -/
def State.winLinesIn (s : State) (g : Agent) (va : Nat) : List (Nat × Nat × Nat) :=
  s.blocks.flatMap fun pb =>
    if pb.2.core != g.core then []
    else pb.2.wins.flatMap fun pw => pw.2.lines.filterMap fun pl =>
      let here := pw.2.base.toNat + 128 * pl.1 = va ||
        (match stashOff va with
         | some off => s.stashAt g.blk off 1 = some (pb.1, pw.2.off + 128 * pl.1)
         | none => false)
      if pl.2 = .dirty && here then some (pb.1, pw.1, pl.1) else none

/-- The write-back of a line of the capacity tier from L2 for a CWB: its dirty sectors are carried to the device, which acknowledges them (R331,
R341). -/
def State.ackLine (s : State) (part : Nat) (x : Xlat) : State :=
  match if x.target = .cap then s.l2KeyOf part x.line else none with
  | none => if x.target = .cap then s.toDevice x.line else s
  | some key =>
    let s := match (SMap.get [] s.l2 key).find? fun w => w.line = x.line && w.dirty != 0 with
      | some w =>
        let s := (s.chargeBytes w.vi x.line (popSectors w.dirty)).sliceRequest key
        { s with l2 := SMap.upd [] s.l2 key fun ws => ws.map fun (v : Way) => if v.line = x.line then { v with dirty := 0 } else v }
      | none => s
    s.toDevice x.line

/-- The line of a window that CWB has written back (R331). -/
def State.ackWin (s : State) (blk win j : Nat) : State :=
  match s.winXlat (s.block blk) (SMap.get {} (s.block blk).wins win) j with
  | some x => s.ackLine (s.block blk).part x
  | none => s

/-- CINV, CINV.i or CWB of one line (R183).  Log entry 67: CINV.i looks its lines up by virtual address, translates none and so ends with no
fault; CWB and CINV of a stash address outside the block's stash find no line and do nothing. -/
def State.maintainLine (s : State) (g : Agent) (kind : PortKind) (va : Nat) : Except Raise State :=
  let wins (s : State) : Except Raise State :=
    (s.winLinesIn g va).foldl (fun a c =>
      a.bind fun s => (s.winWriteBack c.1 c.2.1 c.2.2).map fun s =>
        ((s.setWinLine c.1 c.2.1 c.2.2 .clean).ackWin c.1 c.2.1 c.2.2).wakeFutures) (.ok s)
  match kind with
  | .cinvI => .ok (s.updCore g.core fun k => { k with icache := SMap.erase k.icache (icacheKey g.vi va) })
  | .cdrop => s.dropCount g va
  | .cinv =>
    if (stashOff va).isSome then .ok s
    else (s.translate g.core g.vi va .any).map fun p => p.2.flushL1 g.core p.1.line
  | .cwb =>
    if (stashOff va).isSome then wins s
    else match s.translate g.core g.vi va .any with
      | .error r => .error r
      | .ok (x, s) => (wins (s.cleanL1 g.core x.line)).map fun s => s.ackLine g.part x
  | .sunmap _ => .ok s

/-- The lines of a range from an address, in ascending order, up to the first that faults. -/
def State.maintain (s : State) (g : Agent) (kind : PortKind) (stop : Nat) : Nat → Nat → Option (Nat × Raise) × State
  | 0, _ => (none, s)
  | n + 1, va =>
    if stop ≤ va then (none, s)
    else match s.maintainLine g kind va with
      | .error r => (some (va, r), s)
      | .ok s => s.maintain g kind stop n (va + 128)

/-- A window of a block unmapped (R178): its lines are no longer mapped from here on. -/
def State.dropWin (s : State) (blk win : Nat) : State :=
  s.updBlock blk fun b => { b with wins := SMap.erase b.wins win }

/-- The status that a fault gives a token (R173). -/
def statusOf (c : Cause) : Nat := if c = .extentgone then 3 else 2

/-- The dirty lines of a window written back in ascending order, up to the first that faults (R178). -/
def State.wbLines (s : State) (blk win : Nat) (op : PortOp) (base : DWord) : List Nat → PortOp × State
  | [] => (op, s)
  | j :: t =>
    match s.winWriteBack blk win j with
    | .ok s => s.wakeFutures.wbLines blk win op base t
    | .error r =>
      ({ op with status := statusOf r.cause, va := base + BitVec.ofNat 64 (128 * j), cause := r.cause.code, pix := 128 * j },
       s.walkedFor (s.block blk).core (s.block blk).vi r)

/-- SUNMAP at the release of its entry (R178): its window is no longer mapped from here on. -/
def State.sunmap (s : State) (blk : Nat) (op : PortOp) (wb : Bool) : PortOp × State :=
  let win := op.base.toNat
  match SMap.find? (s.block blk).wins win with
  | none => ({ op with status := 4 }, s)
  | some w =>
    let dirty := w.lines.filterMap fun p => if p.2 = .dirty then some p.1 else none
    let (op, s) := if wb then s.wbLines blk win op w.base dirty else (op, s)
    (op, s.dropWin blk win)

/-- A memory-port operation ends: the record of R173 when it stopped on a fault, then its token. -/
def State.endPort (s : State) (core slot : Nat) (op : PortOp) : State :=
  let blk := (s.wave core slot).blk
  let s := if op.status = 2 || op.status = 3 then
      s.postBlockError blk
        { va := op.va, pc := op.pc, pix := op.pix, core := core, slot := slot, token := op.token, status := op.status, cause := op.cause,
          opcode := op.opcode, queue := 5 }
    else s
  s.updWave core slot fun w =>
    { w.completeToken op.token (BitVec.ofNat 32 op.status) with port := w.port.filter fun x => x.id != op.id }

/-- The effect of a memory-port operation, with what its end will report (R178, R179, R183): once. -/
def State.actPort (s : State) (core slot : Nat) (op : PortOp) : PortOp × State :=
  if op.acted then (op, s)
  else match op.kind with
    | .sunmap wb =>
      let (op, s) := s.sunmap (s.wave core slot).blk op wb
      ({ op with acted := true }, s)
    | k =>
      let g := s.agentOf core slot .normal
      let base := op.base.toNat
      let first := base - base % 128
      let done := { op with acted := true }
      match s.maintain g k (if op.len = 0 then first else base + op.len) (op.len / 128 + 2) first with
      | (none, s) => (done, s)
      | (some (va, r), s) =>
        ({ done with status := statusOf r.cause, va := r.val, cause := r.cause.code, pix := va - base }, s.walkedFor core g.vi r)

/-- An operation of the memory port that is ordered behind another one of its lanes which has not acted yet (R183, R269). -/
def Wave.portBehind (w : Wave) (op : PortOp) : Bool :=
  (w.port.takeWhile fun x => x.id != op.id).any fun x => x.lanes &&& op.lanes != 0

/-- A memory-port operation of a wave completes (R178, R179, R183), behind those of its lanes that were released before it (R269): `own`
says which kinds the event is for.  Nothing of a stopped block goes on (R351). -/
def State.completePort (s : State) (core slot id : Nat) (own : PortKind → Bool) : State :=
  let w := s.wave core slot
  match (if 64 ≤ slot then [] else w.port).find? fun x => x.id = id && own x.kind with
  | none => s
  | some op =>
    if w.portBehind op || s.isStopped core slot then s
    else
      let (op, s) := s.actPort core slot op
      s.endPort core slot op

/-- What a CWB does before its token is written (R331, R332): its lines are carried back, and the operation stays under way. -/
def State.carryPort (s : State) (core slot id : Nat) : State :=
  let w := s.wave core slot
  match (if 64 ≤ slot then [] else w.port).find? fun x => x.id = id && x.kind = .cwb with
  | none => s
  | some op => if w.portBehind op || s.isStopped core slot then s else (s.actPort core slot op).2

/-- The operations of the memory port act that were released before one which acts now (R183, R269): all up to the last of its lanes. -/
def State.actBefore (s : State) (core slot : Nat) (lanes : Lanes) : State :=
  let l := ((s.wave core slot).port.reverse.dropWhile fun o => o.lanes &&& lanes = 0).reverse
  l.foldl (fun s o =>
    let (o, s) := s.actPort core slot o
    s.updWave core slot fun w => { w with port := w.port.map fun x => if x.id = o.id then o else x }) s

end Sys2Proof.Machine
end

