-- ==== Sys2Proof/Machine/Queue.lean ====
section
/-! DEFINITION. The strand store queue (R210 to R213), the operations its entries perform at their release, and the stage rings (R203 to
R205). -/

namespace Sys2Proof.Machine

/-! ## Held and released entries -/

/-- A strand that precedes an entry's strand in one of the entry's lanes is live (R211). -/
def Wave.livePred (w : Wave) (e : QEntry) : Bool :=
  (List.range 8).any fun n =>
    let st := w.strand n
    st.live && e.before.contains st.age && st.memb &&& e.lanes != 0

/-- An entry is of a strand that precedes another entry's strand in one of that entry's lanes (R211). -/
def QEntry.ofPred (o e : QEntry) : Bool := e.before.contains o.age && o.memb &&& e.lanes != 0

/-- The entries that are held, from a first part of them on: n rounds of the rule of R211. -/
def Wave.heldFrom (w : Wave) : Nat → List QEntry → List QEntry
  | 0, h => h
  | n + 1, h =>
    let next := w.queue.filter fun e => e.ssq && (w.livePred e || h.any fun o => o.ofPred e)
    if next.length = h.length then h else w.heldFrom n next

/-- An entry is held while a strand that precedes its strand in one of its lanes is live, or an entry of such a strand is still held
(R211). -/
def Wave.held (w : Wave) (e : QEntry) : Bool :=
  e.ssq && (w.livePred e || (w.heldFrom w.queue.length []).any fun o => o.ofPred e)

/-- An operation on the counts of lines (R164, R180). -/
def MemOp.countsLines (op : MemOp) : Bool :=
  op.ord = .cn || (match op.kind with | .cqry _ => true | _ => false)

/-- The byte ranges that an operation touches: whole lines where it concerns their counts. -/
def MemOp.ranges (op : MemOp) : List (Nat × Nat) :=
  op.accs.map fun a =>
    if op.countsLines then (a.addr.toNat - a.addr.toNat % 128, 128) else (a.addr.toNat, op.kind.size)

/-- Two lists of ranges share a byte. -/
def overlap (a b : List (Nat × Nat)) : Bool :=
  a.any fun x => b.any fun y => x.1 < y.1 + y.2 && y.1 < x.1 + x.2

/-- An engine queue has room: 32 entries for mq, 16 for the others (R172, R185, R197). -/
def Block.room (b : Block) (q : Nat) : Bool :=
  if q = 5 then b.mq.length < 32 else (SMap.get [] b.queues q).length < 16

/-- The queues that a QFENCE mask names: bits 0 to 3 cq0 to cq3, 4 gq, 5 mq, 6 xq (R72). -/
def qfenceQueues (mask : BitVec 8) : List Nat := (List.range 7).filter fun i => mask.getLsbD i

/-- The destination queue of an operation can take it. -/
def State.roomFor (s : State) (w : Wave) (op : QOp) : Bool :=
  match op with
  | .engine q _ => (s.block w.blk).room q
  | .matrix _ => (s.block w.blk).room 5
  | .qfence mask => (qfenceQueues mask).all fun q => (s.block w.blk).room q
  | _ => true

/-- No access of the lane that follows the operation is performed before it (R127, R161, R252): a RINGC that claims is an acquire. -/
def QOp.acquires : QOp → Bool
  | .mem op => op.ord = .acq || op.ord = .ar || op.ord = .sc
  | .fence _ => true
  | .ring prod _ n _ => !prod && 0 < n.toInt
  | _ => false

/-- Every earlier access of the lane is performed before the operation (R33, R127, R161, R183, R252): of the heap operations TDONE alone is a
release, and of the ring operations those that mark done.  An operation for an engine passes to its queue at its release, and it is there
that it waits for the accesses before it (R172, R196, R211). -/
def QOp.releases : QOp → Bool
  | .mem op => op.ord = .rel || op.ord = .ar || op.ord = .sc
  | .heap k _ => k = .tdone
  | .ring _ _ n _ => n.toInt < 0
  | .engine .. | .matrix _ | .qfence _ => false
  | _ => true

/-- Where an operation passes to at its release (R211): engine queues by their numbers, 7 a heap controller, 8 the operations of the memory
port that carry a token, 9 the retention slots of the VI. -/
def QOp.passesTo : QOp → List Nat
  | .engine q _ => [q]
  | .matrix _ => [5]
  | .qfence mask => qfenceQueues mask
  | .heap .. => [7]
  | .port _ => [8]
  | .pin .. => [9]
  | _ => []

/-- An operation that waits in an engine's queue for what comes before it. -/
def QOp.queued : QOp → Bool
  | .engine .. | .matrix _ | .qfence _ => true
  | _ => false

/-- An operation that an engine's work is ordered behind (R172, R196): an access of the lanes, or a fence of theirs. -/
def QOp.gates : QOp → Bool
  | .mem _ | .fence _ | .heap .. | .ring .. | .port _ | .arrive .. => true
  | _ => false

/-- Operations that one strand sends the same way, and that arrive in issue order (R200, R204, R211). -/
def QOp.sameWay : QOp → QOp → Bool
  | .heap .., .heap .. | .ring .., .ring .. => true
  | .mem a, .mem b => overlap a.ranges b.ranges
  | _, _ => false

/-- An entry is an arrival of its wave, a release for every access that the wave has issued before it (R33). -/
def QEntry.arrives (e : QEntry) : Bool :=
  match e.op with
  | .arrive .. => true
  | _ => false

/-- An entry comes before another in the order that their lanes keep (R249): of one strand, in issue order; of strands that precede it, or
of its lanes before its arm began, when the later one is of a kind that the queue holds; of its wave, when the later one is an arrival.  A word
that runs again after a trap keeps its place before the arrivals of its wave, and so do the words of its strand that follow it (R33, R309, R310). -/
def QEntry.precedes (o e : QEntry) : Bool :=
  (e.arrives && (o.again || (o.lanes &&& e.lanes != 0 && e.before.contains o.age))) ||
  (o.id < e.id && (e.arrives || (o.strand = e.strand && o.age = e.age))) ||
  (e.ssq && o.lanes &&& e.lanes != 0 && (e.before.contains o.age || e.old.any fun p => p.1 = o.age && o.id < p.2))

/-- An entry is released: it is not held, and no earlier entry of its strand is held (R211). -/
def Wave.isReleased (w : Wave) (e : QEntry) : Bool :=
  !w.held e && !(e.ssq && w.queue.any fun o => o.strand = e.strand && o.age = e.age && o.id < e.id && w.held o)

/-- An entry was released before another one that passes to the same place: in an earlier cycle, or in the same one and issued earlier (R211). -/
def QEntry.passesBefore (o e : QEntry) : Bool :=
  o.id != e.id && (match o.rel, e.rel with | some a, some b => a < b || (a = b && o.id < e.id) | some _, none => true | _, _ => false) &&
  o.op.passesTo.any e.op.passesTo.contains

/-- Nothing in the queue orders an operation behind it: it is released (R211), no acquire of its lanes stands before it, it is no release
behind an access of its lanes (R252), no operation before it goes the same way (R250, R256), and none that was released before it passes to
the same place (R211). -/
def Wave.free (w : Wave) (e : QEntry) : Bool :=
  w.isReleased e && !(w.queue.any fun o =>
    (o.precedes e && ((o.op.acquires && !e.op.queued) || e.op.releases || o.op.sameWay e.op)) || o.passesBefore e)

/-- Entries that have come to be released are so from a cycle on: that of their issue, or the one after the end of the strands that held them
(R211, R213). -/
def Wave.stamp (w : Wave) (cycle : Nat) : Wave :=
  { w with queue := w.queue.map fun q => if q.rel.isNone && w.isReleased q then { q with rel := some cycle } else q }

/-- An entry's cycle of release has come (R211). -/
def QEntry.ripe (q : QEntry) (cycle : Nat) : Bool := q.rel.all fun c => c ≤ cycle

/-- The cycle of a wave's entry has come. -/
def State.ripeNow (s : State) (core slot : Nat) (q : QEntry) : Bool := q.ripe (s.cycle (s.wave core slot).part)

/-- A claim of a strand that waits at a ring, an acquire, comes before an entry in lane order (R204, R252). -/
def RingWait.precedes (x : RingWait) (core slot : Nat) (e : QEntry) : Bool :=
  x.wave = waveKey core slot && !x.prod &&
  ((x.strand = e.strand && x.age = e.age && x.id < e.id) || (e.ssq && e.old.any fun o => o.1 = x.age && x.id < o.2))

/-- The waiters of a block's rings. -/
def Block.ringWaiters (b : Block) : List RingWait := b.rings.flatMap fun p => p.2.waiters

/-- The accesses of the wave that an operation for an engine does not begin before, by their ids (R172, R196): those in the queue, and the claims
that wait at a ring. -/
def State.gateOf (s : State) (core slot : Nat) (e : QEntry) : List Nat :=
  let w := s.wave core slot
  ((w.queue.filter fun o => o.precedes e && o.op.gates).map (·.id)) ++
  (((s.block w.blk).ringWaiters.filter fun x => x.precedes core slot e).map (·.id))

/-- What an engine's work waits for of the accesses before it is performed (R172, R196). -/
def State.gateOpen (s : State) (core slot : Nat) (gate : List Nat) : Bool :=
  let w := s.wave core slot
  gate.isEmpty || !((w.queue.any fun o => gate.contains o.id) ||
    (s.block w.blk).ringWaiters.any fun x => x.wave = waveKey core slot && gate.contains x.id)

/-- The physical ranges that a memory operation touches, as far as the tables give them: under a window those of its page (R226). -/
def State.physRanges (s : State) (core blk vi : Nat) (op : MemOp) : List (Nat × Nat) :=
  op.accs.filterMap fun a =>
    let va := a.addr.toNat
    let at_ (va : Nat) : Option (Nat × Nat) := (s.pageOf core vi va).map fun x =>
      if op.countsLines then (x.pa - x.pa % 128, 128) else (x.pa, op.kind.size)
    match stashOff va with
    | some off => (s.stashAt blk off 1).bind fun p => ((s.block p.1).winAt p.2).bind fun w => at_ (w.2.base.toNat + (p.2 - w.2.off))
    | none => at_ va

/-- An access of an operation lies in the stash range of a window of the block. -/
def State.inWindow (s : State) (blk win : Nat) (op : MemOp) : Bool :=
  match SMap.find? (s.block blk).wins win with
  | none => false
  | some w => op.accs.any fun a =>
      (stashOff a.addr.toNat).any fun off => (s.stashAt blk off 1).any fun p => p.1 = blk && w.off ≤ p.2 && p.2 < w.off + w.len

/-- An earlier access of the lanes reaches the same bytes by another address or through a window (R250, R256), or a window under the access is
to be unmapped first (R178, R255). -/
def State.aliasWaits (s : State) (core slot : Nat) (e : QEntry) : Bool :=
  let w := s.wave core slot
  w.queue.any fun o => o.precedes e &&
    match o.op, e.op with
    | .mem a, .mem b => overlap (s.physRanges core w.blk w.vi a) (s.physRanges core w.blk w.vi b)
    | .port p, .mem b => (match p.kind with | .sunmap _ => s.inWindow w.blk p.base.toNat b | _ => false)
    | _, _ => false

/-- Every page that an operation reaches is in a TLB: no page walk is needed. -/
def State.tlbReady (s : State) (core : Nat) (w : Wave) (op : QOp) : Bool :=
  match op with
  | .mem m => m.accs.all fun a =>
      (stashOff a.addr.toNat).isSome || !canonical a.addr.toNat || (s.tlbLookup core w.vi a.addr.toNat).isSome
  | _ => true

/-- The SSQ takes no further entry of this kind: all 48 entries are occupied, those of operations in the memory port among them, or 40 are
held and this one would be held too (R212).  An entry that waits for the release of a held one of its strand counts as held, for as long as it
cannot be released either (R211, R223). -/
def Wave.ssqFull (w : Wave) (e : QEntry) : Bool :=
  let n := (w.queue.filter fun o => o.ssq).length + w.port.length
  let h := (w.queue.filter fun o => o.ssq && !w.isReleased o).length
  e.ssq && (48 ≤ n || (40 ≤ h && !w.isReleased { e with id := w.nextId }))

/-- An operation in the queue returns a register result, or counts as one until its controller has performed it (R200, R211). -/
def QOp.hasResult : QOp → Bool
  | .mem op => op.kind.hasResult
  | .heap .. | .ring .. => true
  | .arrive _ _ d => d.isSome
  | _ => false

/-- The registers that an operation in the queue will write: vector registers as they are, scalars above them. -/
def QOp.dests : QOp → List Nat
  | .mem op =>
    match op.kind with
    | .load n _ t => (List.range (max 1 (n / 4))).map (t + ·)
    | .fget t => [t]
    | .atom ao (some t) => (List.range (atomSize ao / 4)).map (t + ·)
    | .sload n d => (List.range (n / 4)).map (200 + d + ·)
    | .satom _ d | .cqry d => [200 + d]
    | _ => []
  | .ring _ _ _ d => [200 + d]
  | .arrive _ _ (some d) => [200 + d]
  | _ => []

/-! ## Stage rings -/

/-- The stash offset of a slot (R203). -/
def Ring.offset (r : Ring) (u : Word) : Word := BitVec.ofNat 32 (r.base * 128 + u.toNat % r.cnt * r.size * 128)

/-- Advance Pf over the run of filled slots. -/
def Ring.fillRun (r : Ring) : Nat → Ring
  | 0 => r
  | n + 1 => if r.slots.any (fun t => t.idx = r.pf && t.filled) then { r with pf := r.pf + 1 }.fillRun n else r

/-- Advance Cf over the run of freed slots, which are then free for reservation. -/
def Ring.freeRun (r : Ring) : Nat → Ring
  | 0 => r
  | n + 1 =>
    if r.slots.any (fun t => t.idx = r.cf && t.freed) then
      { r with cf := r.cf + 1, slots := r.slots.filter fun t => t.idx != r.cf }.freeRun n
    else r

/-- The first n elements that satisfy a test, changed. -/
def markFirst (p : α → Bool) (f : α → α) : Nat → List α → List α
  | 0, l => l
  | _, [] => []
  | n + 1, x :: t => if p x then f x :: markFirst p f n t else x :: markFirst p f (n + 1) t

/-- Whether a positive RINGP or RINGC can proceed now (R204). -/
def Ring.ready (r : Ring) (prod : Bool) (n : Nat) : Bool :=
  if prod then (r.pr - r.cf).toNat + n ≤ r.cnt else n ≤ (r.pf - r.cc).toNat

/-- A positive RINGP or RINGC that can proceed (R204): the ring and the value of s[sd]. -/
def Ring.take (r : Ring) (prod : Bool) (n wave : Nat) : Ring × Word :=
  if prod then
    ({ r with
        pr := r.pr + BitVec.ofNat 32 n
        slots := r.slots ++ (List.range n).map fun i => { idx := r.pr + BitVec.ofNat 32 i, reserver := wave } },
     r.offset r.pr)
  else
    ({ r with
        cc := r.cc + BitVec.ofNat 32 n
        slots := r.slots.map fun t =>
          if (t.idx - r.cc).toNat < n then { t with claimer := some wave } else t },
     r.offset r.cc)

/-- A negative RINGP or RINGC (R204). -/
def Ring.give (r : Ring) (prod : Bool) (n wave : Nat) : Ring :=
  if prod then
    { r with slots := markFirst (fun t => t.reserver = wave && !t.filled) (fun t => { t with filled := true }) n r.slots }.fillRun r.cnt
  else
    { r with slots := markFirst (fun t => t.claimer = some wave && !t.freed) (fun t => { t with freed := true }) n r.slots }.freeRun r.cnt

/-- A scalar result of a strand, outstanding until it is written; `seq` is its word's place among those of the strand. -/
def State.addScalar (s : State) (key strand d : Nat) (x : Word) (seq : Nat := 0) : State :=
  s.updWaveK key fun w => w.addOut { strand := strand, sca := [(d, x)], seq := seq }

/-- The waiters of a ring served in arrival order, each side in its own order: the ring, the waiters left, the results. -/
def Ring.serve (r : Ring) (bp bc : Bool) : List RingWait → Ring × List RingWait × List (RingWait × Word)
  | [] => (r, [], [])
  | w :: t =>
    if !(if w.prod then bp else bc) && r.ready w.prod w.n.toNat then
      let (r, x) := r.take w.prod w.n.toNat w.wave
      let (r, l, o) := r.serve bp bc t
      (r, l, (w, x) :: o)
    else
      let (r, l, o) := r.serve (bp || w.prod) (bc || !w.prod) t
      (r, w :: l, o)

/-- RINGP or RINGC performed (R204).  The strand of an entry that finds the ring not ready waits in the ring's list; one that has run on
behind a held entry does not park by that (log entry 62). -/
def State.ringOp (s : State) (core slot : Nat) (q : QEntry) (prod : Bool) (ring : Nat) (n : Word) (d : Nat) : State :=
  let key := waveKey core slot
  let strand := q.strand
  let blk := (s.wave core slot).blk
  let r : Ring := SMap.get {} (s.block blk).rings ring
  let put (s : State) (r : Ring) := s.updBlock blk fun b => { b with rings := SMap.put b.rings ring r }
  let ni := n.toInt
  if r.cnt = 0 || (r.cnt : Int) < ni then s.addScalar key strand d 0xFFFFFFFF q.seq
  else if ni = 0 then s.addScalar key strand d (r.pf - r.cc) q.seq
  else if 0 < ni then
    if r.waiters.any (fun w => w.prod = prod) || !r.ready prod ni.toNat then
      put s { r with waiters := r.waiters ++ [⟨key, strand, prod, n, d, q.age, q.id, q.seq⟩] }
    else
      let (r', x) := r.take prod ni.toNat key
      let s := put s r'
      (if prod then s else s.acquire core blk .blk).addScalar key strand d x q.seq
  else
    let r := r.give prod ni.natAbs key
    let res := r.pf - r.cc
    let (r', l, o) := r.serve false false r.waiters
    let s := put (s.release core blk .blk) { r' with waiters := l }
    let s := s.addScalar key strand d res q.seq
    o.foldl (fun s p => s.addScalar p.1.wave p.1.strand p.1.d p.2 p.1.seq) s

/-- The strand waits at a ring of its block. -/
def State.ringWaits (s : State) (core slot strand : Nat) : Bool :=
  (s.block (s.wave core slot).blk).rings.any fun p =>
    p.2.waiters.any fun w => w.wave = waveKey core slot && w.strand = strand

/-- A claim that waits at a ring comes before an entry in lane order (R204, R252).  An operation for an engine passes to its queue all the same, and
waits there (R172, R194). -/
def State.claimWaits (s : State) (core slot : Nat) (e : QEntry) : Bool :=
  !e.op.queued && (s.block (s.wave core slot).blk).ringWaiters.any fun x => x.precedes core slot e

/-! ## Retention (R181, R182) -/

/-- The physical lines of a virtual range, page by page: a page without a translation contributes none. -/
def State.rangeLines (s : State) (vi : Nat) (stop : Nat) : Nat → Nat → List (Nat × Nat)
  | 0, _ => []
  | fuel + 1, va =>
    if stop ≤ va then []
    else match s.walk vi va with
      | none => s.rangeLines vi stop fuel (va - va % 65536 + 65536)
      | some (pte, size) =>
        let next := min stop (va - va % 2 ^ size + 2 ^ size)
        match s.xlatOf va pte size with
        | some x => (x.line, (next - va) / 128) :: s.rangeLines vi stop fuel next
        | none => s.rangeLines vi stop fuel next

/-- The lines that a slot retained become ordinary lines. -/
def State.unretain (s : State) (vi slot : Nat) : State :=
  { s with l2 := s.l2.map fun p => (p.1, p.2.map fun w => if w.slot = some (vi, slot) then { w with slot := none } else w) }

/-- L2UNPIN performed (R182). -/
def State.unpin (s : State) (vi slot : Nat) : State :=
  (s.unretain vi slot).updVi vi fun v =>
    { v with ret := SMap.upd {} v.ret slot fun r => { r with used := false, ranges := [] } }

/-- L2PIN performed (R181): a size of 0 frees the slot; any other definition clears its counters (R235). -/
def State.pin (s : State) (vi slot ways base size : Nat) : State :=
  if size = 0 then s.unpin vi slot
  else
    let lines := s.rangeLines vi (base + size) (size / 65536 + 2) base
    (s.unretain vi slot).updVi vi fun v =>
      { v with ret := SMap.put v.ret slot { used := true, ways := ways, ranges := lines } }

/-! ## Performing an operation -/

/-- A queue of the block with an entry appended. -/
def State.pushEngine (s : State) (blk q : Nat) (e : EngEntry) : State :=
  s.updBlock blk fun b => { b with queues := SMap.upd [] b.queues q fun l => l ++ [e] }

/-- A line pinned in L2 for the tile fetch unit, at most 4 pinned ways in a set (R234, R240): whether it is pinned now, and whether L2 had to
fetch it. -/
def State.pinLine (s : State) (part vi line : Nat) : Bool × Bool × State :=
  match s.l2KeyOf part line with
  | none => (false, false, s)
  | some key =>
    let ws := SMap.get [] s.l2 key
    if ws.any (fun w => w.line = line && w.pins != 0) || (ws.filter fun w => w.pins != 0).length < 4 then
      let here := ws.any fun w => w.line = line && !w.spent
      let s := if here then s else s.l2Access part vi line 15 false .normal
      if (SMap.get [] s.l2 key).any (fun w => w.line = line) then
        (true, !here, { s with l2 := SMap.upd [] s.l2 key fun ws => ws.map fun w =>
          if w.line = line then { w with pins := w.pins + 1 } else w })
      else (false, false, s)
    else (false, false, s)

/-- The lines of a matrix operation that are not pinned yet are pinned, as far as the quotas allow (R240). -/
def State.pinLines (s : State) (part vi : Nat) (e : MatEntry) : MatEntry × State :=
  e.lines.foldl (fun a l =>
    if a.1.pinned.contains l then a
    else
      let (b, fetched, s) := a.2.pinLine part vi l
      (if b then { a.1 with pinned := l :: a.1.pinned, fetched := if fetched then l :: a.1.fetched else a.1.fetched } else a.1, s)) (e, s)

/-- The set of a line changed, where the partition's L2 has one for it. -/
def State.updSet (s : State) (part line : Nat) (f : List Way → List Way) : State :=
  match s.l2KeyOf part line with
  | some key => { s with l2 := SMap.upd [] s.l2 key f }
  | none => s

/-- Pinned lines given back (R240). -/
def State.unpinLines (s : State) (part : Nat) (lines : List Nat) : State :=
  lines.foldl (fun s l => s.updSet part l fun ws => ws.map fun w => if w.line = l then { w with pins := w.pins - 1 } else w) s

/-- Counted ways that a fill reserved given back (R175, R238): a line that has its data or its spent tag in the way keeps it (R237). -/
def State.unreserve (s : State) (part : Nat) (lines : List Nat) : State :=
  lines.foldl (fun s l => s.updSet part l fun ws =>
    (ws.filter fun w => !(w.line = l && w.counted && !w.spent && w.valid = 0)).map fun w =>
      if w.line = l then { w with counted := false } else w) s

/-- A matrix operation accepted into the open batch of its block (R185, R194), with its operand lines pinned (R240). -/
def State.pushMatrix (s : State) (blk : Nat) (e : MatEntry) : State :=
  let (e, s) := s.pinLines (s.block blk).part (s.block blk).vi e
  s.updBlock blk fun b => { b with mq := b.mq ++ [{ e with batch := b.batch }] }

/-- The operations of a heap instruction sent lane by lane (R200): a heap that is not configured in the partition fails at once. -/
def State.sendHeap (s : State) (core slot : Nat) (q : QEntry) (kind : HeapKind) : List (Nat × Word × Word) → State
  | [] => s
  | (lane, h, v) :: t =>
    let w := s.wave core slot
    let id := h.toNat / 2 ^ 26
    match SMap.find? (s.part w.part).heaps id with
    | some hp =>
      let op : HeapOp := ⟨core, slot, q.strand, lane, kind, h, v, 0, q.after, q.word, q.seq⟩
      let s := s.updPart w.part fun p =>
        { p with heaps := SMap.put p.heaps id { hp with arrivals := hp.arrivals ++ [op] } }
      (s.updWave core slot fun w => { w with heapOut := w.heapOut ++ [q.strand] }).sendHeap core slot q kind t
    | none => (s.note core slot q.strand ⟨.heaperr, h.setWidth 64, 1#96 <<< lane, q.word⟩).sendHeap core slot q kind t

/-! ## QFENCE joins (R128) -/

/-- The join at the head of a queue, and whether it waits for scatters at .dev. -/
def Block.headJoin (b : Block) (q : Nat) : Option (Nat × Bool) :=
  if q = 5 then
    match b.mq with
    | e :: _ => (match e.kind with | .join id d => some (id, d) | _ => none)
    | [] => none
  else
    match SMap.get [] b.queues q with
    | e :: _ => (match e.op with | .join id d => some (id, d) | _ => none)
    | [] => none

/-- A queue holds a join. -/
def Block.holdsJoin (b : Block) (q id : Nat) : Bool :=
  if q = 5 then b.mq.any fun e => match e.kind with | .join k _ => k = id | _ => false
  else (SMap.get [] b.queues q).any fun e => match e.op with | .join k _ => k = id | _ => false

/-- A join that stands at the head of every queue that holds it: everything issued to those queues before the QFENCE is performed. -/
def Block.readyJoin (b : Block) : Option (Nat × Bool) :=
  (List.range 7).findSome? fun q =>
    match b.headJoin q with
    | some (id, d) =>
      if (List.range 7).all fun k => !b.holdsJoin k id || (b.headJoin k).any (fun j => j.1 = id) then some (id, d) else none
    | none => none

/-- An entry of mq is a join, not an operation. -/
def MatEntry.isJoin (e : MatEntry) : Bool := match e.kind with | .join .. => true | _ => false

/-- The QFENCE of a join, as the records of its release name it (R225). -/
def Block.joinWord (b : Block) (id : Nat) : ErrRec :=
  let inQueue (e : EngEntry) : Bool := match e.op with | .join k _ => k = id | _ => false
  match (b.queues.flatMap fun p => p.2).find? inQueue, b.mq.find? fun e => (match e.kind with | .join k _ => k = id | _ => false) with
  | some e, _ => { pc := e.pc, slot := e.slot, opcode := e.opcode }
  | none, some e => .by_ e.pc e.slot e.word
  | none, none => {}

/-- A join taken out of every queue. -/
def Block.dropJoin (b : Block) (id : Nat) : Block :=
  { b with
    mq := b.mq.filter fun e => match e.kind with | .join k _ => k != id | _ => true
    queues := b.queues.map fun p =>
      (p.1, p.2.filter fun e => match e.op with | .join k _ => k != id | _ => true) }

/-- Joins that are ready complete (R128): with bit 7 the scatters are performed at .dev first. -/
def State.clearJoins (s : State) (blk : Nat) : Nat → State
  | 0 => s
  | n + 1 =>
    match (s.block blk).readyJoin with
    | none => s
    | some (id, d) =>
      let s := if d then s.release (s.block blk).core blk .dev ((s.block blk).joinWord id) else s
      (s.updBlock blk fun b => b.dropJoin id).clearJoins blk n

/-- A memory-port operation that completes at once: a range of length 0 (R179, R183), or a SUNMAP that discards (R178). -/
def PortOp.atOnce (op : PortOp) : Bool :=
  match op.kind with
  | .sunmap wb => !wb && op.status = 0
  | _ => op.len = 0

/-- A memory-port operation released: SUNMAP acts here, behind those of its lanes that were released before it, the others at their completion
(R178, R179, R183, R269). -/
def State.startPort (s : State) (core slot : Nat) (op : PortOp) (lanes : Lanes) : State :=
  let (op, s) := match op.kind with
    | .sunmap _ => (s.actBefore core slot lanes).actPort core slot op
    | _ => (op, s)
  s.updWave core slot fun w =>
    if op.atOnce then w.completeToken op.token 0
    else { w with port := w.port ++ [{ op with id := w.nextId, lanes := lanes }], nextId := w.nextId + 1 }

/-- What an entry performs at its release (R211). -/
def State.performQ (s : State) (core slot : Nat) (q : QEntry) : State :=
  let w := s.wave core slot
  match q.op with
  | .mem op => s.performMem core slot q op
  | .fence scope => (s.release core w.blk scope (.by_ q.pc slot q.word)).acquire core w.blk scope
  | .qfence mask =>
    let id := (s.block w.blk).nextJoin
    let s := s.updBlock w.blk fun b => { b with nextJoin := id + 1 }
    ((qfenceQueues mask).foldl (fun s k =>
      if k = 5 then s.pushMatrix w.blk { kind := .join id (mask.getLsbD 7), core := core, slot := slot, pc := q.pc, word := q.word }
      else s.pushEngine w.blk k
        { op := .join id (mask.getLsbD 7), core := core, slot := slot, pc := q.pc, opcode := opcodeOf q.word }) s).clearJoins w.blk 128
  | .engine k e => s.pushEngine w.blk k { e with gate := s.gateOf core slot q }
  | .matrix e => s.pushMatrix w.blk { e with gate := s.gateOf core slot q }
  | .heap kind ops =>
    let s := if kind = .tdone then s.release core w.blk .dev (.by_ q.pc slot q.word) else s
    s.sendHeap core slot q kind ops
  | .ring prod r n d => s.ringOp core slot q prod r n d
  | .port op => s.startPort core slot op q.lanes
  | .pin k ways base size => s.pin w.vi k ways base.toNat size
  | .arrive id adj d =>
    let (ap, s) := s.arrive core slot id adj q.strand q.pc
    let s := s.updStrand core slot q.strand fun st =>
      match st.park, st.parkI with
      | .barrier, some (.barW ..) => { st with parkArg := ap }
      | _, _ => st
    match d with
    | some d => s.updWave core slot fun w => w.addOut
        { strand := q.strand, sca := if d = 63 then [] else [(d, ap)], word := q.word, after := q.after, seq := q.seq }
    | none => s

/-- The lanes of an FGET that have found their cells full: all of them. -/
def QEntry.fgetDone (q : QEntry) : Bool :=
  match q.op with
  | .mem op => op.accs.all fun a => a.cmp != 0
  | _ => true

/-- An entry taken out of its queue and performed.  An FGET whose cells are not all full leaves its place in the strand store queue and
waits at the home, and its full lanes keep their values (R167, R212); one that can meet a fault is performed as a plain access so that the
fault is raised. -/
def State.runEntry (s : State) (core slot : Nat) (q : QEntry) : State :=
  let remove (s : State) := s.updWave core slot fun w => { w with queue := w.queue.filter fun e => e.id != q.id }
  match q.op with
  | .mem op =>
    match op.kind with
    | .fget t =>
      let g := s.agentOf core slot .normal
      let (d, _) := s.accesses g op op.accs
      if !d.faults.isEmpty then
        -- lanes in pages that refuse are not performed; the others are replayed with them only if they are still empty
        match worstRaise d.faults with
        | some r =>
          let s := d.faults.foldl (fun s f => s.walkedFor core g.vi f.2) s
          let full := op.accs.filter fun a => a.cmp != 0
          let s := (remove s).performMem core slot { q with op := .mem { op with accs := full } } { op with accs := full, kind := .fget t }
          s.latch core slot ⟨r.cause, r.val, q.strand, q.pc, maskOf ((op.accs.filter fun a => a.cmp = 0).map (·.lane)), q.word, q.seq, false⟩
        | none => s
      else
        let (accs, s) := if q.atHome then s.wakeCells g op op.accs
          else
            let (accs, s) := ({ s with asked := some [] } : State).tryCells g op op.accs
            (accs, { s with asked := none })
        let q' := { q with op := .mem { op with accs := accs } }
        if q'.fgetDone then (remove s).performMem core slot q' { op with accs := accs }
        else s.updWave core slot fun w => { w with queue := w.queue.map fun e =>
          if e.id = q.id then { q' with ssq := false, atHome := true } else e }
    | _ => (remove s).performQ core slot q
  | _ => (remove s).performQ core slot q

/-- An entry of a wave's queue by its id. -/
def Wave.entry (w : Wave) (id : Nat) : Option QEntry := w.queue.find? fun e => e.id = id

/-- The memory port can take an entry: its core and the slices can track its misses (R245); a prefetch that finds no miss register is dropped
instead (R166), and an FGET that waits at the home holds its own. -/
def State.portRoom (s : State) (core slot : Nat) (q : QEntry) : Bool :=
  match q.op with
  | .mem op => match op.kind with
    | .pref _ =>
      let g := s.agentOf core slot .normal
      let miss := s.missesOf g op
      !s.coreRoom core miss.1 || s.sliceRoom miss.2
    | _ => q.atHome || s.missRoom (s.agentOf core slot .normal) op
  | _ => true

/-- A strand that a handler of its wave keeps halted: nothing of it is performed or written before TRET (R302, R323). -/
def Wave.asleep (w : Wave) (n : Nat) : Bool := w.halted && n != 8 && (w.strand 8).live

/-- An access of the wave has met a fault that TRET will let it perform: it is latched or pending, or its word is to run again (R301, R309). -/
def Wave.unperformed (w : Wave) : Bool :=
  w.latched.any (fun f => f.cause.kind = .restartable) ||
  w.strands.any fun p => p.1 != 8 && (p.2.replay.isSome || p.2.pend.any fun f => f.cause.kind = .restartable)

/-- An arrival is not counted while an access of its wave is still to be performed again (R33): no other strand is live at its issue (R126), so that
one which precedes it is live only because TRET has made it run again. -/
def Wave.arrivalWaits (w : Wave) (q : QEntry) : Bool := q.arrives && q.strand != 8 && (w.unperformed || w.livePred q)

/-- An entry that nothing orders behind another, whose strand no handler keeps halted, and whose destination can take it. -/
def State.releasable (s : State) (core slot : Nat) (q : QEntry) : Bool :=
  let w := s.wave core slot
  w.free q && !w.arrivalWaits q && !w.asleep q.strand && !s.claimWaits core slot q && !s.aliasWaits core slot q && s.roomFor w q.op && s.portRoom core slot q

/-- An operation is a memory access. -/
def QOp.isMem : QOp → Bool
  | .mem _ => true
  | _ => false

/-- An instruction's operation enters the queue (R210). -/
def State.pushQ (s : State) (core slot : Nat) (q : QEntry) : State :=
  s.updWave core slot fun w => { w with queue := w.queue ++ [{ q with id := w.nextId }], nextId := w.nextId + 1 }.stamp (s.cycle w.part)

/-- An instruction's operation enters the queue, and is performed at once when nothing holds it back, no page walk is needed, and the agenda
has not chosen that accesses are performed in steps of their own (R256). -/
def State.issueQ (s : State) (core slot : Nat) (q : QEntry) : State :=
  let id := (s.wave core slot).nextId
  let s := s.pushQ core slot q
  match (s.wave core slot).entry id with
  | some e =>
    if !(s.lag && e.op.isMem) && s.releasable core slot e && s.ripeNow core slot e && s.tlbReady core (s.wave core slot) e.op then s.runEntry core slot e else s
  | none => s

end Sys2Proof.Machine
end

