-- ==== Sys2Proof/Machine/Operands.lean ====
section
/-! DEFINITION. Operands: the prefix and its rules (R30, R59 to R64), the effective mask (R26, R309), the vector operand codes (R56 to
R58), and the register checks (R11, R16, R17, R122, R136). -/

namespace Sys2Proof.Machine

/-! ## What an instruction accepts as its prefix -/

/-- The class of a word (R53). -/
def classOf (i : Instr) : Nat := ((encode i).extractLsb' 28 3).toNat

/-- Whether the operand b of a class 4 word is the field imm9 with value 0, which a wide prefix replaces (R61); `none` for an op
that reads no wide value, or for i = 0. -/
def immOf (i : Instr) : Option (BitVec 9) :=
  let f : SOp → Option (BitVec 9)
    | .imm v => some v
    | .reg _ => none
  match i with
  | .sadd _ _ _ b | .ssub _ _ _ b | .smul _ _ _ b | .smulhs _ _ _ b | .smulhn _ _ _ b | .sand _ _ _ b | .sor _ _ _ b
  | .sxor _ _ _ b | .sandn _ _ _ b | .sshl _ _ _ b | .sshr _ _ _ b | .ssra _ _ _ b | .smins _ _ _ b | .sminn _ _ _ b
  | .smaxs _ _ _ b | .smaxn _ _ _ b | .sslt _ _ _ b | .ssltn _ _ _ b | .sseq _ _ _ b | .ssne _ _ _ b | .ssle _ _ _ b
  | .sslen _ _ _ b | .smov _ _ b | .scmov _ _ _ b | .sadd64 _ _ _ b | .ssub64 _ _ _ b | .sshl64 _ _ _ b
  | .sshr64 _ _ _ b | .sbfen _ _ _ b | .smulw _ _ _ b | .klane _ _ _ b | .sldB32 _ _ _ b | .sldB64 _ _ _ b
  | .sldB128 _ _ _ b | .sstB32 _ _ _ b | .sstB64 _ _ _ b => f b
  | _ => none

/-- The operand code vb of an instruction that reads one (R56). -/
def codeOf (i : Instr) : Option Code :=
  match i with
  | .vadd _ _ _ _ b | .vsub _ _ _ _ b | .vmul _ _ _ _ b | .vfma _ _ _ _ b | .vfnma _ _ _ _ b | .vmin _ _ _ _ b
  | .vmax _ _ _ _ b | .vcpsgn _ _ _ _ b | .vscale _ _ _ _ b | .vabsd _ _ _ _ b
  | .viadd _ _ _ _ b | .visub _ _ _ _ b | .vimul _ _ _ _ b | .vimad _ _ _ _ b | .vimulhs _ _ _ _ b
  | .vimulhn _ _ _ _ b | .vimins _ _ _ _ b | .viminn _ _ _ _ b | .vimaxs _ _ _ _ b | .vimaxn _ _ _ _ b
  | .viaddss _ _ _ _ b | .viaddsn _ _ _ _ b | .vshl _ _ _ _ b | .vshr _ _ _ _ b | .vsra _ _ _ _ b
  | .visubss _ _ _ _ b => some b
  | .vand _ _ _ b | .vor _ _ _ b | .vxor _ _ _ b | .vandn _ _ _ b | .vbfes _ _ _ b | .vbfen _ _ _ b | .vbfi _ _ _ b
  | .vpermb _ _ _ b | .vsel _ _ _ b | .vshfl _ _ _ b | .vbcast _ _ _ b | .vrdl _ _ _ b | .vwrl _ _ _ b => some b
  | .vpopc _ _ b | .vclz _ _ b | .vmov _ _ b | .vrcp _ _ b | .vrsq _ _ b | .vsqrt _ _ b | .vex2 _ _ b | .vlg2 _ _ b
  | .vsin _ _ b | .vcos _ _ b | .vtanh _ _ b => some b
  | .vscan _ _ _ b | .vreds _ _ _ b => some b
  | .vcmpEqF64 _ _ _ b | .vcmpNeF64 _ _ _ b | .vcmpLtF64 _ _ _ b | .vcmpLeF64 _ _ _ b | .vcmpGtF64 _ _ _ b
  | .vcmpGeF64 _ _ _ b | .vclassF32 _ _ _ b => some b
  | .vcmpF32 _ _ _ _ b | .vcmpS32 _ _ _ _ b | .vcmpN32 _ _ _ _ b => some b
  | .tenq _ _ b | .tgaina _ _ b | .tgainm _ _ b | .tgains _ _ b | .tjset _ _ b => some b
  | _ => none

/-- How an instruction uses a wide group (R61): as its operand (with an imm9 that must be 0), as a branch offset, or not at all. -/
inductive WideUse | operand | clash | branch | none
deriving DecidableEq, Repr

/-- The use of a wide group by an instruction (R61). -/
def wideUse (i : Instr) : WideUse :=
  match i with
  | .br .. | .brany .. | .brall .. | .brnone .. | .brnz .. | .brz .. | .call .. | .split .. => .branch
  | _ =>
    match codeOf i with
    | some b => if b = 255 then .operand else .none
    | none =>
      match immOf i with
      | some v => if v = 0 then .operand else .clash
      | none => .none

/-- Whether XMOD z may modify an instruction (R63): those that write a vector register or a mask triple. -/
def zOk (i : Instr) : Bool :=
  match i with
  | .vreds .. | .vrdl .. | .vwri .. | .vstB32 .. | .vstB64 .. | .vstB128 .. | .vstB8 .. | .vstB16 .. | .vpref .. | .fput ..
  | .vred .. | .mmasp .. => false
  | _ => true

/-- Whether XMOD v4 may modify an instruction (R63). -/
def v4Ok (i : Instr) : Bool :=
  match i with
  | .vfma .. | .vfnma .. | .vimad .. | .mmasp .. => true
  | _ => false

/-- Whether an instruction is a class 3 access with an ordering qualifier (R63). -/
def ordered (i : Instr) : Bool :=
  let ld : LdQ → Bool
    | .acq | .sc => true
    | _ => false
  let st : StQ → Bool
    | .rel | .sc => true
    | _ => false
  match i with
  | .vldB32 _ _ _ _ q | .vldB64 _ _ _ _ q | .vldB128 _ _ _ _ q | .vldS8 _ _ _ _ q | .vldN8 _ _ _ _ q | .vldS16 _ _ _ _ q
  | .vldN16 _ _ _ _ q => ld q
  | .vstB32 _ _ _ _ q | .vstB64 _ _ _ _ q | .vstB128 _ _ _ _ q | .vstB8 _ _ _ _ q | .vstB16 _ _ _ _ q => st q
  | .fget _ _ _ _ acq => acq
  | .fput _ _ _ _ rel => rel
  | .vatom _ _ _ _ _ q => q != .relaxed
  | .vred _ _ _ _ _ q => q != .relaxed
  | _ => false

/-- Which cache policies an instruction allows (R63): any, 0 or 1 with .nt, or 0 alone. -/
def policyOk (i : Instr) (p : BitVec 2) : Bool :=
  match i with
  | .vldB32 _ _ _ _ q | .vldB64 _ _ _ _ q | .vldB128 _ _ _ _ q | .vldS8 _ _ _ _ q | .vldN8 _ _ _ _ q | .vldS16 _ _ _ _ q
  | .vldN16 _ _ _ _ q => q != .nt || p.toNat ≤ 1
  | .vstB32 _ _ _ _ q | .vstB64 _ _ _ _ q | .vstB128 _ _ _ _ q | .vstB8 _ _ _ _ q | .vstB16 _ _ _ _ q =>
    q != .nt || p.toNat ≤ 1
  | .vpref .. => true
  | _ => p = 0

/-- The 64-bit types of classes 0 and 1, for which an odd v4 is ILLEGAL (R136). -/
def wideType (i : Instr) : Bool :=
  match i with
  | .vfma _ ty _ _ _ | .vfnma _ ty _ _ _ => ty = .f64
  | .vimad _ ty _ _ _ => ty = .i64
  | _ => false

/-- An instruction that an XMOD may precede: classes 0 to 3 and MMASP (R30). -/
def xmodUse (i : Instr) : Bool :=
  match i with
  | .mmasp .. => true
  | .illegalWord _ => false
  | _ => classOf i ≤ 3

/-- The rules of R63 for the fields of an XMOD before an instruction. -/
def xmodOk (i : Instr) (x : XMod) : Bool :=
  let mm := match i with | .mmasp .. => true | _ => false
  let scope := x.aux.extractLsb' 2 3
  let pol := x.aux.extractLsb' 0 2
  (!mm || x.k = 31) &&
  (!x.z || (zOk i && !mm)) &&
  (x.rnd = 0 || classOf i = 0) &&
  (!x.v4ok || v4Ok i) && (!mm || x.v4ok) &&
  (mm || ((scope = 0 || (ordered i && scope.toNat ≤ 4)) && policyOk i pol)) &&
  !(x.v4ok && wideType i && x.v4.toNat % 2 = 1)

/-- The faults that an instruction's prefix raises on it (R30, R60, R61, R63, R64, R136).  Of an XMOD before a word that takes none XMODUSE is raised
whatever the XMOD's fields hold: that R63's ILLEGAL for its values does not come first is the model's choice (log entry 92). -/
def pfxFaults (i : Instr) (p : Option Pfx) : List (Option Raise) :=
  let word := encode i
  let ill (w : Word) : Option Raise := some ⟨.illegal, w.setWidth 64⟩
  let bad (w : Word) : Option Raise := some ⟨.badop, w.setWidth 64⟩
  match p with
  | none =>
    [match i with | .mmasp .. => ill word | _ => none,
     if codeOf i = some 255 then bad word else none]
  | some p =>
    [match p.xmod with
     | some (x, xw) => if !xmodUse i then some ⟨.xmoduse, xw.setWidth 64⟩ else if xmodOk i x then none else ill xw
     | none => (match i with | .mmasp .. => ill word | _ => none),
     match p.wide with
     | some (.high _, ww) => bad ww
     | some (wd, ww) =>
       (match wideUse i with
        | .operand => none
        | .clash => ill word
        | .branch => (match wd with | .limm _ => none | _ => bad ww)
        | .none => bad ww)
     | none => if codeOf i = some 255 then bad word else none]

/-- The wide value W of a group (R59). -/
def Wide.value : Wide → Word
  | .limm p => p.signExtend 32
  | .limmf p => p.setWidth 32 <<< 10
  | .high h => h.setWidth 32 <<< 16
  | .full w => w

/-! ## The issuing strand -/

/-- The XMOD of the prefix in progress. -/
def Strand.xmod (st : Strand) : Option XMod := (st.pfx.bind fun p => p.xmod).map (·.1)

/-- The wide value of the prefix in progress, when it has one. -/
def Strand.wideVal (st : Strand) : Option Wide := (st.pfx.bind fun p => p.wide).map (·.1)

/-- The lanes of an XMOD's mask triple, as a wave's strand n reads them: every lane when there is none (R26, R62). -/
def State.maskK (s : State) : Lanes :=
  match s.cs.xmod with
  | some x => if x.k.toNat ≤ 20 then s.cw.ktriple s.cur.2.2 x.k.toNat else BitVec.allOnes 96
  | none => BitVec.allOnes 96

/-- The replay mask in force: every lane when there is none (R309). -/
def Strand.replayMask (st : Strand) : Lanes := st.replay.getD (BitVec.allOnes 96)

/-- The effective mask EXM (R26, R309). -/
def State.exm (s : State) : Lanes := s.cs.am &&& s.maskK &&& s.cs.replayMask

/-- EXM for VSCAN, VREDS and VSEL, whose XMOD k does not narrow it (R26). -/
def State.exmAm (s : State) : Lanes := s.cs.am &&& s.cs.replayMask

/-- The lanes that XMOD z zeroes: those in AM outside EXM; none under the replay rule (R26, R309). -/
def State.zeroLanes (s : State) : Lanes :=
  match s.cs.xmod with
  | some x => if x.z && s.cs.replay.isNone then s.cs.am &&& ~~~s.maskK else 0
  | none => 0

/-- The address that a fault of the issuing instruction reports (R30): its prefix's first word, or its own. -/
def Strand.start (st : Strand) : DWord :=
  match st.pfx with
  | some p => p.start
  | none => st.pc

/-! ## Register checks -/

/-- A vector register at or above the budget raises VREGRANGE (R11). -/
def Wave.vrange (w : Wave) (r : Nat) : Option Raise :=
  if w.vbudget ≤ r then some ⟨.vregrange, BitVec.ofNat 64 r⟩ else none

/-- n registers from r. -/
def Wave.vranges (w : Wave) (r n : Nat) : List (Option Raise) := (List.range n).map fun j => w.vrange (r + j)

/-- A vector operand code's registers within the budget (R136). -/
def Wave.codeRange (w : Wave) (k : Kind) (b : Code) : List (Option Raise) :=
  if b.toNat ≤ 127 then w.vranges b.toNat (if k.wide || k = .amount64 then 2 else 1) else []

/-- The XMOD's v4 within the budget (R136). -/
def State.v4Range (s : State) (n : Nat) : List (Option Raise) :=
  match s.cs.xmod with
  | some x => if x.v4ok then s.cw.vranges x.v4.toNat n else []
  | none => []

/-- Destinations of vector registers that the strand has published raise PUBWRITE (R122, R136). -/
def Strand.pubVs (st : Strand) (r n : Nat) : List (Option Raise) :=
  (List.range n).map fun j => if st.pubV.getLsbD (r + j) then some ⟨.pubwrite, BitVec.ofNat 64 (r + j)⟩ else none

/-- A scalar destination that the strand has published raises PUBWRITE (R108); s60 to s63 are never published (R72). -/
def Strand.pubSs (st : Strand) (r n : Nat) : List (Option Raise) :=
  (List.range n).map fun j =>
    if r + j < 60 && st.pubS.getLsbD (r + j) then some ⟨.pubwrite, BitVec.ofNat 64 (0x80 + r + j)⟩ else none

/-- A scalar destination that is a pending token raises TOKENWRITE (R17). -/
def Wave.tokWs (w : Wave) (r n : Nat) : List (Option Raise) :=
  (List.range n).map fun j => if w.isPending (r + j) then some ⟨.tokenwrite, BitVec.ofNat 64 (r + j)⟩ else none

/-- The checks of n scalar destinations from r: s63 is discarded whole (R14, R15). -/
def State.sdest (s : State) (r n : Nat) : List (Option Raise) :=
  if r = 63 then [] else s.cw.tokWs r n ++ s.cs.pubSs r n

/-- The checks of n vector destinations from r. -/
def State.vdest (s : State) (r n : Nat) : List (Option Raise) := s.cw.vranges r n ++ s.cs.pubVs r n

/-- The checks of a mask-triple destination (R136). -/
def State.kdest (s : State) (k : Nat) : List (Option Raise) :=
  if k = 20 then [] else s.cw.tokWs (3 * k) 3 ++ s.cs.pubSs (3 * k) 3

/-- The scalar registers that a mask triple reads. -/
def kregs (k : Nat) : List Nat := if k = 20 then [] else [3 * k, 3 * k + 1, 3 * k + 2]

/-- The scalar registers of a pair operand. -/
def pairRegs (r : Nat) : List Nat := if r = 63 then [] else [r, r + 1]

/-- The scalar register that an operand code reads (R56). -/
def codeRegs (k : Kind) (b : Code) : List Nat :=
  if 128 ≤ b.toNat && b.toNat ≤ 191 then
    (if k = .f64 then pairRegs (b.toNat - 128) else [b.toNat - 128]) else []

/-- The scalar registers that the XMOD's mask reads. -/
def State.xmodRegs (s : State) : List Nat :=
  match s.cs.xmod with
  | some x => if x.k.toNat ≤ 19 then kregs x.k.toNat else []
  | none => []

/-! ## Operand values -/

/-- The float format of a kind. -/
def kindFmt : Kind → Fmt
  | .f16 => Fmt.f16
  | .bf16 => Fmt.bf16
  | .f64 => Fmt.f64
  | _ => Fmt.f32

/-- The float constants of R57, codes 240 to 254, in a format; log2 e and ln 2 are the rounded values of the table. -/
def floatConst (k : Kind) (c : Nat) : Nat :=
  let F := kindFmt k
  let v (neg : Bool) (m : Nat) (e : Int) : Nat := (F.round .rne neg m e).bits
  let tab (a b c d : Nat) : Nat := match k with | .f16 => b | .bf16 => c | .f64 => d | _ => a
  match c with
  | 240 => v false 1 (-1)
  | 241 => v true 1 (-1)
  | 242 => v false 1 0
  | 243 => v true 1 0
  | 244 => v false 1 1
  | 245 => v true 1 1
  | 246 => v false 1 2
  | 247 => v true 1 2
  | 248 => v false 1 (-2)
  | 249 => tab 0x3FB8AA3B 0x3DC5 0x3FB9 0x3FF71547652B82FE
  | 250 => tab 0x3F317218 0x398C 0x3F31 0x3FE62E42FEFA39EF
  | 251 => F.infBits
  | 252 => F.withSign true F.infBits
  | 253 => F.nan
  | _ => F.withSign true 0

/-- The integer n of codes 192 to 239 (R56). -/
def codeInt (c : Nat) : Int := if c ≤ 223 then (c : Int) - 192 else 223 - (c : Int)

/-- A value replicated into every element of width w of a 32-bit lane (R58). -/
def replicate (w : Nat) (x : Nat) : Nat :=
  (List.range (32 / w)).foldl (fun acc i => acc + x % 2 ^ w * 2 ^ (w * i)) 0

/-- The binary64 value of a wide value read as binary32 (R58): exact, every NaN canonical. -/
def widenW (w : Word) : Nat := (Fmt.f64.roundVal .rne (Fmt.f32.unpack w.toNat)).bits

/-- The value of a constant or wide operand code of a kind (R58): 32 bits, or 64 bits for f64 and i64. -/
def constOf (k : Kind) (c : Nat) (wide : Word) : Nat :=
  let twos (n : Nat) (x : Int) : Nat := (x % 2 ^ n).toNat
  if c = 255 then
    match k with
    | .f64 => widenW wide
    | .i64 => (wide.signExtend 64).toNat
    | _ => wide.toNat
  else if c ≤ 239 then
    let n := codeInt c
    match k with
    | .f32 => Fmt.f32.ofInt n
    | .f16 => replicate 16 (Fmt.f16.ofInt n)
    | .bf16 => replicate 16 (Fmt.bf16.ofInt n)
    | .f64 => Fmt.f64.ofInt n
    | .i16 => replicate 16 (twos 16 n)
    | .i8 => replicate 8 (twos 8 n)
    | .i64 => twos 64 n
    | .i32 | .raw | .amount | .amount64 => twos 32 n
  else
    match k with
    | .f16 | .bf16 => replicate 16 (floatConst k c)
    | _ => floatConst k c

/-- The operand that a code gives a lane (R56, R58): 32 bits, or 64 bits for f64 and i64.  A scalar operand is a pair for f64, and one
register sign-extended to 64 bits for i64 (R142, log entry 19). -/
def State.operand (s : State) (k : Kind) (b : Code) (lane : Nat) : Nat :=
  let c := b.toNat
  let w := s.cw
  if c ≤ 127 then (if k.wide || k = .amount64 then (w.vpair c lane).toNat else (w.vreg c lane).toNat)
  else if c ≤ 191 then
    (if k = .f64 then (w.spair s.cur.2.2 (c - 128)).toNat
     else if k = .i64 then ((w.sreg s.cur.2.2 (c - 128)).signExtend 64).toNat
     else (w.sreg s.cur.2.2 (c - 128)).toNat)
  else constOf k c ((s.cs.wideVal.map Wide.value).getD 0)

/-- The operand b of class 4, 32 bits (R109). -/
def State.sop (s : State) (b : SOp) : Word :=
  match b with
  | .reg r => s.cw.sreg s.cur.2.2 r.toNat
  | .imm v => match s.cs.wideVal with
    | some w => w.value
    | none => v.signExtend 32

/-- The operand b of the 64-bit ops of class 4 (R109). -/
def State.sop64 (s : State) (b : SOp) : DWord :=
  match b with
  | .reg r => s.cw.spair s.cur.2.2 r.toNat
  | .imm v => match s.cs.wideVal with
    | some w => w.value.signExtend 64
    | none => v.signExtend 64

/-- The address of a scalar access (R113): base pair plus a scaled immediate or a register. -/
def State.saddr (s : State) (a : SReg) (b : SOp) (size : Nat) : DWord :=
  s.cw.spair s.cur.2.2 a.toNat +
    (match b with
     | .reg r => (s.cw.sreg s.cur.2.2 r.toNat).setWidth 64
     | .imm _ => s.sop64 b * BitVec.ofNat 64 size)

/-- The scalar registers that an operand b reads. -/
def sopRegs : SOp → List Nat
  | .reg r => [r.toNat]
  | .imm _ => []

/-- The scalar registers that a 64-bit operand b reads. -/
def sopRegs64 : SOp → List Nat
  | .reg r => pairRegs r.toNat
  | .imm _ => []

/-- The signed word offset of a branch: its field, or the field extended by a LIMM prefix (R61). -/
def State.offset (s : State) (field : BitVec n) : DWord :=
  match s.cs.wideVal with
  | some (.limm p) => (p.signExtend 64 <<< n) ||| field.setWidth 64
  | _ => field.signExtend 64

/-- A branch target: words from the branch itself (R117). -/
def State.target (s : State) (field : BitVec n) : DWord := s.cs.pc + s.offset field <<< 2

/-- The two offsets of SPLIT (R61). -/
def State.splitOffsets (s : State) (offA offC : BitVec 9) : DWord × DWord :=
  match s.cs.wideVal with
  | some (.limm p) =>
    (((p.extractLsb' 11 11).signExtend 64 <<< 9) ||| offA.setWidth 64,
     ((p.extractLsb' 0 11).signExtend 64 <<< 9) ||| offC.setWidth 64)
  | _ => (offA.signExtend 64, offC.signExtend 64)

/-- The fourth operand register: v4 of the XMOD, or the destination (R87, R142). -/
def State.v4 (s : State) (d : VReg) : Nat :=
  match s.cs.xmod with
  | some x => if x.v4ok then x.v4.toNat else d.toNat
  | none => d.toNat

/-- The scope of an ordered access (R64). -/
def State.scopeOf (s : State) : Scope :=
  match s.cs.xmod with
  | some x => (Scope.ofCode (x.aux.extractLsb' 2 3)).getD .dev
  | none => .dev

/-- The cache policy field of the XMOD (R62). -/
def State.polOf (s : State) : BitVec 2 :=
  match s.cs.xmod with
  | some x => x.aux.extractLsb' 0 2
  | none => 0

end Sys2Proof.Machine
end

