-- ==== Sys2Proof/Machine/Flags.lean ====
section
/-! DEFINITION. FMODE, FSTAT and MSTAT (R19, R20), the rounding rule of an instruction (R83), the flags and the meter increments that a
result carries (R85, R107, R139). -/

namespace Sys2Proof.Machine

/-- What a write stores in FMODE: bits 8:0, and 0 in RM for 5, 6 or 7 (R19). -/
def fmodeOf (x : Word) : BitVec 9 :=
  let m := x.setWidth 9
  if 5 ≤ (m.extractLsb' 0 3).toNat then m &&& 0x1F8 else m

/-- The rounding rule of a code of RM (R19). -/
def rndOfCode (c : Nat) : Rnd :=
  match c with
  | 1 => .rtz
  | 2 => .rup
  | 3 => .rdn
  | 4 => .rna
  | _ => .rne

/-- The RM field of a wave (R19). -/
def Wave.rm (w : Wave) : Nat := (w.fmode.extractLsb' 0 3).toNat

/-- The FTZ bit of a wave (R19). -/
def Wave.ftz (w : Wave) : Bool := w.fmode.getLsbD 3

/-- The enable bits of a wave in the FSTAT layout (R19, R20). -/
def Wave.enables (w : Wave) : BitVec 5 := w.fmode.extractLsb' 4 5

/-- The mode of a class 0 instruction: XMOD rnd, or FMODE RM (R83). -/
def State.modeFloat (s : State) : FMode :=
  let r := match s.cs.xmod with
    | some x => x.rnd.toNat
    | none => 0
  ⟨rndOfCode (if r = 0 then s.cw.rm else r - 1), s.cw.ftz⟩

/-- The mode of a VCVT: its rounding field, 0 for FMODE RM (R83, R146). -/
def State.modeCvt (s : State) (rnd : BitVec 2) : FMode :=
  ⟨(match rnd.toNat with
    | 1 => .rne
    | 2 => .rtz
    | 3 => .rdn
    | _ => rndOfCode s.cw.rm), s.cw.ftz⟩

/-- The mode of the SFU functions, VSCAN and VREDS (R83, R86). -/
def State.modeNearest (s : State) : FMode := ⟨.rne, s.cw.ftz⟩

/-- A clearing write of a sticky register: bits set in the source are cleared (R20). -/
def clearSticky (old : BitVec 5) (x : Word) : BitVec 5 := old &&& ~~~(x.setWidth 5)

/-- The meter of the class 0 types, and the increment for n lanes (R139): twice for the fused operations, and twice for packed types. -/
def floatMeter (ty : FTy) (fused : Bool) (n : Nat) : List (Nat × Nat) :=
  let k := if fused then 2 * n else n
  match ty with
  | .f32 => [(9, k)]
  | .f16x2 | .bf16x2 => [(10, 2 * k)]
  | .f64 => [(11, k)]

/-- The flags of a list of results, ORed together (R85). -/
def orFlags (l : List (BitVec 5)) : BitVec 5 := l.foldl (· ||| ·) 0

end Sys2Proof.Machine
end

