-- ==== Sys2Proof/Machine/Ending.lean ====
section
/-! DEFINITION. Results written (R29, R219), the drain of a wave (R302, R316), the end of a block (R239, R291, R311) and of a wave
(R133). -/

namespace Sys2Proof.Machine

/-! ## Results -/

/-- The keys that a result writes: vector lanes, and scalar registers above them. -/
def Result.keys (r : Result) : List Nat :=
  r.vec.map (·.1) ++ r.sca.map (fun p => 20000 + p.1) ++
  (match r.bits with
   | some (k, _, _) => [20000 + 3 * k, 20001 + 3 * k, 20002 + 3 * k]
   | none => [])

/-- The registers that a result will write, numbered likewise. -/
def Result.dests (r : Result) : List Nat :=
  r.keys.map fun k => if 20000 ≤ k then k - 20000 + 200 else k / 96

/-- A mask triple with some lanes written (R155), but for registers that a test leaves out. -/
def Wave.setBits (w : Wave) (n : Nat) (b : Option (Nat × Lanes × Lanes)) (out : Nat → Bool := fun _ => false) : Wave :=
  match b with
  | none => w
  | some (k, m, v) =>
    let x := (w.ktriple n k &&& ~~~m) ||| (v &&& m)
    w.setSregs n ([(3 * k, maskWord x 0), (3 * k + 1, maskWord x 1), (3 * k + 2, maskWord x 2)].filter fun p => !out p.1)

/-- FSTAT bits that an event sets in a cycle (R20). -/
def Wave.setFstat (w : Wave) (cycle : Nat) (x : BitVec 5) : Wave :=
  { w with fstat := w.fstat ||| x, setAt := cycle, setF := (if w.setAt = cycle then w.setF else 0) ||| x, setM := if w.setAt = cycle then w.setM else 0 }

/-- MSTAT bits that an event sets in a cycle (R20). -/
def Wave.setMstat (w : Wave) (cycle : Nat) (x : BitVec 5) : Wave :=
  { w with mstat := w.mstat ||| x, setAt := cycle, setM := (if w.setAt = cycle then w.setM else 0) ||| x, setF := if w.setAt = cycle then w.setF else 0 }

/-- A later word of the strand has written a result's register already, or holds it as a token: the result's value does not land (R29). -/
def Wave.shadowed (w : Wave) (r : Result) (key : Nat) : Bool :=
  w.shadow.any fun x => x.1 = r.strand && r.seq < x.2.1 && x.2.2 = key

/-- The registers that words of a strand issued before a place among its words have yet to write, and that no outstanding result writes
yet: by operations in the queue, at a heap's controller, at a ring. -/
def State.pendingDests (s : State) (core slot n seq : Nat) : List Nat :=
  let w := s.wave core slot
  (w.queue.filter fun q => q.strand = n && q.seq < seq).flatMap (fun q => q.op.dests) ++
  ((s.part w.part).heaps.flatMap fun h => h.2.arrivals.flatMap fun o =>
    if o.kind = .hres && o.core = core && o.slot = slot && o.strand = n && o.seq < seq then [200 + o.d, 201 + o.d] else []) ++
  ((s.block w.blk).rings.flatMap fun r => r.2.waiters.flatMap fun x =>
    if x.wave = waveKey core slot && x.strand = n && x.seq < seq then [200 + x.d] else [])

/-- The quarter of a wave slot (R291). -/
def quarterOf (slot : Nat) : Nat := slot / 16

/-- The results that a quarter's SFU queue (1) or conversion queue (2) holds (R220). -/
def State.unitResults (s : State) (core q unit : Nat) : List Result :=
  (List.range 16).flatMap fun k => (s.wave core (16 * q + k)).outs.filter fun r => r.unit = unit

/-- The result that stands at a place in the list of a wave's outstanding results is written in some lanes (R29): the lanes left over stay
outstanding, and the scalars, the flags and the meter increments go with the last of them (R20, R139).  A value that a later word of the
strand has overtaken does not land; a result of the SFU or the conversion queue overtakes those of earlier words that an operation in the
wave's queue has yet to bring (R29, R220).  A raised flag whose enable bit was set when the word issued raises FPEXC (R19, R107). -/
def State.land (s : State) (core slot idx : Nat) (lanes : Lanes) : State :=
  let w := s.wave core slot
  match w.outs[idx]? with
  | none => s
  | some r =>
    let now := r.vec.filter fun p => lanes.getLsbD (p.1 % 96)
    let rest := r.vec.filter fun p => !lanes.getLsbD (p.1 % 96)
    let late := if r.unit = 0 then [] else
      let d := s.pendingDests core slot r.strand r.seq
      if d.isEmpty then []
      else (now.map (·.1)).filter fun k =>
        d.contains (k / 96) || (w.outs.take idx).any fun o => o.strand = r.strand && o.keys.contains k
    let v := { w.setVregs (now.filter fun p => !w.shadowed r p.1) with shadow := w.shadow ++ late.map fun k => (r.strand, r.seq, k) }
    if !rest.isEmpty then s.setWave core slot { v with outs := w.outs.set idx { r with vec := rest } }
    else
      let v := (v.setSregs r.strand (r.sca.filter fun p => !w.shadowed r (20000 + p.1))).setBits r.strand r.bits
        fun k => w.shadowed r (20000 + k)
      let v := if r.flags = 0 then v else v.setFstat (s.cycle w.part) r.flags
      let outs := w.outs.eraseIdx idx
      let s := s.setWave core slot { v with
        outs := outs
        shadow := v.shadow.filter fun x =>
          (outs.any fun o => o.strand = x.1 && o.seq < x.2.1) || !(s.pendingDests core slot x.1 x.2.1).isEmpty }
      let s := r.meters.foldl (fun s p => s.waveMeter (waveKey core slot) w.vi p.1 p.2) s
      if r.flags &&& r.enables = 0 then s
      else s.latch core slot
        { cause := .fpexc, val := r.flags.setWidth 64, strand := r.strand, tpc := r.after, mask := r.am, word := r.word,
          seq := r.seq, noted := false }

/-- The issuing word writes scalar registers at its issue: what earlier words of the strand have yet to write into them does not land over it (R29). -/
def State.overtake (s0 : State) (rs : List Nat) (s : State) : State :=
  let n := s0.cur.2.2
  let seq := s0.cs.issued + 1
  let late := rs.filter fun r => (s.cw.outs.any fun o => o.strand = n && o.keys.contains (20000 + r)) ||
    (s.pendingDests s0.cur.1 s0.cur.2.1 n seq).contains (200 + r)
  s.updCw fun w => { w with shadow := w.shadow ++ late.map fun r => (n, seq, 20000 + r) }

/-- A register becomes a token of the issuing word (R16, R17). -/
def State.token (s0 : State) (r : Nat) (s : State) : State := s0.overtake [r] (s.updCw fun w => w.addToken r)

/-- The issuing word sets its strand's AM (R118, R120, R121). -/
def State.setsAm (s0 : State) (s : State) : State := s0.overtake [60, 61, 62] s

/-- Two writes of one strand to one register land in program order (R29): no earlier result of the strand shares a key, and no earlier
word of the strand has yet to bring one for its registers.  A result of the SFU queue or of the conversion queue lands behind those that
stand before it there, and waits for no operation in the wave's queue (R220).  Nothing is written of a strand that a handler of its wave
keeps halted (R323). -/
def State.canLand (s : State) (core slot idx : Nat) : Bool :=
  let w := s.wave core slot
  match w.outs[idx]? with
  | none => false
  | some r =>
    let d := s.pendingDests core slot r.strand r.seq
    let behind := (w.outs.take idx).any fun o => o.strand = r.strand && o.keys.any fun k => r.keys.contains k
    !w.asleep r.strand &&
    (if r.unit = 0 then !behind && (d.isEmpty || !(r.dests.any d.contains))
     else (!behind || !d.isEmpty) && !((s.unitResults core (quarterOf slot) r.unit).any fun o => o.place < r.place))

/-- The first outstanding result of a wave that can be written. -/
def State.nextLand (s : State) (core slot : Nat) : Option Nat :=
  (List.range (s.wave core slot).outs.length).find? (s.canLand core slot)

/-- Outstanding results of a wave written, at most n of them, each when nothing is before it (R302 step 3). -/
def State.landAll (s : State) (core slot : Nat) : Nat → State
  | 0 => s
  | n + 1 =>
    match s.nextLand core slot with
    | some i => (s.land core slot i (BitVec.allOnes 96)).landAll core slot n
    | none => s

/-- The results of the waves of a quarter written, in n rounds: those of one wave can stand behind another's in a queue of the quarter
(R220). -/
def State.landQuarter (s : State) (core slot : Nat) : Nat → State
  | 0 => s
  | n + 1 =>
    if ((s.wave core slot).outs.isEmpty) then s
    else
      ((List.range 16).foldl (fun s k =>
        let j := 16 * quarterOf slot + k
        s.landAll core j (s.wave core j).outs.length) s).landQuarter core slot n

/-- A wave's outstanding results written (R220, R302 step 3). -/
def State.landWave (s : State) (core slot : Nat) : State :=
  let s := s.landAll core slot (s.wave core slot).outs.length
  if (s.wave core slot).outs.any fun r => r.unit != 0 then s.landQuarter core slot 24 else s

/-- The entries of a wave's queue that nothing orders behind another performed, in order. -/
def State.drainPass (s : State) (core slot : Nat) : State :=
  ((s.wave core slot).queue.map (·.id)).foldl (fun s id =>
    match (s.wave core slot).entry id with
    | some q => if s.releasable core slot q then s.runEntry core slot q else s
    | none => s) s

/-- Passes over the queue as long as one performs something. -/
def State.drainPasses (s : State) (core slot : Nat) : Nat → State
  | 0 => s
  | n + 1 =>
    let t := s.drainPass core slot
    if (t.wave core slot).queue.length = (s.wave core slot).queue.length then t else t.drainPasses core slot n

/-- Every entry of a wave's queue that nothing orders behind another is performed, in order (R302 steps 3 and 4): waiting loads and
released entries. -/
def State.drainQueue (s : State) (core slot : Nat) : State := s.drainPasses core slot (s.wave core slot).queue.length

/-- A request of the wave waits for a miss register or a miss entry (R245). -/
def State.missWaits (s : State) (core slot : Nat) : Bool :=
  let w := s.wave core slot
  w.queue.any fun q => w.free q && !s.portRoom core slot q

/-- The requests under way are served, and the results of every wave written (R245). -/
def State.landMisses (s : State) : State := s.waves.foldl (fun s p => s.landWave (p.1 / 64) (p.1 % 64)) s.served

/-- Rounds of a drain as long as one performs something: results that are written make room for the misses of others (R245). -/
def State.drainRounds (s : State) (core slot : Nat) : Nat → State
  | 0 => s
  | n + 1 =>
    let t := (s.drainQueue core slot).landWave core slot
    let t := if t.missWaits core slot then t.landMisses else t
    if (t.wave core slot).queue.length = (s.wave core slot).queue.length && !t.missWaits core slot then t else t.drainRounds core slot n

/-- A wave drained to an instruction boundary (R220, R302, R316, R351). -/
def State.drainWave (s : State) (core slot : Nat) : State :=
  let s := s.landWave core slot
  s.drainRounds core slot ((s.wave core slot).queue.length + 1)

/-- A wave drops from the barriers of its block (R34), by the word of a strand that ends it. -/
def State.dropBarriers (s : State) (core slot strand : Nat) (pc : DWord) : State :=
  let blk := (s.wave core slot).blk
  ((List.range 20).filter (s.block blk).hasBarrier).foldl (fun s id => (s.arrive core slot id (-1) strand pc).2) s

/-- The strand whose end was the wave's last (R133). -/
def Wave.lastEnded (w : Wave) : Nat :=
  ((minBy (fun n => 2 ^ 64 - ((w.strand n).endedAt.getD 0)) ((List.range 8).filter fun n => (w.strand n).state = .ended))).getD 0

/-! ## The end of a block -/

/-- Addresses in stash form. -/
def stashBase : Nat := 0xFFFFFF0000000000

/-- The lines of a block's stash that are still counted, reported to its packet (R239). -/
def State.reportCounts (s : State) (blk : Nat) : State :=
  let b := s.block blk
  let l := b.counts.filterMap fun p =>
    match p.2 with
    | .live n => some (SMap.get (BitVec.ofNat 64 (stashBase + 128 * p.1)) b.countVa p.1, n)
    | _ => none
  (s.updPkt b.packet fun p => { p with under := p.under ++ l }).updBlock blk fun b => { b with counts := [], countVa := [] }

/-- The stash of a block is released (R177, R225, R239, R291): every window is unmapped with write-back, and the counts end. -/
def State.releaseStash (s : State) (blk : Nat) : State :=
  let s := (s.winLines blk (· == .dirty) none).foldl (fun s p => s.winWriteBackOr blk p.1 p.2 {} .clean) s
  (s.updBlock blk fun b => { b with wins := [] }).reportCounts blk

/-- A block uses a code range register (R222). -/
def Block.usesRange (b : Block) (core : Nat) (r : CodeRange) : Bool :=
  b.live && b.core = core && b.vi = r.vi && b.desc.entry = r.base && b.desc.text = r.len

/-- The code ranges of a core after a placement or an exit (R222): ranges without a resident user go, and freed registers take the ranges
of resident units that have none, the earliest placed first, up to 4. -/
def State.updateRanges (s : State) (core : Nat) : State :=
  let bs := s.blocks.filterMap fun p => if p.2.live && p.2.core = core then some p.2 else none
  let kept := (s.core core).ranges.filter fun r => bs.any fun b => b.usesRange core r
  let all := bs.foldl (fun (l : List CodeRange) b =>
    if 4 ≤ l.length || l.any (fun r => b.usesRange core r) then l
    else l ++ [⟨b.vi, b.desc.entry, b.desc.text, 0⟩]) kept
  s.updCore core fun k =>
    { k with ranges := all.map fun r => { r with users := (bs.filter fun b => b.usesRange core r).length } }

/-- A block has exited: it counts for its packet, its code range is dropped, its registers are free (R132), and its stash and its slot are
freed, for a block of a duet once both blocks have exited (R222, R284, R291). -/
def State.blockExit (s : State) (blk : Nat) : State :=
  let b := s.block blk
  let s := s.updBlock blk fun b => { b with exited := true, live := false, pool := [], claimed := [] }
  let s := s.updateRanges b.core
  let s := if b.task then s else s.updPkt b.packet fun p => { p with count := p.count + 1 }
  match b.peer with
  | none => { s.releaseStash blk with blocks := SMap.erase (s.releaseStash blk).blocks blk }
  | some p =>
    if (s.block p).exited then
      let s := (s.releaseStash p).releaseStash blk
      { s with blocks := SMap.erase (SMap.erase s.blocks p) blk }
    else s

/-! ## Heaps: records and stops that waves bring about -/

/-- The heap run of a task wave loses a wave: one that fails sets the stop latch (R295). -/
def State.runWaveEnds (s : State) (part heap : Nat) (failed : Bool) : State :=
  s.updPart part fun p => { p with heaps := p.heaps.map fun h =>
    if h.1 = heap then
      (h.1, { h.2 with run := h.2.run.map fun r =>
        { r with running := r.running - 1, latch := r.latch || failed, failed := r.failed || failed } })
    else h }

/-- At the exit of a task wave its controller receives a TDONE for each lane, performed only for a task still RUNNING in the generation of
this wave's pop (R294).  The generation stands in the operation's value. -/
def State.taskDones (s : State) (core slot : Nat) : State :=
  let w := s.wave core slot
  w.tasks.foldl (fun s t =>
    s.updPart w.part fun p => { p with heaps := p.heaps.map fun h =>
      if h.1 = w.heapId then
        (h.1, { h.2 with arrivals := h.2.arrivals ++ [⟨core, 64, 0, t.lane, .tdone, t.handle, BitVec.ofNat 32 t.gen, 0, 0, 0, 0⟩] })
      else h }) (if w.tasks.isEmpty then s else s.release core w.blk .dev)

/-! ## Context-ending causes (R311) -/

/-- An entry of a wave whose accesses are all performed waits for none. -/
def EngEntry.ungated (k : Nat) (e : EngEntry) : EngEntry := if waveKey e.core e.slot = k then { e with gate := [] } else e

/-- A wave's slot is freed (R133); the flags that its open batches would bring are its own and go with it (R20). -/
def State.freeWave (s : State) (core slot : Nat) : State :=
  let blk := (s.wave core slot).blk
  let k := waveKey core slot
  { s with waves := SMap.erase s.waves k }.updBlock blk fun b =>
    { b with
      waves := b.waves.filter (· != k)
      batchFlags := b.batchFlags.filter fun x => x.2.1 != k
      queues := b.queues.map fun (p : Nat × List EngEntry) => (p.1, p.2.map (EngEntry.ungated k)) }

/-- Heap operations of a block's waves that have arrived are performed all the same, and report to no wave. -/
def State.detachHeapOps (s : State) (part blk : Nat) : State :=
  let ks := (s.block blk).waves
  s.updPart part fun p => { p with heaps := p.heaps.map fun h =>
    (h.1, { h.2 with arrivals := h.2.arrivals.map fun o =>
      if o.slot < 64 && ks.contains (waveKey o.core o.slot) then { o with slot := 65 } else o }) }

/-- The context of a block ends (R311): its waves stop without a handler, held entries are discarded and released ones performed, its
engine entries stop and their tokens are never written, accepted matrix operations are abandoned, its windows are unmapped without
write-back, its waves drop from their barriers, and a record is posted; its counted lines are reported when its stash is freed (R239). -/
def State.endBlock (s : State) (core slot : Nat) (f : FaultRec) (tskid : Nat) : State :=
  let w := s.wave core slot
  let blk := w.blk
  let b := s.block blk
  let s := s.unpinLines b.part (b.mq.flatMap fun e => e.pinned)
  let s := s.unreserve b.part ((b.queues.flatMap fun (p : Nat × List EngEntry) => p.2.flatMap EngEntry.held).filter fun l =>
    (SMap.find? s.counted l).isNone)
  let s := s.updBlock blk fun b => { b with dead := true, halted := true, queues := [], mq := [] }
  let s := b.waves.foldl (fun (s : State) k => s.updWaveK k fun w => { w with halted := true, port := [], snaps := [] }) s
  let s := b.waves.foldl (fun s k => s.drainWave (k / 64) (k % 64)) s
  let s := b.waves.foldl (fun s k =>
    if k = waveKey core slot then s.dropBarriers core slot f.strand f.tpc
    else
      let n := (s.waveK k).liveSlots.headD 0
      s.dropBarriers (k / 64) (k % 64) n ((s.waveK k).strand n).pc) s
  let s := s.updBlock blk fun b => { b with wins := [] }
  let r : ErrRec :=
    { va := f.val, pc := f.tpc, pix := tskid, core := core, slot := slot, token := 0xFF, status := 0, cause := f.cause.code,
      opcode := opcodeOf f.word, queue := 0xFF }
  let s := s.postBlockError blk r
  let s := if f.cause = .mcheck then s.updPart w.part fun p => { p with errs := p.errs ++ [r.bytes w.vi] } else s
  let s := s.updPkt b.packet fun p => { p with status := 1 }
  let s := if b.task then s.runWaveEnds w.part w.heapId true else s
  let s := s.detachHeapOps w.part blk
  let s := { s with waves := b.waves.foldl (fun m k => SMap.erase m k) s.waves }
  (s.updBlock blk fun b => { b with waves := [] }).blockExit blk

/-! ## The end of a wave (R133) -/

/-- A wave without a live strand whose tokens have all completed (R17, R133). -/
def Wave.finished (w : Wave) : Bool :=
  w.live && w.liveSlots.isEmpty && !(w.strand 8).live && w.tokens.isEmpty && w.outs.isEmpty && w.heapOut.isEmpty && w.latched.isNone

/-- The wave ends: once its stores are performed it drops from its barriers, an arrival that releases them, and frees its slot; the last
wave of a block ends the block (R33, R34, R133, R291, R294).  Nothing of a stopped block goes on (R351). -/
def State.endWave (s : State) (core slot : Nat) : State :=
  let w := s.wave core slot
  if !w.finished || !w.queue.isEmpty || (s.block w.blk).stopped then s
  else
      let st := w.strand w.lastEnded
      let s := s.dropBarriers core slot w.lastEnded st.pc
      let b := s.block w.blk
      let s := s.taskDones core slot
      let s := if b.task then s.runWaveEnds w.part w.heapId false else s
      let s := s.freeWave core slot
      if (s.block w.blk).waves.isEmpty then s.blockExit w.blk else s

end Sys2Proof.Machine
end

