-- ==== Sys2Proof/Machine/Ops.lean ====
section
/-! DEFINITION. The operations that every word shares: its issue with its faults and its park marker (R17, R28, R54, R301), taking a trap
(R302 to R307) and returning from one (R308, R309). -/

namespace Sys2Proof.Machine

/-! ## The trap frame (R304, R305) -/

/-- A byte address whose bits 63:57 equal bit 56 (R304). -/
def canonPc (a : DWord) : Nat := ((a.setWidth 57).signExtend 64).toNat

/-- A strand waits for a word at its PC that has not issued (R17, R212): it becomes ready and issues that word. -/
def Strand.retries (st : Strand) : Bool :=
  match st.park, st.parkI with
  | .token, some (.twait ..) => false
  | .token, _ | .queue, _ => true
  | _, _ => false

/-- The address of the word in which a strand stands (R305): of the word whose own condition it waits on, else of its next word
(log entry 61). -/
def Strand.standPc (st : Strand) : DWord := if st.state = .parked && st.parkI.isSome && !st.retries then st.pc - 4 else st.pc

/-- The first word of a strand's snapshot entry (R305). -/
def Strand.snapHead (st : Strand) : Nat :=
  let arm (a : Arm) (sh : Nat) : Nat := (a.slot % 8) * 2 ^ sh + (if a.live then 2 ^ (sh + 3) else 0) + (if a.ended then 2 ^ (sh + 4) else 0)
  let state := match st.state with | .free => 0 | .ready => 1 | .parked => 2 | .ended => 3
  let kind := match st.kind with | .root => 0 | .armT => 1 | .armF => 2 | .cont => 3
  state + 4 * kind + (match st.parent with | some p => 16 * (p % 8) + 128 | none => 0) + arm st.armT 8 + arm st.armF 13 +
  st.stack.length * 2 ^ 18 + (if st.trap then 2 ^ 23 else 0) + (if st.state = .parked then st.park.code * 2 ^ 24 else 0)

/-- The snapshot entry of a slot (R305): 64 bytes; a free slot reads 0 and an ended one holds all ones in PUBV and PUBS. -/
def Strand.snapshot (st : Strand) : List Byte :=
  if st.state = .free then leBytes 64 0
  else
    let done := st.state = .ended
    leBytes 4 st.snapHead ++ leBytes 4 st.age.toNat ++ leBytes 8 (canonPc st.standPc) ++ leBytes 12 st.memb.toNat ++
    leBytes 12 st.am.toNat ++ leBytes 16 (if done then 2 ^ 128 - 1 else st.pubV.toNat) ++
    leBytes 8 (if done then 2 ^ 64 - 1 else st.pubS.toNat)

/-- The arm lane sets of a slot (R304). -/
def Strand.armBytes (st : Strand) : List Byte :=
  if st.kind = .cont && st.state != .free then leBytes 12 st.armT.lanes.toNat ++ leBytes 12 st.armF.lanes.toNat else leBytes 24 0

/-- The serial stack of a slot (R305), entry 0 the first pushed.  That the bytes of entries at and above the slot's DEPTH are 0 is the model's
choice (log entry 90). -/
def Strand.stackBytes (st : Strand) : List Byte :=
  let l := st.stack.reverse.flatMap fun e =>
    leBytes 8 (canonPc e.pc) ++ leBytes 12 e.lanes.toNat ++
    leBytes 4 (match e.state with | .fPending => 0 | .fRunning => 1 | .cPending => 2 | .cRunning => 3)
  l ++ leBytes (384 - l.length) 0

/-- The frame of a faulting wave (R304). -/
def Wave.frame (w : Wave) : List Byte :=
  let st := w.strand w.tstrand
  (w.sregs 0 0 16).flatMap (fun x => leBytes 4 x.toNat) ++
  leBytes 12 st.am.toNat ++ leBytes 4 w.fstat.toNat ++ leBytes 4 w.tcause ++ leBytes 4 w.tstrand ++ leBytes 8 w.tval.toNat ++
  leBytes 8 (canonPc w.tpc) ++ leBytes 4 w.tskid ++ leBytes 4 0 ++ leBytes 12 w.tlane.toNat ++ leBytes 4 0 ++
  (List.range 8).flatMap (fun n => (w.strand n).snapshot) ++
  (List.range 8).flatMap (fun n => (w.strand n).armBytes) ++ leBytes 192 0 ++
  (List.range 8).flatMap (fun n => (w.strand n).stackBytes) ++
  (List.range 8).flatMap (fun r => (List.range 96).flatMap fun l => leBytes 4 (w.vreg r l).toNat) ++ leBytes 1024 0

/-- The address of a wave's frame (R303): while its trap is in progress, where it was at the entry (R329). -/
def State.frameAddr (s : State) (core slot : Nat) : Nat :=
  (s.wave core slot).frameAt.getD ((s.vi (s.wave core slot).vi).tfb.toNat + (64 * core + slot) * 8192)

/-- Bytes written by a wave at a virtual address in pieces of n bytes (R303, R307). -/
def State.storeBytes (s : State) (core slot n : Nat) : Nat → Nat → List Byte → Except Raise State
  | 0, _, _ => .ok s
  | fuel + 1, va, l =>
    if l.isEmpty then .ok s
    else
      let g := s.agentOf core slot .normal
      match s.translate core g.vi va .wr with
      | .error r => .error r
      | .ok (x, s) => (s.writeGlobal g x n (leNat (l.take n))).wakeFutures.storeBytes core slot n fuel (va + n) (l.drop n)

/-- The header of a sibling's frame (R302 step 5, R304): CAUSE, STRAND, TPC, TSKID, of its lowest-numbered live strand and that strand's
next unissued word.  A sibling without a live strand, which waits for its tokens (R133), shows strand 0 and PC 0: the spec names no other
(log entry 75). -/
def State.siblingHeader (s : State) (core slot : Nat) : Except Raise State :=
  let w := s.wave core slot
  let n := w.liveSlots.headD 0
  let pc := if w.liveSlots.isEmpty then 0 else canonPc (w.strand n).pc
  let a := s.frameAddr core slot
  ((s.storeBytes core slot 4 2 (a + 0x50) (leBytes 4 Cause.blockhalt.code ++ leBytes 4 n)).bind fun s =>
    s.storeBytes core slot 8 1 (a + 0x60) (leBytes 8 pc)).bind fun s =>
    s.storeBytes core slot 4 1 (a + 0x68) (leBytes 4 w.sinceHalt)

/-! ## Taking a trap (R302) -/

/-- The replay mask that a cause records (R299). -/
def FaultRec.lanes (f : FaultRec) : Lanes := if f.cause.kind = .halt then 0 else f.mask

/-- A wave's latched cause ranks before that of another wave of its block: the earlier cycle first, and within one cycle the lower code,
then the lower wave slot (R301). -/
def Wave.firstOf (w v : Wave) (k j : Nat) : Bool :=
  match w.latched, v.latched with
  | some f, some g =>
    w.latchedAt < v.latchedAt ||
    (w.latchedAt = v.latchedAt && (f.cause.code < g.cause.code || (f.cause.code = g.cause.code && k ≤ j)))
  | _, _ => true

/-- A latched cause is the one of its block that is taken next: it ranks first among those of the block (R301), no strand of the block stands
between a prefix and its instruction (R30, R302), and the block is not stopped (R351).  A strand whose prefixed word waits for space in a queue holds
the trap up no further, since what it waits for may itself wait for the return (R223, log entry 91). -/
def State.trapFirst (s : State) (core slot : Nat) : Bool :=
  let w := s.wave core slot
  w.latched.isSome && !(s.block w.blk).dead && !(s.block w.blk).stopped &&
  ((s.block w.blk).waves.all fun k => w.firstOf (s.waveK k) (waveKey core slot) k) &&
  (s.block w.blk).waves.all fun k => (List.range 9).all fun n =>
    let st := (s.waveK k).strand n
    !(st.live && st.pfx.isSome && !(st.state = .parked && st.park = .queue))

/-- A latched cause can be taken: the cycle in which it was latched is over, so that every fault of that cycle has been ranked (R301). -/
def State.trapReady (s : State) (core slot : Nat) : Bool :=
  let w := s.wave core slot
  w.latchedAt < s.cycle w.part && s.trapFirst core slot

/-- The block halts (R302 step 2): a cause that another wave had latched stays pending in its strand (R301). -/
def State.haltBlock (s : State) (blk key : Nat) : State :=
  let s := s.updBlock blk fun b => { b with halted := true }
  (s.block blk).waves.foldl (fun s k =>
    let w := s.waveK k
    let s := s.updWaveK k fun w =>
      { w with halted := true, latched := if k = key then w.latched else none
               strands := w.strands.map fun p => (p.1, p.2.parkPend) }
    match w.latched with
    | some f => if k = key then s else s.latch (k / 64) (k % 64) f
    | none => s) s

/-- The trap strand at its start (R306). -/
def State.startHandler (s : State) (core slot : Nat) (f : FaultRec) : State :=
  let a := s.frameAddr core slot
  let vi := (s.wave core slot).vi
  let tba := (s.vi vi).tba
  let cyc := s.cycle (s.wave core slot).part
  s.updWave core slot fun w =>
    let st := w.strand f.strand
    let w := w.setStrand 8 { state := .ready, kind := .root, pc := tba, memb := st.memb, am := st.am, trap := true, readyAt := cyc }
    { w with
      frameAt := some a
      tpcWritten := false
      s := SMap.set 0 (SMap.set 0 (SMap.set 0 w.s 0 (BitVec.ofNat 32 a)) 1 (BitVec.ofNat 32 (a / 2 ^ 32))) 2
        (BitVec.ofNat 32 w.tcause) }

/-- The wave's cause registers (R18, R302 step 1). -/
def Wave.setCause (w : Wave) (f : FaultRec) (skid : Nat) : Wave :=
  { w with
    latched := none
    tcause := f.cause.code
    tval := f.val
    tpc := f.tpc
    tskid := skid
    tlane := f.lanes
    tstrand := f.strand
    tNoted := f.noted }

/-- The faulting strand as the frame shows it (R305): it stands at TPC, whatever it had parked on (log entry 61). -/
def Strand.standAt (st : Strand) (tpc : DWord) : Strand :=
  if st.live then { st with state := .ready, park := .none, parkI := none, parkArg := 0, parkM := false, pc := tpc } else st

/-- The halt of a block for a trap (R302 steps 1 to 4): its waves halt and drain, and the cause registers of the faulting wave are set. -/
def State.haltForTrap (s : State) (core slot : Nat) (f : FaultRec) (skid : Nat) : State :=
  let blk := (s.wave core slot).blk
  let s := (s.haltBlock blk (waveKey core slot)).updWave core slot fun w => { w with latched := none }
  ((s.block blk).waves.foldl (fun s k => s.drainWave (k / 64) (k % 64)) s).updWave core slot fun w =>
    (w.setCause f skid).updStrand f.strand fun st => st.standAt f.tpc

/-- The frame of the faulting wave and the headers of its siblings (R302 step 5, R303 to R305). -/
def State.writeFrames (s : State) (core slot : Nat) (ks : List Nat) : Except Raise State :=
  (s.storeBytes core slot 128 64 (s.frameAddr core slot) (s.wave core slot).frame).bind fun s =>
    ks.foldl (fun a k => a.bind fun s => if k = waveKey core slot then .ok s else s.siblingHeader (k / 64) (k % 64)) (.ok s)

/-- A latched cause is taken (R302): a terminal cause, a cause of a trap-mode strand, or any cause without a handler ends the context of
the block; any other halts the block, drains it, writes the frames and starts the handler at TBA. -/
def State.takeTrap (s : State) (core slot : Nat) : State :=
  let w := s.wave core slot
  match w.latched with
  | none => s
  | some f =>
    let skid := (w.strand f.strand).issued - f.seq
    if f.cause.kind = .terminal || f.strand = 8 || (s.vi w.vi).tba = 0 then s.endBlock core slot f skid
    else
      let t := s.haltForTrap core slot f skid
      match t.writeFrames core slot (s.block w.blk).waves with
      | .error r => (t.walkedFor core w.vi r).endBlock core slot { f with cause := r.cause, val := r.val } skid
      | .ok u => (u.traceRec core slot 2 f.strand (f.val.setWidth 32) f.tpc f.cause.code).startHandler core slot f

/-- A latched cause that can be taken is taken in the same step unless the agenda has chosen that TAKE_TRAP takes it later (log entry 5). -/
def State.settle (s : State) (core slot : Nat) : State :=
  if s.deferTraps || !s.trapReady core slot then s else s.takeTrap core slot

/-! ## The return (R308) -/

/-- A strand becomes ready (R209, R216). -/
def Strand.wake (st : Strand) (cycle : Nat) : Strand :=
  { st with
    state := .ready, park := .none, parkI := none, parkArg := 0, parkM := false, readyAt := cycle, waits := 0, cappedAt := none }

/-- The wave of a block whose pending fault is taken next: lowest code, then lowest slot (R301). -/
def State.nextPending (s : State) (blk : Nat) : Option (Nat × FaultRec) :=
  minBy (fun p => (p.2.cause.code * 64 + p.1 % 64) * 8 + p.2.strand)
    ((s.block blk).waves.flatMap fun k => (List.range 8).flatMap fun n => ((s.waveK k).strand n).pend.map fun f => (k, f))

/-- The block resumes after a handler (R308): its waves are no longer halted, and the first pending fault is latched as the next trap. -/
def State.resumeBlock (s : State) (blk : Nat) : State :=
  let s := s.updBlock blk fun b => { b with halted := false }
  let s := (s.block blk).waves.foldl (fun s k => s.updWaveK k fun w => { w with halted := false, sinceHalt := 0 }) s
  match s.nextPending blk with
  | none => s
  | some (k, f) =>
    s.updWaveK k fun w =>
      { w.updStrand f.strand (fun st => { st with pend := st.pend.erase f }) with latched := some f, latchedAt := s.cycle w.part }

/-- The registers that TRET restores from the frame (R308): s0 to s15, FSTAT, v0 to v7. -/
def Wave.restore (w : Wave) (f : List Byte) : Wave :=
  let word (o : Nat) : Word := BitVec.ofNat 32 (leNat ((f.drop o).take 4))
  let w := { w with
    s := (List.range 16).foldl (fun m n => SMap.set 0 m n (word (4 * n))) w.s
    fstat := (word 0x4C).setWidth 5 }
  w.setVregs ((List.range 8).flatMap fun n => (List.range 96).map fun l => (vkey n l, word (0x1000 + 384 * n + 4 * l)))

/-- Bytes read by a wave at a virtual address, n at a time. -/
def State.loadBytes (s : State) (core slot n : Nat) : Nat → Nat → Except Raise (List Byte × State)
  | 0, _ => .ok ([], s)
  | c + 1, va =>
    let g := s.agentOf core slot .normal
    match s.translate core g.vi va .rd with
    | .error r => .error r
    | .ok (x, s) =>
      if s.badFor g x n false then .error (x.fault va .mcheck)
      else
      let (v, s) := s.readGlobal g x n false
      match s.loadBytes core slot n c (va + n) with
      | .error r => .error r
      | .ok (l, s) => .ok (leBytes n v ++ l, s)

/-- The faulting strand after TRET (R308, R309): at TPC, under the replay rule when the cause is precise or restartable and TPC was not
written.  A cause that was noted is not restartable (R190, R299). -/
def Strand.resumeAt (st : Strand) (w : Wave) (cycle : Nat) : Strand :=
  let replays := [Cause.mcheck, .illegal, .emulate, .priv, .xmoduse, .badop, .vregrange, .tokenwrite, .stranddepth, .pubwrite, .joinctx,
    .barstrand, .mmarole, .mfmt, .align, .translate, .protect, .region, .stashrange, .extentgone].any fun c =>
      c.code = w.tcause && (c.kind = .precise || c.kind = .restartable)
  { st.wake cycle with
    pc := w.tpc &&& ~~~3
    pfx := none
    replay := if replays && !w.tpcWritten && !w.tNoted then some w.tlane else none }

/-- The later words of the window that the strand replays run again, and fault again (R310): their pending faults are dropped. -/
def Strand.dropLater (st : Strand) (skid : Nat) : Strand :=
  if st.replay.isSome then { st with pend := st.pend.filter fun f => f.seq + skid ≤ st.issued } else st

/-- TRET (R308): the handler's accesses are performed and its results written, registers are restored from the frame, the trap slot is
freed, the faulting strand resumes at TPC, and the block resumes.  A fault of the handler's own accesses, or of the frame, is
terminal (R301, R303); `word` is the TRET that meets the latter (R311). -/
def State.returnTrap (s : State) (core slot : Nat) (word : Word) : State :=
  let w := s.wave core slot
  let s := s.drainWave core slot
  if (s.wave core slot).latched.isSome then s
  else match s.loadBytes core slot 128 64 (s.frameAddr core slot) with
  | .error r =>
    (s.walkedFor core w.vi r).latch core slot
      { cause := r.cause, val := r.val, strand := 8, tpc := (w.strand 8).pc - 4, mask := (w.strand 8).am, word := word,
        seq := (w.strand 8).issued, noted := false }
  | .ok (f, s) =>
    let cyc := s.cycle w.part
    let s := s.traceRec core slot 3 8 0 ((w.strand 8).pc - 4)
    let s := s.updWave core slot fun w =>
      let w := ({ w with frameAt := none }.restore f).setStrand 8 {}
      w.updStrand w.tstrand fun st => (st.resumeAt w cyc).dropLater w.tskid
    s.resumeBlock w.blk

/-! ## Issuing a word -/

/-- The cause with the lowest code (R301); of two with one code, the first found. -/
def lowest (l : List (Option Raise)) : Option Raise := minBy (fun r => r.cause.code) (l.filterMap id)

/-- EXM as a fault of the instruction records it (R26, R299). -/
def State.maskFor (s : State) (i : Instr) : Lanes :=
  match i with
  | .vsel .. | .vscan .. | .vreds .. => s.exmAm
  | _ => s.exm

/-- A precise cause raised by the issuing word (R299): nothing is performed, TPC is the first word of its prefix. -/
def State.raiseHere (s : State) (i : Instr) (r : Raise) : State :=
  let st := s.cs
  let f : FaultRec := ⟨r.cause, r.val, s.cur.2.2, st.start, s.maskFor i, encode i, st.issued, false⟩
  ((s.updCs fun st => { st with pc := st.start, pfx := none, replay := none }).latch s.cur.1 s.cur.2.1 f).settle s.cur.1 s.cur.2.1

/-- The strand goes on to the next word: its prefix and its replay mask were for this word alone (R30, R309). -/
def State.advance (s : State) : State :=
  s.updCs fun st =>
    { st with pc := st.pc + 4, pfx := none, replay := none, issued := st.issued + 1, issuedAt := s.cycle s.cw.part }

/-- The park marker (R54, R209): the strand parks, after its own condition when it has one. -/
def State.marker (s : State) (m : Bool) : State :=
  if m then
    s.updCs fun st =>
      match st.state with
      | .ready => { st with state := .parked, park := .marker }
      | .parked => { st with parkM := true }
      | _ => st
  else s

/-- The strand parks on a condition of the word at its PC, which has not issued (R17, R212): a pending token register, or space. -/
def State.parkHere (s : State) (p : Park) (i : Instr) (arg : Nat := 0) : State :=
  s.updCs fun st => { st with state := .parked, park := p, parkI := some i, parkArg := BitVec.ofNat 32 arg }

/-- The strand parks by its word's own condition (R209). -/
def State.parkOn (s : State) (p : Park) (i : Instr) (arg : Word := 0) : State :=
  s.updCs fun st => { st with state := .parked, park := p, parkI := some i, parkArg := arg }

/-- The queue of its quarter that a word's result goes through (R220): 1 the SFU queue, 2 the conversion queue, 0 neither. -/
def unitOf (i : Instr) : Nat :=
  match i with
  | .vrcp .. | .vrsq .. | .vsqrt .. | .vex2 .. | .vlg2 .. | .vsin .. | .vcos .. | .vtanh .. => 1
  | .vcvt .. | .vqnt .. | .vdq .. | .vbscale .. => 2
  | _ => 0

/-- A result of the issuing word (R29), which names the word before the state went on. -/
def State.result (s0 : State) (i : Instr) (r : Result) (s : State) : State :=
  s.updCw fun w =>
    { w with outs := w.outs ++ [{ r with
        strand := s0.cur.2.2
        enables := s0.cw.enables
        word := encode i
        after := s0.cs.pc + 4
        am := s0.cs.am
        seq := s0.cs.issued + 1
        unit := unitOf i
        place := s0.cycle s0.cw.part }] }

/-- The issue of a word: the lowest of its causes that need no operand value; a wait for a pending token that it reads (R17); the lowest of
its other causes; a wait for space that it needs (R172, R212); otherwise its effect on the strand that has gone on, its park marker, and
a trap that it latched.  The spec does not order a fault of a word before its wait for a token (R17, R136): that the causes which need no
operand value, TOKENWRITE among them, are raised without the wait is the model's choice (log entry 70). -/
def State.run (s : State) (i : Instr) (m : Bool) (static : List (Option Raise)) (reads : List Nat)
    (dynamic : List (Option Raise)) (eff : State → State) (busy : Option Park := none) : Host.Outcome State Fault Refusal :=
  .next <|
    match lowest (pfxFaults i s.cs.pfx ++ static) with
    | some r => s.raiseHere i r
    | none =>
      match reads.find? s.cw.isPending with
      | some r => s.parkHere .token i r
      | none =>
        match lowest dynamic with
        | some r => s.raiseHere i r
        | none =>
          match busy with
          | some p => s.parkHere p i
          | none => ((eff s.advance).marker m).settle s.cur.1 s.cur.2.1

/-- The queue entry of the issuing word (R210): its operands as read at issue, its strand and its lanes. -/
def State.entryOf (s : State) (i : Instr) (op : QOp) (lanes : Lanes) (ssq : Bool) : QEntry :=
  { id := 0
    strand := s.cur.2.2
    age := s.cs.age
    before := s.cs.before
    old := s.cs.old
    memb := s.cs.memb
    am := s.cs.am
    op := op
    lanes := lanes
    ssq := ssq
    pc := s.cs.start
    after := s.cs.pc + 4
    word := encode i
    seq := s.cs.issued + 1
    again := s.cs.replay.isSome
    cycle := s.cycle s.cw.part }

/-- The wait for space of an entry: a full strand store queue (R212), or a full queue that it names (R172, R185, R197). -/
def State.busyFor (s : State) (q : QEntry) : Option Park :=
  if s.cw.ssqFull q || !s.roomFor s.cw q.op then some .queue else none

/-- The issue of a word whose operation goes through the wave's queue (R210, R211). -/
def State.runQ (s : State) (i : Instr) (m : Bool) (static : List (Option Raise)) (reads : List Nat)
    (dynamic : List (Option Raise)) (q : QEntry) (before : State → State := id) : Host.Outcome State Fault Refusal :=
  s.run i m static reads dynamic (fun t => (before t).issueQ s.cur.1 s.cur.2.1 q) (s.busyFor q)

end Sys2Proof.Machine
end

