-- ==== Sys2Proof/Machine/VectorFloat.lean ====
section
/-! DEFINITION. Class 0, vector float (R135 to R141), and the vector results that every vector instruction writes (R135). -/

namespace Sys2Proof.Machine

/-! ## Vector results (R135) -/

/-- The writes of a lane: one word, or the two words of a pair (R12). -/
def laneOut (d : Nat) (wide : Bool) (l v : Nat) : List (Nat × Word) :=
  if wide then [(vkey d l, BitVec.ofNat 32 v), (vkey (d + 1) l, BitVec.ofNat 32 (v / 2 ^ 32))]
  else [(vkey d l, BitVec.ofNat 32 v)]

/-- The writes of a destination (R135): the results of the lanes of EXM, and 0 in the lanes that XMOD z zeroes. -/
def State.vecOut (s : State) (d : Nat) (wide : Bool) (vals : List (Nat × Nat)) : List (Nat × Word) :=
  vals.flatMap (fun p => laneOut d wide p.1 p.2) ++ (lanesOf s.zeroLanes).flatMap fun l => laneOut d wide l 0

/-- A source register's lane: one word or a pair. -/
def State.src (s : State) (r : Nat) (wide : Bool) (l : Nat) : Nat :=
  if wide then (s.cw.vpair r l).toNat else (s.cw.vreg r l).toNat

/-! ## Class 0 -/

/-- The element operations of class 0 on one format: mode, a, b, c. -/
abbrev FloatFn := Fmt → FMode → Nat → Nat → Nat → FRes

/-- A float operation on a lane of a type: the halves of a packed type are independent (R87, R140). -/
def floatLane (ty : FTy) (f : FloatFn) (md : FMode) (a b c : Nat) : FRes :=
  let half (F : Fmt) : FRes :=
    pack2 (f F md (a % 2 ^ 16) (b % 2 ^ 16) (c % 2 ^ 16)) (f F md (a / 2 ^ 16) (b / 2 ^ 16) (c / 2 ^ 16))
  match ty with
  | .f32 => f Fmt.f32 md a b c
  | .f64 => f Fmt.f64 md a b c
  | .f16x2 => half Fmt.f16
  | .bf16x2 => half Fmt.bf16

/-- A finite value truncated towards zero, kept within ±16384: beyond it every scaling overflows or underflows. -/
def truncVal (neg : Bool) (m : Nat) (e : Int) : Int :=
  let k : Nat := min 16384 (if 0 ≤ e then (if m = 0 then 0 else if 20 ≤ e then 16384 else m * 2 ^ e.toNat) else m / 2 ^ (-e).toNat)
  if neg then -(k : Int) else k

/-- VSCALE (R140): a × 2^n with n the truncation of b. -/
def Fmt.scale (F : Fmt) (md : FMode) (a b : Nat) : FRes :=
  F.flushOut md.ftz <|
    match F.unpack (F.flushIn md.ftz a), F.unpack (F.flushIn md.ftz b) with
    | .nan x, y => ⟨F.nan, if x || y.sig then flNV else 0⟩
    | _, .nan y => ⟨F.nan, if y then flNV else 0⟩
    | .inf _, .inf true => F.invalid
    | .inf n, _ => ⟨F.withSign n F.infBits, 0⟩
    | .fin n m _, .inf false => if m = 0 then F.invalid else ⟨F.withSign n F.infBits, 0⟩
    | .fin n _ _, .inf true => ⟨F.withSign n 0, 0⟩
    | .fin n m e, .fin k m' e' => F.round md.rm n m (e + truncVal k m' e')

/-- VABSD (R140): the exact magnitude of the difference, rounded. -/
def Fmt.absDiff (F : Fmt) (md : FMode) (a b : Nat) : FRes :=
  F.flushOut md.ftz <|
    match F.unpack (F.flushIn md.ftz a), F.unpack (F.flushIn md.ftz b) with
    | .nan x, y => ⟨F.nan, if x || y.sig then flNV else 0⟩
    | _, .nan y => ⟨F.nan, if y then flNV else 0⟩
    | .inf n, .inf k => if n == k then F.invalid else ⟨F.infBits, 0⟩
    | .inf _, _ => ⟨F.infBits, 0⟩
    | _, .inf _ => ⟨F.infBits, 0⟩
    | .fin n1 m1 e1, .fin n2 m2 e2 =>
      let (t, e) := addExact n1 m1 e1 (!n2) m2 e2
      F.round md.rm false t.natAbs e

/-- VCPSGN (R89, R140): the magnitude of a with the sign of b. -/
def Fmt.copySign (F : Fmt) (a b : Nat) : FRes := ⟨F.withSign (b / F.signBit % 2 == 1) (a % F.signBit), 0⟩

/-- A class 0 instruction (R135, R136, R139, R140): the lanes' results, their flags, and the increment of its meter; `fused` for the
operations that read the addend. -/
def State.floatOp (s : State) (i : Instr) (m : Bool) (ty : FTy) (d a : VReg) (b : Code) (fused : Bool) (f : FloatFn) :
    Host.Outcome State Fault Refusal :=
  let wide := ty.kind.wide
  let n := if wide then 2 else 1
  let v4 := s.v4 d
  let lanes := lanesOf s.exm
  s.run i m
    (s.vdest d.toNat n ++ s.cw.vranges a.toNat n ++ s.cw.codeRange ty.kind b ++ s.v4Range n)
    (codeRegs ty.kind b ++ s.xmodRegs) []
    (let rs := lanes.map fun l =>
        (l, floatLane ty f s.modeFloat (s.src a.toNat wide l) (s.operand ty.kind b l)
          (if fused then s.src v4 wide l else 0))
     s.result i
      { strand := 0
        vec := s.vecOut d.toNat wide (rs.map fun p => (p.1, p.2.bits))
        flags := orFlags (rs.map fun p => p.2.fl)
        meters := floatMeter ty fused lanes.length })

/-- VADD (R140). -/
def execVadd (m : Bool) (ty : FTy) (d a : VReg) (b : Code) (s : State) : Host.Outcome State Fault Refusal :=
  s.floatOp (.vadd m ty d a b) m ty d a b false fun F md x y _ => F.add md x y

/-- VSUB (R140). -/
def execVsub (m : Bool) (ty : FTy) (d a : VReg) (b : Code) (s : State) : Host.Outcome State Fault Refusal :=
  s.floatOp (.vsub m ty d a b) m ty d a b false fun F md x y _ => F.sub md x y

/-- VMUL (R140). -/
def execVmul (m : Bool) (ty : FTy) (d a : VReg) (b : Code) (s : State) : Host.Outcome State Fault Refusal :=
  s.floatOp (.vmul m ty d a b) m ty d a b false fun F md x y _ => F.mul md x y

/-- VFMA (R87, R140). -/
def execVfma (m : Bool) (ty : FTy) (d a : VReg) (b : Code) (s : State) : Host.Outcome State Fault Refusal :=
  s.floatOp (.vfma m ty d a b) m ty d a b true fun F md x y z => F.fma md false x y z

/-- VFNMA (R87, R140). -/
def execVfnma (m : Bool) (ty : FTy) (d a : VReg) (b : Code) (s : State) : Host.Outcome State Fault Refusal :=
  s.floatOp (.vfnma m ty d a b) m ty d a b true fun F md x y z => F.fma md true x y z

/-- VMIN (R88, R140). -/
def execVmin (m : Bool) (ty : FTy) (d a : VReg) (b : Code) (s : State) : Host.Outcome State Fault Refusal :=
  s.floatOp (.vmin m ty d a b) m ty d a b false fun F md x y _ => F.minMax md false x y

/-- VMAX (R88, R140). -/
def execVmax (m : Bool) (ty : FTy) (d a : VReg) (b : Code) (s : State) : Host.Outcome State Fault Refusal :=
  s.floatOp (.vmax m ty d a b) m ty d a b false fun F md x y _ => F.minMax md true x y

/-- VCPSGN (R89, R140). -/
def execVcpsgn (m : Bool) (ty : FTy) (d a : VReg) (b : Code) (s : State) : Host.Outcome State Fault Refusal :=
  s.floatOp (.vcpsgn m ty d a b) m ty d a b false fun F _ x y _ => F.copySign x y

/-- VSCALE (R140). -/
def execVscale (m : Bool) (ty : FTy) (d a : VReg) (b : Code) (s : State) : Host.Outcome State Fault Refusal :=
  s.floatOp (.vscale m ty d a b) m ty d a b false fun F md x y _ => F.scale md x y

/-- VABSD (R140). -/
def execVabsd (m : Bool) (ty : FTy) (d a : VReg) (b : Code) (s : State) : Host.Outcome State Fault Refusal :=
  s.floatOp (.vabsd m ty d a b) m ty d a b false fun F md x y _ => F.absDiff md x y

end Sys2Proof.Machine
end

