-- ==== Sys2Proof/Machine/VectorInt.lean ====
section
/-! DEFINITION. Class 1, vector integer (R78 to R80, R142). -/

namespace Sys2Proof.Machine

/-- The element width of a type in bits (R78). -/
def intBits : ITy → Nat
  | .i32 => 32
  | .i16x2 => 16
  | .i8x4 => 8
  | .i64 => 64

/-- An element as a signed number. -/
def sgnOf (n x : Nat) : Int := if 2 ^ (n - 1) ≤ x then (x : Int) - 2 ^ n else x

/-- A number as an n-bit two's complement element. -/
def toBits (n : Nat) (x : Int) : Nat := (x % 2 ^ n).toNat

/-- A number clamped to a range (R27). -/
def clampTo (lo hi x : Int) : Int := max lo (min hi x)

/-- SatS (R27). -/
def satS (n : Nat) (x : Int) : Nat := toBits n (clampTo (-2 ^ (n - 1)) (2 ^ (n - 1) - 1) x)

/-- SatN (R27). -/
def satN (n : Nat) (x : Int) : Nat := toBits n (clampTo 0 (2 ^ n - 1) x)

/-- A left shift of an n-bit element (R80). -/
def shlBits (n x k : Nat) : Nat := if n ≤ k then 0 else x * 2 ^ k % 2 ^ n

/-- A logical right shift (R80). -/
def shrBits (n x k : Nat) : Nat := if n ≤ k then 0 else x / 2 ^ k

/-- An arithmetic right shift (R80). -/
def sraBits (n x k : Nat) : Nat := toBits n (sgnOf n x / 2 ^ (min k n))

/-- The element operations of class 1: width, a, b, c. -/
abbrev IntFn := Nat → Nat → Nat → Nat → Nat

/-- An operation on each element of a lane value of a width (R78, R142). -/
def intLane (ty : ITy) (f : IntFn) (a b c : Nat) : Nat :=
  let n := intBits ty
  let e (x i : Nat) : Nat := x / 2 ^ (n * i) % 2 ^ n
  (List.range (if ty = .i64 then 1 else 32 / n)).foldl (fun r i => r + f n (e a i) (e b i) (e c i) % 2 ^ n * 2 ^ (n * i)) 0

/-- A class 1 instruction (R135, R136, R142); `fused` for VIMAD, which reads the addend. -/
def State.intOp (s : State) (i : Instr) (m : Bool) (ty : ITy) (d a : VReg) (b : Code) (fused : Bool) (f : IntFn) :
    Host.Outcome State Fault Refusal :=
  let wide := ty.kind.wide
  let n := if wide then 2 else 1
  let v4 := s.v4 d
  s.run i m
    (s.vdest d.toNat n ++ s.cw.vranges a.toNat n ++ s.cw.codeRange ty.kind b ++ s.v4Range n)
    (codeRegs ty.kind b ++ s.xmodRegs) []
    (s.result i
      { strand := 0
        vec := s.vecOut d.toNat wide ((lanesOf s.exm).map fun l =>
          (l, intLane ty f (s.src a.toNat wide l) (s.operand ty.kind b l) (if fused then s.src v4 wide l else 0))) })

/-- The shift amount of each element, packed in a lane value: a vector gives each element its own; a scalar or a constant is one 32-bit
value, given to every element (R58, R80). -/
def State.shiftLane (s : State) (ty : ITy) (b : Code) (f : Nat → Nat → Nat → Nat) (x l : Nat) : Nat :=
  if b.toNat ≤ 127 then
    intLane ty (fun n e k _ => f n e k) x (s.operand (if ty = .i64 then .amount64 else .amount) b l) 0
  else
    let k := s.operand (if ty = .i64 then .amount64 else .amount) b l
    intLane ty (fun n e _ _ => f n e k) x 0 0

/-- A shift of class 1 (R80, R142). -/
def State.shiftOp (s : State) (i : Instr) (m : Bool) (ty : ITy) (d a : VReg) (b : Code) (f : Nat → Nat → Nat → Nat) :
    Host.Outcome State Fault Refusal :=
  let wide := ty.kind.wide
  let n := if wide then 2 else 1
  let k : Kind := if ty = .i64 then .amount64 else .amount
  s.run i m
    (s.vdest d.toNat n ++ s.cw.vranges a.toNat n ++ s.cw.codeRange k b)
    (codeRegs k b ++ s.xmodRegs) []
    (s.result i
      { strand := 0
        vec := s.vecOut d.toNat wide ((lanesOf s.exm).map fun l => (l, s.shiftLane ty b f (s.src a.toNat wide l) l)) })

/-- VIADD (R142). -/
def execViadd (m : Bool) (ty : ITy) (d a : VReg) (b : Code) (s : State) : Host.Outcome State Fault Refusal :=
  s.intOp (.viadd m ty d a b) m ty d a b false fun _ x y _ => x + y

/-- VISUB (R142). -/
def execVisub (m : Bool) (ty : ITy) (d a : VReg) (b : Code) (s : State) : Host.Outcome State Fault Refusal :=
  s.intOp (.visub m ty d a b) m ty d a b false fun n x y _ => x + 2 ^ n - y

/-- VIMUL (R142). -/
def execVimul (m : Bool) (ty : ITy) (d a : VReg) (b : Code) (s : State) : Host.Outcome State Fault Refusal :=
  s.intOp (.vimul m ty d a b) m ty d a b false fun _ x y _ => x * y

/-- VIMAD (R142). -/
def execVimad (m : Bool) (ty : ITy) (d a : VReg) (b : Code) (s : State) : Host.Outcome State Fault Refusal :=
  s.intOp (.vimad m ty d a b) m ty d a b true fun _ x y z => x * y + z

/-- VIMULHS (R142). -/
def execVimulhs (m : Bool) (ty : ITy) (d a : VReg) (b : Code) (s : State) : Host.Outcome State Fault Refusal :=
  s.intOp (.vimulhs m ty d a b) m ty d a b false fun n x y _ => toBits n (sgnOf n x * sgnOf n y / 2 ^ n)

/-- VIMULHN (R142). -/
def execVimulhn (m : Bool) (ty : ITy) (d a : VReg) (b : Code) (s : State) : Host.Outcome State Fault Refusal :=
  s.intOp (.vimulhn m ty d a b) m ty d a b false fun n x y _ => x * y / 2 ^ n

/-- VIMINS (R142). -/
def execVimins (m : Bool) (ty : ITy) (d a : VReg) (b : Code) (s : State) : Host.Outcome State Fault Refusal :=
  s.intOp (.vimins m ty d a b) m ty d a b false fun n x y _ => minInt n true false x y

/-- VIMINN (R142). -/
def execViminn (m : Bool) (ty : ITy) (d a : VReg) (b : Code) (s : State) : Host.Outcome State Fault Refusal :=
  s.intOp (.viminn m ty d a b) m ty d a b false fun n x y _ => minInt n false false x y

/-- VIMAXS (R142). -/
def execVimaxs (m : Bool) (ty : ITy) (d a : VReg) (b : Code) (s : State) : Host.Outcome State Fault Refusal :=
  s.intOp (.vimaxs m ty d a b) m ty d a b false fun n x y _ => minInt n true true x y

/-- VIMAXN (R142). -/
def execVimaxn (m : Bool) (ty : ITy) (d a : VReg) (b : Code) (s : State) : Host.Outcome State Fault Refusal :=
  s.intOp (.vimaxn m ty d a b) m ty d a b false fun n x y _ => minInt n false true x y

/-- VIADDSS (R142). -/
def execViaddss (m : Bool) (ty : ITy) (d a : VReg) (b : Code) (s : State) : Host.Outcome State Fault Refusal :=
  s.intOp (.viaddss m ty d a b) m ty d a b false fun n x y _ => satS n (sgnOf n x + sgnOf n y)

/-- VIADDSN (R142). -/
def execViaddsn (m : Bool) (ty : ITy) (d a : VReg) (b : Code) (s : State) : Host.Outcome State Fault Refusal :=
  s.intOp (.viaddsn m ty d a b) m ty d a b false fun n x y _ => satN n ((x : Int) + y)

/-- VISUBSS (R142). -/
def execVisubss (m : Bool) (ty : ITy) (d a : VReg) (b : Code) (s : State) : Host.Outcome State Fault Refusal :=
  s.intOp (.visubss m ty d a b) m ty d a b false fun n x y _ => satS n (sgnOf n x - sgnOf n y)

/-- VSHL (R80, R142). -/
def execVshl (m : Bool) (ty : ITy) (d a : VReg) (b : Code) (s : State) : Host.Outcome State Fault Refusal :=
  s.shiftOp (.vshl m ty d a b) m ty d a b shlBits

/-- VSHR (R80, R142). -/
def execVshr (m : Bool) (ty : ITy) (d a : VReg) (b : Code) (s : State) : Host.Outcome State Fault Refusal :=
  s.shiftOp (.vshr m ty d a b) m ty d a b shrBits

/-- VSRA (R80, R142). -/
def execVsra (m : Bool) (ty : ITy) (d a : VReg) (b : Code) (s : State) : Host.Outcome State Fault Refusal :=
  s.shiftOp (.vsra m ty d a b) m ty d a b sraBits

end Sys2Proof.Machine
end

