-- ==== Sys2Proof/Machine/Sfu.lean ====
section
/-! DEFINITION. The SFU functions (R92, R93), correctly rounded: the exact cases by integer arithmetic, the others from fixed-point
values of 320 fraction bits (log entry 20). -/

namespace Sys2Proof.Machine

/-- ln 2 times 2^320, cut. -/
def ln2Fix : Nat := 1480553391661173448385607439722553250922680800745876974795605978609098082859138712941075737848984

/-- 2π times 2^320, cut. -/
def tauFix : Nat := 13420802360424337830311681948440006481608388178854297901454212848703426437343610760199000777828078

/-- A product of two fixed-point values of 320 fraction bits. -/
def fixMul (a b : Nat) : Nat := a * b / 2 ^ 320

/-- The integer square root by bits: the largest r of n bits whose square is at most x. -/
def isqrt (x : Nat) : Nat → Nat → Nat
  | 0, r => r
  | n + 1, r => isqrt x n (if (r + 2 ^ n) * (r + 2 ^ n) ≤ x then r + 2 ^ n else r)

/-- The sum of t^k / k! from a term on: n further terms. -/
def expTerms (t : Nat) : Nat → Nat → Nat → Nat
  | 0, _, _ => 0
  | n + 1, k, term => term + expTerms t n (k + 1) (fixMul term t / (k + 1))

/-- e^t − 1 for 0 ≤ t < 1, in fixed point. -/
def expm1Fix (t : Nat) : Nat := expTerms t 90 1 t

/-- The alternating sum of t2^j / ((k+1)(k+2) ...) from a term on: the series of sine and cosine. -/
def trigTerms (t2 : Nat) : Nat → Nat → Int → Int
  | 0, _, _ => 0
  | n + 1, k, term => term + trigTerms t2 n (k + 2) (-(term * t2 / (2 ^ 320 * ((k + 1) * (k + 2)))))

/-- sin t for 0 ≤ t ≤ π/4, in fixed point. -/
def sinFix (t : Nat) : Nat := (trigTerms (fixMul t t) 45 1 t).toNat

/-- cos t for 0 ≤ t ≤ π/4, in fixed point. -/
def cosFix (t : Nat) : Nat := (trigTerms (fixMul t t) 45 0 (2 ^ 320)).toNat

/-- The first n fraction bits of log2 y, for y in [1, 2) in fixed point. -/
def log2Bits : Nat → Nat → Nat → Nat
  | 0, _, acc => acc
  | n + 1, y, acc =>
    let y2 := fixMul y y
    if 2 ^ 321 ≤ y2 then log2Bits n (y2 / 2) (2 * acc + 1) else log2Bits n y2 (2 * acc)

/-- A finite value in the fixed point of 320 fraction bits. -/
def toFix (m : Nat) (e : Int) : Nat :=
  if 0 ≤ e + 320 then m * 2 ^ (e + 320).toNat else m / 2 ^ (-(e + 320)).toNat

/-- A fixed-point value rounded into binary32, inexact. -/
def ofFix (neg : Bool) (a : Nat) : FRes := Fmt.f32.round .rne neg a (-320) true

/-- ±1.0. -/
def oneBits (neg : Bool) : Nat := Fmt.f32.withSign neg 0x3F800000

/-- 1/x (R92, R93). -/
def sfuRcp (x : FVal) : FRes :=
  match x with
  | .nan s => ⟨Fmt.f32.nan, if s then flNV else 0⟩
  | .inf n => ⟨Fmt.f32.withSign n 0, 0⟩
  | .fin n m e =>
    if m = 0 then ⟨Fmt.f32.withSign n Fmt.f32.infBits, flDZ⟩
    else Fmt.f32.round .rne n (2 ^ 80 / m) (-80 - e) (2 ^ 80 % m != 0)

/-- √x (R92, R93). -/
def sfuSqrt (x : FVal) : FRes :=
  match x with
  | .nan s => ⟨Fmt.f32.nan, if s then flNV else 0⟩
  | .inf n => if n then Fmt.f32.invalid else ⟨Fmt.f32.infBits, 0⟩
  | .fin n m e =>
    if m = 0 then ⟨Fmt.f32.withSign n 0, 0⟩
    else if n then Fmt.f32.invalid
    else
      let odd := e % 2 != 0
      let y := (if odd then 2 * m else m) * 2 ^ 60
      let r := isqrt y 50 0
      Fmt.f32.round .rne false r ((if odd then e - 1 else e) / 2 - 30) (r * r != y)

/-- 1/√x (R92, R93). -/
def sfuRsq (x : FVal) : FRes :=
  match x with
  | .nan s => ⟨Fmt.f32.nan, if s then flNV else 0⟩
  | .inf n => if n then Fmt.f32.invalid else ⟨0, 0⟩
  | .fin n m e =>
    if m = 0 then ⟨Fmt.f32.withSign n Fmt.f32.infBits, flDZ⟩
    else if n then Fmt.f32.invalid
    else
      let odd := e % 2 != 0
      let m' := if odd then 2 * m else m
      let e' := if odd then e - 1 else e
      let r := isqrt (2 ^ 120 / m') 62 0
      Fmt.f32.round .rne false r (-60 - e' / 2) (r * r * m' != 2 ^ 120)

/-- 2^x (R92, R93). -/
def sfuEx2 (x : FVal) : FRes :=
  match x with
  | .nan s => ⟨Fmt.f32.nan, if s then flNV else 0⟩
  | .inf n => ⟨if n then 0 else Fmt.f32.infBits, 0⟩
  | .fin n m e =>
    if m = 0 then ⟨oneBits false, 0⟩
    else if 9 ≤ e + bitLen m then (if n then ⟨0, flUF ||| flNX⟩ else ⟨Fmt.f32.infBits, flOF ||| flNX⟩)
    else
      -- x = i + f with 0 ≤ f < 1
      let a := toFix m e
      let exact := decide (0 ≤ e) || m % 2 ^ (-e).toNat == 0
      let i : Int := if n then -((a + 2 ^ 320 - 1) / 2 ^ 320 : Nat) else ((a / 2 ^ 320 : Nat) : Int)
      let f : Nat := ((if n then -(a : Int) else a) - i * 2 ^ 320).toNat
      if i < -150 then ⟨0, flUF ||| flNX⟩
      else if exact then
        if i = -150 then ⟨0, flUF ||| flNX⟩
        else if 128 ≤ i then ⟨Fmt.f32.infBits, flOF ||| flNX⟩
        else Fmt.f32.round .rne false 1 i
      else
        -- a fraction below 2^-320 still makes the result inexact
        let g := if n && f == 2 ^ 320 then 2 ^ 320 - 1 else f
        Fmt.f32.round .rne false (2 ^ 320 + expm1Fix (fixMul g ln2Fix)) (i - 320) true

/-- log2 x (R92, R93). -/
def sfuLg2 (x : FVal) : FRes :=
  match x with
  | .nan s => ⟨Fmt.f32.nan, if s then flNV else 0⟩
  | .inf n => if n then Fmt.f32.invalid else ⟨Fmt.f32.infBits, 0⟩
  | .fin n m e =>
    if m = 0 then ⟨Fmt.f32.withSign true Fmt.f32.infBits, flDZ⟩
    else if n then Fmt.f32.invalid
    else
      let k := bitLen m - 1
      let i : Int := e + k
      if m = 2 ^ k then Fmt.f32.round .rne (i < 0) i.natAbs 0
      else
        let l := log2Bits 150 (m * 2 ^ (320 - k)) 0
        let t : Int := i * 2 ^ 150 + l
        if t < 0 then Fmt.f32.round .rne true (t.natAbs - 1) (-150) true
        else Fmt.f32.round .rne false t.natAbs (-150) true

/-- The fraction of a finite magnitude modulo 1, as an odd number over a power of two: numerator and the exponent of the denominator; 0 over
1 for an integer. -/
def fracOf (m : Nat) (e : Int) : Nat × Nat :=
  if 0 ≤ e then (0, 0)
  else
    let d := (-e).toNat
    (m % 2 ^ d, d)

/-- sin 2πr for 0 < r < 1/4 given as p / 2^d, in fixed point. -/
def sinTurn (p d : Nat) : Nat :=
  if 8 * p ≤ 2 ^ d then sinFix (tauFix * p / 2 ^ d) else cosFix (tauFix * (2 ^ d - 4 * p) / (4 * 2 ^ d))

/-- sin 2πx (R92, R93). -/
def sfuSin (x : FVal) : FRes :=
  match x with
  | .nan s => ⟨Fmt.f32.nan, if s then flNV else 0⟩
  | .inf _ => Fmt.f32.invalid
  | .fin n m e =>
    let (p, d) := fracOf m e
    let h := 2 * p
    if h % 2 ^ d = 0 then ⟨Fmt.f32.withSign n 0, 0⟩
    else
      let neg := (2 ^ d < h) != n
      let q := if 2 ^ d < h then 2 ^ d - p else p
      if 4 * q = 2 ^ d then ⟨oneBits neg, 0⟩
      else if 4 * q < 2 ^ d then ofFix neg (sinTurn q d)
      else ofFix neg (sinTurn (2 ^ d - 2 * q) (d + 1))

/-- cos 2πx (R92, R93). -/
def sfuCos (x : FVal) : FRes :=
  match x with
  | .nan s => ⟨Fmt.f32.nan, if s then flNV else 0⟩
  | .inf _ => Fmt.f32.invalid
  | .fin _ m e =>
    let (p, d) := fracOf m e
    let q := if 2 ^ d < 2 * p then 2 ^ d - p else p
    if q = 0 then ⟨oneBits false, 0⟩
    else if 2 * q = 2 ^ d then ⟨oneBits true, 0⟩
    else if 4 * q = 2 ^ d then ⟨0, 0⟩
    else if 4 * q < 2 ^ d then ofFix false (sinTurn (2 ^ d - 4 * q) (d + 2))
    else ofFix true (sinTurn (4 * q - 2 ^ d) (d + 2))

/-- e^(2s) − 1 from e^s − 1, n times. -/
def expm1Double : Nat → Nat → Nat
  | 0, a => a
  | n + 1, a => expm1Double n (2 * a + fixMul a a)

/-- tanh x (R92, R93). -/
def sfuTanh (x : FVal) : FRes :=
  match x with
  | .nan s => ⟨Fmt.f32.nan, if s then flNV else 0⟩
  | .inf n => ⟨oneBits n, 0⟩
  | .fin n m e =>
    if m = 0 then ⟨Fmt.f32.withSign n 0, 0⟩
    else if 5 ≤ e + bitLen m then Fmt.f32.round .rne n (2 ^ 40 - 1) (-40) true
    else
      let a := expm1Double 6 (expm1Fix (toFix m e / 32))
      ofFix n (a * 2 ^ 320 / (a + 2 ^ 321))

/-- An SFU function on the bits of a lane, with FTZ (R86). -/
def sfuLane (f : FVal → FRes) (ftz : Bool) (x : Nat) : FRes := Fmt.f32.flushOut ftz (f (Fmt.f32.unpack (Fmt.f32.flushIn ftz x)))

/-- An SFU instruction (R135, R136, R139, R150). -/
def State.sfuOp (s : State) (i : Instr) (m : Bool) (d : VReg) (b : Code) (f : FVal → FRes) : Host.Outcome State Fault Refusal :=
  let lanes := lanesOf s.exm
  s.run i m (s.vdest d.toNat 1 ++ s.cw.codeRange .f32 b) (codeRegs .f32 b ++ s.xmodRegs) []
    (let rs := lanes.map fun l => (l, sfuLane f s.cw.ftz (s.operand .f32 b l))
     s.result i
      { strand := 0
        vec := s.vecOut d.toNat false (rs.map fun p => (p.1, p.2.bits))
        flags := orFlags (rs.map fun p => p.2.fl)
        meters := [(12, lanes.length)] })

/-- VRCP (R92, R93, R150). -/
def execVrcp (m : Bool) (d : VReg) (b : Code) (s : State) : Host.Outcome State Fault Refusal :=
  s.sfuOp (.vrcp m d b) m d b sfuRcp

/-- VRSQ (R92, R93, R150). -/
def execVrsq (m : Bool) (d : VReg) (b : Code) (s : State) : Host.Outcome State Fault Refusal :=
  s.sfuOp (.vrsq m d b) m d b sfuRsq

/-- VSQRT (R92, R93, R150). -/
def execVsqrt (m : Bool) (d : VReg) (b : Code) (s : State) : Host.Outcome State Fault Refusal :=
  s.sfuOp (.vsqrt m d b) m d b sfuSqrt

/-- VEX2 (R92, R93, R150). -/
def execVex2 (m : Bool) (d : VReg) (b : Code) (s : State) : Host.Outcome State Fault Refusal :=
  s.sfuOp (.vex2 m d b) m d b sfuEx2

/-- VLG2 (R92, R93, R150). -/
def execVlg2 (m : Bool) (d : VReg) (b : Code) (s : State) : Host.Outcome State Fault Refusal :=
  s.sfuOp (.vlg2 m d b) m d b sfuLg2

/-- VSIN (R92, R93, R150). -/
def execVsin (m : Bool) (d : VReg) (b : Code) (s : State) : Host.Outcome State Fault Refusal :=
  s.sfuOp (.vsin m d b) m d b sfuSin

/-- VCOS (R92, R93, R150). -/
def execVcos (m : Bool) (d : VReg) (b : Code) (s : State) : Host.Outcome State Fault Refusal :=
  s.sfuOp (.vcos m d b) m d b sfuCos

/-- VTANH (R92, R93, R150). -/
def execVtanh (m : Bool) (d : VReg) (b : Code) (s : State) : Host.Outcome State Fault Refusal :=
  s.sfuOp (.vtanh m d b) m d b sfuTanh

end Sys2Proof.Machine
end

