-- ==== Sys2Proof/Machine/Narrow.lean ====
section
/-! DEFINITION. The narrow formats: D8 (R94 to R96), the OCP element formats (R97, R98), the S10 block scale (R99, R100), and the
conversions VCVT, VQNT, VDQ and VBSCALE (R146 to R149). -/

namespace Sys2Proof.Machine

/-! ## D8 -/

/-- The magnitude of a D8 payload from 2 up, times 2^10 (R94, R95). -/
def d8Mag (p : Nat) : Nat :=
  if p < 4 then (if p = 2 then 1 else 512 * 1024)
  else
    let t := bitLen p - 1
    let w := if t = 6 then 1 else 2
    let f := t - w
    let e := p / 2 ^ f % 2 ^ w
    let E : Int :=
      match t, e with
      | 6, 0 => -1
      | 6, _ => 0
      | 5, 0 => -3
      | 5, 1 => -2
      | 5, 2 => 1
      | 5, _ => 2
      | 4, 0 => -5
      | 4, 1 => -4
      | 4, 2 => 3
      | 4, _ => 4
      | 3, 0 => -7
      | 3, 1 => -6
      | 3, 2 => 5
      | 3, _ => 6
      | _, 0 => -9
      | _, 1 => -8
      | _, 2 => 7
      | _, _ => 8
    (2 ^ f + p % 2 ^ f) * 2 ^ (E + 10 - f).toNat

/-- D8Decode (R94). -/
def d8Val (b : Nat) : FVal :=
  let s := b / 128 % 2 == 1
  let p := b % 128
  if p = 0 then (if s then .nan false else .fin false 0 0)
  else if p = 1 then .inf s
  else .fin s (d8Mag p) (-10)

/-- The payloads of the finite magnitudes. -/
def d8Codes : List Nat := (List.range 126).map (· + 2)

/-- The D8 payload nearest below or at m * 2^k / 2^10 / 2^k': the comparison is made on both sides scaled by 2^k (R96 line 009). -/
def d8Lo (x k : Nat) : Nat :=
  d8Codes.foldl (fun best p =>
    let v := d8Mag p * 2 ^ k
    if v ≤ x && (best = 0 || d8Mag best * 2 ^ k < v) then p else best) 0

/-- The payload of the least magnitude at or above. -/
def d8Hi (x k : Nat) : Nat :=
  d8Codes.foldl (fun best p =>
    let v := d8Mag p * 2 ^ k
    if x ≤ v && (best = 0 || v < d8Mag best * 2 ^ k) then p else best) 0

/-- D8Encode (R96). -/
def d8Encode (x : FVal) (sat : Bool) : FRes :=
  let top := if sat then 3 else 1
  match x with
  | .nan s => ⟨0x80, if s then flNV else 0⟩
  | .inf n => ⟨top + (if n then 128 else 0), 0⟩
  | .fin n m e =>
    let sg := if n then 128 else 0
    if m = 0 then ⟨0, 0⟩
    else
      -- |x| = v / 2^(10 + k)
      let k := (-(e + 10)).toNat
      let v := m * 2 ^ (e + 10).toNat
      if 768 * 1024 * 2 ^ k ≤ v then ⟨top + sg, flOF ||| flNX⟩
      else if 512 * 1024 * 2 ^ k < v then ⟨3 + sg, flNX⟩
      else
        let lo := d8Lo v k
        let hi := d8Hi v k
        let ml := if lo = 0 then 0 else d8Mag lo * 2 ^ k
        let mh := d8Mag hi * 2 ^ k
        let c :=
          if v = ml then lo
          else if v - ml < mh - v then lo
          else if mh - v < v - ml then hi
          else if lo % 2 = hi % 2 then lo
          else if lo % 2 = 0 then lo else hi
        let mc := if c = 0 then 0 else d8Mag c * 2 ^ k
        let fl := if mc = v then 0 else flNX
        if c = 0 then ⟨0, fl ||| flUF⟩ else ⟨c + sg, fl⟩

/-! ## The OCP element formats -/

/-- The format of an element format's exponent and fraction (R97). -/
def nFmt : NFmt → Fmt
  | .e5m2 => ⟨5, 2⟩
  | .e2m1 => ⟨2, 1⟩
  | _ => ⟨4, 3⟩

/-- The bits of the largest finite magnitude (R97). -/
def nMax : NFmt → Nat
  | .e5m2 => 0x7B
  | .e2m1 => 7
  | _ => 0x7E

/-- The width of a narrow format in bits. -/
def nWidth (f : NFmt) : Nat := if f.four then 4 else 8

/-- The exact value of a narrow element (R94, R97). -/
def nDecode (f : NFmt) (x : Nat) : FVal :=
  match f with
  | .d8 => d8Val x
  | .int8 => let v := sgnOf 8 x; .fin (v < 0) v.natAbs 0
  | .int4 => let v := sgnOf 4 x; .fin (v < 0) v.natAbs 0
  | .e5m2 => (nFmt .e5m2).unpack x
  | _ =>
    let F := nFmt f
    if f = .e4m3 && x % 128 = 0x7F then .nan false
    else
      let neg := x / F.signBit % 2 == 1
      let ex := x / 2 ^ F.fb % 2 ^ F.eb
      let fr := x % 2 ^ F.fb
      if ex = 0 then .fin neg fr F.qmin else .fin neg (2 ^ F.fb + fr) (F.qmin + ex - 1)

/-- Rounding of a finite value into e4m3, e5m2 or e2m1 (R98): the bits without sign, and whether it overflows, is inexact, is tiny. -/
def nRound (f : NFmt) (neg : Bool) (m : Nat) (e : Int) : Nat × Bool × Bool × Bool :=
  let F := nFmt f
  let q0 := e + bitLen m - (F.fb + 1)
  let q := max q0 F.qmin
  let (k, nx) := roundAt .rne neg m e q false
  let bits := (q - F.qmin).toNat * 2 ^ F.fb + k
  let (k0, _) := roundAt .rne neg m e q0 false
  (bits, nMax f < bits, nx, q0 + (if k0 = 2 ^ (F.fb + 1) then 1 else 0) < F.qmin)

/-- The bits of an overflow or an infinity of a format, without sign (R98). -/
def nTop (f : NFmt) (sat : Bool) : Nat :=
  match f with
  | .e5m2 => if sat then 0x7B else 0x7C
  | .e2m1 => 7
  | _ => if sat then 0x7E else 0x7F

/-- The conversion of an f32 value into a narrow format (R96, R98). -/
def nEncode (f : NFmt) (sat : Bool) (x : FVal) : FRes :=
  match f with
  | .d8 => d8Encode x sat
  | .int8 | .int4 =>
    let n := nWidth f
    let lim (neg : Bool) : FRes := ⟨toBits n (if neg then -2 ^ (n - 1) else 2 ^ (n - 1) - 1), flNV⟩
    (match x with
     | .nan _ => ⟨0, flNV⟩
     | .inf g => lim g
     | .fin g m e =>
       let (k, nx) := roundAt .rne g m e 0 false
       let v : Int := if g then -(k : Int) else k
       if v < -2 ^ (n - 1) || (2 ^ (n - 1) : Int) - 1 < v then lim g else ⟨toBits n v, if nx then flNX else 0⟩)
  | _ =>
    let F := nFmt f
    (match x with
     | .nan s => if f = .e2m1 then ⟨0, flNV⟩ else ⟨if f = .e5m2 then 0x7E else 0x7F, if s then flNV else 0⟩
     | .inf g => ⟨F.withSign g (nTop f sat), if f = .e4m3 && !sat then flNV else 0⟩
     | .fin g m e =>
       if m = 0 then ⟨F.withSign g 0, 0⟩
       else
         let (bits, ovf, nx, tiny) := nRound f g m e
         if ovf then ⟨F.withSign g (nTop f sat), flOF ||| flNX⟩
         else ⟨F.withSign g bits, (if nx then flNX else 0) ||| (if nx && tiny then flUF else 0)⟩)

/-! ## The S10 block scale -/

/-- S10Value (R99): the multiplier in quarters and the exponent, or `none` for NaN. -/
def s10 (c : Nat) : Option (Nat × Int) :=
  if 1024 ≤ c || c / 4 = 255 then none else some (4 + c % 4, (c / 4 : Nat) - 129)

/-- The largest magnitude of a format (R100). -/
def fmtMax : NFmt → Nat
  | .d8 => 512
  | .e4m3 => 448
  | .e5m2 => 57344
  | .e2m1 => 6
  | .int8 => 127
  | .int4 => 7

/-- BlockScale (R100): the least container whose value is at or above |amax| / FmtMax. -/
def blockScale (x : FVal) (f : NFmt) : Nat :=
  match x with
  | .fin _ m e =>
    if m = 0 then 0x1FC
    else
      -- compare m * 2^e with (4 + F2) * 2^(E8 - 129) * FmtMax, both scaled by 2^160
      let a := m * 2 ^ (e + 160).toNat
      let ok (c : Nat) : Bool := a ≤ (4 + c % 4) * fmtMax f * 2 ^ (c / 4 + 31)
      ((List.range 0x3FC).find? ok).getD 0x3FB
  | _ => 0x3FC

/-! ## The conversions (R146 to R149) -/

/-- The conversion of a pair (R68, R90, R146): its source, one word or a pair, and the old destination, of which the half forms keep a
half. -/
def cvtLane (p : CvtPair) (sel : Nat) (md : FMode) (a old : Nat) : FRes :=
  let half (x : Nat) : Nat := x / 2 ^ (16 * sel) % 2 ^ 16
  let byte := a / 2 ^ (8 * sel) % 2 ^ 8
  let put (r : FRes) : FRes := if sel = 0 then ⟨old / 2 ^ 16 * 2 ^ 16 + r.bits, r.fl⟩ else ⟨old % 2 ^ 16 + 2 ^ 16 * r.bits, r.fl⟩
  match p with
  | .f32f16 => cvtFloat Fmt.f16 Fmt.f32 md (half a)
  | .f32bf16 => cvtFloat Fmt.bf16 Fmt.f32 md (half a)
  | .f16f32 => put (cvtFloat Fmt.f32 Fmt.f16 md a)
  | .bf16f32 => put (cvtFloat Fmt.f32 Fmt.bf16 md a)
  | .f32f64 => cvtFloat Fmt.f64 Fmt.f32 md a
  | .f64f32 => cvtFloat Fmt.f32 Fmt.f64 md a
  | .s32f32 => cvtInt Fmt.f32 md (-2 ^ 31) (2 ^ 31 - 1) a
  | .n32f32 => cvtInt Fmt.f32 md 0 (2 ^ 32 - 1) a
  | .f32s32 => cvtFromInt Fmt.f32 md (sgnOf 32 a)
  | .f32n32 => cvtFromInt Fmt.f32 md a
  | .s32f64 => cvtInt Fmt.f64 md (-2 ^ 31) (2 ^ 31 - 1) a
  | .f64s32 => cvtFromInt Fmt.f64 md (sgnOf 32 a)
  | .f32s8 => cvtFromInt Fmt.f32 md (sgnOf 8 byte)
  | .f32n8 => cvtFromInt Fmt.f32 md byte

/-- The pairs whose source or destination is a register pair. -/
def cvtSrcWide : CvtPair → Bool
  | .f32f64 | .s32f64 => true
  | _ => false
@[inherit_doc cvtSrcWide] def cvtDstWide : CvtPair → Bool
  | .f64f32 | .f64s32 => true
  | _ => false

/-- A conversion instruction of one source register (R135, R136). -/
def State.convOp (s : State) (i : Instr) (m : Bool) (d a : VReg) (sw dw : Bool) (f : Nat → Nat → FRes) :
    Host.Outcome State Fault Refusal :=
  s.run i m (s.vdest d.toNat (if dw then 2 else 1) ++ s.cw.vranges a.toNat (if sw then 2 else 1)) s.xmodRegs []
    (let rs := (lanesOf s.exm).map fun l => (l, f (s.src a.toNat sw l) (s.src d.toNat false l))
     s.result i
      { strand := 0
        vec := s.vecOut d.toNat dw (rs.map fun p => (p.1, p.2.bits))
        flags := orFlags (rs.map fun p => p.2.fl) })

/-- VCVT (R146). -/
def execVcvt (m : Bool) (d a : VReg) (pair : CvtPair) (rnd sel : BitVec 2) (s : State) : Host.Outcome State Fault Refusal :=
  s.convOp (.vcvt m d a pair rnd sel) m d a (cvtSrcWide pair) (cvtDstWide pair) (cvtLane pair sel.toNat (s.modeCvt rnd))

/-- VQNT (R147): one slot of the destination is written, the others keep their bits. -/
def execVqnt (m : Bool) (d a : VReg) (fmt : NFmt) (sat : Bool) (slot : BitVec 3) (s : State) : Host.Outcome State Fault Refusal :=
  s.convOp (.vqnt m d a fmt sat slot) m d a false false fun x old =>
    let r := nEncode fmt sat (Fmt.f32.unpack x)
    let w := nWidth fmt
    let sh := 2 ^ (w * slot.toNat)
    ⟨old - old / sh % 2 ^ w * sh + r.bits * sh, r.fl⟩

/-- VDQ (R148). -/
def execVdq (m : Bool) (d a : VReg) (fmt : NFmt) (slot : BitVec 3) (s : State) : Host.Outcome State Fault Refusal :=
  s.convOp (.vdq m d a fmt slot) m d a false false fun x _ =>
    let w := nWidth fmt
    ⟨(Fmt.f32.roundVal .rne (nDecode fmt (x / 2 ^ (w * slot.toNat) % 2 ^ w))).bits, 0⟩

/-- VBSCALE (R149). -/
def execVbscale (m : Bool) (d a : VReg) (fmt : NFmt) (s : State) : Host.Outcome State Fault Refusal :=
  s.convOp (.vbscale m d a fmt) m d a false false fun x _ => ⟨blockScale (Fmt.f32.unpack x) fmt, 0⟩

end Sys2Proof.Machine
end

