-- ==== Sys2Proof/Machine/VectorMisc.lean ====
section
/-! DEFINITION. Class 2: bits, moves, lane operations, scans, compares (R143 to R145, R151 to R156). -/

namespace Sys2Proof.Machine

/-- A class 2 instruction with one vector destination of one word (R135, R136): the source registers, the operand code, and the result of
each lane. -/
def State.miscOp (s : State) (i : Instr) (m : Bool) (d : VReg) (srcs : List VReg) (k : Kind) (b : Option Code) (f : Nat → Nat) :
    Host.Outcome State Fault Refusal :=
  s.run i m
    (s.vdest d.toNat 1 ++ srcs.map (fun a => s.cw.vrange a.toNat) ++ (b.map (s.cw.codeRange k)).getD [])
    ((b.map (codeRegs k)).getD [] ++ s.xmodRegs) []
    (s.result i { strand := 0, vec := s.vecOut d.toNat false ((lanesOf s.exm).map fun l => (l, f l)) })

/-! ## Bits and moves (R143 to R145) -/

/-- VAND (R143). -/
def execVand (m : Bool) (d a : VReg) (b : Code) (s : State) : Host.Outcome State Fault Refusal :=
  s.miscOp (.vand m d a b) m d [a] .raw b fun l => s.src a.toNat false l &&& s.operand .raw b l

/-- VOR (R143). -/
def execVor (m : Bool) (d a : VReg) (b : Code) (s : State) : Host.Outcome State Fault Refusal :=
  s.miscOp (.vor m d a b) m d [a] .raw b fun l => s.src a.toNat false l ||| s.operand .raw b l

/-- VXOR (R143). -/
def execVxor (m : Bool) (d a : VReg) (b : Code) (s : State) : Host.Outcome State Fault Refusal :=
  s.miscOp (.vxor m d a b) m d [a] .raw b fun l => s.src a.toNat false l ^^^ s.operand .raw b l

/-- VANDN (R143). -/
def execVandn (m : Bool) (d a : VReg) (b : Code) (s : State) : Host.Outcome State Fault Refusal :=
  s.miscOp (.vandn m d a b) m d [a] .raw b fun l =>
    s.src a.toNat false l &&& (s.operand .raw b l ^^^ 0xFFFFFFFF)

/-- A bit field (R111, R144): position b[4:0], length b[12:8]. -/
def bitField (x b : Nat) : Nat := x / 2 ^ (b % 32) % 2 ^ (b / 256 % 32)

/-- A bit field extended from its top bit (R144). -/
def bitFieldS (x b : Nat) : Nat :=
  let n := b / 256 % 32
  if n = 0 then 0 else toBits 32 (sgnOf n (bitField x b))

/-- A bit field inserted (R144). -/
def bitInsert (old x b : Nat) : Nat :=
  let p := b % 32
  let mask := (2 ^ (b / 256 % 32) - 1) * 2 ^ p % 2 ^ 32
  (old &&& (mask ^^^ 0xFFFFFFFF)) ||| (x * 2 ^ p &&& mask)

/-- VBFES (R144). -/
def execVbfes (m : Bool) (d a : VReg) (b : Code) (s : State) : Host.Outcome State Fault Refusal :=
  s.miscOp (.vbfes m d a b) m d [a] .i32 b fun l => bitFieldS (s.src a.toNat false l) (s.operand .i32 b l)

/-- VBFEN (R144). -/
def execVbfen (m : Bool) (d a : VReg) (b : Code) (s : State) : Host.Outcome State Fault Refusal :=
  s.miscOp (.vbfen m d a b) m d [a] .i32 b fun l => bitField (s.src a.toNat false l) (s.operand .i32 b l)

/-- VBFI (R144). -/
def execVbfi (m : Bool) (d a : VReg) (b : Code) (s : State) : Host.Outcome State Fault Refusal :=
  s.miscOp (.vbfi m d a b) m d [a] .i32 b fun l =>
    bitInsert (s.src d.toNat false l) (s.src a.toNat false l) (s.operand .i32 b l)

/-- The number of one bits among the low n bits. -/
def popCount (x : Nat) : Nat → Nat
  | 0 => 0
  | n + 1 => x / 2 ^ n % 2 + popCount x n

/-- VPOPC (R145). -/
def execVpopc (m : Bool) (d : VReg) (b : Code) (s : State) : Host.Outcome State Fault Refusal :=
  s.miscOp (.vpopc m d b) m d [] .i32 b fun l => popCount (s.operand .i32 b l) 32

/-- VCLZ (R145). -/
def execVclz (m : Bool) (d : VReg) (b : Code) (s : State) : Host.Outcome State Fault Refusal :=
  s.miscOp (.vclz m d b) m d [] .i32 b fun l => 32 - bitLen (s.operand .i32 b l)

/-- Four bytes picked from two words (R145). -/
def permBytes (old x b : Nat) : Nat :=
  let pick (k : Nat) : Nat := if k < 4 then old / 2 ^ (8 * k) % 256 else if k < 8 then x / 2 ^ (8 * (k - 4)) % 256 else 0
  (List.range 4).foldl (fun r j => r + pick (b / 2 ^ (4 * j) % 16) * 2 ^ (8 * j)) 0

/-- VPERMB (R145). -/
def execVpermb (m : Bool) (d a : VReg) (b : Code) (s : State) : Host.Outcome State Fault Refusal :=
  s.miscOp (.vpermb m d a b) m d [a] .i32 b fun l =>
    permBytes (s.src d.toNat false l) (s.src a.toNat false l) (s.operand .i32 b l)

/-- VMOV (R143). -/
def execVmov (m : Bool) (d : VReg) (b : Code) (s : State) : Host.Outcome State Fault Refusal :=
  s.miscOp (.vmov m d b) m d [] .raw b fun l => s.operand .raw b l

/-- The mask triple that selects for VSEL: the XMOD's, or k0 (R143). -/
def State.selector (s : State) : Nat :=
  match s.cs.xmod with
  | some x => if x.k.toNat ≤ 20 then x.k.toNat else 0
  | none => 0

/-- VSEL (R143): its XMOD k does not narrow EXM, and z has no effect. -/
def execVsel (m : Bool) (d a : VReg) (b : Code) (s : State) : Host.Outcome State Fault Refusal :=
  let i : Instr := .vsel m d a b
  let k := s.cw.ktriple s.cur.2.2 s.selector
  s.run i m (s.vdest d.toNat 1 ++ [s.cw.vrange a.toNat] ++ s.cw.codeRange .raw b) (codeRegs .raw b ++ kregs s.selector) []
    (let vals := (lanesOf s.exmAm).map fun l => (l, if k.getLsbD l then s.src a.toNat false l else s.operand .raw b l)
     s.result i { strand := 0, vec := vals.flatMap fun p => laneOut d.toNat false p.1 p.2 })

/-! ## Lane operations (R151 to R154) -/

/-- VLANE (R151). -/
def execVlane (m : Bool) (d : VReg) (s : State) : Host.Outcome State Fault Refusal :=
  s.miscOp (.vlane m d) m d [] .i32 none fun l => l

/-- VSHFL (R151). -/
def execVshfl (m : Bool) (d a : VReg) (b : Code) (s : State) : Host.Outcome State Fault Refusal :=
  s.miscOp (.vshfl m d a b) m d [a] .i32 b fun l => s.src a.toNat false (s.operand .i32 b l % 96)

/-- VBCAST (R151). -/
def execVbcast (m : Bool) (d a : VReg) (b : Code) (s : State) : Host.Outcome State Fault Refusal :=
  s.miscOp (.vbcast m d a b) m d [a] .i32 b fun l =>
    let j := s.operand .i32 b l
    if j < 96 then s.src a.toNat false j else 0

/-- One step of a reduction (R152). -/
def redStep (op : RedOp) (md : FMode) (acc x : Nat) : FRes :=
  match op with
  | .addF32 => Fmt.f32.add md acc x
  | .addI32 => ⟨(acc + x) % 2 ^ 32, 0⟩
  | .maxF32 => Fmt.f32.minMax md true acc x
  | .minF32 => Fmt.f32.minMax md false acc x
  | .maxS32 => ⟨minInt 32 true true acc x, 0⟩
  | .minS32 => ⟨minInt 32 true false acc x, 0⟩
  | .orB32 => ⟨acc ||| x, 0⟩

/-- The first value of a segment (R152): for a float select FTZ may flush it, and a NaN becomes canonical. -/
def redFirst (op : RedOp) (md : FMode) (x : Nat) : FRes :=
  match op with
  | .addF32 | .maxF32 | .minF32 =>
    let y := Fmt.f32.flushIn md.ftz x
    (match Fmt.f32.unpack y with
     | .nan s => ⟨Fmt.f32.nan, if s then flNV else 0⟩
     | _ => ⟨y, 0⟩)
  | _ => ⟨x, 0⟩

/-- The identity of a select (R152). -/
def redIdentity : RedOp → Nat
  | .addF32 | .addI32 | .orB32 => 0
  | .maxF32 => 0xFF800000
  | .minF32 => 0x7F800000
  | .maxS32 => 0x80000000
  | .minS32 => 0x7FFFFFFF

/-- An inclusive scan over the lanes from l on: the lanes of AM take part, a head starts a new segment whether or not it is in AM (R35,
R152).  Results with their flags, lane by lane. -/
def scanFrom (op : RedOp) (md : FMode) (am heads : Lanes) (x : Nat → Nat) : Nat → Nat → Option Nat → List (Nat × FRes)
  | 0, _, _ => []
  | n + 1, l, acc =>
    let acc := if heads.getLsbD l then none else acc
    if am.getLsbD l then
      let r := match acc with
        | none => redFirst op md (x l)
        | some a => redStep op md a (x l)
      (l, r) :: scanFrom op md am heads x n (l + 1) (some r.bits)
    else scanFrom op md am heads x n (l + 1) acc

/-- The meter increment of a scan or reduction (R139). -/
def redMeter (op : RedOp) (n : Nat) : List (Nat × Nat) :=
  match op with
  | .addF32 | .maxF32 | .minF32 => [(9, n)]
  | _ => []

/-- VSCAN (R35, R152): the XMOD k names the heads and does not narrow EXM. -/
def execVscan (m : Bool) (d : VReg) (op : RedOp) (b : Code) (s : State) : Host.Outcome State Fault Refusal :=
  let i : Instr := .vscan m d op b
  s.run i m (s.vdest d.toNat 1 ++ s.cw.codeRange op.kind b) (codeRegs op.kind b ++ s.xmodRegs) []
    (let heads := match s.cs.xmod with
       | some x => if x.k.toNat ≤ 20 then s.cw.ktriple s.cur.2.2 x.k.toNat else 0
       | none => 0
     let rs := scanFrom op s.modeNearest s.exmAm heads (s.operand op.kind b) 96 0 none
     s.result i
      { strand := 0
        vec := rs.flatMap fun p => laneOut d.toNat false p.1 p.2.bits
        flags := orFlags (rs.map fun p => p.2.fl)
        meters := redMeter op rs.length })

/-- A scalar result of one word: zr discards it (R15). -/
def scalarOut (d : SReg) (x : Nat) : List (Nat × Word) := if d = 63 then [] else [(d.toNat, BitVec.ofNat 32 x)]

/-- VREDS (R35, R152): every AM lane in ascending order; the identity when AM is empty.  It ignores the mask of its XMOD: that the mask's scalars
still count as registers which it reads, so that a pending token among them stalls it (R17), is the model's choice (log entry 93). -/
def execVreds (m : Bool) (d : SReg) (op : RedOp) (b : Code) (s : State) : Host.Outcome State Fault Refusal :=
  let i : Instr := .vreds m d op b
  s.run i m (s.sdest d.toNat 1 ++ s.cw.codeRange op.kind b) (codeRegs op.kind b ++ s.xmodRegs) []
    (let rs := scanFrom op s.modeNearest s.exmAm 0 (s.operand op.kind b) 96 0 none
     s.result i
      { strand := 0
        sca := scalarOut d ((rs.getLast?.map fun p => p.2.bits).getD (redIdentity op))
        flags := orFlags (rs.map fun p => p.2.fl)
        meters := redMeter op rs.length })

/-- VRDL (R153): the lane index comes from the lowest lane of AM, or lane 0. -/
def execVrdl (m : Bool) (d : SReg) (a : VReg) (b : Code) (s : State) : Host.Outcome State Fault Refusal :=
  let i : Instr := .vrdl m d a b
  s.run i m (s.sdest d.toNat 1 ++ [s.cw.vrange a.toNat] ++ s.cw.codeRange .i32 b) (codeRegs .i32 b ++ s.xmodRegs) []
    (let j := s.operand .i32 b ((lanesOf s.cs.am).headD 0)
     s.result i { strand := 0, sca := scalarOut d (if j < 96 then s.src a.toNat false j else 0) })

/-- VWRL (R153): one lane of the destination, when EXM holds it. -/
def execVwrl (m : Bool) (d : VReg) (lane : BitVec 7) (b : Code) (s : State) : Host.Outcome State Fault Refusal :=
  let i : Instr := .vwrl m d lane b
  let n := lane.toNat
  s.run i m (s.vdest d.toNat 1 ++ s.cw.codeRange .raw b) (codeRegs .raw b ++ s.xmodRegs) []
    (s.result i { strand := 0, vec :=
      if s.exm.getLsbD n then laneOut d.toNat false n (s.operand .raw b n)
      else if s.zeroLanes.getLsbD n then laneOut d.toNat false n 0
      else [] })

/-- VRDI (R154): an index beyond the budget comes before a published destination, the lower code (R55). -/
def execVrdi (m : Bool) (d : VReg) (n : SReg) (s : State) : Host.Outcome State Fault Refusal :=
  let i : Instr := .vrdi m d n
  let r := (s.cw.sreg s.cur.2.2 n.toNat).toNat
  s.run i m [s.cw.vrange d.toNat] (n.toNat :: s.xmodRegs) (s.cw.vrange r :: s.vdest d.toNat 1)
    (s.result i { strand := 0, vec := s.vecOut d.toNat false ((lanesOf s.exm).map fun l => (l, s.src r false l)) })

/-- VWRI (R154): the destination is the register that the scalar indexes.  When va and that register are both beyond the budget TVAL names
va, which is known before the index is read (log entry 13). -/
def execVwri (m : Bool) (n : SReg) (a : VReg) (s : State) : Host.Outcome State Fault Refusal :=
  let i : Instr := .vwri m n a
  let r := (s.cw.sreg s.cur.2.2 n.toNat).toNat
  s.run i m [s.cw.vrange a.toNat] (n.toNat :: s.xmodRegs) (s.vdest r 1)
    (s.result i { strand := 0, vec := (lanesOf s.exm).flatMap fun l => laneOut r false l (s.src a.toNat false l) })

/-! ## Compares and class tests (R155, R156) -/

/-- A compare (R155): the bits of EXM's lanes are written, those that z zeroes become 0, the others keep their value. -/
def State.cmpOp (s : State) (i : Instr) (m : Bool) (k : KReg) (a : VReg) (b : Code) (kd : Kind) (f : Nat → Nat → Bool × BitVec 5) :
    Host.Outcome State Fault Refusal :=
  s.run i m
    (s.kdest k.toNat ++ s.cw.vranges a.toNat (if kd.wide then 2 else 1) ++ s.cw.codeRange kd b)
    (codeRegs kd b ++ s.xmodRegs) []
    (let rs := (lanesOf s.exm).map fun l => (l, f (s.src a.toNat kd.wide l) (s.operand kd b l))
     s.result i
      { strand := 0
        bits := some (k.toNat, s.exm ||| s.zeroLanes, maskOf ((rs.filter fun p => p.2.1).map (·.1)))
        flags := orFlags (rs.map fun p => p.2.2) })

/-- A float compare (R88): NaNs, signed zeros, and the flag NV. -/
def floatCond (F : Fmt) (ftz : Bool) (c : FCond) (a b : Nat) : Bool × BitVec 5 :=
  let a := F.flushIn ftz a
  let b := F.flushIn ftz b
  let nan := (F.unpack a).isNan || (F.unpack b).isNan
  let nv : BitVec 5 :=
    match c with
    | .lt | .le | .gt | .ge => if nan then flNV else 0
    | _ => if (F.unpack a).sig || (F.unpack b).sig then flNV else 0
  let o := F.compare a b
  (match c with
   | .eq => o == some .eq
   | .ne => o != some .eq
   | .lt => o == some .lt
   | .le => o == some .lt || o == some .eq
   | .gt => o == some .gt
   | .ge => o == some .gt || o == some .eq
   | .un => nan
   | .ord => !nan, nv)

/-- An integer compare (R155). -/
def intCond (sgn : Bool) (c : Cond) (a b : Nat) : Bool :=
  let v (x : Nat) : Int := if sgn then sgnOf 32 x else x
  match c with
  | .eq => a == b
  | .ne => a != b
  | .lt => v a < v b
  | .le => v a ≤ v b
  | .gt => v b < v a
  | .ge => v b ≤ v a

/-- VCMP.eq.f64 (R155). -/
def execVcmpEqF64 (m : Bool) (k : KReg) (a : VReg) (b : Code) (s : State) : Host.Outcome State Fault Refusal :=
  s.cmpOp (.vcmpEqF64 m k a b) m k a b .f64 (floatCond Fmt.f64 s.cw.ftz .eq)

/-- VCMP.ne.f64 (R155). -/
def execVcmpNeF64 (m : Bool) (k : KReg) (a : VReg) (b : Code) (s : State) : Host.Outcome State Fault Refusal :=
  s.cmpOp (.vcmpNeF64 m k a b) m k a b .f64 (floatCond Fmt.f64 s.cw.ftz .ne)

/-- VCMP.lt.f64 (R155). -/
def execVcmpLtF64 (m : Bool) (k : KReg) (a : VReg) (b : Code) (s : State) : Host.Outcome State Fault Refusal :=
  s.cmpOp (.vcmpLtF64 m k a b) m k a b .f64 (floatCond Fmt.f64 s.cw.ftz .lt)

/-- VCMP.le.f64 (R155). -/
def execVcmpLeF64 (m : Bool) (k : KReg) (a : VReg) (b : Code) (s : State) : Host.Outcome State Fault Refusal :=
  s.cmpOp (.vcmpLeF64 m k a b) m k a b .f64 (floatCond Fmt.f64 s.cw.ftz .le)

/-- VCMP.gt.f64 (R155). -/
def execVcmpGtF64 (m : Bool) (k : KReg) (a : VReg) (b : Code) (s : State) : Host.Outcome State Fault Refusal :=
  s.cmpOp (.vcmpGtF64 m k a b) m k a b .f64 (floatCond Fmt.f64 s.cw.ftz .gt)

/-- VCMP.ge.f64 (R155). -/
def execVcmpGeF64 (m : Bool) (k : KReg) (a : VReg) (b : Code) (s : State) : Host.Outcome State Fault Refusal :=
  s.cmpOp (.vcmpGeF64 m k a b) m k a b .f64 (floatCond Fmt.f64 s.cw.ftz .ge)

/-- The class of a value as its bit number (R156). -/
def classOfF32 (x : Nat) : Nat :=
  let neg := x / 2 ^ 31 % 2 == 1
  let ex := x / 2 ^ 23 % 256
  let fr := x % 2 ^ 23
  if ex = 255 then (if fr = 0 then (if neg then 2 else 9) else if fr < 2 ^ 22 then 0 else 1)
  else if ex = 0 then (if fr = 0 then (if neg then 5 else 6) else (if neg then 4 else 7))
  else (if neg then 3 else 8)

/-- VCLASS.f32 (R156). -/
def execVclassF32 (m : Bool) (k : KReg) (a : VReg) (b : Code) (s : State) : Host.Outcome State Fault Refusal :=
  s.cmpOp (.vclassF32 m k a b) m k a b .i32 fun x y => (y / 2 ^ classOfF32 x % 2 == 1, 0)

/-- VCMP.cond.f32 (R155). -/
def execVcmpF32 (m : Bool) (c : FCond) (k : KReg) (a : VReg) (b : Code) (s : State) : Host.Outcome State Fault Refusal :=
  s.cmpOp (.vcmpF32 m c k a b) m k a b .f32 (floatCond Fmt.f32 s.cw.ftz c)

/-- VCMP.cond.s32 (R155). -/
def execVcmpS32 (m : Bool) (c : Cond) (k : KReg) (a : VReg) (b : Code) (s : State) : Host.Outcome State Fault Refusal :=
  s.cmpOp (.vcmpS32 m c k a b) m k a b .i32 fun x y => (intCond true c x y, 0)

/-- VCMP.cond.n32 (R155). -/
def execVcmpN32 (m : Bool) (c : Cond) (k : KReg) (a : VReg) (b : Code) (s : State) : Host.Outcome State Fault Refusal :=
  s.cmpOp (.vcmpN32 m c k a b) m k a b .i32 fun x y => (intCond false c x y, 0)

end Sys2Proof.Machine
end

