-- ==== Sys2Proof/Machine/VectorMem.lean ====
section
/-! DEFINITION. Class 3, vector memory (R157 to R171): each word forms the lanes' accesses, checks them, and hands one operation to the
wave's queue. -/

namespace Sys2Proof.Machine

/-- A lane's address (R157). -/
def State.vaddr (s : State) (a : VReg) (b : BitVec 5) (l : Nat) : DWord :=
  s.cw.spair s.cur.2.2 (2 * b.toNat) + (s.cw.vreg a.toNat l).setWidth 64

/-- The causes decided before any access is performed (R158): ALIGN; a stash address outside the configured stash; and, when there is
such an address, the causes of lower code that other accesses meet (R301). -/
def State.addrFaults (s : State) (op : MemOp) : List (Option Raise) :=
  let n := match op.kind with | .pref _ => 1 | k => k.size
  let w := s.cw
  let bad (a : Acc) : Bool :=
    match stashOff a.addr.toNat with
    | some off => (s.stashAt w.blk off n).isNone
    | none => false
  match op.kind with
  | .pref _ => []
  | _ =>
    op.accs.map (fun a => if a.addr.toNat % n = 0 then none else some ⟨.align, a.addr⟩) ++
    (if op.accs.any bad then
      op.accs.map fun a =>
        if bad a then some ⟨.stashrange, a.addr⟩
        else if (stashOff a.addr.toNat).isSome then none
        else match s.translate s.cur.1 w.vi a.addr.toNat op.kind.need with
          | .error r => some r
          | .ok _ => none
    else [])

/-- A park on a future (R167, R209): nothing orders the FGET behind another operation, and it waits for a page walk or finds a cell empty.
One that the strand has run on past, behind a held entry or an earlier operation on its cells, does not park the strand later (log
entry 62). -/
def State.parkFget (s0 : State) (i : Instr) (q : QEntry) (s : State) : State :=
  let w := s.cw
  match w.queue.getLast? with
  | some e =>
    if e.isFget && e.seq = q.seq && e.strand = q.strand && (e.atHome || s.releasable s0.cur.1 s0.cur.2.1 e) && w.latched.isNone then
      s.parkOn .future i
    else s
  | none => s

/-- A class 3 word: its accesses over the lanes of EXM, the registers it names as destination and as sources, its data. -/
def State.vecMem (s : State) (i : Instr) (m : Bool) (kind : MemKind) (ord : Ordq) (ssq : Bool) (a : VReg) (b : BitVec 5)
    (static : List (Option Raise)) (data : Nat → BitVec 128) (cmp : Nat → Word := fun _ => 0) :
    Host.Outcome State Fault Refusal :=
  let op : MemOp :=
    { kind := kind
      accs := (lanesOf s.exm).map fun l => ⟨l, s.vaddr a b l, data l, cmp l⟩
      ord := ord
      scope := s.scopeOf
      pol := s.polOf
      zero := s.zeroLanes }
  let q := s.entryOf i (.mem op) s.exm ssq
  s.run i m (static ++ [s.cw.vrange a.toNat]) (pairRegs (2 * b.toNat) ++ s.xmodRegs) (s.addrFaults op)
    (fun t => s.parkFget i q (t.issueQ s.cur.1 s.cur.2.1 q)) (s.busyFor q)

/-- The orderings of the qualifiers (R70, R161). -/
def ldOrd : LdQ → Ordq
  | .plain => .rlx | .cn => .cn | .acq => .acq | .sc => .sc | .nt => .nt
@[inherit_doc ldOrd] def stOrd : StQ → Ordq
  | .plain => .rlx | .sc => .sc | .rel => .rel | .nt => .nt
@[inherit_doc ldOrd] def atOrd : AtQ → Ordq
  | .relaxed => .rlx | .acq => .acq | .rel => .rel | .sc => .sc | .ar => .ar
@[inherit_doc ldOrd] def rdOrd : RdQ → Ordq
  | .relaxed => .rlx | .rel => .rel | .sc => .sc

/-- A vector load (R162): an ordered one takes an entry of the strand store queue (R210). -/
def State.vload (s : State) (i : Instr) (m : Bool) (n : Nat) (sgn : Bool) (t a : VReg) (b : BitVec 5) (q : LdQ) :
    Host.Outcome State Fault Refusal :=
  s.vecMem i m (.load n sgn t.toNat) (ldOrd q) (q == .acq || q == .sc) a b (s.vdest t.toNat (max 1 (n / 4))) (fun _ => 0)

/-- The data of n bytes that a lane stores. -/
def State.vdata (s : State) (t : VReg) (n l : Nat) : BitVec 128 :=
  (s.cw.vreg (t.toNat + 3) l ++ s.cw.vreg (t.toNat + 2) l ++ s.cw.vreg (t.toNat + 1) l ++ s.cw.vreg t.toNat l) &&&
    BitVec.ofNat 128 (2 ^ (8 * n) - 1)

/-- A vector store (R165). -/
def State.vstore (s : State) (i : Instr) (m : Bool) (n : Nat) (t a : VReg) (b : BitVec 5) (q : StQ) :
    Host.Outcome State Fault Refusal :=
  s.vecMem i m (.store n) (stOrd q) true a b (s.cw.vranges t.toNat (max 1 (n / 4))) (s.vdata t n)

/-- VLD.b32 (R162). -/
def execVldB32 (m : Bool) (t a : VReg) (b : BitVec 5) (q : LdQ) (s : State) : Host.Outcome State Fault Refusal :=
  s.vload (.vldB32 m t a b q) m 4 false t a b q

/-- VLD.b64 (R162). -/
def execVldB64 (m : Bool) (t a : VReg) (b : BitVec 5) (q : LdQ) (s : State) : Host.Outcome State Fault Refusal :=
  s.vload (.vldB64 m t a b q) m 8 false t a b q

/-- VLD.b128 (R162). -/
def execVldB128 (m : Bool) (t a : VReg) (b : BitVec 5) (q : LdQ) (s : State) : Host.Outcome State Fault Refusal :=
  s.vload (.vldB128 m t a b q) m 16 false t a b q

/-- VLD.s8 (R162). -/
def execVldS8 (m : Bool) (t a : VReg) (b : BitVec 5) (q : LdQ) (s : State) : Host.Outcome State Fault Refusal :=
  s.vload (.vldS8 m t a b q) m 1 true t a b q

/-- VLD.n8 (R162). -/
def execVldN8 (m : Bool) (t a : VReg) (b : BitVec 5) (q : LdQ) (s : State) : Host.Outcome State Fault Refusal :=
  s.vload (.vldN8 m t a b q) m 1 false t a b q

/-- VLD.s16 (R162). -/
def execVldS16 (m : Bool) (t a : VReg) (b : BitVec 5) (q : LdQ) (s : State) : Host.Outcome State Fault Refusal :=
  s.vload (.vldS16 m t a b q) m 2 true t a b q

/-- VLD.n16 (R162). -/
def execVldN16 (m : Bool) (t a : VReg) (b : BitVec 5) (q : LdQ) (s : State) : Host.Outcome State Fault Refusal :=
  s.vload (.vldN16 m t a b q) m 2 false t a b q

/-- VST.b32 (R165). -/
def execVstB32 (m : Bool) (t a : VReg) (b : BitVec 5) (q : StQ) (s : State) : Host.Outcome State Fault Refusal :=
  s.vstore (.vstB32 m t a b q) m 4 t a b q

/-- VST.b64 (R165). -/
def execVstB64 (m : Bool) (t a : VReg) (b : BitVec 5) (q : StQ) (s : State) : Host.Outcome State Fault Refusal :=
  s.vstore (.vstB64 m t a b q) m 8 t a b q

/-- VST.b128 (R165). -/
def execVstB128 (m : Bool) (t a : VReg) (b : BitVec 5) (q : StQ) (s : State) : Host.Outcome State Fault Refusal :=
  s.vstore (.vstB128 m t a b q) m 16 t a b q

/-- VST.b8 (R165). -/
def execVstB8 (m : Bool) (t a : VReg) (b : BitVec 5) (q : StQ) (s : State) : Host.Outcome State Fault Refusal :=
  s.vstore (.vstB8 m t a b q) m 1 t a b q

/-- VST.b16 (R165). -/
def execVstB16 (m : Bool) (t a : VReg) (b : BitVec 5) (q : StQ) (s : State) : Host.Outcome State Fault Refusal :=
  s.vstore (.vstB16 m t a b q) m 2 t a b q

/-- VPREF (R166): no register, no order, no fault of its accesses. -/
def execVpref (m l2 : Bool) (a : VReg) (b : BitVec 5) (s : State) : Host.Outcome State Fault Refusal :=
  s.vecMem (.vpref m l2 a b) m (.pref l2) .rlx false a b [] (fun _ => 0)

/-- FGET (R167). -/
def execFget (m : Bool) (t a : VReg) (b : BitVec 5) (acq : Bool) (s : State) : Host.Outcome State Fault Refusal :=
  s.vecMem (.fget m t a b acq) m (.fget t.toNat) (if acq then .acq else .rlx) acq a b (s.vdest t.toNat 1) (fun _ => 0)

/-- FPUT (R168). -/
def execFput (m : Bool) (t a : VReg) (b : BitVec 5) (rel : Bool) (s : State) : Host.Outcome State Fault Refusal :=
  s.vecMem (.fput m t a b rel) m .fput (if rel then .rel else .rlx) true a b [s.cw.vrange t.toNat] (s.vdata t 4)

/-- The registers that an atomic's operand occupies: a pair for add.i64 and cas (R169). -/
def atomRegs : AtomOp → Nat
  | .addI64 | .casB32 => 2
  | _ => 1

/-- The data operand of an atomic: cas takes its expected value from vt+1 (R169). -/
def State.atomData (s : State) (op : AtomOp) (t : VReg) (l : Nat) : BitVec 128 := s.vdata t (atomSize op) l

/-- VATOM (R169): the old value returns to vt. -/
def execVatom (m : Bool) (op : AtomOp) (t a : VReg) (b : BitVec 5) (q : AtQ) (s : State) : Host.Outcome State Fault Refusal :=
  s.vecMem (.vatom m op t a b q) m (.atom op (some t.toNat)) (atOrd q) true a b
    (s.cw.vranges t.toNat (atomRegs op) ++ s.cs.pubVs t.toNat (atomSize op / 4)) (s.atomData op t)
    (fun l => s.cw.vreg (t.toNat + 1) l)

/-- VRED (R169): the same update, and nothing returns. -/
def execVred (m : Bool) (op : AtomOp) (t a : VReg) (b : BitVec 5) (q : RdQ) (s : State) : Host.Outcome State Fault Refusal :=
  s.vecMem (.vred m op t a b q) m (.atom op none) (rdOrd q) true a b (s.cw.vranges t.toNat (atomRegs op)) (s.atomData op t)

end Sys2Proof.Machine
end

