-- ==== Sys2Proof/Machine/Scalar.lean ====
section
/-! DEFINITION. Class 4: scalar arithmetic, mask triples, scalar memory and the special registers (R108 to R116). -/

namespace Sys2Proof.Machine

/-! ## Scalar arithmetic (R110, R111) -/

/-- The result words of a scalar destination pair: zr discards it whole (R14, R111). -/
def pairOut (d : SReg) (x : DWord) : List (Nat × Word) :=
  if d = 63 then [] else [(d.toNat, x.setWidth 32), (d.toNat + 1, (x >>> 32).setWidth 32)]

/-- An op of one word: s[sd] := f s[sa] b (R110). -/
def State.scal (s : State) (i : Instr) (m : Bool) (d a : SReg) (b : SOp) (f : Word → Word → Word) :
    Host.Outcome State Fault Refusal :=
  s.run i m (s.sdest d.toNat 1) (a.toNat :: sopRegs b) []
    (s.result i { strand := 0, sca := scalarOut d (f (s.cw.sreg s.cur.2.2 a.toNat) (s.sop b)).toNat })

/-- An op of one word on s[sa] alone (R111). -/
def State.scalUn (s : State) (i : Instr) (m : Bool) (d a : SReg) (f : Word → Nat) : Host.Outcome State Fault Refusal :=
  s.run i m (s.sdest d.toNat 1) [a.toNat] []
    (s.result i { strand := 0, sca := scalarOut d (f (s.cw.sreg s.cur.2.2 a.toNat)) })

/-- A compare gives 1 or 0. -/
def ofBit (b : Bool) : Word := if b then 1 else 0

/-- An op whose result is a pair, from the pair s[sa] and an operand of either width (R111). -/
def State.scal64 (s : State) (i : Instr) (m : Bool) (d : SReg) (reads : List Nat) (x : DWord) : Host.Outcome State Fault Refusal :=
  s.run i m (s.sdest d.toNat 2) reads [] (s.result i { strand := 0, sca := pairOut d x })

/-- SADD (R110). -/
def execSadd (m : Bool) (d a : SReg) (b : SOp) (s : State) : Host.Outcome State Fault Refusal :=
  s.scal (.sadd m d a b) m d a b (fun x y => x + y)

/-- SSUB (R110). -/
def execSsub (m : Bool) (d a : SReg) (b : SOp) (s : State) : Host.Outcome State Fault Refusal :=
  s.scal (.ssub m d a b) m d a b (fun x y => x - y)

/-- SMUL (R110). -/
def execSmul (m : Bool) (d a : SReg) (b : SOp) (s : State) : Host.Outcome State Fault Refusal :=
  s.scal (.smul m d a b) m d a b (fun x y => x * y)

/-- SMULHS (R110). -/
def execSmulhs (m : Bool) (d a : SReg) (b : SOp) (s : State) : Host.Outcome State Fault Refusal :=
  s.scal (.smulhs m d a b) m d a b (fun x y => ((x.signExtend 64 * y.signExtend 64 : DWord) >>> 32).setWidth 32)

/-- SMULHN (R110). -/
def execSmulhn (m : Bool) (d a : SReg) (b : SOp) (s : State) : Host.Outcome State Fault Refusal :=
  s.scal (.smulhn m d a b) m d a b (fun x y => ((x.setWidth 64 * y.setWidth 64 : DWord) >>> 32).setWidth 32)

/-- SAND (R110). -/
def execSand (m : Bool) (d a : SReg) (b : SOp) (s : State) : Host.Outcome State Fault Refusal :=
  s.scal (.sand m d a b) m d a b (fun x y => x &&& y)

/-- SOR (R110). -/
def execSor (m : Bool) (d a : SReg) (b : SOp) (s : State) : Host.Outcome State Fault Refusal :=
  s.scal (.sor m d a b) m d a b (fun x y => x ||| y)

/-- SXOR (R110). -/
def execSxor (m : Bool) (d a : SReg) (b : SOp) (s : State) : Host.Outcome State Fault Refusal :=
  s.scal (.sxor m d a b) m d a b (fun x y => x ^^^ y)

/-- SANDN (R110). -/
def execSandn (m : Bool) (d a : SReg) (b : SOp) (s : State) : Host.Outcome State Fault Refusal :=
  s.scal (.sandn m d a b) m d a b (fun x y => x &&& ~~~y)

/-- SSHL (R110). -/
def execSshl (m : Bool) (d a : SReg) (b : SOp) (s : State) : Host.Outcome State Fault Refusal :=
  s.scal (.sshl m d a b) m d a b (fun x y => BitVec.ofNat 32 (shlBits 32 x.toNat y.toNat))

/-- SSHR (R110). -/
def execSshr (m : Bool) (d a : SReg) (b : SOp) (s : State) : Host.Outcome State Fault Refusal :=
  s.scal (.sshr m d a b) m d a b (fun x y => BitVec.ofNat 32 (shrBits 32 x.toNat y.toNat))

/-- SSRA (R110). -/
def execSsra (m : Bool) (d a : SReg) (b : SOp) (s : State) : Host.Outcome State Fault Refusal :=
  s.scal (.ssra m d a b) m d a b (fun x y => BitVec.ofNat 32 (sraBits 32 x.toNat y.toNat))

/-- SMINS (R110). -/
def execSmins (m : Bool) (d a : SReg) (b : SOp) (s : State) : Host.Outcome State Fault Refusal :=
  s.scal (.smins m d a b) m d a b (fun x y => if x.toInt ≤ y.toInt then x else y)

/-- SMINN (R110). -/
def execSminn (m : Bool) (d a : SReg) (b : SOp) (s : State) : Host.Outcome State Fault Refusal :=
  s.scal (.sminn m d a b) m d a b (fun x y => if x.toNat ≤ y.toNat then x else y)

/-- SMAXS (R110). -/
def execSmaxs (m : Bool) (d a : SReg) (b : SOp) (s : State) : Host.Outcome State Fault Refusal :=
  s.scal (.smaxs m d a b) m d a b (fun x y => if x.toInt ≤ y.toInt then y else x)

/-- SMAXN (R110). -/
def execSmaxn (m : Bool) (d a : SReg) (b : SOp) (s : State) : Host.Outcome State Fault Refusal :=
  s.scal (.smaxn m d a b) m d a b (fun x y => if x.toNat ≤ y.toNat then y else x)

/-- SSLT (R110). -/
def execSslt (m : Bool) (d a : SReg) (b : SOp) (s : State) : Host.Outcome State Fault Refusal :=
  s.scal (.sslt m d a b) m d a b (fun x y => ofBit (x.toInt < y.toInt))

/-- SSLTN (R110). -/
def execSsltn (m : Bool) (d a : SReg) (b : SOp) (s : State) : Host.Outcome State Fault Refusal :=
  s.scal (.ssltn m d a b) m d a b (fun x y => ofBit (x.toNat < y.toNat))

/-- SSEQ (R110). -/
def execSseq (m : Bool) (d a : SReg) (b : SOp) (s : State) : Host.Outcome State Fault Refusal :=
  s.scal (.sseq m d a b) m d a b (fun x y => ofBit (x == y))

/-- SSNE (R110). -/
def execSsne (m : Bool) (d a : SReg) (b : SOp) (s : State) : Host.Outcome State Fault Refusal :=
  s.scal (.ssne m d a b) m d a b (fun x y => ofBit (x != y))

/-- SSLE (R110). -/
def execSsle (m : Bool) (d a : SReg) (b : SOp) (s : State) : Host.Outcome State Fault Refusal :=
  s.scal (.ssle m d a b) m d a b (fun x y => ofBit (x.toInt ≤ y.toInt))

/-- SSLEN (R110). -/
def execSslen (m : Bool) (d a : SReg) (b : SOp) (s : State) : Host.Outcome State Fault Refusal :=
  s.scal (.sslen m d a b) m d a b (fun x y => ofBit (x.toNat ≤ y.toNat))

/-- SMOV (R110). -/
def execSmov (m : Bool) (d : SReg) (b : SOp) (s : State) : Host.Outcome State Fault Refusal :=
  s.run (.smov m d b) m (s.sdest d.toNat 1) (sopRegs b) [] (s.result (.smov m d b) { strand := 0, sca := scalarOut d (s.sop b).toNat })

/-- SCMOV (R110): when s[sa] is 0, sd is no destination. -/
def execScmov (m : Bool) (d a : SReg) (b : SOp) (s : State) : Host.Outcome State Fault Refusal :=
  let taken := s.cw.sreg s.cur.2.2 a.toNat != 0
  s.run (.scmov m d a b) m [] (a.toNat :: sopRegs b) (if taken then s.sdest d.toNat 1 else [])
    (if taken then s.result (.scmov m d a b) { strand := 0, sca := scalarOut d (s.sop b).toNat } else id)

/-- SADD64 (R111). -/
def execSadd64 (m : Bool) (d a : SReg) (b : SOp) (s : State) : Host.Outcome State Fault Refusal :=
  s.scal64 (.sadd64 m d a b) m d (pairRegs a.toNat ++ sopRegs64 b) (s.cw.spair s.cur.2.2 a.toNat + s.sop64 b)

/-- SSUB64 (R111). -/
def execSsub64 (m : Bool) (d a : SReg) (b : SOp) (s : State) : Host.Outcome State Fault Refusal :=
  s.scal64 (.ssub64 m d a b) m d (pairRegs a.toNat ++ sopRegs64 b) (s.cw.spair s.cur.2.2 a.toNat - s.sop64 b)

/-- SSHL64 (R111): the amount is one unsigned word. -/
def execSshl64 (m : Bool) (d a : SReg) (b : SOp) (s : State) : Host.Outcome State Fault Refusal :=
  s.scal64 (.sshl64 m d a b) m d (pairRegs a.toNat ++ sopRegs b)
    (BitVec.ofNat 64 (shlBits 64 (s.cw.spair s.cur.2.2 a.toNat).toNat (s.sop b).toNat))

/-- SSHR64 (R111). -/
def execSshr64 (m : Bool) (d a : SReg) (b : SOp) (s : State) : Host.Outcome State Fault Refusal :=
  s.scal64 (.sshr64 m d a b) m d (pairRegs a.toNat ++ sopRegs b)
    (BitVec.ofNat 64 (shrBits 64 (s.cw.spair s.cur.2.2 a.toNat).toNat (s.sop b).toNat))

/-- SPOPC (R111). -/
def execSpopc (m : Bool) (d a : SReg) (s : State) : Host.Outcome State Fault Refusal :=
  s.scalUn (.spopc m d a) m d a fun x => popCount x.toNat 32

/-- SCLZ (R111). -/
def execSclz (m : Bool) (d a : SReg) (s : State) : Host.Outcome State Fault Refusal :=
  s.scalUn (.sclz m d a) m d a fun x => 32 - bitLen x.toNat

/-- SBFEN (R111): a field past bit 31 reads zeros. -/
def execSbfen (m : Bool) (d a : SReg) (b : SOp) (s : State) : Host.Outcome State Fault Refusal :=
  s.scal (.sbfen m d a b) m d a b
    (fun x y => BitVec.ofNat 32 (x.toNat / 2 ^ (y.toNat % 32) % 2 ^ (y.toNat / 256 % 32)))

/-- SMULW (R111). -/
def execSmulw (m : Bool) (d a : SReg) (b : SOp) (s : State) : Host.Outcome State Fault Refusal :=
  s.scal64 (.smulw m d a b) m d (a.toNat :: sopRegs b)
    ((s.cw.sreg s.cur.2.2 a.toNat).setWidth 64 * (s.sop b).setWidth 64)

/-! ## Mask triples (R112) -/

/-- The words of a triple as a result: one write (R112). -/
def tripleOut (d : KReg) (x : Lanes) : List (Nat × Word) :=
  [(3 * d.toNat, maskWord x 0), (3 * d.toNat + 1, maskWord x 1), (3 * d.toNat + 2, maskWord x 2)]

/-- A triple written with a value. -/
def State.kop (s : State) (i : Instr) (m : Bool) (d : KReg) (reads : List Nat) (x : Lanes) : Host.Outcome State Fault Refusal :=
  s.run i m (s.kdest d.toNat) reads [] (s.result i { strand := 0, sca := tripleOut d x })

/-- A triple as the issuing strand reads it (R6, R15). -/
def State.kval (s : State) (k : KReg) : Lanes := s.cw.ktriple s.cur.2.2 k.toNat

/-- KAND (R112). -/
def execKand (m : Bool) (d a b : KReg) (s : State) : Host.Outcome State Fault Refusal :=
  s.kop (.kand m d a b) m d (kregs a.toNat ++ kregs b.toNat) (s.kval a &&& s.kval b)

/-- KOR (R112). -/
def execKor (m : Bool) (d a b : KReg) (s : State) : Host.Outcome State Fault Refusal :=
  s.kop (.kor m d a b) m d (kregs a.toNat ++ kregs b.toNat) (s.kval a ||| s.kval b)

/-- KXOR (R112). -/
def execKxor (m : Bool) (d a b : KReg) (s : State) : Host.Outcome State Fault Refusal :=
  s.kop (.kxor m d a b) m d (kregs a.toNat ++ kregs b.toNat) (s.kval a ^^^ s.kval b)

/-- KANDN (R112). -/
def execKandn (m : Bool) (d a b : KReg) (s : State) : Host.Outcome State Fault Refusal :=
  s.kop (.kandn m d a b) m d (kregs a.toNat ++ kregs b.toNat) (s.kval a &&& ~~~(s.kval b))

/-- KMOV (R112): a triple, all zeros, or all ones. -/
def execKmov (m : Bool) (d : KReg) (b : SOp) (s : State) : Host.Outcome State Fault Refusal :=
  match b with
  | .reg r => s.kop (.kmov m d (.reg r)) m d (kregs r.toNat) (s.cw.ktriple s.cur.2.2 r.toNat)
  | .imm v => s.kop (.kmov m d (.imm v)) m d [] (if v = 0 then 0 else BitVec.allOnes 96)

/-- KPOPC (R112). -/
def execKpopc (m : Bool) (d : SReg) (a : KReg) (s : State) : Host.Outcome State Fault Refusal :=
  s.run (.kpopc m d a) m (s.sdest d.toNat 1) (kregs a.toNat) []
    (s.result (.kpopc m d a) { strand := 0, sca := scalarOut d (lanesOf (s.kval a)).length })

/-- KFFS (R112). -/
def execKffs (m : Bool) (d : SReg) (a : KReg) (s : State) : Host.Outcome State Fault Refusal :=
  s.run (.kffs m d a) m (s.sdest d.toNat 1) (kregs a.toNat) []
    (s.result (.kffs m d a) { strand := 0, sca := scalarOut d ((lanesOf (s.kval a)).headD 0xFFFFFFFF) })

/-- KLANE (R112): the lanes from s[sa] up to b. -/
def execKlane (m : Bool) (d : KReg) (a : SReg) (b : SOp) (s : State) : Host.Outcome State Fault Refusal :=
  let lo := (s.cw.sreg s.cur.2.2 a.toNat).toNat
  let hi := (s.sop b).toNat
  s.kop (.klane m d a b) m d (a.toNat :: sopRegs b) (maskOf ((List.range 96).filter fun l => lo ≤ l && l < hi))

/-! ## Scalar memory (R113 to R115) -/

/-- A scalar access: one operation of the strand, in the order of every lane of its membership (R115). -/
def State.scaMem (s : State) (i : Instr) (m : Bool) (kind : MemKind) (ssq : Bool) (addr : DWord) (static : List (Option Raise))
    (reads : List Nat) (data : BitVec 128) (cmp : Word) : Host.Outcome State Fault Refusal :=
  let op : MemOp := { kind := kind, accs := [⟨0, addr, data, cmp⟩] }
  s.runQ i m static reads (s.addrFaults op) (s.entryOf i (.mem op) s.cs.memb ssq)

/-- A scalar load (R113). -/
def State.sload (s : State) (i : Instr) (m : Bool) (n : Nat) (d a : SReg) (b : SOp) : Host.Outcome State Fault Refusal :=
  s.scaMem i m (.sload n d.toNat) false (s.saddr a b n) (s.sdest d.toNat (n / 4)) (pairRegs a.toNat ++ sopRegs b) 0 0

/-- SLD.b32 (R113). -/
def execSldB32 (m : Bool) (d a : SReg) (b : SOp) (s : State) : Host.Outcome State Fault Refusal :=
  s.sload (.sldB32 m d a b) m 4 d a b

/-- SLD.b64 (R113). -/
def execSldB64 (m : Bool) (d a : SReg) (b : SOp) (s : State) : Host.Outcome State Fault Refusal :=
  s.sload (.sldB64 m d a b) m 8 d a b

/-- SLD.b128 (R113). -/
def execSldB128 (m : Bool) (d a : SReg) (b : SOp) (s : State) : Host.Outcome State Fault Refusal :=
  s.sload (.sldB128 m d a b) m 16 d a b

/-- SST.b32 (R113). -/
def execSstB32 (m : Bool) (d a : SReg) (b : SOp) (s : State) : Host.Outcome State Fault Refusal :=
  s.scaMem (.sstB32 m d a b) m (.sstore 4) true (s.saddr a b 4) [] (d.toNat :: pairRegs a.toNat ++ sopRegs b)
    ((s.cw.sreg s.cur.2.2 d.toNat).setWidth 128) 0

/-- SST.b64 (R113). -/
def execSstB64 (m : Bool) (d a : SReg) (b : SOp) (s : State) : Host.Outcome State Fault Refusal :=
  s.scaMem (.sstB64 m d a b) m (.sstore 8) true (s.saddr a b 8) [] (pairRegs d.toNat ++ pairRegs a.toNat ++ sopRegs b)
    ((s.cw.spair s.cur.2.2 d.toNat).setWidth 128) 0

/-- A scalar atomic (R114). -/
def State.satom (s : State) (i : Instr) (m : Bool) (op : AtomOp) (d a b : SReg) (reads : List Nat) (expected : Word) : Host.Outcome State Fault Refusal :=
  s.scaMem i m (.satom op d.toNat) true (s.cw.spair s.cur.2.2 a.toNat) (s.sdest d.toNat 1)
    (reads ++ pairRegs a.toNat ++ [b.toNat]) ((s.cw.sreg s.cur.2.2 b.toNat).setWidth 128) expected

/-- SATOM.add (R114). -/
def execSatomAdd (m : Bool) (d a b : SReg) (s : State) : Host.Outcome State Fault Refusal :=
  s.satom (.satomAdd m d a b) m .addI32 d a b [] 0

/-- SATOM.cas (R114): sd holds the expected value, 0 for zr. -/
def execSatomCas (m : Bool) (d a b : SReg) (s : State) : Host.Outcome State Fault Refusal :=
  s.satom (.satomCas m d a b) m .casB32 d a b [d.toNat] (s.cw.sreg s.cur.2.2 d.toNat)

/-- SATOM.exch (R114). -/
def execSatomExch (m : Bool) (d a b : SReg) (s : State) : Host.Outcome State Fault Refusal :=
  s.satom (.satomExch m d a b) m .exchB32 d a b [] 0

/-! ## Special registers (R18, R21, R116) -/

/-- The value of a special register to the issuing strand (R18 to R21). -/
def State.special (s : State) (x : Nat) : Word :=
  let w := s.cw
  let lo (v : DWord) : Word := v.setWidth 32
  let hi (v : DWord) : Word := (v >>> 32).setWidth 32
  match x with
  | 0 => BitVec.ofNat 32 s.cur.2.1
  | 1 => w.blockX
  | 2 => w.blockY
  | 3 => w.blockZ
  | 4 => BitVec.ofNat 32 w.waveInBlk
  | 5 => w.nblocks
  | 6 => BitVec.ofNat 32 (w.shownSlot s.cur.2.2)
  | 7 => BitVec.ofNat 32 w.role
  | 8 => w.fmode.setWidth 32
  | 9 => w.fstat.setWidth 32
  | 10 => w.mstat.setWidth 32
  | 11 => BitVec.ofNat 32 w.vbudget
  | 12 => BitVec.ofNat 32 s.cur.1
  | 13 => BitVec.ofNat 32 (s.cur.1 / 40)
  | 14 => BitVec.ofNat 32 w.part
  | 15 => BitVec.ofNat 32 w.duetRole
  | 16 => BitVec.ofNat 32 w.tcause
  | 17 => lo w.tval
  | 18 => hi w.tval
  | 19 => lo w.tpc
  | 20 => hi w.tpc
  | 21 => BitVec.ofNat 32 w.tskid
  | 22 => maskWord w.tlane 0
  | 23 => maskWord w.tlane 1
  | 24 => maskWord w.tlane 2
  | 25 => BitVec.ofNat 32 w.tstrand
  | 26 => BitVec.ofNat 32 (s.cycle w.part)
  | 27 => w.cycHi
  | 28 => w.barphase
  | _ => w.taskHeap

/-- Use of a trap-mode register by another strand raises PRIV (R18). -/
def State.trapOnly (s : State) (i : Instr) (x : Nat) : List (Option Raise) :=
  if 16 ≤ x && x ≤ 25 && !s.cs.trap then [some ⟨.priv, (encode i).setWidth 64⟩] else []

/-- SGET (R116): index 26 latches the high word of CYCLE (R21). -/
def execSget (m : Bool) (d : SReg) (x : BitVec 9) (s : State) : Host.Outcome State Fault Refusal :=
  let i : Instr := .sget m d x
  s.run i m (s.trapOnly i x.toNat ++ s.sdest d.toNat 1) [] [] fun t =>
    let t := s.result i { strand := 0, sca := scalarOut d (s.special x.toNat).toNat } t
    if x = 26 then t.updCw fun w => { w with cycHi := BitVec.ofNat 32 (s.cycle w.part / 2 ^ 32) } else t

/-- What an SSET writes (R19, R20, R116): a sticky bit that an event has set in the same cycle stays set. -/
def Wave.special (w : Wave) (cycle x : Nat) (v : Word) : Wave :=
  match x with
  | 8 => { w with fmode := fmodeOf v }
  | 9 => { w with fstat := clearSticky w.fstat v ||| (if w.setAt = cycle then w.setF else 0) }
  | 10 => { w with mstat := clearSticky w.mstat v ||| (if w.setAt = cycle then w.setM else 0) }
  | 19 => { w with tpc := w.tpc &&& 0xFFFFFFFF00000000 ||| v.setWidth 64, tpcWritten := true }
  | 20 => { w with tpc := w.tpc &&& 0xFFFFFFFF ||| v.setWidth 64 <<< 32, tpcWritten := true }
  | _ => w

/-- SSET (R116): it acts on every instruction that issues after it. -/
def execSset (m : Bool) (a : SReg) (x : BitVec 9) (s : State) : Host.Outcome State Fault Refusal :=
  let i : Instr := .sset m a x
  let v := s.cw.sreg s.cur.2.2 a.toNat
  s.run i m (s.trapOnly i x.toNat) [a.toNat] [] fun t => t.updCw fun w => w.special (s.cycle w.part) x.toNat v

end Sys2Proof.Machine
end

