-- ==== Sys2Proof/Machine/Strands.lean ====
section
/-! DEFINITION. Strands: SPLIT, ENDS, EXIT, PUB, JOIN, JOINS, JOINM (R118 to R125, R133, R208), and the wake of a parked strand
(R209). -/

namespace Sys2Proof.Machine

/-! ## Outstanding results and noted errors -/

/-- Every result of the strand's issued instructions is written (R200, R209, R219). -/
def State.resultsDone (s : State) (core slot n : Nat) : Bool :=
  let w := s.wave core slot
  !(w.outs.any fun r => r.strand = n) && !(w.queue.any fun q => q.strand = n && q.op.hasResult) && !w.heapOut.contains n &&
  !s.ringWaits core slot n

/-- The error that a reporting point records (R299): the lowest code, the lowest of the values that its instructions noted and every lane
that noted it. -/
def worstNote (l : List Note) : Option Note :=
  (minBy (fun x => x.cause.code) l).map fun x =>
    let same := l.filter fun y => y.cause = x.cause
    { x with
      val := ((minBy (fun y => y.val.toNat) same).map fun y => y.val).getD x.val
      lanes := same.foldl (fun m y => m ||| y.lanes) 0 }

/-- A reporting point of a strand (R164, R190, R200, R299): the errors reach the trap logic, and none stays noted. -/
def State.report (s : State) (core slot n : Nat) (l : List Note) (tpc : DWord) : State :=
  match worstNote l with
  | none => s
  | some x =>
    let seq := ((s.wave core slot).strand n).issued
    s.latch core slot { cause := x.cause, val := x.val, strand := n, tpc := tpc, mask := x.lanes, word := x.word, seq := seq, noted := true }

/-- The errors that a strand has noted are reported at its park marker, its ENDS or its EXIT. -/
def State.reportNoted (s : State) (core slot n : Nat) (extra : List Note) (tpc : DWord) : State :=
  let l := ((s.wave core slot).strand n).noted ++ extra
  (s.updStrand core slot n fun st => { st with noted := [] }).report core slot n l tpc

/-! ## SPLIT (R118 to R120, R208) -/

/-- The free slots of a wave in a cycle (R8): a strand that ends in the cycle frees its slot from the next one on (R208). -/
def Wave.freeSlots (w : Wave) (cycle : Nat) : List Nat :=
  (List.range 8).filter fun n => !(w.strand n).live && (w.strand n).endedAt != some cycle

/-- A SPLIT of a strand runs concurrently (R118). -/
def Wave.splitsConcurrently (w : Wave) (n : Nat) (t f : Lanes) (cycle : Nat) : Bool :=
  let st := w.strand n
  st.stack.isEmpty && !st.trap && (if t != 0 && f != 0 then 2 else 1) ≤ (w.freeSlots cycle).length

/-- A continuation's arm record names another slot in place of one (R118). -/
def Strand.renameArm (st : Strand) (n c : Nat) : Strand :=
  if st.armT.live && !st.armT.ended && st.armT.slot = n then { st with armT := { st.armT with slot := c } }
  else if st.armF.live && !st.armF.ended && st.armF.slot = n then { st with armF := { st.armF with slot := c } }
  else st

/-- Strands and queue entries that an age precedes are preceded by more ages (R119). -/
def Wave.addAges (w : Wave) (x : Word) (new : List Word) : Wave :=
  { w with
    strands := w.strands.map fun p =>
      (p.1, if p.2.before.contains x then { p.2 with before := p.2.before ++ new } else p.2)
    queue := w.queue.map fun q => if q.before.contains x then { q with before := q.before ++ new } else q }

/-- What a strand that a SPLIT with no lane in either arm frees has under way (R118), of which the spec says nothing (log entry 66): it goes
on under the continuation's slot, its writes to AM have no register left, and a park marker of the SPLIT parks no strand. -/
def Wave.handOver (w : Wave) (n c : Nat) : Wave :=
  { w with
    outs := w.outs.map fun r =>
      if r.strand = n then { r with strand := c, sca := r.sca.filter fun p => p.1 < 60 || p.1 = 63,
                                    bits := r.bits.filter fun b => b.1 != 20 } else r
    queue := w.queue.map fun q => if q.strand = n then { q with strand := c } else q
    shadow := w.shadow.map fun x => if x.1 = n then (c, x.2) else x
    heapOut := w.heapOut.map fun k => if k = n then c else k }

/-- The concurrent SPLIT by the strand of slot n (R118, R208). -/
def Wave.splitConcurrent (w : Wave) (n : Nat) (t f : Lanes) (pcT pcA pcC : DWord) (cycle : Nat) : Wave :=
  let x := w.strand n
  let c := (w.freeSlots cycle).headD 0
  let a := ((w.freeSlots cycle).drop 1).headD 0
  let both := t != 0 && f != 0
  let armed := t != 0 || f != 0
  let ageC := w.created + 1
  let ageA := w.created + 2
  let new : List Word := if both then [ageC, ageA] else [ageC]
  let w := { w with created := if both then ageA else ageC }
  let w := match x.parent with
    | some p => w.updStrand p fun st => st.renameArm n c
    | none => w
  let w := w.addAges x.age new
  let arm (lanes : Lanes) (slot : Nat) : Arm := { slot := if lanes = 0 then 0 else slot, live := lanes != 0, lanes := lanes }
  let cont : Strand :=
    { state := .ready, kind := .cont, pc := pcC, memb := x.memb, am := x.am, parent := x.parent,
      armT := arm t (if both then a else n), armF := arm f n, pubV := x.pubV, pubS := x.pubS, age := ageC,
      before := x.before ++ (if armed then [x.age] else []) ++ (if both then [ageA] else []),
      old := if armed then x.old else (x.age, w.nextId) :: x.old, issued := x.issued, readyAt := cycle }
  let w := w.setStrand c cont
  let child (kind : SlotKind) (lanes : Lanes) (pc : DWord) (age : Word) : Strand :=
    { state := .ready, kind := kind, pc := pc, memb := lanes, am := lanes, parent := some c, pubV := x.pubV, pubS := x.pubS,
      age := age, before := x.before, old := (x.age, w.nextId) :: x.old, readyAt := cycle }
  let w := if both then w.setStrand a (child .armT t pcT ageA) else w
  if armed then
    let lanes := if f != 0 then f else t
    w.setStrand n
      { x with kind := (if f != 0 then .armF else .armT), memb := lanes, am := lanes, parent := some c,
               armT := {}, armF := {}, pc := (if f != 0 then pcA else pcT) }
  else
    (((w.handOver n c).updStrand c fun st => { st with noted := x.noted }).setStrand n {})

/-- The serial SPLIT (R120). -/
def Strand.splitSerial (st : Strand) (t f : Lanes) (pcT pcA pcC : DWord) : Strand :=
  let c : SerEntry := ⟨.cPending, pcC, st.am⟩
  if t != 0 then { st with stack := ⟨.fPending, pcA, f⟩ :: c :: st.stack, am := t, pc := pcT }
  else { st with stack := ⟨.fRunning, pcA, f⟩ :: c :: st.stack, am := f, pc := pcA }

/-- SPLIT (R118 to R120). -/
def execSplit (m : Bool) (k : KReg) (offA offC : BitVec 9) (s : State) : Host.Outcome State Fault Refusal :=
  let i : Instr := .split m k offA offC
  let n := s.cur.2.2
  let st := s.cs
  let t := st.am &&& s.kval k
  let f := st.am &&& ~~~(s.kval k)
  let cyc := s.cycle s.cw.part
  let conc := s.cw.splitsConcurrently n t f cyc
  let (oa, oc) := s.splitOffsets offA offC
  let (pcT, pcA, pcC) := (st.pc + 4, st.pc + oa <<< 2, st.pc + oc <<< 2)
  s.run i m [] (kregs k.toNat)
    (if !conc && 14 < st.stack.length then [some ⟨.stranddepth, (encode i).setWidth 64⟩] else []) fun u =>
      if conc then
        let slots := s.cw.freeSlots cyc
        let new := slots.headD 0 + (if t != 0 && f != 0 then 16 * (slots.drop 1).headD 0 else 0)
        ((s.setsAm u).updCw fun w => w.splitConcurrent n t f pcT pcA pcC cyc).traceRec s.cur.1 s.cur.2.1 4 n (BitVec.ofNat 32 new) st.pc
      else (s.setsAm u).updCs fun st => st.splitSerial t f pcT pcA pcC

/-! ## The end of a strand (R121, R133) -/

/-- A record of an arm is settled: the arm has ended or was never created (R118, R121). -/
def Arm.done (a : Arm) : Bool := !a.live || a.ended

/-- The ended bit of the arm that a slot holds (R8). -/
def Strand.armEnded (st : Strand) (n : Nat) : Strand :=
  if st.armT.live && !st.armT.ended && st.armT.slot = n then { st with armT := { st.armT with ended := true } }
  else if st.armF.live && !st.armF.ended && st.armF.slot = n then { st with armF := { st.armF with ended := true } }
  else st

/-- The strand ends (R8, R121): its slot keeps the address of the word that ended it (R305), and what it alone has held is released from the next
cycle on (R213). -/
def State.endStrand (s : State) (core slot n : Nat) : State :=
  let st := (s.wave core slot).strand n
  s.updWave core slot fun w =>
    let w := w.updStrand n fun st =>
      { st with state := .ended, endedAt := some (s.cycle w.part), pc := st.pc - 4, park := .none, parkI := none, parkArg := 0, parkM := false, stack := [] }
    (match st.parent with
     | some p => w.updStrand p fun c => c.armEnded n
     | none => w).stamp (s.cycle w.part + 1)

/-- The strand is the last live one of its wave. -/
def Wave.lastStrand (w : Wave) (n : Nat) : Bool := w.liveSlots.all (· = n) && (n = 8 || !(w.strand 8).live)

/-- Every matrix operation that the wave accepted has completed (R185); the last strand also waits for those not yet accepted. -/
def State.matrixDone (s : State) (core slot n : Nat) : Bool :=
  let w := s.wave core slot
  !((s.block w.blk).mq.any fun e => e.core = core && e.slot = slot && !e.isJoin) &&
  !(w.lastStrand n && w.queue.any fun q => match q.op with | .matrix _ => true | _ => false)

/-- What an ENDS or an EXIT still waits for before its strand ends (R121, R185, R200): `isExit` for EXIT. -/
def State.endReady (s : State) (core slot n : Nat) (isExit : Bool) : Bool :=
  s.resultsDone core slot n && (!(isExit || (s.wave core slot).lastStrand n) || s.matrixDone core slot n)

/-- A concurrent ENDS, or an EXIT, whose arms have ended (R121, R133): it waits for the strand's results, reports the errors noted, and
ends the strand. -/
def State.tryEnd (s : State) (core slot n : Nat) (i : Instr) (isExit : Bool) : State :=
  let w := s.wave core slot
  let st := w.strand n
  if !s.endReady core slot n isExit then
    s.updStrand core slot n fun st => { st with state := .parked, park := .marker, parkI := some i }
  else
    let extra := if w.lastStrand n then w.matNotes.map (·.2) else []
    if (st.noted ++ extra).isEmpty then s.endStrand core slot n
    else
      let s := s.updWave core slot fun w =>
        let w := if extra.isEmpty then w else { w with matNotes := [] }
        w.updStrand n fun st => { st.wake (s.cycle w.part) with pc := st.pc - 4 }
      s.reportNoted core slot n extra (st.pc - 4)

/-- The serial stack at a serial ENDS (R121): the strand as it goes on, or none when it ends. -/
def Strand.endsSerial (st : Strand) : List SerEntry → Option Strand
  | [] => none
  | e :: t =>
    match e.state with
    | .fPending => some { st with am := e.lanes &&& st.memb, pc := e.pc, stack := { e with state := .fRunning } :: t }
    | .fRunning =>
      match t with
      | c :: t => some { st with am := c.lanes &&& st.memb, pc := c.pc, stack := { c with state := .cRunning, lanes := e.lanes } :: t }
      | [] => none
    | .cPending => none
    | .cRunning => st.endsSerial t

/-! ## Publications (R122 to R124) -/

/-- The vector registers of a PUB as a mask. -/
def pubMaskV (v : VReg) (n : BitVec 5) : BitVec 128 := BitVec.ofNat 128 ((2 ^ n.toNat - 1) * 2 ^ v.toNat)

/-- The scalar registers of a PUB as a mask. -/
def pubMaskS (r : SReg) (n : BitVec 4) : BitVec 64 := BitVec.ofNat 64 ((2 ^ n.toNat - 1) * 2 ^ r.toNat)

/-- The registers that a strand has yet to write, numbered likewise, with those whose token is pending (R122). -/
def State.unwritten (s : State) (core slot n : Nat) : List Nat :=
  let w := s.wave core slot
  (w.outs.filter fun r => r.strand = n).flatMap Result.dests ++ s.pendingDests core slot n ((w.strand n).issued + 1) ++
  w.tokens.map (200 + ·)

/-- An arm's holder has published registers, or has ended, or was never created (R8, R122 to R124). -/
def Wave.armHas (w : Wave) (a : Arm) (v : BitVec 128) (r : BitVec 64) : Bool :=
  a.done || ((w.strand a.slot).pubV &&& v = v && (w.strand a.slot).pubS &&& r = r)

/-- A PUB can set its bits (R122). -/
def State.pubReady (s : State) (core slot n : Nat) (v : BitVec 128) (r : BitVec 64) : Bool :=
  let w := s.wave core slot
  let st := w.strand n
  !((s.unwritten core slot n).any fun k => if k < 200 then v.getLsbD k else r.getLsbD (k - 200)) &&
  (st.kind != .cont || (w.armHas st.armT v r && w.armHas st.armF v r))

/-- A JOIN has every value it collects (R123). -/
def Wave.joinReady (w : Wave) (n : Nat) (a b : VReg) : Bool :=
  let st := w.strand n
  (st.am &&& st.armT.lanes = 0 || w.armHas st.armT (1#128 <<< a.toNat) 0) &&
  (st.am &&& st.armF.lanes = 0 || w.armHas st.armF (1#128 <<< b.toNat) 0)

/-- The vector writes of a JOIN (R123): each lane takes the register of its arm; in a serial continuation, of the arm whose lanes the
entry holds. -/
def Wave.joinOut (w : Wave) (n : Nat) (d a b : VReg) : List (Nat × Word) :=
  let st := w.strand n
  (lanesOf st.am).filterMap fun l =>
    match st.stack with
    | e :: _ => some (vkey d.toNat l, w.vreg (if e.lanes.getLsbD l then b.toNat else a.toNat) l)
    | [] =>
      if st.armT.lanes.getLsbD l then some (vkey d.toNat l, w.vreg a.toNat l)
      else if st.armF.lanes.getLsbD l then some (vkey d.toNat l, w.vreg b.toNat l)
      else none

/-- JOINCTX (R124). -/
def Strand.joinCtx (st : Strand) : Bool :=
  match st.stack with
  | [] => st.kind != .cont
  | e :: _ => e.state != .cRunning

/-- Every strand that precedes a strand in a lane of its membership has ended, and its memory operations are performed (R125). -/
def Wave.predecessorsDone (w : Wave) (n : Nat) : Bool :=
  let st := w.strand n
  !((List.range 8).any fun k =>
    let o := w.strand k
    o.live && st.before.contains o.age && o.memb &&& st.memb != 0) &&
  !(w.queue.any fun q => st.before.contains q.age && q.memb &&& st.memb != 0)

/-! ## Registers of a quarter (R131, R132) -/

/-- Registers of a quarter that no resident block holds (R132). -/
def State.freeRegs (s : State) (core q : Nat) : Nat :=
  1024 - (s.blocks.map fun p => if p.2.core = core then SMap.get 0 p.2.claimed q else 0).foldl (· + ·) 0

/-- n registers can be had by a wave's block on its quarter (R132). -/
def State.regsReady (s : State) (core slot n : Nat) : Bool :=
  let b := s.block (s.wave core slot).blk
  n ≤ SMap.get 0 b.pool (quarterOf slot) + s.freeRegs core (quarterOf slot)

/-- Vector registers from r on read 0, whatever result was still to come: of one that an operation in the queue has yet to bring nothing lands there
either. -/
def Wave.clearFrom (w : Wave) (r : Nat) : Wave :=
  { w with
    v := w.v.filter fun p => p.1 < 96 * r
    outs := w.outs.map fun o => { o with vec := o.vec.filter fun p => p.1 < 96 * r }
    shadow := w.shadow ++ w.queue.flatMap fun q => (q.op.dests.filter fun k => r ≤ k && k < 200).flatMap fun k =>
      (List.range 96).map fun l => (q.strand, q.seq + 1, vkey k l) }

/-- Registers given up go into the block's pool on the quarter, and their contents are lost (R131, R132). -/
def State.giveRegs (s : State) (core slot n : Nat) : State :=
  let w := s.wave core slot
  let q := quarterOf slot
  (s.updWave core slot fun w => { w with vbudget := w.vbudget - n }.clearFrom (w.vbudget - n)).updBlock w.blk fun b =>
    { b with pool := SMap.set 0 b.pool q (SMap.get 0 b.pool q + n) }

/-- Registers claimed come from the pool first, then from the free set (R132); the new registers read 0. -/
def State.takeRegs (s : State) (core slot n : Nat) : State :=
  let w := s.wave core slot
  let q := quarterOf slot
  (s.updWave core slot fun w => { w.clearFrom w.vbudget with vbudget := w.vbudget + n }).updBlock w.blk fun b =>
    let p := SMap.get 0 b.pool q
    { b with
      pool := SMap.set 0 b.pool q (p - min p n)
      claimed := SMap.set 0 b.claimed q (SMap.get 0 b.claimed q + (n - min p n)) }

/-! ## The wake of a parked strand (R209) -/

/-- The engine queues that a word names, 5 for mq (R172). -/
def queuesOf (i : Instr) : List Nat :=
  match i with
  | .acopy _ _ _ _ q => [q.toNat]
  | .gath .. | .scat .. => [4]
  | .mma .. | .mmasp .. | .mzacc .. | .mstacc .. | .mldacc .. => [5]
  | .coll .. => [6]
  | .qfence _ mask => qfenceQueues mask
  | _ => []

/-- A word takes its entry's lanes from EXM: class 3 and the task-heap words; any other takes the membership (R210). -/
def lanesFromExm (i : Instr) : Bool :=
  match i with
  | .tenq .. | .tgaina .. | .tgainm .. | .tgains .. | .tdone .. | .tjset .. => true
  | _ => classOf i = 3

/-- The word at the PC of a strand that waits for space has it (R172, R212). -/
def State.spaceFor (s : State) (core slot n : Nat) (i : Instr) : Bool :=
  let s := { s with cur := (core, slot, n) }
  let q := s.entryOf i (.fence .wv) (if lanesFromExm i then s.exm else s.cs.memb) true
  !s.cw.ssqFull q && (queuesOf i).all (s.block s.cw.blk).room

/-- The phase that a barrier wait is for has passed (R126). -/
def State.phasePassed (s : State) (blk id : Nat) (ap : Word) : Bool :=
  0 < ((s.barrier blk id).seen (s.cycle (s.block blk).part) - ap).toInt

/-- An FGET of the strand whose cells have all been found full (R167). -/
def Wave.fgetEntry (w : Wave) (n : Nat) : Option QEntry := w.queue.find? fun q => q.strand = n && q.isFget

/-- The condition that a parked strand waits on is met (R209). -/
def State.parkMet (s : State) (core slot n : Nat) : Bool :=
  let w := s.wave core slot
  let st := w.strand n
  match st.park, st.parkI with
  | .marker, none => s.resultsDone core slot n
  | .marker, some (.exit _) => s.endReady core slot n true
  | .marker, some _ => s.endReady core slot n false
  | .publication, some (.pub _ v vc r sc) => s.pubReady core slot n (pubMaskV v vc) (pubMaskS r sc)
  | .publication, some (.join _ _ a b) => w.joinReady n a b
  | .publication, some (.joins _ _ a armF) =>
    w.armHas (if armF then st.armF else st.armT) 0 (1#64 <<< a.toNat) && !w.isPending a.toNat
  | .arms, _ => st.kind != .cont || (st.armT.done && st.armF.done)
  | .predecessors, _ => w.predecessorsDone n
  | .token, some (.twait _ r) => !w.isPending r.toNat
  | .token, _ => !w.isPending st.parkArg.toNat
  | .batch, _ => 0 ≤ ((s.block w.blk).batchDone - st.parkArg).toInt
  | .barrier, some (.barW _ id) =>
    !(w.queue.any fun q => q.strand = n && q.arrives) && s.phasePassed w.blk id.toNat st.parkArg
  | .barrier, some (.barwp _ id _) => s.phasePassed w.blk id.toNat st.parkArg
  | .ring, _ => !s.ringWaits core slot n
  | .future, _ => match w.fgetEntry n with
    | some q => q.fgetDone
    | none => true
  | .pool, some (.vclaim _ k) => 128 < w.vbudget + 8 * k.toNat || s.regsReady core slot (8 * k.toNat)
  | .queue, some i => s.spaceFor core slot n i
  | .interrupt, _ => s.dev.irqs.contains core
  | _, _ => false

/-- The errors of matrix operations that an MWAIT reports: those of the batches it covers (R190). -/
def Wave.coveredNotes (w : Wave) (b : Word) : List Note := (w.matNotes.filter fun p => (p.1 - b).toInt ≤ 0).map (·.2)

/-- What a word does when the condition it parked on is met. -/
def State.completeWord (s : State) (core slot n : Nat) (i : Instr) : State :=
  let w := s.wave core slot
  let st := w.strand n
  let out (vec sca : List (Nat × Word)) : State :=
    s.updWave core slot fun w =>
      w.addOut { strand := n, vec := vec, sca := sca, word := encode i, after := st.pc, am := st.am, seq := st.issued }
  match i with
  | .pub _ v vc r sc =>
    s.updStrand core slot n fun st => { st with pubV := st.pubV ||| pubMaskV v vc, pubS := st.pubS ||| pubMaskS r sc }
  | .join _ d a b => out (w.joinOut n d a b) []
  | .joins _ d a _ => out [] (scalarOut d (w.sreg n a.toNat).toNat)
  | .twait _ _ => s.acquire core w.blk .blk
  | .mwait _ _ =>
    (s.acquire core w.blk .blk).updWave core slot fun w =>
      { w.updStrand n (fun st => { st with noted := st.noted ++ w.coveredNotes st.parkArg }) with
        matNotes := w.matNotes.filter fun p => 0 < (p.1 - st.parkArg).toInt }
  | .barW _ id => s.acquire core w.blk (barScope id.toNat)
  | .barwp _ id _ => s.acquire core w.blk (barScope id.toNat)
  | .fget .. =>
    match w.fgetEntry n with
    | some q => s.runEntry core slot q
    | none => s
  | .vclaim _ k => s.takeRegs core slot (8 * k.toNat)
  | .waiti _ => { s with dev := { s.dev with irqs := s.dev.irqs.filter (· != core) } }
  | _ => s

/-- A word that raises a cause where it waited stands at its own address again, and has no effect. -/
def State.waitFault (s : State) (core slot n : Nat) (i : Instr) (r : Raise) : State :=
  let st := (s.wave core slot).strand n
  (s.updStrand core slot n fun st => { st.wake (s.cycle (s.wave core slot).part) with pc := st.pc - 4 }).latch core slot
    ⟨r.cause, r.val, n, st.pc - 4, st.am, encode i, st.issued, false⟩

/-- A JOINS whose destination has become a pending token while it waited raises TOKENWRITE where it stands, and writes nothing (R108). -/
def State.joinsFault (s : State) (core slot n : Nat) (i : Instr) (d : SReg) : State :=
  s.waitFault core slot n i ⟨.tokenwrite, BitVec.ofNat 64 d.toNat⟩

/-- A strand whose own condition is met becomes ready, or parks again on the park marker of the same word (R209); at the marker its noted
errors are reported, and at an MWAIT those of the batches that it covers (R190). -/
def State.afterWord (s : State) (core slot n : Nat) (mwait : List Note) (wasMarker : Bool) : State :=
  let w := s.wave core slot
  let st := w.strand n
  if st.parkM && !s.resultsDone core slot n then
    s.updStrand core slot n fun st => { st with park := .marker, parkI := none, parkArg := 0, parkM := false }
  else
    let s := s.updStrand core slot n fun st => st.wake (s.cycle w.part)
    if st.parkM || wasMarker then s.reportNoted core slot n [] st.pc
    else if mwait.isEmpty then s
    else
      (s.updStrand core slot n fun st => { st with noted := st.noted.filter fun x => !mwait.contains x }).report core slot n mwait st.pc

/-- A strand may become ready: it is parked, its condition is met, and neither a halt nor a stop nor a fault of its wave keeps it (R209, R214); one
that has begun a prefix completes it. -/
def State.canWake (s : State) (core slot n : Nat) : Bool :=
  let w := s.wave core slot
  let b := s.block w.blk
  (w.strand n).state == .parked && (!w.halted || n = 8) && !b.stopped && !b.dead &&
  (w.latched.isNone || (w.strand n).pfx.isSome) &&
  s.parkMet core slot n

/-- The wake of a parked strand (R209). -/
def State.wakeStrand (s : State) (core slot n : Nat) : State :=
  let w := s.wave core slot
  let st := w.strand n
  if !s.canWake core slot n then s
  else if st.retries then s.updStrand core slot n fun st => st.wake (s.cycle w.part)
  else match st.parkI with
    | none => s.afterWord core slot n [] true
    | some (.ends m) => s.tryEnd core slot n (.ends m) false
    | some (.exit m) => s.tryEnd core slot n (.exit m) true
    | some (.mwait m r) =>
      (s.completeWord core slot n (.mwait m r)).afterWord core slot n (w.coveredNotes st.parkArg) false
    | some (.joins m d a f) =>
      if d != 63 && w.isPending d.toNat then s.joinsFault core slot n (.joins m d a f) d
      else (s.completeWord core slot n (.joins m d a f)).afterWord core slot n [] false
    | some (.join m d a b) =>
      -- the budget has fallen meanwhile: a register lies beyond it now (R11)
      match lowest (w.vranges d.toNat 1 ++ [w.vrange a.toNat, w.vrange b.toNat]) with
      | some r => s.waitFault core slot n (.join m d a b) r
      | none => (s.completeWord core slot n (.join m d a b)).afterWord core slot n [] false
    | some (.vclaim m k) =>
      -- a handler has raised the budget meanwhile: the claim exceeds 128 now (R131)
      if 128 < w.vbudget + 8 * k.toNat then s.waitFault core slot n (.vclaim m k) ⟨.vregrange, BitVec.ofNat 64 (8 * k.toNat)⟩
      else (s.completeWord core slot n (.vclaim m k)).afterWord core slot n [] false
    | some i => (s.completeWord core slot n i).afterWord core slot n [] false

/-- The issuing strand waits on its word's own condition (R209), or does not when it is met already. -/
def State.parkUntil (s : State) (p : Park) (i : Instr) (arg : Word := 0) : State :=
  (s.parkOn p i arg).wakeStrand s.cur.1 s.cur.2.1 s.cur.2.2

/-- STRAND_WAKE (R209). -/
def execStrandWake (core slot strand : Nat) (s : State) : Host.Outcome State Fault Refusal :=
  .next (if slot < 64 then (s.wakeStrand core slot strand).settle core slot else s)

/-! ## The words -/

/-- The record of a strand end, emitted when its ENDS or EXIT issues, as its cycle says and as the order of the ring asks (R349, R350).  A word whose
strand has noted errors is still to report them, and issues again (log entry 89). -/
def State.endRec (s0 s : State) : State :=
  if s0.cs.noted.isEmpty then s.traceRec s0.cur.1 s0.cur.2.1 5 s0.cur.2.2 0 s0.cs.pc else s

/-- ENDS (R121). -/
def execEnds (m : Bool) (s : State) : Host.Outcome State Fault Refusal :=
  s.run (.ends m) m [] [] [] fun t =>
    if s.cs.stack.isEmpty then (s.endRec t).parkUntil .arms (.ends m)
    else match s.cs.endsSerial s.cs.stack with
      | some u => (s.setsAm t).updCs fun st => { st with am := u.am, pc := u.pc, stack := u.stack }
      | none => ((s.endRec t).updCs fun st => { st with stack := [] }).parkUntil .arms (.ends m)

/-- EXIT (R133). -/
def execExit (m : Bool) (s : State) : Host.Outcome State Fault Refusal :=
  let i : Instr := .exit m
  s.run i m (if s.cs.trap then [some ⟨.priv, (encode i).setWidth 64⟩] else []) [] [] fun t =>
    ((s.endRec t).updCs fun st => { st with stack := [] }).parkUntil .arms i

/-- PUB (R122): nothing in serial execution.  A PUB of a root or of an arm that waits for its own earlier writes parks on the publication
condition, which the table of R209 gives for a PUB in a continuation alone (log entry 72). -/
def execPub (m : Bool) (v : VReg) (vcnt : BitVec 5) (r : SReg) (scnt : BitVec 4) (s : State) : Host.Outcome State Fault Refusal :=
  let i : Instr := .pub m v vcnt r scnt
  s.run i m (s.cw.vranges v.toNat vcnt.toNat) [] [] fun t =>
    if s.cs.stack.isEmpty then t.parkUntil .publication i else t

/-- JOIN (R123, R124). -/
def execJoin (m : Bool) (d a b : VReg) (s : State) : Host.Outcome State Fault Refusal :=
  let i : Instr := .join m d a b
  s.run i m
    ([if s.cs.joinCtx then some ⟨.joinctx, (encode i).setWidth 64⟩ else none] ++
      s.vdest d.toNat 1 ++ [s.cw.vrange a.toNat, s.cw.vrange b.toNat]) [] [] fun t =>
    if s.cs.stack.isEmpty then t.parkUntil .publication i
    else s.result i { strand := 0, vec := s.cw.joinOut s.cur.2.2 d a b } t

/-- JOINS (R124). -/
def execJoins (m : Bool) (d a : SReg) (armF : Bool) (s : State) : Host.Outcome State Fault Refusal :=
  let i : Instr := .joins m d a armF
  s.run i m ([if s.cs.joinCtx then some ⟨.joinctx, (encode i).setWidth 64⟩ else none] ++ s.sdest d.toNat 1) [a.toNat] [] fun t =>
    if s.cs.stack.isEmpty then t.parkUntil .publication i
    else s.result i { strand := 0, sca := scalarOut d (s.cw.sreg s.cur.2.2 a.toNat).toNat } t

/-- JOINM (R125). -/
def execJoinm (m : Bool) (s : State) : Host.Outcome State Fault Refusal :=
  s.run (.joinm m) m [] [] [] fun t => t.parkUntil .predecessors (.joinm m)

end Sys2Proof.Machine
end

