-- ==== Sys2Proof/Machine/Control.lean ====
section
/-! DEFINITION. Class 5, control: branches, barriers, fences, waits, roles and register budgets, TRAP, TRET, NOP (R117, R126 to R134). -/

namespace Sys2Proof.Machine

/-! ## Branches (R117) -/

/-- A branch: the strand goes on at the target when the test holds. -/
def State.branch (s : State) (i : Instr) (m : Bool) (reads : List Nat) (field : BitVec n) (taken : Bool) :
    Host.Outcome State Fault Refusal :=
  let pc := s.target field
  s.run i m [] reads [] fun t => if taken then t.updCs fun st => { st with pc := pc } else t

/-- BR (R117). -/
def execBr (m : Bool) (off : BitVec 23) (s : State) : Host.Outcome State Fault Refusal := s.branch (.br m off) m [] off true

/-- BRANY (R117). -/
def execBrany (m : Bool) (k : KReg) (off : BitVec 18) (s : State) : Host.Outcome State Fault Refusal :=
  s.branch (.brany m k off) m (kregs k.toNat) off (s.kval k &&& s.cs.am != 0)

/-- BRALL (R117). -/
def execBrall (m : Bool) (k : KReg) (off : BitVec 18) (s : State) : Host.Outcome State Fault Refusal :=
  s.branch (.brall m k off) m (kregs k.toNat) off (s.kval k &&& s.cs.am == s.cs.am)

/-- BRNONE (R117). -/
def execBrnone (m : Bool) (k : KReg) (off : BitVec 18) (s : State) : Host.Outcome State Fault Refusal :=
  s.branch (.brnone m k off) m (kregs k.toNat) off (s.kval k &&& s.cs.am == 0)

/-- BRNZ (R117). -/
def execBrnz (m : Bool) (r : SReg) (off : BitVec 17) (s : State) : Host.Outcome State Fault Refusal :=
  s.branch (.brnz m r off) m [r.toNat] off (s.cw.sreg s.cur.2.2 r.toNat != 0)

/-- BRZ (R117). -/
def execBrz (m : Bool) (r : SReg) (off : BitVec 17) (s : State) : Host.Outcome State Fault Refusal :=
  s.branch (.brz m r off) m [r.toNat] off (s.cw.sreg s.cur.2.2 r.toNat == 0)

/-- CALL (R117). -/
def execCall (m : Bool) (p : SReg) (off : BitVec 17) (s : State) : Host.Outcome State Fault Refusal :=
  let i : Instr := .call m p off
  let pc := s.target off
  s.run i m (s.sdest p.toNat 2) [] [] fun t =>
    (s.result i { strand := 0, sca := pairOut p (s.cs.pc + 4) } t).updCs fun st => { st with pc := pc }

/-- JMPR (R117): a target that cannot be fetched faults at its fetch. -/
def execJmpr (m : Bool) (p : SReg) (s : State) : Host.Outcome State Fault Refusal :=
  let pc := s.cw.spair s.cur.2.2 p.toNat
  s.run (.jmpr m p) m [] (pairRegs p.toNat) (if pc.toNat % 4 = 0 then [] else [some ⟨.align, pc⟩]) fun t =>
    t.updCs fun st => { st with pc := pc }

/-! ## Barriers (R33, R34, R126) -/

/-- The faults of a barrier word (R126): a barrier that the block does not have, another live strand. -/
def State.barFaults (s : State) (i : Instr) (id : Nat) : List (Option Raise) :=
  let w := (encode i).setWidth 64
  [if (s.block s.cw.blk).hasBarrier id then none else some ⟨.illegal, w⟩,
   if s.cs.trap || s.cw.liveSlots.any (· != s.cur.2.2) then some ⟨.barstrand, w⟩ else none]

/-- An arrival of the issuing wave (R33, R126): it joins the wave's queue, of which all that can be performed is performed in order.  The
arrival, a release for every access that the wave has issued, counts at once when none is left before it, else behind the last of them; an
access of its strand that faults takes the arrival with it, and one of another strand holds it back until TRET has let it be performed. -/
def State.arriveHere (s0 : State) (i : Instr) (id : Nat) (adj : Int) (d : Option Nat) (t : State) : State :=
  (t.pushQ s0.cur.1 s0.cur.2.1 (s0.entryOf i (.arrive id adj d) s0.cs.memb false)).drainQueue s0.cur.1 s0.cur.2.1

/-- BAR.w (R126). -/
def execBarW (m : Bool) (id : BitVec 5) (s : State) : Host.Outcome State Fault Refusal :=
  let i : Instr := .barW m id
  s.run i m (s.barFaults i id.toNat) [] [] fun t =>
    let t := s.arriveHere i id.toNat 0 none t
    t.parkUntil .barrier i t.cw.barphase

/-- BAR.a (R126). -/
def execBarA (m : Bool) (id : BitVec 5) (d : SReg) (s : State) : Host.Outcome State Fault Refusal :=
  let i : Instr := .barA m id d
  s.run i m (s.barFaults i id.toNat ++ s.sdest d.toNat 1) [] [] (s.arriveHere i id.toNat 0 (some d.toNat))

/-- BAR.d (R34, R126). -/
def execBarD (m : Bool) (id : BitVec 5) (s : State) : Host.Outcome State Fault Refusal :=
  let i : Instr := .barD m id
  s.run i m (s.barFaults i id.toNat) [] [] (s.arriveHere i id.toNat (-1) none)

/-- BAR.j (R34, R126). -/
def execBarJ (m : Bool) (id : BitVec 5) (s : State) : Host.Outcome State Fault Refusal :=
  let i : Instr := .barJ m id
  s.run i m (s.barFaults i id.toNat) [] [] (s.arriveHere i id.toNat 1 none)

/-- BARWP (R126): it waits and arrives nothing. -/
def execBarwp (m : Bool) (id : BitVec 5) (r : SReg) (s : State) : Host.Outcome State Fault Refusal :=
  let i : Instr := .barwp m id r
  let ap := s.cw.sreg s.cur.2.2 r.toNat
  s.run i m (s.barFaults i id.toNat) [r.toNat] [] fun t => t.parkUntil .barrier i ap

/-! ## Fences and waits (R127 to R129) -/

/-- FENCE (R127, R210). -/
def execFence (m : Bool) (scope : Scope) (s : State) : Host.Outcome State Fault Refusal :=
  let i : Instr := .fence m scope
  s.runQ i m [] [] [] (s.entryOf i (.fence scope) s.cs.memb true)

/-- QFENCE (R128, R210). -/
def execQfence (m : Bool) (mask : BitVec 8) (s : State) : Host.Outcome State Fault Refusal :=
  let i : Instr := .qfence m mask
  s.runQ i m [] [] [] (s.entryOf i (.qfence mask) s.cs.memb true)

/-- TWAIT (R17, R129). -/
def execTwait (m : Bool) (r : SReg) (s : State) : Host.Outcome State Fault Refusal :=
  let i : Instr := .twait m r
  s.run i m [] [] [] fun t => t.parkUntil .token i

/-- The batch that an MWAIT waits for (R129): an open batch is not waited for. -/
def Block.waitFor (b : Block) (x : Word) : Word := if 0 < (x - (b.batch - 1)).toInt then b.batch - 1 else x

/-- MWAIT (R129, R190). -/
def execMwait (m : Bool) (r : SReg) (s : State) : Host.Outcome State Fault Refusal :=
  let i : Instr := .mwait m r
  let x := (s.block s.cw.blk).waitFor (s.cw.sreg s.cur.2.2 r.toNat)
  s.run i m [] [r.toNat] [] fun t => t.parkUntil .batch i x

/-! ## Roles and register budgets (R130 to R132, R292) -/

/-- A pending role change can be applied: a higher budget has its registers (R292). -/
def State.roleReady (s : State) (core slot budget : Nat) : Bool :=
  let w := s.wave core slot
  budget ≤ w.vbudget || s.regsReady core slot (budget - w.vbudget)

/-- A role change applied (R130, R292). -/
def State.applyRole (s : State) (core slot role budget : Nat) : State :=
  let old := (s.wave core slot).vbudget
  let s := if budget < old then s.giveRegs core slot (old - budget) else s.takeRegs core slot (budget - old)
  s.updWave core slot fun w => { w with role := role, pendRole := none }

/-- The word that RPOLL writes (R130). -/
def Wave.rpollWord (w : Wave) (changed : Bool) : Word :=
  BitVec.ofNat 32 (16 * (w.vbudget / 8) + 2 * w.role + (if changed then 1 else 0))

/-- RPOLL (R130). -/
def execRpoll (m : Bool) (d : SReg) (s : State) : Host.Outcome State Fault Refusal :=
  let i : Instr := .rpoll m d
  s.run i m (s.sdest d.toNat 1) [] [] fun t =>
    let out (t : State) (c : Bool) := s.result i { strand := 0, sca := scalarOut d (t.cw.rpollWord c).toNat } t
    match s.cw.pendRole with
    | some (role, budget) =>
      if s.roleReady s.cur.1 s.cur.2.1 budget then out (t.applyRole s.cur.1 s.cur.2.1 role budget) true else out t false
    | none => out t false

/-- VGIVE (R131). -/
def execVgive (m : Bool) (n : BitVec 4) (s : State) : Host.Outcome State Fault Refusal :=
  let k := 8 * n.toNat
  s.run (.vgive m n) m (if s.cw.vbudget < k + 8 then [some ⟨.vregrange, BitVec.ofNat 64 k⟩] else []) [] [] fun t =>
    t.giveRegs s.cur.1 s.cur.2.1 k

/-- VCLAIM (R131). -/
def execVclaim (m : Bool) (n : BitVec 4) (s : State) : Host.Outcome State Fault Refusal :=
  let i : Instr := .vclaim m n
  let k := 8 * n.toNat
  s.run i m (if 128 < s.cw.vbudget + k then [some ⟨.vregrange, BitVec.ofNat 64 k⟩] else []) [] [] fun t => t.parkUntil .pool i

/-! ## TRAP, TRET, NOP (R134) -/

/-- A cause of the kind after, raised by the issuing word, which is complete (R299). -/
def State.raiseAfter (s0 : State) (i : Instr) (r : Raise) (t : State) : State :=
  t.latch s0.cur.1 s0.cur.2.1 ⟨r.cause, r.val, s0.cur.2.2, t.cs.pc, s0.cs.am, encode i, t.cs.issued, false⟩

/-- TRAP (R134). -/
def execTrap (m : Bool) (code : BitVec 8) (s : State) : Host.Outcome State Fault Refusal :=
  let i : Instr := .trap m code
  s.run i m [] [] [] (s.raiseAfter i ⟨.usertrap, code.setWidth 64⟩)

/-- TRET (R134, R308). -/
def execTret (m : Bool) (s : State) : Host.Outcome State Fault Refusal :=
  let i : Instr := .tret m
  s.run i m (if s.cs.trap then [] else [some ⟨.priv, (encode i).setWidth 64⟩]) [] [] fun t =>
    t.returnTrap s.cur.1 s.cur.2.1 (encode i)

/-- NOP (R134). -/
def execNop (m : Bool) (s : State) : Host.Outcome State Fault Refusal := s.run (.nop m) m [] [] [] id

end Sys2Proof.Machine
end

