-- ==== Sys2Proof/Machine/Hints.lean ====
section
/-! DEFINITION. The hint words that form a prefix (R30, R59 to R62), the words that are no instruction (R55) and the emulation space
(R76, R77). -/

namespace Sys2Proof.Machine

/-- A hint issued (R30, R218): the prefix with it; the replay mask waits for the instruction (R309). -/
def State.hint (s : State) (p : Pfx) : State :=
  s.updCs fun st => { st with pc := st.pc + 4, pfx := some p, issued := st.issued + 1, issuedAt := s.cycle s.cw.part }

/-- The prefix so far, or an empty one that begins at this word. -/
def Strand.pfxNow (st : Strand) : Pfx := st.pfx.getD { start := st.pc }

/-- The fault of a hint whose wide group in progress may not be followed by it (R30, R60): the hint that breaks the rule. -/
def Pfx.wideFault (p : Pfx) : Option Raise := p.wide.map fun x => ⟨.badop, x.2.setWidth 64⟩

/-- XMOD (R30, R62, R63): a second XMOD is no instruction that the first may modify, and none follows a wide group. -/
def execXmod (k : BitVec 5) (z : Bool) (rnd : BitVec 3) (v4 : VReg) (v4ok : Bool) (aux : BitVec 5) (s : State) :
    Host.Outcome State Fault Refusal :=
  let i : Instr := .xmod k z rnd v4 v4ok aux
  let p := s.cs.pfxNow
  .next <|
    match lowest [p.xmod.map fun x => ⟨.xmoduse, x.2.setWidth 64⟩, p.wideFault] with
    | some r => (s.raiseHere i r)
    | none => s.hint { p with xmod := some (⟨k, z, rnd, v4, v4ok, aux⟩, encode i) }

/-- A hint that begins a wide group (R30, R59): no group may stand before it. -/
def State.wideHint (s : State) (i : Instr) (w : Wide) : Host.Outcome State Fault Refusal :=
  let p := s.cs.pfxNow
  .next <|
    match p.wideFault with
    | some r => s.raiseHere i r
    | none => s.hint { p with wide := some (w, encode i) }

/-- LIMM (R59). -/
def execLimm (p : BitVec 22) (s : State) : Host.Outcome State Fault Refusal := s.wideHint (.limm p) (.limm p)

/-- LIMMF (R59). -/
def execLimmf (p : BitVec 22) (s : State) : Host.Outcome State Fault Refusal := s.wideHint (.limmf p) (.limmf p)

/-- LIMMH (R59, R60). -/
def execLimmh (h : BitVec 16) (s : State) : Host.Outcome State Fault Refusal := s.wideHint (.limmh h) (.high h)

/-- LIMML (R59, R60): it completes the LIMMH before it, and breaks the rule anywhere else.  The group keeps the LIMMH word as the hint that
TVAL names where its instruction does not read W: R61 says `the hint`, and not which of the two words (log entry 71). -/
def execLimml (h : BitVec 16) (s : State) : Host.Outcome State Fault Refusal :=
  let i : Instr := .limml h
  let p := s.cs.pfxNow
  .next <|
    match p.wide with
    | some (.high u, ww) => s.hint { p with wide := some (.full (u ++ h), ww) }
    | _ => s.raiseHere i ⟨.badop, (encode i).setWidth 64⟩

/-- A word that is no instruction (R55). -/
def execIllegalWord (w : Word) (s : State) : Host.Outcome State Fault Refusal :=
  .next (s.raiseHere (.illegalWord w) ⟨.illegal, w.setWidth 64⟩)

/-- VIDIV.s32, slot 48 of the emulation space: EMULATE before every other check (R76, R77). -/
def execVidivS32 (m : Bool) (d a : VReg) (b : Code) (s : State) : Host.Outcome State Fault Refusal :=
  let i : Instr := .vidivS32 m d a b
  .next (s.raiseHere i ⟨.emulate, (encode i).setWidth 64⟩)

/-- The other slots of the emulation space (R76). -/
def execEmulation (m : Bool) (op : BitVec 4) (x : BitVec 22) (s : State) : Host.Outcome State Fault Refusal :=
  let i : Instr := .emulation m op x
  .next (s.raiseHere i ⟨.emulate, (encode i).setWidth 64⟩)

end Sys2Proof.Machine
end

