-- ==== Sys2Proof/Machine/System.lean ====
section
/-! DEFINITION. Class 7, system words (R206), TLB invalidation (R227, R314), and the signed snapshot of a METSNAP (R344, R345). -/

namespace Sys2Proof.Machine

/-- A word outside its mode raises PRIV (R206). -/
def State.firmwareOnly (s : State) (i : Instr) : List (Option Raise) :=
  if s.cw.firmware then [] else [some ⟨.priv, (encode i).setWidth 64⟩]

/-- SCHED (R206, R216). -/
def execSched (m : Bool) (lvl : BitVec 3) (s : State) : Host.Outcome State Fault Refusal :=
  s.run (.sched m lvl) m [] [] [] fun t => t.updCs fun st => { st with sched := lvl }

/-- A word of system space: what was written, or a free value (log entry 4). -/
def State.sysWord (s : State) (a : Nat) : Word := (SMap.find? s.sysmem a).getD (Config.systemWord a)

/-- SYSLD (R206). -/
def execSysld (m : Bool) (d a : SReg) (s : State) : Host.Outcome State Fault Refusal :=
  let i : Instr := .sysld m d a
  s.run i m (s.firmwareOnly i ++ s.sdest d.toNat 1) (pairRegs a.toNat) []
    (s.result i { strand := 0, sca := scalarOut d (s.sysWord (s.cw.spair s.cur.2.2 a.toNat).toNat).toNat })

/-- SYSST (R206). -/
def execSysst (m : Bool) (d a : SReg) (s : State) : Host.Outcome State Fault Refusal :=
  let i : Instr := .sysst m d a
  let (a', v) := ((s.cw.spair s.cur.2.2 a.toNat).toNat, s.cw.sreg s.cur.2.2 d.toNat)
  s.run i m (s.firmwareOnly i) (d.toNat :: pairRegs a.toNat) [] fun t => { t with sysmem := SMap.put t.sysmem a' v }

/-! ## TLBINV -/

/-- A core belongs to the partition of a VI. -/
def State.coreOfVi (s : State) (vi core : Nat) : Bool := (s.vi vi).part == some (s.partOf core)

/-- An entry is named by a TLBINV: every page of the VI, or the page that covers an address. -/
def TlbEntry.named (e : TlbEntry) (vi : Nat) (all : Bool) (va : Nat) : Bool :=
  e.vi = vi && (all || (e.base ≤ va && va < e.base + 2 ^ e.size))

/-- A physical line lies in the page of an owner. -/
def Owner.holds (o : Owner) (line : Nat) : Bool := o.pa ≤ line * 128 && line * 128 < o.pa + 2 ^ o.size

/-- The lines of a P page that its owner holds in L1 go back to memory (R227). -/
def State.flushPage (s : State) (o : Owner) : State :=
  ((s.core o.core).l1.filterMap fun p => if o.holds p.1 && (p.2.st = .pClean || p.2.st = .pDirty) then some p.1 else none).foldl
    (fun s l => s.flushL1 o.core l) s

/-- The valid lines that the windows of a block hold over an owner's P page: window, line number, physical line, state. -/
def State.pageWins (s : State) (o : Owner) (b : Block) : List (Nat × Nat × Nat × WinLine) :=
  b.wins.flatMap fun w => w.2.phys.filterMap fun p =>
    let st := SMap.get .invalid w.2.lines p.1
    let x := s.winPhys b.vi w.2 p.1
    if st.valid && x.2 = 0 && o.holds x.1 then some (w.1, p.1, x.1, st) else none

/-- The dirty lines of a block's windows over an owner's P page written back (R227). -/
def State.flushWins (s : State) (vi : Nat) (o : Owner) (b : Block) : State :=
  if b.vi != vi || b.core != o.core then s
  else ((s.pageWins o b).filter fun x => x.2.2.2 = .dirty).foldl (fun s x =>
    ((s.setHomeLine x.2.2.1 (b.stashLine ((SMap.get {} b.wins x.1 : StashWin).off + 128 * x.2.1))).l2Write b.part vi x.2.2.1 15).wakeFutures) s

/-- A block's windows without the lines over a page that its core owns no longer. -/
def State.losePage (s : State) (vi : Nat) (o : Owner) (b : Block) : Block :=
  if b.vi != vi || b.core != o.core then b
  else (s.pageWins o b).foldl (fun b x =>
    { b with wins := SMap.upd {} b.wins x.1 fun w => { w with lines := SMap.set .invalid w.lines x.2.1 .recalled } }) b

/-- The owner of a P page loses it (R227): its dirty lines are written back, those of its windows and of its saved contexts' windows among
them, and it keeps no copy, since a P page has copies in its owner alone. -/
def State.dropOwner (s : State) (vi page : Nat) (o : Owner) : State :=
  let saved (s : State) : SMap Block := ((s.vi vi).saved.map fun x => x.blocks).getD []
  let t := (s.blocks ++ saved s).foldl (fun t b => t.flushWins vi o b.2) s
  let lose (m : SMap Block) : SMap Block := m.map fun b => (b.1, s.losePage vi o b.2)
  let t : State := { t with blocks := lose t.blocks }
  let t := t.updVi vi fun v => { v with saved := v.saved.map fun x => { x with blocks := lose x.blocks } }
  (t.flushPage o).updVi vi fun v => { v with owners := SMap.erase v.owners page }

/-- The lines of a window whose pages lose their translations behave as the next mapping of their pages says (R226, R227).  The directory's entry
of a line over a C page stays, by its physical line, until that mapping comes. -/
def StashWin.forgetPages (w : StashWin) (gone : Nat → Bool) : StashWin :=
  let forget (p : Nat × Nat × Nat) : Nat × Nat × Nat :=
    if gone (w.base.toNat + 128 * p.1) then (p.1, if p.2.2 = 2 || p.2.2 = wasC then (p.2.1, wasC) else (0, 3)) else p
  { w with phys := w.phys.map forget }

/-- The same for every window of a block. -/
def Block.forgetPages (b : Block) (gone : Nat → Bool) : Block :=
  { b with wins := b.wins.map fun w => (w.1, w.2.forgetPages gone) }

/-- The translations of a VI that a TLBINV names are removed (R206, R314), and with them the owners of their P pages, whether or not a TLB
still holds an entry of the page (R227). -/
def State.tlbInvalidate (s : State) (vi : Nat) (all : Bool) (va : Nat) : State :=
  let s := ((s.vi vi).owners.filter fun p => all || (p.1 ≤ va && va < p.1 + 2 ^ p.2.size)).foldl (fun s p => s.dropOwner vi p.1 p.2) s
  let covers (l : List TlbEntry) (a : Nat) : Bool := l.any fun e => e.named vi false va && e.base ≤ a && a < e.base + 2 ^ e.size
  let gone (a : Nat) : Bool :=
    all || a / 65536 = va / 65536 || (s.cores.any fun c => covers c.2.tlb a) || s.ctlb.any fun c => covers c.2 a
  let forget (m : SMap Block) : SMap Block := m.map fun b => (b.1, if b.2.vi = vi then b.2.forgetPages gone else b.2)
  let s := s.updVi vi fun v => { v with saved := v.saved.map fun x => { x with blocks := forget x.blocks } }
  { s with
    blocks := forget s.blocks
    cores := s.cores.map fun p =>
      (p.1, if s.coreOfVi vi p.1 then { p.2 with tlb := p.2.tlb.filter fun e => !e.named vi all va } else p.2)
    ctlb := s.ctlb.map fun p =>
      (p.1, if p.1 = chipletOf 160 || s.coreOfVi vi (40 * p.1) || s.coreOfVi vi (40 * p.1 + 20) then p.2.filter fun e => !e.named vi all va else p.2) }

/-- TLBINV (R206): done when it issues, since no access of the model is between its translation and its performance. -/
def execTlbinv (m : Bool) (a : SReg) (s : State) : Host.Outcome State Fault Refusal :=
  let i : Instr := .tlbinv m a
  let x := (s.cw.spair s.cur.2.2 a.toNat).toNat
  let va := x / 65536 % 2 ^ 41 * 65536
  s.run i m (s.firmwareOnly i) (pairRegs a.toNat) [] fun t =>
    t.tlbInvalidate (x / 2 ^ 58) (x / 2 ^ 57 % 2 = 1) (if va / 2 ^ 56 = 1 then va + 0xFE00000000000000 else va)

/-- CNTRD (R206, R343). -/
def execCntrd (m : Bool) (d : SReg) (meter : BitVec 4) (s : State) : Host.Outcome State Fault Refusal :=
  let i : Instr := .cntrd m d meter
  s.run i m (s.sdest d.toNat 2) [] []
    (s.result i { strand := 0, sca := pairOut d (BitVec.ofNat 64 ((s.vi s.cw.vi).meterFor (waveKey s.cur.1 s.cur.2.1) meter.toNat)) })

/-- TRACE (R349). -/
def execTrace (m : Bool) (a : SReg) (s : State) : Host.Outcome State Fault Refusal :=
  s.run (.trace m a) m [] [a.toNat] [] fun t =>
    t.traceRec s.cur.1 s.cur.2.1 1 s.cur.2.2 (s.cw.sreg s.cur.2.2 a.toNat) s.cs.pc

/-- BRKPT (R206). -/
def execBrkpt (m : Bool) (s : State) : Host.Outcome State Fault Refusal :=
  let i : Instr := .brkpt m
  s.run i m [] [] [] (s.raiseAfter i ⟨.break_, 0⟩)

/-- WAITI (R206). -/
def execWaiti (m : Bool) (s : State) : Host.Outcome State Fault Refusal :=
  let i : Instr := .waiti m
  s.run i m (s.firmwareOnly i) [] [] fun t => t.parkUntil .interrupt i

/-- METSNAP (R206): the token register names the VI before the issue. -/
def execMetsnap (m : Bool) (t : SReg) (s : State) : Host.Outcome State Fault Refusal :=
  let i : Instr := .metsnap m t
  let vi := (s.cw.sreg s.cur.2.2 t.toNat).toNat
  s.run i m (s.firmwareOnly i ++ s.sdest t.toNat 1) [t.toNat] [] fun u => (s.token t.toNat u).updCw fun w =>
    { w with snaps := w.snaps ++ [⟨w.nextId, vi, t.toNat⟩], nextId := w.nextId + 1 }

/-! ## Snapshots (R344, R345) -/

/-- Bytes 0 to 231 of a snapshot record (R344). -/
def State.snapHead (s : State) (vi trigger : Nat) : List Byte :=
  let v := s.vi vi
  leBytes 1 1 ++ leBytes 1 1 ++ leBytes 2 vi ++ leBytes 4 v.assigns ++ leBytes 8 v.job.toNat ++ leBytes 8 (s.dev.seq + 1) ++
  leBytes 8 (s.dev.time / 3) ++ leBytes 4 s.dev.epoch.toNat ++ leBytes 2 v.sat.toNat ++ leBytes 2 trigger ++
  (List.range 16).flatMap (fun m => leBytes 8 (SMap.get 0 v.meters m)) ++
  (if v.job = 0 then leBytes 32 0 else beBytes 32 (sha256 (v.memb.take 704)).toNat) ++ beBytes 32 Config.identity.toNat

/-- A record followed by its signature by the alias key of the image that runs (R338), r then s, big-endian as SEC1 has them (R344). -/
def State.signed (s : State) (head : List Byte) : List Byte :=
  let g := (Config.signature s.dev.measure s.dev.version (sha256 head)).toNat
  head ++ beBytes 32 (g / 2 ^ 256) ++ beBytes 32 (g % 2 ^ 256)

/-- A snapshot of a VI written into its slot of its partition's buffer (R345): none when the buffer is unusable. -/
def State.snapshot (s : State) (part vi trigger : Nat) : Option State :=
  if !(s.part part).snapOk then none
  else
    let r := s.signed (s.snapHead vi trigger)
    let s := s.updPart part fun p => { p with snaps := SMap.put p.snaps vi r }
    some { s with dev := { s.dev with seq := s.dev.seq + 1 } }

end Sys2Proof.Machine
end

