-- ==== Sys2Proof/Machine/Engines.lean ====
section
/-! DEFINITION. The memory engines of class 6: ACOPY, GATH, SCAT, SMAP, SUNMAP, CDROP, CQRY, L2PIN, L2UNPIN, CINV, CWB (R172 to R184), and
their completions. -/

namespace Sys2Proof.Machine

/-! ## Ranges -/

/-- The part of a range that lies in stash form: none when it has no byte there (R157). -/
def stashPart (a n : Nat) : Option (Nat × Nat) :=
  let lo := max a stashBase
  let hi := min (a + n) (stashBase + 0x200000)
  if lo < hi then some (lo - stashBase, hi - stashBase) else none

/-- A range keeps to the block's stash and its peer's where it is in stash form (R174, R176). -/
def State.stashOk (s : State) (blk a n : Nat) : Bool :=
  match stashPart a n with
  | none => true
  | some (lo, hi) => (s.stashAt blk lo (hi - lo)).isSome

/-- The mapped windows of a block and its peer as stash offsets (R174, R177). -/
def State.windows (s : State) (blk : Nat) : List (Nat × Nat) :=
  let b := s.block blk
  b.wins.map (fun p => (p.2.off, p.2.len)) ++
  (match b.peer with
   | some p => (s.block p).wins.map fun w => (0x100000 + w.2.off, w.2.len)
   | none => [])

/-- A range overlaps a mapped stash window (R174, R176). -/
def State.meetsWindow (s : State) (blk a n : Nat) : Bool :=
  match stashPart a n with
  | none => false
  | some (lo, hi) => overlap [(lo, hi - lo)] (s.windows blk)

/-! ## Accesses of an engine entry -/

/-- An access of n bytes by an engine or the array, as the miss registers see it: a load, at the home for an engine, a store, or a far atomic. -/
def engLoad (n : Nat) (ord : Ordq) : MemOp := { kind := .load n false 0, accs := [], ord := ord }
@[inherit_doc engLoad] def engStore (n : Nat) : MemOp := { kind := .store n, accs := [] }
@[inherit_doc engLoad] def engFar (op : AtomOp) : MemOp := { kind := .atom op (some 0), accs := [], ord := .ar, scope := .sys }

/-- The miss registers that an access of an engine, of the tile fetch unit or of the array takes (R245). -/
def State.engRequest (s : State) (g : Agent) (x : Xlat) (op : MemOp) : State :=
  s.coreRequest g.core (popSectors (s.requestsOf g op x))

/-- A read of n bytes within one line by an engine (R174): stash, or global as its core.  An uncorrectable error in it raises MCHECK
(R243). -/
def State.engRead (s : State) (g : Agent) (va n : Nat) : Except Raise (Nat × State) :=
  match stashOff va with
  | some off =>
    match s.stashAt g.blk off n with
    | some (owner, o) =>
      if (s.block owner).bad.contains (o / 128) then .error ⟨.mcheck, BitVec.ofNat 64 va⟩
      else .ok (Memory.read (s.block owner).stash o n, s)
    | none => .error ⟨.stashrange, BitVec.ofNat 64 va⟩
  | none =>
    match s.translate g.core g.vi va .rd with
    | .error r => .error r
    | .ok (x, s) => if s.badFor g x n true then .error (x.fault va .mcheck) else .ok ((s.engRequest g x (engLoad n .acq)).readGlobal g x n true)

/-- A write of n bytes within one line by an engine. -/
def State.engWrite (s : State) (g : Agent) (va n v : Nat) : Except Raise State :=
  match stashOff va with
  | some off =>
    match s.stashAt g.blk off n with
    | some (owner, o) => .ok ((s.updBlock owner fun b => { b with stash := Memory.write b.stash o n v }).wakeFutures)
    | none => .error ⟨.stashrange, BitVec.ofNat 64 va⟩
  | none =>
    match s.translate g.core g.vi va .wr with
    | .error r => .error r
    | .ok (x, s) => .ok (((s.engRequest g x (engStore n)).writeGlobal g x n v).wakeFutures)

/-- The bytes left in a line from an address. -/
def toLineEnd (va : Nat) : Nat := 128 - va % 128

/-- n bytes that may cross lines, little-endian. -/
def State.engReads (s : State) (g : Agent) : Nat → Nat → Nat → Except Raise (Nat × State)
  | 0, _, _ => .ok (0, s)
  | fuel + 1, va, n =>
    if n = 0 then .ok (0, s)
    else
      let k := min n (toLineEnd va)
      match s.engRead g va k with
      | .error r => .error r
      | .ok (v, s) =>
        match s.engReads g fuel (va + k) (n - k) with
        | .error r => .error r
        | .ok (u, s) => .ok (v + 2 ^ (8 * k) * u, s)

/-! ## The end of an entry -/

/-- The agent of an entry. -/
def State.engAgent (s : State) (blk : Nat) (e : EngEntry) : Agent :=
  let b := s.block blk
  ⟨e.core, b.vi, b.part, blk, .normal⟩

/-- The head of a queue leaves, its token receives its status (R16, R172), and joins that are now ready complete (R128). -/
def State.endEntry (s : State) (blk q : Nat) (status : Nat) : State :=
  match SMap.get [] (s.block blk).queues q with
  | [] => s
  | e :: t =>
    let s := s.updBlock blk fun b => { b with queues := SMap.put b.queues q t }
    (s.updWave e.core e.slot fun w => w.completeToken e.token (BitVec.ofNat 32 status)).clearJoins blk 128

/-- An engine's work has met an uncorrectable error (R243): MCHECK reaches the wave that issued it, at the address of the word. -/
def State.engCheck (s : State) (core slot : Nat) (val pc : DWord) (opcode : Nat) : State :=
  let w := s.wave core slot
  let n := w.liveSlots.headD 0
  s.latch core slot ⟨.mcheck, val, n, pc, 0, BitVec.ofNat 32 (opcode * 2 ^ 22), (w.strand n).issued, false⟩

/-- MCHECK by an uncorrectable error, wherever the line's data stood, not by a lost device (R243, R335). -/
def State.eccRaise (s : State) (part : Nat) (r : Raise) : Bool :=
  r.cause = .mcheck && ((stashOff r.val.toNat).isSome || match s.dev.target r.val.toNat with
    | some (.remote n, _) => !s.lostTo part n
    | _ => true)

/-- The head of a queue stops on a fault (R173, R335): a record, then the status; on an uncorrectable error, MCHECK in its wave (R243).
`lost` says that a device was lost. -/
def State.failEntry (s : State) (blk q : Nat) (r : Raise) (lost : Bool := false) : State :=
  match SMap.get [] (s.block blk).queues q with
  | [] => s
  | e :: _ =>
    let st := statusOf r.cause
    let b := s.block blk
    -- the walk that ended in the fault (R235, R314)
    let s := if q = 6 then (if r.cause = .mcheck || (stashOff r.val.toNat).isSome then s else s.walkL2 b.part b.vi r.val.toNat)
      else s.walkedFor e.core b.vi r
    if !lost && s.eccRaise b.part r then (s.endEntry blk q st).engCheck e.core e.slot r.val e.pc e.opcode
    else (s.postBlockError blk
      { va := r.val, pc := e.pc, pix := e.pix, core := e.core, slot := e.slot, token := e.token, status := st, cause := r.cause.code,
        opcode := e.opcode, queue := q }).endEntry blk q st

/-- The head of a queue changed. -/
def State.updHead (s : State) (blk q : Nat) (f : EngEntry → EngEntry) : State :=
  s.updBlock blk fun b => { b with queues := SMap.upd [] b.queues q fun l =>
    match l with
    | e :: t => f e :: t
    | [] => [] }

/-- The progress index of the head of a queue. -/
def State.setPix (s : State) (blk q pix : Nat) : State := s.updHead blk q fun e => { e with pix := pix }

/-- The head of a queue may begin: the accesses that its issue released towards it are performed (R172). -/
def State.headOpen (s : State) (blk q : Nat) : Bool :=
  match SMap.get [] (s.block blk).queues q with
  | e :: _ => s.gateOpen e.core e.slot e.gate
  | [] => false

/-! ## ACOPY (R174, R175, R238) -/

/-- The operands of an ACOPY break a limit (R174, R175). -/
def State.acopyRange (s : State) (blk : Nat) (dst src len cnt : Nat) : Bool :=
  src % 4 != 0 || dst % 4 != 0 || len % 4 != 0 || overlap [(dst, len)] [(src, len)] ||
  !s.stashOk blk dst len || !s.stashOk blk src len || s.meetsWindow blk dst len || s.meetsWindow blk src len ||
  (cnt != 0 && (dst % 128 != 0 || len % 128 != 0))

/-- The destination lines of a counted fill that can be translated, from an offset on for n lines, and the first offset that cannot, with its fault
(R175).  A page that cannot is walked once. -/
def State.fillLines (s : State) (g : Agent) (dst : Nat) : Nat → Nat → List Nat × Option (Nat × Raise) × State
  | 0, _ => ([], none, s)
  | n + 1, off =>
    match s.translate g.core g.vi (dst + off) .wr with
    | .error r =>
      let s := if off = 0 || (dst + off) % 65536 = 0 then s.walkedFor g.core g.vi r else s
      let (l, _, s) := s.fillLines g dst n (off + 128)
      (l, some (off, r), s)
    | .ok (x, s) =>
      let (l, t, s) := s.fillLines g dst n (off + 128)
      (x.line :: l, t, s)

/-- A counted way in a line's set (R234, R238): none when the set's quota, at most 6, is used up (R296).  The way keeps what the line has in
it, its spent tag among it, until the fill writes it (R237). -/
def State.reserveLine (s : State) (part line : Nat) : Option State :=
  match s.l2KeyOf part line with
  | none => some s
  | some key =>
    let ws := SMap.get [] s.l2 key
    if min 6 (s.part part).quota ≤ (ws.filter fun w => w.counted).length then none
    else
      let old : Way := (ws.find? fun w => w.line = line).getD { line := line }
      let s := { s with l2 := SMap.put s.l2 key (ws.filter fun w => w.line != line) }
      some (s.insertWay key { old with counted := true })

/-- Reservations made, or the refusal of one of them. -/
def State.reserveAll (s : State) (part : Nat) : List Nat → Option State
  | [] => some s
  | l :: t => (s.reserveLine part l).bind fun s => s.reserveAll part t

/-- The stash lines of a destination hold a live count. -/
def State.stashLive (s : State) (blk a n : Nat) : Bool :=
  match stashPart a n with
  | none => false
  | some (lo, hi) =>
    match s.stashAt blk lo (hi - lo) with
    | none => false
    | some (owner, o) => (s.block owner).counts.any fun p =>
        (match p.2 with | .live _ => true | _ => false) && o / 128 ≤ p.1 && p.1 < (o + (hi - lo)) / 128

/-- Lines slice by slice (R238). -/
def State.bySlice (s : State) (part : Nat) (lines : List Nat) : List Nat :=
  (List.range (16 * (s.part part).size)).flatMap fun k =>
    lines.filter fun l => (s.l2KeyOf part l).any fun key => key / 1024 = 16 * part + k

/-- The start of a counted fill (R175, R238): a status that ends it, or the lines that it reserves ways for, with where it is to stop.  Every
destination line that has a translation is checked and takes its reservation, those beyond a page without one among them.  L2 holds lines of HBM
and of the capacity tier alone (R266). -/
def State.startFill (s : State) (g : Agent) (dst len : Nat) : Except Nat (List Nat × Option (Nat × Raise) × State) :=
  if (stashPart dst len).isSome then (if s.stashLive g.blk dst len then .error 4 else .ok ([], none, s))
  else
    let (lines, stop, s) := s.fillLines g dst (len / 128) 0
    if lines.any fun l => (SMap.find? s.counted l).isSome then .error 4
    else .ok (s.bySlice g.part (lines.filter s.cacheable), stop, s)

/-- Ways reserved for at most n of the lines that the fill at the head of a queue still wants (R238): whether it has them all; none on a
refusal. -/
def State.reserveSome (s : State) (blk q part n : Nat) : Option (Bool × State) :=
  match SMap.get [] (s.block blk).queues q with
  | [] => some (true, s)
  | e :: _ =>
    let now := e.todo.take n
    (s.reserveAll part now).map fun s =>
      ((e.todo.drop n).isEmpty, s.updHead blk q fun e => { e with todo := e.todo.drop n, held := e.held ++ now })

/-- A line's copies in every L1 are dropped: a fill has written the line whole (R236). -/
def State.dropCopies (s : State) (l : Nat) : State :=
  { s with cores := s.cores.map fun p => (p.1, { p.2 with l1 := SMap.erase p.2.l1 l }) }

/-- The way that a fill reserved holds the line's data: its spent tag or its entry in the spent table goes (R237).  The write is a line access
(R235). -/
def State.markFilled (s : State) (part line : Nat) : State :=
  let s : State := { s with bad := s.bad.filter (· != line) }
  match s.l2KeyOf part line with
  | none => s
  | some key =>
    { s with
      l2 := SMap.upd [] s.l2 key fun ws => ws.map fun w => if w.line = line && w.counted then { w with valid := 15, spent := false } else w
      spent := SMap.upd [] s.spent (key / 1024) fun t => t.filter (· != line) }

/-- One destination line of a counted fill written with its count (R32, R175). -/
def State.fillLine (s : State) (g : Agent) (va cnt v : Nat) : Except Raise State :=
  match stashOff va with
  | some off =>
    match s.stashAt g.blk off 128 with
    | none => .error ⟨.stashrange, BitVec.ofNat 64 va⟩
    | some (owner, o) =>
      .ok ((s.updBlock owner fun b =>
        { b with
          stash := Memory.write b.stash o 128 v
          bad := b.bad.filter (· != o / 128)
          counts := SMap.put b.counts (o / 128) (.live cnt)
          countVa := SMap.put b.countVa (o / 128) (BitVec.ofNat 64 (stashBase + o)) }).wakeFutures)
  | none =>
    match s.translate g.core g.vi va .wr with
    | .error r => .error r
    | .ok (x, s) =>
      let s := ((s.recall x.line false none none).dropCopies x.line).countLine g.vi x.line (s.inL2 g.part x.line)
      let s := s.markFilled g.part x.line
      let c : Counted := ⟨cnt, BitVec.ofNat 1024 v, BitVec.ofNat 64 va, g.vi, (s.block g.blk).packet⟩
      .ok ({ s with counted := SMap.put s.counted x.line c }.wakeFutures)

/-- The number of bytes that an uncounted copy moves in one piece: it ends with the line of either side. -/
def copyPiece (dst src left : Nat) : Nat := min left (min (toLineEnd dst) (toLineEnd src))

/-- A copy from its progress index for at most n bytes more: how far it comes, and what stopped it (R172, R173).  A counted fill stops where its
check has found that it would. -/
def State.copyFrom (s : State) (g : Agent) (dst src len cnt : Nat) (stop : Option (Nat × Raise)) : Nat → Nat → Nat → Nat × Option Raise × State
  | 0, _, pix => (pix, none, s)
  | fuel + 1, n, pix =>
    if n = 0 || len ≤ pix then (pix, none, s)
    else if stop.any fun p => p.1 ≤ pix then (pix, stop.map (·.2), s)
    else
      let k := if cnt = 0 then copyPiece (dst + pix) (src + pix) (min n (len - pix)) else 128
      let step : Except Raise State :=
        match s.engReads g 2 (src + pix) k with
        | .error r => .error r
        | .ok (v, s) => if cnt = 0 then s.engWrite g (dst + pix) k v else s.fillLine g (dst + pix) cnt v
      match step with
      | .error r => (pix, some r, s)
      | .ok s => s.copyFrom g dst src len cnt stop fuel (n - min n k) (pix + k)

/-- The reservations of a fill that has ended are given back for the lines it has not written (R175), those among them that a refusal left
before their turn (R238). -/
def State.stopFill (s : State) (blk q part : Nat) : State :=
  match SMap.get [] (s.block blk).queues q with
  | [] => s
  | e :: _ => s.unreserve part (e.held.filter fun l => (SMap.find? s.counted l).isNone)

/-- The checks of the copy at the head of a queue, made once (R174, R175): a status that ends it, or its start. -/
def State.startCopy (s : State) (blk q : Nat) (g : Agent) (e : EngEntry) (dst src len cnt : Nat) : Except Nat State :=
  if e.begun then .ok s
  else if s.acopyRange blk dst src len cnt then .error 4
  else
    ((if cnt = 0 then .ok ([], none, s) else s.startFill g dst len) : Except Nat (List Nat × Option (Nat × Raise) × State)).map fun p =>
      p.2.2.updHead blk q fun e => { e with begun := true, todo := p.1, stop := p.2.1 }

/-- Where the fill at the head of a queue stops (R175). -/
def State.fillStop (s : State) (blk q : Nat) : Option (Nat × Raise) := (SMap.get [] (s.block blk).queues q).head?.bind fun e => e.stop

/-- The head of a copy queue advances by n bytes at most (R172 to R175): a counted fill reserves a way for each 128 of them first, as long as
it has not reserved them all (R238).  An entry of length 0 completes here, at the head of its queue: the model takes "at once" (R174) so,
since the entries of a queue are performed in issue order (R172, log entry 74). -/
def State.runAcopy (s : State) (blk q n : Nat) : State :=
  match SMap.get [] (s.block blk).queues q with
  | [] => s
  | e :: _ =>
    match e.op with
    | .acopy d r len cnt =>
      let g := s.engAgent blk e
      let (dst, src) := (d.toNat, r.toNat)
      if !s.headOpen blk q then s
      else if len = 0 then s.endEntry blk q 0
      else match s.startCopy blk q g e dst src len cnt with
        | .error st => s.endEntry blk q st
        | .ok s =>
          match s.reserveSome blk q g.part ((n + 127) / 128) with
          | none => (s.stopFill blk q g.part).endEntry blk q 1
          | some (false, s) => s
          | some (true, s) =>
            let (pix, r, s) := s.copyFrom g dst src len cnt (s.fillStop blk q) (len / 4 + 1) n e.pix
            let s := s.setPix blk q pix
            match r with
            | some r => (s.stopFill blk q g.part).failEntry blk q r
            | none => if len ≤ pix then (s.stopFill blk q g.part).endEntry blk q 0 else s
    | _ => s

/-! ## GATH and SCAT (R176) -/

/-- The index width in bytes. -/
def indexBytes (iw : Nat) : Nat := match iw with | 0 => 4 | 1 => 8 | _ => 2

/-- The operands break a limit (R176). -/
def State.gathRange (s : State) (blk : Nat) (table index arr : Nat) (n es iw op : Nat) (ok : Bool) : Bool :=
  let sz := 2 ^ es
  let w := indexBytes iw
  !ok || table % sz != 0 || arr % sz != 0 || index % w != 0 || (op != 0 && sz != 4) ||
  s.meetsWindow blk index (n * w) || s.meetsWindow blk arr (n * sz) || !s.stashOk blk index (n * w) || !s.stashOk blk arr (n * sz)

/-- A table element within a mapped window or outside the stashes stops the entry (R176). -/
def State.tableFault (s : State) (blk t sz : Nat) : Option Raise :=
  if s.meetsWindow blk t sz || !s.stashOk blk t sz then some ⟨.stashrange, BitVec.ofNat 64 t⟩ else none

/-- A relaxed far atomic add of an engine at a table element (R169, R170, R176). -/
def State.engAtom (s : State) (g : Agent) (va : Nat) (op : AtomOp) (v : Nat) : Except Raise State :=
  match stashOff va with
  | some off =>
    match s.stashAt g.blk off 4 with
    | none => .error ⟨.stashrange, BitVec.ofNat 64 va⟩
    | some (owner, o) =>
      if (s.block owner).bad.contains (o / 128) then .error ⟨.mcheck, BitVec.ofNat 64 va⟩
      else
        .ok ((s.updBlock owner fun b =>
          { b with stash := Memory.write b.stash o 4 (atomNew op (Memory.read b.stash o 4) v 0) }).wakeFutures)
  | none =>
    match s.translate g.core g.vi va .both with
    | .error r => .error r
    | .ok (x, s) =>
      if s.badFor g x 4 true then .error (x.fault va .mcheck)
      else .ok (((s.engRequest g x (engFar op)).atomGlobal g x op v 0 false false).2.wakeFutures)

/-- One position of a GATH or a SCAT: `op` is none for GATH. -/
def State.gathStep (s : State) (g : Agent) (table index arr es iw i : Nat) (op : Option Nat) : Except Raise State :=
  let sz := 2 ^ es
  match s.engRead g (index + i * indexBytes iw) (indexBytes iw) with
  | .error r => .error r
  | .ok (k, s) =>
    let t := (table + k * sz) % 2 ^ 64
    match s.tableFault g.blk t sz with
    | some r => .error r
    | none =>
      match op with
      | none =>
        match s.engRead g t sz with
        | .error r => .error r
        | .ok (v, s) => s.engWrite g (arr + i * sz) sz v
      | some o =>
        match s.engRead g (arr + i * sz) sz with
        | .error r => .error r
        | .ok (v, s) =>
          if o = 0 then s.engWrite g t sz v else s.engAtom g t (if o = 1 then .addF32 else .addI32) v

/-- Positions from the progress index, at most m of them. -/
def State.gathFrom (s : State) (g : Agent) (table index arr n es iw : Nat) (op : Option Nat) : Nat → Nat → Nat × Option Raise × State
  | 0, pix => (pix, none, s)
  | m + 1, pix =>
    if n ≤ pix then (pix, none, s)
    else match s.gathStep g table index arr es iw pix op with
      | .error r => (pix, some r, s)
      | .ok s => s.gathFrom g table index arr n es iw op m (pix + 1)

/-- The head of gq advances by m positions at most; its operands are checked once, before any element (R176). -/
def State.runGath (s : State) (blk m : Nat) : State :=
  match SMap.get [] (s.block blk).queues 4 with
  | [] => s
  | e :: _ =>
    let g := s.engAgent blk e
    let go (table index arr : DWord) (n es iw : Nat) (op : Option Nat) (ok : Bool) : State :=
      if !s.headOpen blk 4 then s
      else if !e.begun && s.gathRange blk table.toNat index.toNat arr.toNat n es iw (op.getD 0) ok then s.endEntry blk 4 4
      else
        let (pix, r, s) := (s.updHead blk 4 fun e => { e with begun := true }).gathFrom g table.toNat index.toNat arr.toNat n es iw op
          (min m n) e.pix
        let s := s.setPix blk 4 pix
        match r with
        | some r => s.failEntry blk 4 r
        | none => if n ≤ pix then s.endEntry blk 4 0 else s
    match e.op with
    | .gath table index arr n es iw ok => go table index arr n es iw none ok
    | .scat table index arr n op es iw ok => go table index arr n es iw (some op) ok
    | _ => s

/-- The next additions of the scatter at the head of gq, performed in an order that timing decides (R170, R272): `order` gives the positions
from PIX on.  Where one of them meets a fault none is performed: the scatter then goes on in ascending order, and stops at the PIX of the
first that faults (R173). -/
def State.scatMixed (s : State) (blk : Nat) (order : List Nat) : State :=
  match SMap.get [] (s.block blk).queues 4 with
  | [] => s
  | e :: _ =>
    match e.op with
    | .scat table index arr n op es iw _ =>
      let g := s.engAgent blk e
      if op = 0 || !e.begun || n < e.pix + order.length || !(List.range order.length).all order.contains then s
      else
        match order.foldl (fun a i => a.bind fun s =>
            s.gathStep g table.toNat index.toNat arr.toNat es iw (e.pix + i) (some op)) (.ok s : Except Raise State) with
        | .error _ => s
        | .ok s => s.setPix blk 4 (e.pix + order.length)
    | _ => s

/-- Engine work of a block may go on: the block is neither stopped nor ended (R311, R351), and a request that it makes finds a miss register of its
core free (R245). -/
def State.enginesRun (s : State) (blk : Nat) : Bool :=
  !(s.block blk).stopped && !(s.block blk).dead && s.coreRoom (s.block blk).core 1

/-- ACOPY_COMPLETE (R172 to R175): the rest of the entry at the head of a copy queue. -/
def execAcopyComplete (blk q : Nat) (s : State) : Host.Outcome State Fault Refusal :=
  .next (if s.enginesRun blk && q ≤ 3 then s.runAcopy blk q (2 ^ 24) else s)

/-- GATH_SCAT_COMPLETE (R172, R173, R176). -/
def execGathScatComplete (blk : Nat) (s : State) : Host.Outcome State Fault Refusal :=
  .next (if s.enginesRun blk then s.runGath blk (2 ^ 24) else s)

/-! ## The words that enter an engine queue -/

/-- The issue of an engine entry (R172): its token becomes pending, and the entry joins its queue at its release. -/
def State.issueEngine (s : State) (i : Instr) (m : Bool) (d : SReg) (reads : List Nat) (q : Nat) (op : EngOp) :
    Host.Outcome State Fault Refusal :=
  let e : EngEntry :=
    { op := op, token := d.toNat, core := s.cur.1, slot := s.cur.2.1, pc := s.cs.start, opcode := opcodeOf (encode i) }
  s.runQ i m (s.sdest d.toNat 1) reads [] (s.entryOf i (.engine q e) s.cs.memb true) (s.token d.toNat)

/-- The registers of a parameter block. -/
def blockRegs (a n : Nat) : List Nat := (List.range n).map (a + ·)

/-- A register of the issuing strand. -/
def State.sr (s : State) (r : Nat) : Word := s.cw.sreg s.cur.2.2 r

/-- A pair of the issuing strand. -/
def State.sp (s : State) (r : Nat) : DWord := s.cw.spair s.cur.2.2 r

/-- ACOPY (R174). -/
def execAcopy (m : Bool) (d a b : SReg) (q : BitVec 2) (s : State) : Host.Outcome State Fault Refusal :=
  let r := a.toNat
  let l := (s.sr b.toNat).toNat
  s.issueEngine (.acopy m d a b q) m d (blockRegs r 4 ++ [b.toNat]) q.toNat
    (.acopy (s.sp r) (s.sp (r + 2)) (l % 2 ^ 24) (l / 2 ^ 24))

/-- The fields of the parameter block of GATH and SCAT that must be zero or are reserved (R176). -/
def gathFieldsOk (c f : Nat) (scat : Bool) : Bool :=
  c / 2 ^ 24 = 0 && f / 2 ^ 10 = 0 && f / 64 % 4 = 0 && f / 8 % 2 = 0 && f / 16 % 4 != 3 && f % 8 ≤ 4 &&
  (if scat then f / 256 % 4 != 3 else f / 256 % 4 = 0)

/-- GATH (R176). -/
def execGath (m : Bool) (d a : SReg) (s : State) : Host.Outcome State Fault Refusal :=
  let r := a.toNat
  let c := (s.sr (r + 6)).toNat
  let f := (s.sr (r + 7)).toNat
  s.issueEngine (.gath m d a) m d (blockRegs r 8) 4
    (.gath (s.sp r) (s.sp (r + 2)) (s.sp (r + 4)) (c % 2 ^ 24) (f % 8) (f / 16 % 4) (gathFieldsOk c f false))

/-- SCAT (R176). -/
def execScat (m : Bool) (d a : SReg) (s : State) : Host.Outcome State Fault Refusal :=
  let r := a.toNat
  let c := (s.sr (r + 6)).toNat
  let f := (s.sr (r + 7)).toNat
  s.issueEngine (.scat m d a) m d (blockRegs r 8) 4
    (.scat (s.sp r) (s.sp (r + 2)) (s.sp (r + 4)) (c % 2 ^ 24) (f / 256 % 4) (f % 8) (f / 16 % 4) (gathFieldsOk c f true))

/-! ## Stash windows (R177, R178) -/

/-- The operands of SMAP obey their rules (R177). -/
def Block.smapOk (b : Block) (off len : Nat) (base : DWord) : Bool :=
  off % 128 = 0 && len % 128 = 0 && base.toNat % 128 = 0 && len != 0 && off + len ≤ b.desc.stash &&
  !overlap [(off, len)] (b.wins.map fun p => (p.2.off, p.2.len)) &&
  !(b.counts.any fun p => (match p.2 with | .live _ => true | _ => false) && overlap [(off, len)] [(128 * p.1, 128)])

/-- The lowest free window number. -/
def Block.freeWin (b : Block) : Option Nat := (List.range 16).find? fun n => (SMap.find? b.wins n).isNone

/-- SMAP (R177). -/
def execSmap (m : Bool) (d a : SReg) (zero : Bool) (s : State) : Host.Outcome State Fault Refusal :=
  let i : Instr := .smap m d a zero
  let r := a.toNat
  let b := s.block s.cw.blk
  let (off, len, base) := ((s.sr r).toNat, (s.sr (r + 1)).toNat, s.sp (r + 2))
  let out (x : Nat) := s.result i { strand := 0, sca := scalarOut d x }
  s.run i m (s.sdest d.toNat 1) (blockRegs r 4) [] fun t =>
    if !b.smapOk off len base then out 0xFFFFFFFE t
    else match b.freeWin with
      | none => out 0xFFFFFFFF t
      | some n => out n (t.updBlock s.cw.blk fun b => { b with wins := SMap.put b.wins n { off := off, len := len, base := base, zero := zero } })

/-! ## Operations of the memory port (R178, R179, R183) -/

/-- The issue of a memory-port operation with a token. -/
def State.issuePort (s : State) (i : Instr) (m : Bool) (d : SReg) (reads : List Nat) (kind : PortKind) (base : DWord) (len : Nat) :
    Host.Outcome State Fault Refusal :=
  let op : PortOp :=
    { kind := kind, base := base, len := len, token := d.toNat, pc := s.cs.start, opcode := opcodeOf (encode i) }
  s.runQ i m (s.sdest d.toNat 1) reads [] (s.entryOf i (.port op) s.cs.memb true) (s.token d.toNat)

/-- SUNMAP (R178). -/
def execSunmap (m : Bool) (d a : SReg) (wb : Bool) (s : State) : Host.Outcome State Fault Refusal :=
  s.issuePort (.sunmap m d a wb) m d [a.toNat] (.sunmap wb) ((s.sr a.toNat).setWidth 64) 0

/-- CDROP (R179). -/
def execCdrop (m : Bool) (d a b : SReg) (s : State) : Host.Outcome State Fault Refusal :=
  s.issuePort (.cdrop m d a b) m d (pairRegs a.toNat ++ [b.toNat]) .cdrop (s.sp a.toNat) (s.sr b.toNat).toNat

/-- CINV (R183). -/
def execCinv (m : Bool) (d a b : SReg) (s : State) : Host.Outcome State Fault Refusal :=
  s.issuePort (.cinv m d a b) m d (pairRegs a.toNat ++ [b.toNat]) .cinv (s.sp a.toNat) (s.sr b.toNat).toNat

/-- CINV.i (R183). -/
def execCinvI (m : Bool) (d a b : SReg) (s : State) : Host.Outcome State Fault Refusal :=
  s.issuePort (.cinvI m d a b) m d (pairRegs a.toNat ++ [b.toNat]) .cinvI (s.sp a.toNat) (s.sr b.toNat).toNat

/-- CWB (R183). -/
def execCwb (m : Bool) (d a b : SReg) (s : State) : Host.Outcome State Fault Refusal :=
  s.issuePort (.cwb m d a b) m d (pairRegs a.toNat ++ [b.toNat]) .cwb (s.sp a.toNat) (s.sr b.toNat).toNat

/-- SUNMAP_COMPLETE (R178). -/
def execSunmapComplete (core slot id : Nat) (s : State) : Host.Outcome State Fault Refusal :=
  .next (s.completePort core slot id fun k => match k with | .sunmap _ => true | _ => false)

/-- CDROP_COMPLETE (R179). -/
def execCdropComplete (core slot id : Nat) (s : State) : Host.Outcome State Fault Refusal :=
  .next (s.completePort core slot id fun k => k = .cdrop)

/-- CINV_CWB_COMPLETE (R183). -/
def execCinvCwbComplete (core slot id : Nat) (s : State) : Host.Outcome State Fault Refusal :=
  .next (s.completePort core slot id fun k => k = .cinv || k = .cinvI || k = .cwb)

/-! ## CQRY, L2PIN, L2UNPIN (R180 to R182) -/

/-- CQRY (R180): for ordering, a plain load. -/
def execCqry (m : Bool) (d a : SReg) (s : State) : Host.Outcome State Fault Refusal :=
  s.scaMem (.cqry m d a) m (.cqry d.toNat) false (s.sp a.toNat) (s.sdest d.toNat 1) (pairRegs a.toNat) 0 0

/-- L2PIN (R181). -/
def execL2pin (m : Bool) (ways a b : SReg) (slot : BitVec 3) (s : State) : Host.Outcome State Fault Refusal :=
  let i : Instr := .l2pin m ways a b slot
  let base := s.sp a.toNat
  let size := (s.sr b.toNat).toNat
  s.runQ i m [] (pairRegs a.toNat ++ [b.toNat]) (if base.toNat % 128 = 0 && size % 128 = 0 then [] else [some ⟨.align, base⟩])
    (s.entryOf i (.pin slot.toNat ways.toNat base size) s.cs.memb true)

/-- L2UNPIN (R182). -/
def execL2unpin (m : Bool) (slot : BitVec 3) (s : State) : Host.Outcome State Fault Refusal :=
  let i : Instr := .l2unpin m slot
  s.runQ i m [] [] [] (s.entryOf i (.pin slot.toNat 0 0 0) s.cs.memb true)

end Sys2Proof.Machine
end

