-- ==== Sys2Proof/Machine/Matrix.lean ====
section
/-! DEFINITION. Matrix operations of class 6: MMA, MMASP, MZACC, MSTACC, MLDACC, MFENCE, their completion and that of batches (R185 to
R196), with the matrix arithmetic of R101 to R105. -/

namespace Sys2Proof

/-! ## Shapes (R186) -/

/-- Rows and columns of the tile grid of a shape; .ind counts as 4 by 1. -/
def Shape.grid : Shape → Nat × Nat
  | .s1x4 => (1, 4)
  | .s2x2 => (2, 2)
  | .s4x1 | .ind => (4, 1)
  | .d1x8 => (1, 8)
  | .d2x4 => (2, 4)
  | .d4x2 => (4, 2)
  | .d8x1 => (8, 1)

/-- A duet shape. -/
def Shape.duet : Shape → Bool
  | .d1x8 | .d2x4 | .d4x2 | .d8x1 => true
  | _ => false

/-- A tile: its first row of A, its first row of B, its place in the region, the array and the sub-array that hold it. -/
structure Tile where
  arow : Nat
  brow : Nat
  row : Nat
  col : Nat
  follower : Bool
  sub : Nat
deriving DecidableEq, Repr

/-- The tiles of a shape (R186): within one array they lie in sub-arrays 0 to 3 in row-major order. -/
def Shape.tiles (sh : Shape) : List Tile :=
  let (r, c) := sh.grid
  match sh with
  | .ind => (List.range 4).map fun t => ⟨16 * t, 16 * t, 16 * t, 0, false, t⟩
  | _ =>
    let all := (List.range r).flatMap fun p => (List.range c).map fun q => (p, q)
    let lead (t : Nat × Nat) : Bool := !sh.duet || (if 2 ≤ c then t.2 < c / 2 else t.1 < r / 2)
    let put (fol : Bool) (l : List (Nat × Nat)) : List Tile :=
      l.zipIdx.map fun t => ⟨16 * t.1.1, 16 * t.1.2, 16 * t.1.1, 16 * t.1.2, fol, t.2⟩
    put false (all.filter lead) ++ put true (all.filter fun t => !lead t)

/-- The rows of the region, which are also the rows of A. -/
def Shape.rows (sh : Shape) : Nat := 16 * sh.grid.1

/-- The columns of the region. -/
def Shape.cols (sh : Shape) : Nat := 16 * sh.grid.2

/-- The rows of B that the shape reads. -/
def Shape.brows (sh : Shape) : Nat := match sh with | .ind => 64 | _ => sh.cols

/-- The cells of a region in ascending order of row, then column: row, column, tile. -/
def Shape.region (sh : Shape) : List (Nat × Nat × Tile) :=
  (List.range sh.rows).flatMap fun i => (List.range sh.cols).filterMap fun j =>
    (sh.tiles.find? fun t => t.row ≤ i && i < t.row + 16 && t.col ≤ j && j < t.col + 16).map fun t => (i, j, t)

/-- The bytes of an element in memory (R193). -/
def AccFmt.bytes : AccFmt → Nat
  | .f32 => 4
  | _ => 2

end Sys2Proof

namespace Sys2Proof.Machine

/-- The key of an accumulator's tag: its sub-array and its number. -/
def tagKey (sub acc : Nat) : Nat := sub * 8 + acc

/-- The key of an accumulator's cell. -/
def cellKey (sub acc row col : Nat) : Nat := (tagKey sub acc * 16 + row) * 16 + col

/-- The block whose array holds a tile. -/
def State.tileBlock (s : State) (blk : Nat) (t : Tile) : Nat := if t.follower then (s.block blk).peer.getD blk else blk

/-! ## Matrix arithmetic (R101 to R105) -/

/-- The element width of a format code (R187); a reserved one counts as 8 bits wide (log entry 95). -/
def matWidth (fmt : Nat) : Nat :=
  match fmt with
  | 3 | 5 => 4
  | 6 | 7 => 16
  | 8 => 32
  | _ => 8

/-- The integer formats. -/
def matInt (fmt : Nat) : Bool := fmt = 4 || fmt = 5

/-- The exact value of an element (R101). -/
def matVal (fmt x : Nat) : FVal :=
  match fmt with
  | 6 => Fmt.bf16.unpack x
  | 7 => Fmt.f16.unpack x
  | 8 => Fmt.f32.unpack x
  | n => match NFmt.ofCode (BitVec.ofNat 4 n) with
    | some f => nDecode f x
    | none => .fin false 0 0

/-- The elements of a K group with their logical places, scaled. -/
abbrev MatGroup := List (Nat × FVal)

/-- An element times its block's scale; a NaN scale makes it a NaN (R105). -/
def scaled (v : FVal) (sc : Option (Nat × Int)) : FVal :=
  match v, sc with
  | .fin n m e, some (q, x) => .fin n (m * q) (e + x)
  | _, none => .nan false
  | v, _ => v

/-- A K group of a row: the elements at stored places lo to lo + n - 1, their logical places, and the scale of each. -/
def groupOf (fmt raw lo n : Nat) (place : Nat → Nat) (scale : Nat → Option (Nat × Int)) : MatGroup :=
  let w := matWidth fmt
  (List.range n).map fun j => (place (lo + j), scaled (matVal fmt (raw / 2 ^ (w * (lo + j)) % 2 ^ w)) (scale (place (lo + j))))

/-- The logical place of a stored element of a 2:4 compressed row (R191). -/
def sparsePlace (words : List Word) (j : Nat) : Nat :=
  let q := j / 2
  let nib := (words.getD (q / 8) 0).toNat / 2 ^ (4 * (q % 8)) % 16
  4 * q + (if j % 2 = 0 then nib % 4 else nib / 4)

/-- What a group sum comes to: a NaN with its flag, an infinity, or an exact value with whether every product is -0. -/
inductive GroupSum
  | nan (fl : BitVec 5)
  | inf (neg : Bool)
  | val (t e : Int) (negZero : Bool)
deriving DecidableEq, Repr

/-- The bits of MSTAT (R20). -/
def msOVF32 : BitVec 5 := 1
@[inherit_doc msOVF32] def msSATN : BitVec 5 := 2
@[inherit_doc msOVF32] def msSATI : BitVec 5 := 4
@[inherit_doc msOVF32] def msNANG : BitVec 5 := 8
@[inherit_doc msOVF32] def msNANP : BitVec 5 := 16

/-- A list of finite products added exactly. -/
def exactSum : List FVal → Int × Int
  | [] => (0, 0)
  | .fin n m e :: t =>
    if m = 0 then exactSum t
    else
      let (s, x) := exactSum t
      if s = 0 then ((if n then -(m : Int) else m), e)
      else
        let y := min e x
        let p : Int := (m * 2 ^ (e - y).toNat : Nat)
        (s * (2 ^ (x - y).toNat : Nat) + (if n then -p else p), y)
  | _ :: t => exactSum t

/-- The sum of a list of products (R101, R105). -/
def groupSum (products : List (Option FVal)) : GroupSum :=
  let infs := products.filterMap fun p => match p with | some (.inf n) => some n | _ => none
  if products.any Option.isNone || (infs.contains true && infs.contains false) then .nan msNANG
  else match infs with
    | n :: _ => .inf n
    | [] =>
      let (t, e) := exactSum (products.filterMap id)
      .val t e (products.all fun p => match p with | some (.fin n m _) => n && m = 0 | _ => false)

/-- P of one group of a row of A and a row of B (R101): the elements of B by place, which begins at `base`.  An element or a scale that is a
NaN makes it a NaN (R105); places of B that no element of A meets contribute nothing (R191). -/
def groupProduct (a : MatGroup) (bs : Array FVal) (base : Nat) : GroupSum :=
  let ps := a.map fun p => (p.2, bs.getD (p.1 - base) (.fin false 0 0))
  if ps.any fun p => p.1.isNan || p.2.isNan then .nan msNANP else groupSum (ps.map fun p => mulVals p.1 p.2)

/-- The accumulator's update in a float mode (R102, R103, R105).  A NaN in the cell stays one, as the canonical NaN that every float result is (R82,
log entry 24). -/
def updateFloat (narrow : Bool) (cell : Nat) (p : GroupSum) : Nat × BitVec 5 :=
  let F := if narrow then Fmt.f16 else Fmt.f32
  match F.unpack cell, p with
  | .nan _, _ => (F.nan, 0)
  | _, .nan fl => (F.nan, fl)
  | .inf a, .inf b => if a == b then (cell, 0) else (F.nan, msNANG)
  | .inf _, .val .. => (cell, 0)
  | .fin .., .inf b => (F.withSign b F.infBits, 0)
  | .fin n m e, .val t x negZero =>
    let y := min e x
    let a : Int := (m * 2 ^ (e - y).toNat : Nat)
    let u := (if n then -a else a) + t * (2 ^ (x - y).toNat : Nat)
    if u = 0 then (F.withSign (n && m = 0 && negZero) 0, 0)
    else
      let r := F.round .rne (u < 0) u.natAbs y
      if r.fl &&& flOF = 0 then (r.bits, 0)
      else if narrow then (F.withSign (u < 0) F.maxBits, msSATN)
      else (r.bits, msOVF32)

/-- The accumulator's update for the integer formats (R104). -/
def updateInt (cell : Nat) (p : GroupSum) : Nat × BitVec 5 :=
  match p with
  | .val t e _ =>
    let u := sgnOf 32 cell + t * (2 ^ e.toNat : Nat)
    let v := max (-2 ^ 31) (min (2 ^ 31 - 1) u)
    (toBits 32 v, if v = u then 0 else msSATI)
  | _ => (cell, 0)

/-- One group taken by a cell in the mode of a format block (R102 to R104, R189). -/
def updateCell (f : FmtBlock) (cell : Nat) (p : GroupSum) : Nat × BitVec 5 :=
  if matInt f.afmt then updateInt cell p
  else if f.narrow then updateFloat true (cell % 2 ^ 16) p
  else updateFloat false cell p

/-! ## The tile fetch unit (R185, R188, R190, R240) -/

/-- The translation that an accepted operation keeps (R185), with the fault that can still arise (R190). -/
def State.matXlat (s : State) (vi : Nat) (e : MatEntry) (va : Nat) : Except Raise Xlat :=
  match (tlbFind e.pins vi va).bind fun t => s.xlatOf va t.pte.toNat t.size with
  | none => .error ⟨.translate, BitVec.ofNat 64 va⟩
  | some x =>
    match s.physFault vi x.target x.pa with
    | some .mcheck => .error (x.fault va .mcheck)
    | some .protect | none => .ok x
    | some _ => .error ⟨.extentgone, BitVec.ofNat 64 va⟩

/-- The line that a window line was valid over, as the translation stays valid for an accepted operation (R185). -/
def State.winHeld (s : State) (owner off : Nat) : Option Xlat :=
  ((s.block owner).winAt off).bind fun p => ((SMap.find? p.2.phys ((off - p.2.off) / 128)).filter fun l => l.2 != 3).bind fun l =>
    (s.dev.target (l.1 * 128)).map fun t => ⟨0, 0, 64 * l.2, t.1, t.2 + off % 128⟩

/-- A cause that an accepted operation can still meet (R185). -/
def Cause.late (c : Cause) : Bool := c = .mcheck || c = .extentgone

/-- The virtual address under a window line's byte. -/
def State.winVa (s : State) (owner off : Nat) : Option Nat :=
  ((s.block owner).winAt off).map fun p => p.2.base.toNat + (off - p.2.off)

/-- What an accepted operation reaches through a window line whose page no longer answers: the line as it was valid, or the page as it was
translated when the operation was accepted (R185). -/
def State.winKept (s : State) (vi : Nat) (e : MatEntry) (owner off : Nat) (r : Raise) : Except Raise Xlat :=
  if r.cause.late then .error r
  else match s.winHeld owner off, s.winVa owner off with
    | some x, _ => .ok x
    | none, some va =>
      match s.matXlat vi e va with
      | .ok x => .ok x
      | .error q => .error (if q.cause.late then q else r)
    | none, none => .error r

/-- A core's own clean copy of a line is its only one no longer: the tile fetch unit shares the line (R240). -/
def State.shareOwn (s : State) (core l : Nat) : State :=
  match SMap.find? (s.core core).l1 l with
  | some y => if y.st = .e then s.setL1 core l (some { y with st := .s }) else s
  | none => s

/-- A line put into a tile fetch unit's buffer of 4,096 lines (R240). -/
def State.bufferTile (s : State) (core : Nat) (t : TileLine) : State :=
  s.updCore core fun k => { k with tile := (t :: k.tile.filter fun x => x.line != t.line).take 4096 }

/-- A line read by the tile fetch unit from its home, never from an L1 (R196, R240): as for any sharer, the copies of a C page's line in other
cores and in windows are recalled, but what its own core's L1 holds alone the unit does not see.  The line stays in the unit's buffer, which
supplies it again within the batch; a line that another device owns or that is counted stays in no buffer.  The read is a line access at L2,
but for a line that its pin has fetched (R235). -/
def State.tileRead (s : State) (g : Agent) (e : MatEntry) (x : Xlat) : LineData × State :=
  let once := s.uncached x
  match if once then none else (s.core g.core).tile.find? fun t => t.line = x.line && t.blk = g.blk && t.batch = e.batch with
  | some t => (t.data, s)
  | none =>
    let s := if x.region = 2 then (s.recall x.line true (some g.core) none).shareOwn g.core x.line else s
    let s := s.coreRequest g.core 4
    let s := if e.fetched.contains x.line then s else s.l2Access g.part g.vi x.line 15 false (if once then .none else .normal)
    let d := s.homeLine x.line
    (d, if once then s else s.bufferTile g.core ⟨x.line, g.blk, e.batch, d, false⟩)

/-- What the unit reads of a global line: its bytes, and what it meets there, which makes them +0 (R190, R243). -/
def State.matGlobal (s : State) (g : Agent) (e : MatEntry) (va : Nat) (x : Xlat) (consume : Bool) : LineData × Option Raise × State :=
  let bad := match if consume || s.uncached x then none else (s.core g.core).tile.find? fun t => t.line = x.line && t.blk = g.blk && t.batch = e.batch with
    | some t => t.bad
    | none => s.bad.contains x.line
  if bad then (0, some (x.fault va .mcheck), s)
  else if consume then
    let (c, s) := s.consumeGlobal g x
    match c with
    | .data d => (d, none, s)
    | .spent => (0, some ⟨.overread, BitVec.ofNat 64 va⟩, s)
    | .uncounted => (0, some ⟨.uncounted, BitVec.ofNat 64 va⟩, s)
  else
    let (d, s) := s.tileRead g e x
    (d, none, s)

/-- What the unit reads of a line, by its address.  A stash line stands in the buffer too, under a key above every physical line; since the order of
issue alone decides what a later operation reads of it (R196), it is read again each time. -/
def State.matLine (s : State) (g : Agent) (e : MatEntry) (va : Nat) (consume : Bool) : LineData × Option Raise × State :=
  let raise (c : Cause) : Option Raise := some ⟨c, BitVec.ofNat 64 va⟩
  match stashOff va with
  | some off =>
    match s.stashAt g.blk off 1 with
    | none => (0, raise .stashrange, s)
    | some (owner, o) =>
      match s.winTouch owner o false with
      | .error r =>
        match s.winKept g.vi e owner o r with
        | .ok x => s.matGlobal g e va x (consume && s.uncached x)
        | .error q => (0, some q, s)
      | .ok (some x, s) => s.matGlobal g e va x consume
      | .ok (none, s) =>
        let hold (s : State) (d : LineData) : State := s.bufferTile g.core ⟨stashLineKey owner o, g.blk, e.batch, d, false⟩
        if (s.block owner).bad.contains (o / 128) then (0, raise .mcheck, s)
        else if consume then
          let (c, s) := s.consumeStash owner o
          match c with
          | .data d => (d, none, hold s d)
          | .spent => (0, raise .overread, s)
          | .uncounted => (0, raise .uncounted, s)
        else ((s.block owner).stashLine o, none, hold s ((s.block owner).stashLine o))
  | none =>
    match s.matXlat g.vi e va with
    | .error r => (0, some r, s)
    | .ok x => s.matGlobal g e va x consume

/-- The line of a holder that an address of an operand names. -/
def State.matKey (s : State) (g : Agent) (e : MatEntry) (va : Nat) : Option Nat :=
  match stashOff va with
  | some off => (s.stashAt g.blk off 1).map fun p => stashLineKey p.1 p.2
  | none => (s.matXlat g.vi e va).toOption.map Xlat.line

/-- A row's bytes as a number, through the lines already read (R190: exactly one consume for each distinct line, under whatever address a row
reaches it). -/
def State.matBytes (s : State) (g : Agent) (e : MatEntry) (consume : Bool) : Nat → List ReadLine → Nat → Nat → Nat × List ReadLine × State
  | 0, memo, _, _ => (0, memo, s)
  | fuel + 1, memo, va, n =>
    if n = 0 then (0, memo, s)
    else
      let va := va % 2 ^ 64
      let k := min n (toLineEnd va)
      let la := va - va % 128
      let (d, memo, s) := match memo.find? fun p => p.va = la with
        | some p => (p.data, memo, s)
        | none =>
          let key := if consume then s.matKey g e la else none
          match (if key.isSome then memo.find? fun p => p.key = key else none : Option ReadLine) with
          | some p => (p.data, { p with va := la } :: memo, s)
          | none =>
            let (d, c, s) := s.matLine g e la consume
            (d, ⟨la, key, d, c⟩ :: memo, s)
      let (u, memo, s) := s.matBytes g e consume fuel memo (va + k) (n - k)
      (lineGet d (va % 128) k + 2 ^ (8 * k) * u, memo, s)

/-- The rows of an operand. -/
def State.matRows (s : State) (g : Agent) (e : MatEntry) (consume : Bool) (base stride len : Nat) :
    List ReadLine → List Nat → List Nat × List ReadLine × State
  | memo, [] => ([], memo, s)
  | memo, r :: t =>
    let (x, memo, s) := s.matBytes g e consume (len / 128 + 2) memo (base + r * stride) len
    let (l, memo, s) := s.matRows g e consume base stride len memo t
    (x :: l, memo, s)

/-- The rows of an operand read through the entry's lines: a consuming operand's lines and a plain operand's are kept apart, and each is read
once (R190). -/
def State.matOperand (s : State) (g : Agent) (e : MatEntry) (consume : Bool) (base stride len rows : Nat) : List Nat × MatEntry × State :=
  let (l, memo, s) := s.matRows g e consume base stride len (if consume then e.taken else e.read) (List.range rows)
  (l, if consume then { e with taken := memo } else { e with read := memo }, s)

/-- A cause that an accepted operation has met (R185, R190): an uncorrectable error reaches its wave, any other is noted for its batch. -/
def State.matNote (s : State) (e : MatEntry) (r : Raise) : State :=
  if r.cause = .mcheck then s.engCheck e.core e.slot r.val e.pc (opcodeOf e.word)
  else s.updWave e.core e.slot fun w => { w with matNotes := w.matNotes ++ [(e.batch, ⟨r.cause, r.val, 0, e.word⟩)] }

/-- The byte ranges that MMA and MMASP read (R185, R188, R190): A, B, and the scale arrays.  The blocks of a scale row of MMASP are those of the
2 * KG * G logical elements: R188 names KG * G, and R191 only says that scales are indexed by logical place, so that this is the model's choice
(log entry 94), here and in `performMma`. -/
def mmaRanges (sh : Shape) (a b : DWord) (f : FmtBlock) (sparse : Bool) : List (Nat × Nat) :=
  let kst := f.kg * (256 / matWidth f.afmt)
  let kel := if sparse then 2 * kst else kst
  let nb := (kel + f.blk - 1) / f.blk
  (List.range sh.rows).map (fun r => ((a.toNat + r * f.astr) % 2 ^ 64, f.kg * 32)) ++
  (List.range sh.brows).map (fun c => ((b.toNat + c * f.bstr) % 2 ^ 64, (if sparse then 2 else 1) * f.kg * 32)) ++
  (if f.afmt ≤ 3 then [(f.ascl.toNat, sh.rows * nb * 2), (f.bscl.toNat, sh.brows * nb * 2)] else [])

/-! ## Performing (R189 to R193) -/

/-- The K groups of a row of an operand, `step` stored elements apart. -/
def rowGroups (fmt groups blk : Nat) (scaledFmt : Bool) (scales : Nat) (place : Nat → Nat) (raw step : Nat) : List MatGroup :=
  let scale (k : Nat) : Option (Nat × Int) := if scaledFmt then s10 (scales / 2 ^ (16 * (k / blk)) % 2 ^ 16) else some (1, 0)
  (List.range groups).map fun g => groupOf fmt raw (g * step) step place scale

/-- The K groups by which an operation advances: under MMASP the logical groups of B (R191). -/
def mmaGroups (f : FmtBlock) (sparse : Bool) : Nat := if sparse then 2 * f.kg else f.kg

/-- MMA or MMASP advanced by at most k K groups from its progress index (R185, R189 to R191): its entry, with what it has read, and every
tile's cells, the tags, the flags of its batch.  The blocks of a scale row are counted as in `mmaRanges` (log entry 94). -/
def State.performMma (s : State) (blk : Nat) (e : MatEntry) (a b : DWord) (f : FmtBlock) (metadata : Option (List (List Word)))
    (k : Nat) : MatEntry × State :=
  let g : Agent := ⟨e.core, (s.block blk).vi, (s.block blk).part, blk, .normal⟩
  let n := 256 / matWidth f.afmt
  let sparse := metadata.isSome
  let groups := mmaGroups f sparse
  let nb := (groups * n + f.blk - 1) / f.blk
  let isScaled := f.afmt ≤ 3
  let (ra, e, s) := s.matOperand g e f.ca a.toNat f.astr (f.kg * 32) e.shape.rows
  let (rb, e, s) := s.matOperand g e f.cb b.toNat f.bstr (groups * 32) e.shape.brows
  let (sa, e, s) := s.matOperand g e false f.ascl.toNat (nb * 2) (nb * 2) (if isScaled then e.shape.rows else 0)
  let (sb, e, s) := s.matOperand g e false f.bscl.toNat (nb * 2) (nb * 2) (if isScaled then e.shape.brows else 0)
  let now {α : Type} (l : List α) : List α := (l.drop e.pix).take k
  let ga := (ra.zipIdx.map fun p =>
    now (rowGroups f.afmt groups f.blk isScaled (sa.getD p.2 0)
      (match metadata with | some ws => sparsePlace (ws.getD p.2 []) | none => id) p.1 (if sparse then n / 2 else n))).toArray
  let gb := (rb.zipIdx.map fun p =>
    (now (rowGroups f.bfmt groups f.blk isScaled (sb.getD p.2 0) id p.1 n)).map fun x => (x.map (·.2)).toArray).toArray
  let cellUp (old : Nat) (r c : Nat) : Nat × BitVec 5 :=
    (((ga.getD r []).zip (gb.getD c [])).zipIdx).foldl (fun (acc : Nat × BitVec 5) p =>
      let (x, fl) := updateCell f acc.1 (groupProduct p.1.1 p.1.2 ((e.pix + p.2) * n))
      (x, acc.2 ||| fl)) (old, 0)
  let tag : AccTag := if matInt f.afmt then .int else if f.narrow then .narrow else .fp32
  let (fl, s) := e.shape.tiles.foldl (fun (acc : BitVec 5 × State) t =>
    let o := acc.2.tileBlock blk t
    let old := (acc.2.block o).accs
    let ups := (List.range 256).map fun k =>
      let key := cellKey t.sub e.acc (k / 16) (k % 16)
      (key, cellUp (SMap.get 0 old key).toNat (t.arow + k / 16) (t.brow + k % 16))
    (ups.foldl (fun fl u => fl ||| u.2.2) acc.1,
     acc.2.updBlock o fun b =>
      { b with
        accs := ups.foldl (fun m u => SMap.set 0 m u.1 (BitVec.ofNat 32 u.2.1)) b.accs
        tags := SMap.set .fp32 b.tags (tagKey t.sub e.acc) tag })) (0, s)
  ({ e with pix := min groups (e.pix + k) },
   if fl = 0 then s else s.updBlock blk fun b => { b with batchFlags := b.batchFlags ++ [(e.batch, waveKey e.core e.slot, fl)] })

/-- MMA or MMASP at its end: what it has met reaches its wave, and its meter counts (R190, R195). -/
def State.endMma (s : State) (blk : Nat) (e : MatEntry) (f : FmtBlock) : State :=
  ((e.taken ++ e.read).foldl (fun s p => match p.met with | some r => s.matNote e r | none => s) s).waveMeter (waveKey e.core e.slot) (s.block blk).vi f.afmt
    (e.shape.tiles.length * 256 * f.kg * (256 / matWidth f.afmt))

/-- MZACC performed (R192). -/
def State.performZero (s : State) (blk : Nat) (e : MatEntry) : State :=
  e.shape.tiles.foldl (fun s t => s.updBlock (s.tileBlock blk t) fun b =>
    { b with accs := (List.range 256).foldl (fun m k => SMap.set 0 m (cellKey t.sub e.acc (k / 16) (k % 16)) 0) b.accs }) s

/-- The half format of an element in memory. -/
def accHalf : AccFmt → Fmt
  | .bf16 => Fmt.bf16
  | _ => Fmt.f16

/-- v(cell) by the accumulator's tag (R193). -/
def cellVal (tag : AccTag) (cell : Nat) : FVal :=
  match tag with
  | .fp32 => Fmt.f32.unpack cell
  | .narrow => Fmt.f16.unpack (cell % 2 ^ 16)
  | .int => let v := sgnOf 32 cell; .fin (v < 0) v.natAbs 0

/-- What MSTACC stores of a cell (R193). -/
def storeCell (fmt : AccFmt) (tag : AccTag) (cell : Nat) : Nat :=
  match fmt with
  | .f32 => cell
  | _ => ((accHalf fmt).roundVal .rne (cellVal tag cell)).bits

/-- What MLDACC puts into a cell (R193). -/
def loadCell (fmt : AccFmt) (tag : AccTag) (x : Nat) : Nat :=
  match fmt with
  | .f32 => x
  | _ =>
    let u := (accHalf fmt).unpack x
    match tag with
    | .fp32 => (Fmt.f32.roundVal .rne u).bits
    | .narrow => (Fmt.f16.roundVal .rne u).bits
    | .int =>
      match u with
      | .nan _ => 0
      | .inf n => if n then 0x80000000 else 0x7FFFFFFF
      | .fin n m e =>
        let k := (roundAt .rne n m e 0 false).1
        toBits 32 (max (-2 ^ 31) (min (2 ^ 31 - 1) (if n then -(k : Int) else k)))

/-- A plain access of n bytes by the array within one line (R193): `v` is stored, or none loads. -/
def State.matAccess (s : State) (g : Agent) (e : MatEntry) (va n : Nat) (v : Option Nat) : Except Raise (Nat × State) :=
  let global (s : State) (x : Xlat) : Except Raise (Nat × State) :=
    match v with
    | some y => .ok (0, ((s.engRequest g x (engStore n)).writeGlobal g x n y).wakeFutures)
    | none => if s.badFor g x n false then .error (x.fault va .mcheck) else .ok ((s.engRequest g x (engLoad n .rlx)).readGlobal g x n false)
  match stashOff va with
  | some off =>
    match s.stashAt g.blk off n with
    | none => .error ⟨.stashrange, BitVec.ofNat 64 va⟩
    | some (owner, o) =>
      match s.winTouch owner o v.isSome with
      | .error r => (s.winKept g.vi e owner o r).bind (global s)
      | .ok (some x, s) => global s { x with pa := x.pa + o % 128 }
      | .ok (none, s) =>
        match v with
        | some x => .ok (0, (s.updBlock owner fun b => { b with stash := Memory.write b.stash o n x }).wakeFutures)
        | none =>
          if (s.block owner).bad.contains (o / 128) then .error ⟨.mcheck, BitVec.ofNat 64 va⟩
          else .ok (Memory.read (s.block owner).stash o n, s)
  | none => (s.matXlat g.vi e va).bind (global s)

/-- MSTACC or MLDACC performed (R193): an element whose extent was released meanwhile is not accessed, and noted (R190). -/
def State.performAcc (s : State) (blk : Nat) (e : MatEntry) (addr : DWord) (stride : Nat) (fmt : AccFmt) (store : Bool) : State :=
  let g : Agent := ⟨e.core, (s.block blk).vi, (s.block blk).part, blk, .normal⟩
  e.shape.region.foldl (fun s p =>
    let (i, j, t) := p
    let o := s.tileBlock blk t
    let b := s.block o
    let key := cellKey t.sub e.acc (i - t.row) (j - t.col)
    let cell := (SMap.get 0 b.accs key).toNat
    let tag := SMap.get .fp32 b.tags (tagKey t.sub e.acc)
    let va := (addr.toNat + i * stride + j * fmt.bytes) % 2 ^ 64
    match s.matAccess g e va fmt.bytes (if store then some (storeCell fmt tag cell) else none) with
    | .error r => s.matNote e (if r.cause = .mcheck then r else ⟨r.cause, BitVec.ofNat 64 (va - va % 128)⟩)
    | .ok (x, s) =>
      if store then s
      else s.updBlock o fun b => { b with accs := SMap.set 0 b.accs key (BitVec.ofNat 32 (loadCell fmt tag x)) }) s

/-- The lines of an operation that no pin holds yet can be pinned (R240): the ways that other operations pin leave room in each set, where lines of
its own beyond the quota come one after the other.  Once it has read its lines it needs no pin. -/
def State.matRoom (s : State) (blk : Nat) (e : MatEntry) : Bool :=
  let part := (s.block blk).part
  e.pix != 0 || e.lines.all fun l => e.pinned.contains l ||
    (let ws := ((s.l2KeyOf part l).map fun key => SMap.get [] s.l2 key).getD []
     ws.any (fun w => w.line = l && w.pins != 0) ||
     (ws.filter fun w => (if e.pinned.contains w.line then 1 else 0) < w.pins).length < 4)

/-- A line of an operation that exceeds its set's quota with the operation's own lines is pinned in turn (R234, R240): one of these, which the unit
has read, gives up its pin (log entry 101). -/
def State.rotatePin (s : State) (part vi : Nat) (e : MatEntry) (l : Nat) : MatEntry × State :=
  let key := s.l2KeyOf part l
  match if e.pinned.contains l || key.isNone then none else e.pinned.find? fun p => s.l2KeyOf part p = key with
  | none => (e, s)
  | some p =>
    let seen := e.fetched.contains p || (SMap.find? s.counted p).isSome
    let s := (if seen then s else s.l2Access part vi p 15 false .normal).unpinLines part [p]
    let (b, new, s) := s.pinLine part vi l
    let now (c : Bool) (x : Nat) : List Nat := if c then [x] else []
    ({ e with pinned := now b l ++ e.pinned.erase p, fetched := now new l ++ now (!seen) p ++ e.fetched }, s)

/-- The lines of an operation pinned before it reads them (R240). -/
def State.pinAll (s : State) (part vi : Nat) (e : MatEntry) : MatEntry × State :=
  e.lines.foldl (fun a l => a.2.rotatePin part vi a.1 l) (s.pinLines part vi e)

/-- An operation of a duet's blocks has begun on the follower's array, and the one named has not (R186): a duet operation of the leader keeps
the follower's own operations waiting, and waits itself for one of them that has begun. -/
def State.arrayTaken (s : State) (blk : Nat) (e : MatEntry) : Bool :=
  let b := s.block blk
  match b.peer.map fun p => (s.block p).mq with
  | some (o :: _) => e.pix = 0 && o.pix != 0 && (if b.follower then o.shape.duet else e.shape.duet)
  | _ => false

/-- The operation at the head of a block's mq can go on: the accesses that its issue released towards it are performed (R196), its lines can
be pinned (R240), and the arrays are its own (R186). -/
def State.matReady (s : State) (blk : Nat) : Bool :=
  match (s.block blk).mq with
  | [] => false
  | e :: _ => s.gateOpen e.core e.slot e.gate && s.matRoom blk e && !s.arrayTaken blk e

/-- The operation at the head of a block's mq advances by at most k K groups (R185), or is performed whole when it has none: lines that could
not be pinned at its acceptance are pinned now, and all are unpinned when they have been read (R240).  At its end it leaves the queue, and
joins that are now ready complete. -/
def State.runMatrix (s : State) (blk k : Nat) : State :=
  match (s.block blk).mq with
  | [] => s
  | e :: t =>
    if !s.matReady blk then s
    else
      let part := (s.block blk).part
      let finish (s : State) : State := (s.updBlock blk fun b => { b with mq := t }).clearJoins blk 128
      let multiply (a b : DWord) (f : FmtBlock) (metadata : Option (List (List Word))) : State :=
        let (e, s) := if e.pix = 0 then s.pinAll part (s.block blk).vi e else (e, s)
        let (e, s) := s.performMma blk e a b f metadata k
        let (e, s) := ({ e with pinned := [], fetched := [] }, s.unpinLines part e.pinned)
        if e.pix < mmaGroups f metadata.isSome then s.updBlock blk fun b => { b with mq := e :: t } else finish (s.endMma blk e f)
      match e.kind with
      | .mma a b f => multiply a b f none
      | .mmasp a b f ws => multiply a b f (some ws)
      | .mzacc => finish (s.performZero blk e)
      | .mstacc a st fmt => finish (s.performAcc blk e a st fmt true)
      | .mldacc a st fmt => finish (s.performAcc blk e a st fmt false)
      | .join .. => s

/-- A queue's work in part (R172, R185): n bytes of a copy, in whole words of 4 bytes (R251), n positions of a gather or a scatter, or n K
groups of a matrix operation. -/
def State.progressQ (s : State) (blk q n : Nat) : State :=
  if !s.enginesRun blk then s
  else if q ≤ 3 then s.runAcopy blk q ((n + 3) / 4 * 4)
  else if q = 4 then s.runGath blk n
  else if q = 5 then s.runMatrix blk n
  else s

/-- MATRIX_OP_COMPLETE (R185, R189 to R193): the rest of the operation at the head of mq. -/
def execMatrixOpComplete (blk : Nat) (s : State) : Host.Outcome State Fault Refusal :=
  .next (if s.enginesRun blk then s.runMatrix blk (2 ^ 18) else s)

/-- The next batch of a block can complete (R194): it is closed, and none of its operations is left in mq. -/
def Block.batchReady (b : Block) : Bool :=
  b.batchDone + 1 != b.batch && !(b.mq.any fun e => !e.isJoin && e.batch = b.batchDone + 1)

/-- BATCH_COMPLETE (R194): the flags of the batch reach the MSTAT of the waves that issued its operations (R20, R189). -/
def execBatchComplete (blk : Nat) (s : State) : Host.Outcome State Fault Refusal :=
  .next <|
    let b := s.block blk
    if !s.enginesRun blk || !b.batchReady then s
    else
      let n := b.batchDone + 1
      let s := (b.batchFlags.filter fun p => p.1 = n).foldl (fun s p =>
        if (SMap.find? s.waves p.2.1).isSome then s.updWaveK p.2.1 fun w => w.setMstat (s.cycle w.part) p.2.2 else s) s
      s.updBlock blk fun b => { b with batchDone := n, batchFlags := b.batchFlags.filter fun p => p.1 != n }

/-! ## The words -/

/-- What the checks of R185 step 2 find in a list of ranges, line by line: the faults, the translations, the state with the TLB entries
filled and the owners set. -/
def State.matCheck (s : State) (core blk : Nat) (need : Need) : List (Nat × Nat) → List Raise × List TlbEntry × State
  | [] => ([], [], s)
  | (va, n) :: t =>
    let vi := (s.block blk).vi
    let (rs, ps, s) := (List.range ((va % 128 + n + 127) / 128)).foldl (fun (a : List Raise × List TlbEntry × State) i =>
      let (rs, ps, s) := a
      let x := (if i = 0 then va else va - va % 128 + 128 * i) % 2 ^ 64
      let k := min (va + n - (if i = 0 then va else va - va % 128 + 128 * i)) (toLineEnd x)
      match stashOff x with
      | some off =>
        match s.stashAt blk off k with
        | none => (rs ++ [⟨.stashrange, BitVec.ofNat 64 x⟩], ps, s)
        | some (owner, o) =>
          (match s.winTouch owner o false with
           | .error r => (rs ++ [r], ps, s)
           | .ok (some _, s) =>
             -- a line that no window copies: the access is made at its home, and needs of the page what the operation does
             let va := (s.winVa owner o).getD 0
             match s.translate (s.block owner).core (s.block owner).vi va need with
             | .error r => (rs ++ [r], ps, s)
             | .ok (y, s) => (rs, ps ++ [⟨vi, y.page, y.size, BitVec.ofNat 64 y.pte⟩], s)
           | .ok (none, s) => (rs, ps, s))
      | none =>
        match s.translate core vi x need with
        | .error r => (rs ++ [r], ps, s.walkedFor core vi r)
        | .ok (y, s) =>
          let p : TlbEntry := ⟨vi, y.page, y.size, BitVec.ofNat 64 y.pte⟩
          (rs, if ps.contains p then ps else ps ++ [p], s)) ([], [], s)
    let (rs', ps', s) := s.matCheck core blk need t
    (rs ++ rs', ps ++ ps'.filter fun p => !ps.contains p, s)

/-- The distinct physical lines in HBM or the capacity tier that an operation reads as operands (R240). -/
def State.operandLines (s : State) (vi : Nat) (pins : List TlbEntry) (ranges : List (Nat × Nat)) : List Nat :=
  ranges.foldl (fun l r =>
    (List.range ((r.1 % 128 + r.2 + 127) / 128)).foldl (fun l i =>
      let x := (r.1 - r.1 % 128 + 128 * i) % 2 ^ 64
      match (tlbFind pins vi x).bind fun t => s.xlatOf x t.pte.toNat t.size with
      | some y => if (y.target = .hbm || y.target = .cap) && !l.contains y.line then l ++ [y.line] else l
      | none => l) l) []

/-- An accumulator at or above the block's budget (R23), and a duet shape where the duet role is not 0 (R186). -/
def State.matFaults (s : State) (i : Instr) (sh : Shape) (acc : BitVec 3) : List (Option Raise) :=
  [if (s.block s.cw.blk).desc.acc ≤ acc.toNat then some ⟨.vregrange, BitVec.ofNat 64 (0x100 + acc.toNat)⟩ else none,
   if sh.duet && s.cw.duetRole != 0 then some ⟨.mmarole, (encode i).setWidth 64⟩ else none]

/-- A matrix word issued (R185): the ranges that it reads or writes are checked unless an earlier rule is broken, and the operation goes to
mq through the strand store queue. -/
def State.issueMatrix (s : State) (i : Instr) (m : Bool) (sh : Shape) (acc : BitVec 3) (reads : List Nat)
    (early : List (Option Raise)) (need : Need) (ranges : List (Nat × Nat)) (operands : Bool) (kind : MatKind) :
    Host.Outcome State Fault Refusal :=
  let blk := s.cw.blk
  let clean := (early.filterMap id).isEmpty
  let (rs, pins, _) := if clean then s.matCheck s.cur.1 blk need ranges else ([], [], s)
  let s := if reads.any s.cw.isPending then s else rs.foldl (fun t r => t.walkedFor s.cur.1 s.cw.vi r) s
  let e : MatEntry :=
    { kind := kind, shape := sh, acc := acc.toNat, core := s.cur.1, slot := s.cur.2.1, pc := s.cs.start, word := encode i, pins := pins,
      lines := if operands && rs.isEmpty then s.operandLines s.cw.vi pins ranges else [] }
  s.runQ i m [] reads (s.matFaults i sh acc ++ early ++ rs.map some) (s.entryOf i (.matrix e) s.cs.memb true) fun t =>
    (t.matCheck s.cur.1 blk need ranges).2.2

/-- The first of a list of values that is not a multiple of its unit, as ALIGN reports it. -/
def firstUnaligned (l : List (Nat × Nat)) : Option Raise :=
  (l.find? fun p => p.1 % p.2 != 0).map fun p => ⟨.align, BitVec.ofNat 64 p.1⟩

/-- The format block in eight registers (R187). -/
def State.fmtBlock (s : State) (r : Nat) : FmtBlock :=
  let w0 := (s.sr r).toNat
  { cb := w0 / 2 ^ 12 % 2 = 1
    ca := w0 / 2 ^ 11 % 2 = 1
    narrow := w0 / 2 ^ 10 % 2 = 1
    blk := 16 * 2 ^ (w0 / 2 ^ 8 % 4)
    bfmt := w0 / 16 % 16
    afmt := w0 % 16
    kg := (s.sr (r + 1)).toNat % 2 ^ 16
    astr := (s.sr (r + 2)).toNat
    bstr := (s.sr (r + 3)).toNat
    ascl := s.sp (r + 4)
    bscl := s.sp (r + 6) }

/-- The rules of R187 that raise MFMT. -/
def State.fmtBad (s : State) (r : Nat) (sparse : Bool) : Bool :=
  let f := s.fmtBlock r
  8 < f.afmt || 8 < f.bfmt || matWidth f.afmt != matWidth f.bfmt || matInt f.afmt != matInt f.bfmt ||
  (f.narrow && matInt f.afmt) || (f.afmt ≤ 3 && f.blk = 128) || f.kg = 0 ||
  (s.sr r).toNat / 2 ^ 13 != 0 || (s.sr (r + 1)).toNat / 2 ^ 16 != 0 || (sparse && f.afmt = 8)

/-- MMA and MMASP issued (R185, R187 to R191): `metadata` gives the first metadata register and the row-group selector.  The register that v4 names
is checked whatever KG and G make of the range (R11).  R187 gives a reserved AFMT (9 to 15) no G: that its metadata registers are counted with the
G of an 8-bit format, 32, so that VREGRANGE can come before MFMT, is the model's choice (log entry 95). -/
def State.issueMma (s : State) (i : Instr) (m : Bool) (sh : Shape) (acc : BitVec 3) (a b : BitVec 5) (f : BitVec 3)
    (metadata : Option (Nat × Nat)) : Host.Outcome State Fault Refusal :=
  let (ra, rb, rf) := (2 * a.toNat, 2 * b.toNat, 8 * f.toNat)
  let fb := s.fmtBlock rf
  let bad := s.fmtBad rf metadata.isSome
  let words := fb.kg * (256 / matWidth fb.afmt) / 16
  let (pa, pb) := (s.sp ra, s.sp rb)
  let align := firstUnaligned
    ([(pa.toNat, 32), (pb.toNat, 32), (fb.astr, 32), (fb.bstr, 32)] ++
      (if fb.afmt ≤ 3 then [(fb.ascl.toNat, 2), (fb.bscl.toNat, 2)] else []))
  let early :=
    (match metadata with | some (v, _) => s.cw.vranges v (max 1 words) | none => []) ++
    [if bad then some ⟨.mfmt, (encode i).setWidth 64⟩ else none, if bad then none else align]
  let kind : MatKind :=
    match metadata with
    | none => .mma pa pb fb
    | some (v, rg) => .mmasp pa pb fb ((List.range sh.rows).map fun r => (List.range words).map fun k =>
        s.cw.vreg (v + k) ((16 * rg + r) % 96))
  s.issueMatrix i m sh acc (pairRegs ra ++ pairRegs rb ++ blockRegs rf 8) early .rd (mmaRanges sh pa pb fb metadata.isSome) true kind

/-- MMA (R189). -/
def execMma (m : Bool) (sh : Shape) (acc : BitVec 3) (a b : BitVec 5) (f : BitVec 3) (s : State) : Host.Outcome State Fault Refusal :=
  s.issueMma (.mma m sh acc a b f) m sh acc a b f none

/-- MMASP (R191): v4 and aux of its XMOD name the metadata. -/
def execMmasp (m : Bool) (sh : Shape) (acc : BitVec 3) (a b : BitVec 5) (f : BitVec 3) (s : State) : Host.Outcome State Fault Refusal :=
  let x := s.cs.xmod
  s.issueMma (.mmasp m sh acc a b f) m sh acc a b f
    (some ((x.map fun x => x.v4.toNat).getD 0, (x.map fun x => x.aux.toNat).getD 0))

/-- MZACC (R192). -/
def execMzacc (m : Bool) (sh : Shape) (acc : BitVec 3) (s : State) : Host.Outcome State Fault Refusal :=
  s.issueMatrix (.mzacc m sh acc) m sh acc [] [] .rd [] false .mzacc

/-- MSTACC and MLDACC issued (R193). -/
def State.issueAcc (s : State) (i : Instr) (m : Bool) (sh : Shape) (acc : BitVec 3) (a b : BitVec 5) (fmt : AccFmt) (store : Bool) :
    Host.Outcome State Fault Refusal :=
  let (ra, rb) := (2 * a.toNat, 2 * b.toNat)
  let addr := s.sp ra
  let stride := (s.sr rb).toNat
  let early := [if s.sr (rb + 1) = 0 then none else some ⟨.mfmt, (encode i).setWidth 64⟩,
    firstUnaligned [(addr.toNat, fmt.bytes), (stride, fmt.bytes)]]
  s.issueMatrix i m sh acc (pairRegs ra ++ pairRegs rb) early (if store then .wr else .rd)
    ((List.range sh.rows).map fun r => ((addr.toNat + r * stride) % 2 ^ 64, sh.cols * fmt.bytes)) false
    (if store then .mstacc addr stride fmt else .mldacc addr stride fmt)

/-- MSTACC (R193). -/
def execMstacc (m : Bool) (sh : Shape) (acc : BitVec 3) (a b : BitVec 5) (fmt : AccFmt) (s : State) : Host.Outcome State Fault Refusal :=
  s.issueAcc (.mstacc m sh acc a b fmt) m sh acc a b fmt true

/-- MLDACC (R193). -/
def execMldacc (m : Bool) (sh : Shape) (acc : BitVec 3) (a b : BitVec 5) (fmt : AccFmt) (s : State) : Host.Outcome State Fault Refusal :=
  s.issueAcc (.mldacc m sh acc a b fmt) m sh acc a b fmt false

/-- MFENCE (R194). -/
def execMfence (m : Bool) (d : SReg) (s : State) : Host.Outcome State Fault Refusal :=
  let i : Instr := .mfence m d
  let n := (s.block s.cw.blk).batch
  s.run i m (s.sdest d.toNat 1) [] [] fun t =>
    s.result i { strand := 0, sca := scalarOut d n.toNat } (t.updBlock s.cw.blk fun b => { b with batch := n + 1 })

end Sys2Proof.Machine
end

