-- ==== Sys2Proof/Machine/Coll.lean ====
section
/-! DEFINITION. Collectives: COLL and its completion (R197, R198). -/

namespace Sys2Proof.Machine

/-- The element size of a type code (R197). -/
def collSize (ty : Nat) : Nat :=
  match ty with
  | 1 | 2 => 2
  | 5 | 6 => 8
  | 7 => 1
  | _ => 4

/-- The float format of a type code. -/
def collFmt (ty : Nat) : Option Fmt :=
  match ty with
  | 0 => some Fmt.f32
  | 1 => some Fmt.bf16
  | 2 => some Fmt.f16
  | 5 => some Fmt.f64
  | _ => none

/-- One combining step (R198): floats round RNE and keep subnormals, integer sums wrap, max and min of floats follow R88. -/
def collStep (ty redop a b : Nat) : Nat :=
  let n := 8 * collSize ty
  match collFmt ty with
  | some F => if redop = 0 then (F.add ⟨.rne, false⟩ a b).bits else (F.minMax ⟨.rne, false⟩ (redop = 1) a b).bits
  | none => if redop = 0 then (a + b) % 2 ^ n else minInt n (ty != 4) (redop = 1) a b

/-- The values of the members combined in an order. -/
def collFold (ty redop : Nat) (vals : Nat → Nat) : List Nat → Nat
  | [] => 0
  | u :: t => t.foldl (fun acc v => collStep ty redop acc (vals v)) (vals u)

/-- The lengths in bytes of what a member sends and receives (R198). -/
def collLens (op n m sz : Nat) : Nat × Nat :=
  match op with
  | 0 | 3 => (n * sz, n * sz)
  | 1 => (n * sz, m * n * sz)
  | 2 => (m * n * sz, n * sz)
  | _ => (0, 0)

/-- The operands break a rule of R198 that the member can see itself.  A broadcast whose root names no member, which the rule's list does not
name, completes with RANGE too (log entry 37). -/
def collRange (g : Option Group) (send recv n root ty op : Nat) (ok : Bool) : Bool :=
  match g with
  | none => true
  | some g =>
    let sz := collSize ty
    let (ls, lr) := collLens op n g.m sz
    !ok || (ty = 7 && (op = 0 || op = 2)) || send % sz != 0 || recv % sz != 0 ||
    (overlap [(send, ls)] [(recv, lr)] && !(send = recv && (op = 0 || op = 3))) ||
    (op = 4 && n != 0) || (op = 3 && g.m ≤ root)

/-- Element i of the output (R198). -/
def collElem (data : List Nat) (order : List Nat) (n q root redop ty op i : Nat) : Nat :=
  let w := 8 * collSize ty
  let at_ (u j : Nat) : Nat := data.getD u 0 / 2 ^ (w * j) % 2 ^ w
  match op with
  | 0 => collFold ty redop (fun u => at_ u i) order
  | 1 => at_ (i / n) (i % n)
  | 2 => collFold ty redop (fun u => at_ u (q * n + i)) order
  | _ => at_ root i

/-- Bytes read by the collective engine: stash lines at their stash, global ones at the home. -/
def State.collRead (s : State) (g : Agent) : Nat → Nat → Nat → Except Raise (Nat × State)
  | 0, _, _ => .ok (0, s)
  | fuel + 1, va, n =>
    if n = 0 then .ok (0, s)
    else
      let k := min n (toLineEnd va)
      let piece : Except Raise (Nat × State) :=
        match stashOff va with
        | some off =>
          match s.stashAt g.blk off k with
          | none => .error ⟨.stashrange, BitVec.ofNat 64 va⟩
          | some (owner, o) =>
            match s.winTouch owner o false with
            | .error r => .error r
            | .ok (some x, s) =>
              let x := { x with pa := x.pa + o % 128 }
              if s.badFor g x k true then .error (x.fault va .mcheck) else .ok (s.readGlobal g x k true)
            | .ok (none, s) =>
              if (s.block owner).bad.contains (o / 128) then .error ⟨.mcheck, BitVec.ofNat 64 va⟩
              else .ok (Memory.read (s.block owner).stash o k, s)
        | none => (s.readVirt g.vi va k).map fun l => (leNat l, s.countVirt g.part g.vi va k false)
      match piece with
      | .error r => .error r
      | .ok (v, s) => (s.collRead g fuel (va + k) (n - k)).map fun p => (v + 2 ^ (8 * k) * p.1, p.2)

/-- Bytes written by the collective engine. -/
def State.collWrite (s : State) (g : Agent) : Nat → Nat → Nat → Nat → Except Raise State
  | 0, _, _, _ => .ok s
  | fuel + 1, va, n, v =>
    if n = 0 then .ok s
    else
      let k := min n (toLineEnd va)
      let piece : Except Raise State :=
        match stashOff va with
        | some off =>
          match s.stashAt g.blk off k with
          | none => .error ⟨.stashrange, BitVec.ofNat 64 va⟩
          | some (owner, o) => (s.winTouch owner o true).map fun p =>
              match p with
              | (some x, s) => s.writeHome g { x with pa := x.pa + o % 128 } k (v % 2 ^ (8 * k))
              | (none, s) => s.updBlock owner fun b => { b with stash := Memory.write b.stash o k v }
        | none => (s.writeVirt g.vi va (leBytes k v)).map fun s => s.countVirt g.part g.vi va k true
      match piece with
      | .error r => .error r
      | .ok s => s.wakeFutures.collWrite g fuel (va + k) (n - k) (v / 2 ^ (8 * k))

/-- A list that holds each member once. -/
def isOrder (m : Nat) (l : List Nat) : Bool := l.length = m && (List.range m).all l.contains

/-- The members' data as numbers: this member's own, and the others' as they arrived. -/
def collData (data : List (List Byte)) (q own : Nat) : List Nat := data.zipIdx.map fun p => if p.2 = q then own else leNat p.1

/-- The head of a block's xq completes with what the other members brought (R198). -/
def State.runColl (s : State) (blk : Nat) (inp : CollInput) : State :=
  match SMap.get [] (s.block blk).queues 6 with
  | [] => s
  | e :: _ =>
    match e.op with
    | .coll sd rv n gid root redop ty op ok =>
      let g := s.engAgent blk e
      let grp := SMap.find? (s.vi g.vi).groups gid
      if !s.headOpen blk 6 then s
      else if collRange grp sd.toNat rv.toNat n root ty op ok then s.endEntry blk 6 4
      else
        let grp := grp.getD {}
        let sz := collSize ty
        let (ls, lr) := collLens op n grp.m sz
        match inp with
        | .disagree => s.endEntry blk 6 4
        | .lost => s.failEntry blk 6 ⟨.mcheck, 0⟩ true
        | .sends data order =>
          if data.length != grp.m || !isOrder grp.m order || data.any (fun d => d.length != ls) then s
          else
            match s.collRead g (ls / 128 + 2) sd.toNat (if op = 3 && grp.q != root then 0 else ls) with
            | .error r => s.failEntry blk 6 r
            | .ok (own, s) =>
              let vals := collData data grp.q own
              let out := ((List.range (lr / sz)).map fun i => 2 ^ (8 * sz * i) * collElem vals order n grp.q root redop ty op i).foldl
                (· + ·) 0
              match s.collWrite g (lr / 128 + 2) rv.toNat lr out with
              | .error r => s.failEntry blk 6 r
              | .ok s => (s.addMeter g.vi 15 (if grp.m < 2 then 0 else Config.collBytes op n sz grp.m grp.q)).endEntry blk 6 0
    | _ => s

/-- The parameter block obeys its must-be-zero fields and its codes (R197). -/
def collFieldsOk (c g f h : Nat) : Bool :=
  c / 2 ^ 24 = 0 && g / 2 ^ 16 = 0 && f / 2 ^ 12 % 16 = 0 && h = 0 && f / 2 ^ 8 % 16 ≤ 2 && f / 16 % 16 ≤ 7 && f % 16 ≤ 4

/-- COLL (R197). -/
def execColl (m : Bool) (d a : SReg) (s : State) : Host.Outcome State Fault Refusal :=
  let r := a.toNat
  let (c, g, f, h) := ((s.sr (r + 4)).toNat, (s.sr (r + 5)).toNat, (s.sr (r + 6)).toNat, (s.sr (r + 7)).toNat)
  s.issueEngine (.coll m d a) m d (blockRegs r 8) 6
    (.coll (s.sp r) (s.sp (r + 2)) (c % 2 ^ 24) (g % 2 ^ 16) (f / 2 ^ 16) (f / 2 ^ 8 % 16) (f / 16 % 16) (f % 16) (collFieldsOk c g f h))

/-- COLL_COMPLETE (R198). -/
def execCollComplete (blk : Nat) (inp : CollInput) (s : State) : Host.Outcome State Fault Refusal :=
  .next (if s.enginesRun blk then s.runColl blk inp else s)

end Sys2Proof.Machine
end

