-- ==== Sys2Proof/Machine/Tasks.lean ====
section
/-! DEFINITION. The Carousel's heap operations (R199 to R202), the stage ring words (R203 to R205), and the words of class 6 that send
them. -/

namespace Sys2Proof.Machine

/-! ## Heaps and records (R199) -/

/-- A configured heap of a partition. -/
def State.heap (s : State) (part id : Nat) : Option Heap := SMap.find? (s.part part).heaps id

/-- The state with a configured heap changed. -/
def State.updHeap (s : State) (part id : Nat) (f : Heap → Heap) : State :=
  s.updPart part fun p =>
    match SMap.find? p.heaps id with
    | some h => { p with heaps := SMap.put p.heaps id (f h) }
    | none => p

/-- The states of a record (R199). -/
def tIdle : Nat := 0
@[inherit_doc tIdle] def tQueued : Nat := 1
@[inherit_doc tIdle] def tRunning : Nat := 2
@[inherit_doc tIdle] def tDone : Nat := 3

/-- The state of a record. -/
def TaskRec.st (r : TaskRec) : Nat := r.state.toNat % 4

/-- The generation of a record. -/
def TaskRec.gen (r : TaskRec) : Nat := r.state.toNat / 2 ^ 8

/-- A record put into a state: an entry into QUEUED counts in the generation (R199). -/
def TaskRec.setSt (r : TaskRec) (st : Nat) : TaskRec :=
  { r with state := BitVec.ofNat 32 ((r.gen + (if st = tQueued then 1 else 0)) % 2 ^ 24 * 2 ^ 8 + st) }

/-- The address of a record (R199). -/
def Heap.recAddr (h : Heap) (idx : Nat) : Nat := h.base.toNat + 48 * idx

/-- The fields of a record as memory holds them (R199). -/
def TaskRec.ofBytes (l : List Byte) : TaskRec :=
  let word (o : Nat) : Word := BitVec.ofNat 32 (leNat ((l.drop o).take 4))
  { code := word 4 ++ word 0, frame := word 12 ++ word 8, parent := word 16, join := word 20, gain := word 24, pending := word 28,
    state := word 32 }

/-- The bytes of a record from its join counter on. -/
def TaskRec.tail (r : TaskRec) : List Byte :=
  leBytes 4 r.join.toNat ++ leBytes 4 r.gain.toNat ++ leBytes 4 r.pending.toNat ++ leBytes 4 r.state.toNat

/-- A record as its controller knows it: its own copy, or memory's (R199); none when memory cannot be read (R200). -/
def State.taskRead (s : State) (h : Heap) (idx : Nat) : Option TaskRec :=
  match SMap.find? h.recs idx with
  | some r => some r
  | none =>
    match s.readVirt h.vi (h.recAddr idx) 36 with
    | .ok l => some (TaskRec.ofBytes l)
    | .error _ => none

/-- A record that its controller reads from memory is read through L2 (R235). -/
def State.taskSeen (s : State) (part : Nat) (h : Heap) (idx : Nat) : State :=
  if (SMap.find? h.recs idx).isSome then s else s.countVirt part h.vi (h.recAddr idx) 36 false

/-- A record of R173 that a controller posts, counted for the packet of a run. -/
def State.postHeap (s : State) (vi : Nat) (pkt : Option Nat) (va cause : Nat) : State :=
  let s := s.postError vi { va := BitVec.ofNat 64 va, cause := cause, queue := 7 }
  match pkt with
  | some p => s.updPkt p fun x => { x with errors := x.errors + 1 }
  | none => s

/-- A record changed: the controller keeps a copy while the record is QUEUED or RUNNING, and after a write that faults; memory is written
(R199).  The memory copy of gain and pending of such a record may lag behind the controller's: that it is always written in the same step,
and so never lags, is the model's choice (log entry 85). -/
def State.taskWrite (s : State) (part id idx : Nat) (r : TaskRec) : State :=
  match s.heap part id with
  | none => s
  | some h =>
    match s.writeVirt h.vi (h.recAddr idx + 20) r.tail with
    | .ok s =>
      let held (h : Heap) : SMap TaskRec := if r.st = tQueued || r.st = tRunning then SMap.put h.recs idx r else SMap.erase h.recs idx
      ((s.countVirt part h.vi (h.recAddr idx + 20) 16 true).updHeap part id fun h => { h with recs := held h }).wakeFutures
    | .error x =>
      ((s.walkVirt part h.vi (h.recAddr idx + 20) 16).updHeap part id fun h => { h with recs := SMap.put h.recs idx r }).postHeap h.vi (h.run.map fun u => u.packet)
        (h.recAddr idx) x.cause.code

/-! ## Gains and the residual (R201) -/

/-- clamp (R201). -/
def clampGain (x : Nat) : Nat :=
  if x = Fmt.f32.infBits then Fmt.f32.maxBits else if x = 0 || 2 ^ 31 ≤ x then 0 else x

/-- A sum of gains, rounded in binary32. -/
def gainAdd (a b : Word) : Nat := (Fmt.f32.add ⟨.rne, false⟩ a.toNat b.toNat).bits

/-- The SRR after v takes the place of old: the exact difference added, rounded once in binary64 (R201). -/
def srrAdd (srr : DWord) (v old : Word) : DWord :=
  match Fmt.f64.unpack srr.toNat, Fmt.f32.unpack v.toNat, Fmt.f32.unpack old.toNat with
  | .fin n m e, x@(.fin ..), y@(.fin ..) =>
    let (t, u) := exactSum [.fin n m e, x, y.negate]
    if t = 0 then 0 else BitVec.ofNat 64 (Fmt.f64.round .rne (t < 0) t.natAbs u).bits
  | _, _, _ => srr

/-- A gain reaches the insert threshold. -/
def reaches (v thr : Word) : Bool :=
  match Fmt.f32.compare v.toNat (if thr = 0x80000000 then 0 else thr.toNat) with
  | some .lt => false
  | some _ => true
  | none => false

/-- op(o, g) of the gain operations (R201). -/
def gainOp (k : HeapKind) (o g : Word) : Word :=
  BitVec.ofNat 32 (clampGain (match k with
    | .gaina => gainAdd o g
    | .gainm => (Fmt.f32.minMax ⟨.rne, false⟩ true o.toNat g.toNat).bits
    | _ => g.toNat))

/-- A value that TENQ and the gain operations refuse (R200). -/
def badGain (g : Word) : Bool := g.toNat / 2 ^ 23 % 2 ^ 8 = 255

/-- SRR is below the tolerance: the stop latch of a run is set (R295). -/
def Heap.latch (h : Heap) : Heap :=
  { h with run := h.run.map fun r =>
      { r with latch := r.latch || Fmt.f64.compare h.srr.toNat h.tol.toNat = some .lt } }

/-- The heap's SRR after v takes the place of old, with the stop latch. -/
def State.residual (s : State) (part id : Nat) (v old : Word) : State :=
  s.updHeap part id fun h => { h with srr := srrAdd h.srr v old }

/-! ## Operations performed (R200, R201) -/

/-- The operation comes from a live wave. -/
def State.opWave (s : State) (o : HeapOp) : Bool := o.slot < 64 && (SMap.find? s.waves (waveKey o.core o.slot)).isSome

/-- A lane's operation fails (R200). -/
def State.failHeapOp (s : State) (o : HeapOp) : State :=
  if s.opWave o then s.note o.core o.slot o.strand ⟨.heaperr, o.handle.setWidth 64, 1#96 <<< o.lane, o.word⟩ else s

/-- An insertion with a gain (R201). -/
def TaskRec.queued (r : TaskRec) (v : Word) : TaskRec := { r with gain := v, pending := 0 }.setSt tQueued

/-- A gain operation on a record (R201): the record, the value that the residual gains, the one it loses, and whether it was dropped. -/
def gainStep (k : HeapKind) (thr : Word) (r : TaskRec) (g : Word) : TaskRec × Word × Word × Bool :=
  if r.st = tQueued then
    let v := gainOp k r.gain g
    ({ r with gain := v }, v, r.gain, false)
  else if r.st = tRunning then
    let v := gainOp k r.pending g
    ({ r with pending := v }, v, r.pending, false)
  else if r.st = tIdle then
    let v := gainOp k r.pending g
    (if reaches v thr then r.queued v else { r with pending := v }, v, r.pending, false)
  else (r, 0, 0, true)

/-- TDONE on a running record (R201): its parent's update is sent to the parent's controller, or stays with this one when the parent's
heap is not configured. -/
def State.taskDone (s : State) (part id idx : Nat) (h : Heap) (r : TaskRec) : State :=
  let s := s.residual part id 0 r.gain
  if reaches r.pending h.thr then s.taskWrite part id idx (r.queued r.pending)
  else
    let s := s.taskWrite part id idx (r.setSt tDone)
    if r.parent = 0xFFFFFFFF then s
    else
      let p := r.parent.toNat / 2 ^ 26
      let up : Word × Nat := (r.parent, (h.run.map fun u => u.packet + 1).getD 0)
      s.updHeap part (if (s.heap part p).isSome then p else id) fun h => { h with parentUps := h.parentUps ++ [up] }

/-- An operation performed on its record (R200, R201). -/
def State.heapOp (s : State) (part id : Nat) (h : Heap) (o : HeapOp) : State :=
  let idx := o.handle.toNat % 2 ^ 26
  match o.kind with
  | .hres =>
    if s.opWave o then s.updWave o.core o.slot fun w => w.addOut
      { strand := o.strand, sca := pairOut (BitVec.ofNat 6 o.d) h.srr, word := o.word, after := o.after, seq := o.seq }
    else s
  | _ =>
    if h.cap ≤ idx then s.failHeapOp o
    else match s.taskRead h idx with
      | none => (s.walkVirt part h.vi (h.recAddr idx) 36).failHeapOp o
      | some r =>
        let s := s.taskSeen part h idx
        match o.kind with
        | .tenq =>
          if badGain o.val || r.st != tIdle then s.failHeapOp o
          else
            let v := BitVec.ofNat 32 (clampGain (gainAdd r.pending o.val))
            (s.residual part id v r.pending).taskWrite part id idx (r.queued v)
        | .gaina | .gainm | .gains =>
          if badGain o.val then s.failHeapOp o
          else
            let (r', v, old, drop) := gainStep o.kind h.thr r o.val
            if drop then s.updHeap part id fun h => { h with dropped := h.dropped + 1 }
            else (s.residual part id v old).taskWrite part id idx r'
        | .tdone =>
          if o.slot = 64 then
            if r.st = tRunning && r.gen = o.val.toNat then s.taskDone part id idx h r else s
          else if r.st = tRunning then s.taskDone part id idx h r
          else s.failHeapOp o
        | .tjset => if r.st = tIdle then s.taskWrite part id idx { r with join := o.val } else s.failHeapOp o
        | .hres => s

/-- The first arrival at a heap's controller performed (R200): its wave has one operation fewer outstanding. -/
def State.performHeap (s : State) (part id : Nat) : State :=
  match s.heap part id with
  | none => s
  | some h =>
    match h.arrivals with
    | [] => s
    | o :: t =>
      let s := s.updHeap part id fun h => { h with arrivals := t }
      let s := s.heapOp part id h o
      let s := if s.opWave o then s.updWave o.core o.slot fun w => { w with heapOut := w.heapOut.erase o.strand } else s
      s.updHeap part id Heap.latch

/-- HEAP_OP_PERFORM (R201). -/
def execHeapOpPerform (part heap : Nat) (s : State) : Host.Outcome State Fault Refusal := .next (s.performHeap part heap)

/-- The parent's part of a TDONE (R201). -/
def State.parentUpdate (s : State) (part id : Nat) : State :=
  match s.heap part id with
  | none => s
  | some h =>
    match h.parentUps with
    | [] => s
    | (p, k) :: t =>
      let s := s.updHeap part id fun h => { h with parentUps := t }
      let pkt := if k = 0 then none else some (k - 1)
      let idx := p.toNat % 2 ^ 26
      if p.toNat / 2 ^ 26 != id then s.postHeap h.vi pkt 0 Cause.heaperr.code
      else
        let skip := s.postHeap h.vi pkt (h.recAddr idx) Cause.heaperr.code
        if h.cap ≤ idx then skip
        else match s.taskRead h idx with
          | none => (s.walkVirt part h.vi (h.recAddr idx) 36).postHeap h.vi pkt (h.recAddr idx) Cause.heaperr.code
          | some r =>
            let s := s.taskSeen part h idx
            if r.join = 0 then s
            else
              let r := { r with join := r.join - 1 }
              if r.join = 0 && r.st = tIdle then
                ((s.residual part id r.gain 0).taskWrite part id idx
                  (r.queued (BitVec.ofNat 32 (clampGain (gainAdd r.gain r.pending))))).updHeap part id Heap.latch
              else s.taskWrite part id idx r

/-- TDONE_PARENT_UPDATE (R201). -/
def execTdoneParentUpdate (part heap : Nat) (s : State) : Host.Outcome State Fault Refusal := .next (s.parentUpdate part heap)

/-! ## The words that send heap operations (R200, R202) -/

/-- A heap word issued: each lane of EXM sends its handle and its value. -/
def State.issueHeap (s : State) (i : Instr) (m : Bool) (a : VReg) (kind : HeapKind) (k : Kind) (b : Option Code) :
    Host.Outcome State Fault Refusal :=
  let ops := (lanesOf s.exm).map fun l =>
    (l, s.cw.vreg a.toNat l, BitVec.ofNat 32 (match b with | some c => s.operand k c l | none => 0))
  s.runQ i m
    (s.cw.vrange a.toNat :: (match b with | some c => s.cw.codeRange k c | none => []))
    (match b with | some c => codeRegs k c | none => []) []
    (s.entryOf i (.heap kind ops) s.exm true)

/-- TENQ (R200, R201). -/
def execTenq (m : Bool) (a : VReg) (b : Code) (s : State) : Host.Outcome State Fault Refusal :=
  s.issueHeap (.tenq m a b) m a .tenq .f32 (some b)

/-- TGAINA (R200, R201). -/
def execTgaina (m : Bool) (a : VReg) (b : Code) (s : State) : Host.Outcome State Fault Refusal :=
  s.issueHeap (.tgaina m a b) m a .gaina .f32 (some b)

/-- TGAINM (R200, R201). -/
def execTgainm (m : Bool) (a : VReg) (b : Code) (s : State) : Host.Outcome State Fault Refusal :=
  s.issueHeap (.tgainm m a b) m a .gainm .f32 (some b)

/-- TGAINS (R200, R201). -/
def execTgains (m : Bool) (a : VReg) (b : Code) (s : State) : Host.Outcome State Fault Refusal :=
  s.issueHeap (.tgains m a b) m a .gains .f32 (some b)

/-- TDONE (R200, R201). -/
def execTdone (m : Bool) (a : VReg) (s : State) : Host.Outcome State Fault Refusal :=
  s.issueHeap (.tdone m a) m a .tdone .i32 none

/-- TJSET (R200, R201). -/
def execTjset (m : Bool) (a : VReg) (b : Code) (s : State) : Host.Outcome State Fault Refusal :=
  s.issueHeap (.tjset m a b) m a .tjset .i32 (some b)

/-- HRES (R202): the read stands behind every operation that arrived before it. -/
def execHres (m : Bool) (d : SReg) (heap : BitVec 6) (s : State) : Host.Outcome State Fault Refusal :=
  let i : Instr := .hres m d heap
  let h : Word := heap.setWidth 32 <<< 26
  s.run i m (s.sdest d.toNat 2) [] [] fun t =>
    if (t.heap t.cw.part heap.toNat).isSome then
      let o : HeapOp := ⟨s.cur.1, s.cur.2.1, s.cur.2.2, 0, .hres, h, 0, d.toNat, s.cs.pc + 4, encode i, s.cs.issued + 1⟩
      (t.updHeap t.cw.part heap.toNat fun x => { x with arrivals := x.arrivals ++ [o] }).updCw fun w =>
        { w with heapOut := w.heapOut ++ [s.cur.2.2] }
    else t.note s.cur.1 s.cur.2.1 s.cur.2.2 ⟨.heaperr, h.setWidth 64, s.exm, encode i⟩

/-! ## Stage rings (R203 to R205) -/

/-- RINGP and RINGC issued (R204): a strand whose operation waits at the ring parks there.  One whose entry was held at issue has run on, and
does not park when its release finds the ring not ready (log entry 62). -/
def State.issueRing (s : State) (i : Instr) (m : Bool) (d a : SReg) (prod : Bool) (ring : BitVec 2) :
    Host.Outcome State Fault Refusal :=
  let q := s.entryOf i (.ring prod ring.toNat (s.sr a.toNat) d.toNat) s.cs.memb true
  s.run i m (s.sdest d.toNat 1) [a.toNat] [] (fun t =>
    let t := t.issueQ s.cur.1 s.cur.2.1 q
    if t.ringWaits s.cur.1 s.cur.2.1 s.cur.2.2 then t.parkUntil .ring i else t) (s.busyFor q)

/-- RINGP (R204). -/
def execRingp (m : Bool) (d a : SReg) (ring : BitVec 2) (s : State) : Host.Outcome State Fault Refusal :=
  s.issueRing (.ringp m d a ring) m d a true ring

/-- RINGC (R204). -/
def execRingc (m : Bool) (d a : SReg) (ring : BitVec 2) (s : State) : Host.Outcome State Fault Refusal :=
  s.issueRing (.ringc m d a ring) m d a false ring

/-- RINGQ (R205). -/
def execRingq (m : Bool) (d : SReg) (ring : BitVec 2) (s : State) : Host.Outcome State Fault Refusal :=
  let i : Instr := .ringq m d ring
  let r : Ring := SMap.get {} (s.block s.cw.blk).rings ring.toNat
  s.run i m (s.sdest d.toNat 1) [] []
    (s.result i { strand := 0, sca := scalarOut d (if r.cnt = 0 then 0xFFFFFFFF else (r.pf - r.cc).toNat) })

end Sys2Proof.Machine
end

