-- ==== Sys2Proof/Machine/Boot.lean ====
section
/-! DEFINITION. Physical accesses at the home slices (R235, R266, R357), boot with its attestation (R337, R338), and the registers of the physical
function as the host writes them (R328). -/

namespace Sys2Proof.Machine

/-! ## Physical accesses at the home -/

/-- n bytes at a physical address, with every tracked copy combined in. -/
def State.physRead (s : State) (a n : Nat) : List Byte := (List.range n).map fun i => BitVec.ofNat 8 (s.homeRead (a + i) 1)

/-- The partition at whose slices a physical line has its home: the one whose L2 holds it, else the owner of its HBM (log entry 78). -/
def State.homePart (s : State) (line : Nat) : Option Nat :=
  ((s.parts.find? fun p => p.2.size != 0 && (SMap.get [] s.l2 (l2Key p.1 p.2.size line)).any fun w => w.line = line).map (·.1)).or
    (if line * 128 < 0x9000000000 then s.hbmOwner (line * 128) else none)

/-- The VI of a partition whose retention slot holds a line; 64, which is none, where no slot does (R181, R235). -/
def State.slotVi (s : State) (part line : Nat) : Nat :=
  ((s.vis.find? fun v => v.2.part = some part && (v.2.retSlot line).isSome).map (·.1)).getD 64

/-- The lines of a physical range as an access at their home slices meets them (R228, R235, R237): copies are recalled, and each is one line
access. -/
def State.physTouch (s : State) (a n : Nat) (write : Bool) : State :=
  (List.range ((a % 128 + n + 127) / 128)).foldl (fun s i =>
    let lo := max a (a - a % 128 + 128 * i)
    let line := lo / 128
    let s := s.recall line (!write) none none
    match s.homePart line with
    | some p => s.l2Access p (s.slotVi p line) line (sectorsOf lo (min (a + n) (128 * (line + 1)) - lo)) write .normal
    | none => s) s

/-- The payload of a response that this device sends to another one (R341 meter 15), line by line: it is charged to the VI whose tag the line carries
at its home, and where none does, to none (log entry 45). -/
def State.sendPayload (s : State) (a n : Nat) : State :=
  (List.range ((a % 128 + n + 127) / 128)).foldl (fun s i =>
    let lo := max a (a - a % 128 + 128 * i)
    let line := lo / 128
    let way := (s.homePart line).bind fun p => (s.l2KeyOf p line).bind fun key => (SMap.get [] s.l2 key).find? fun w => w.line = line
    match way.filter fun w => w.vi < 64 with
    | some w => s.addMeter w.vi 15 (min (a + n) (128 * (line + 1)) - lo)
    | none => s) s

/-- Bytes put at a physical address at the home. -/
def State.physPut (s : State) : Nat → List Byte → State
  | _, [] => s
  | a, b :: t => (s.homeByte a b).physPut (a + 1) t

/-- Bytes written at a physical address at the home. -/
def State.physWrite (s : State) (a : Nat) (l : List Byte) : State := (s.physTouch a l.length true).physPut a l

/-- Where host memory stands in the physical map (R326). -/
def hostBase : Nat := 0x400000000000

/-- The end of the device's HBM (R326). -/
def hbmEnd : Nat := 0x9000000000

/-! ## Boot (R337, R338) -/

/-- The image at IMGBASE. -/
def State.imageBytes (s : State) : List Byte := s.physRead (hostBase + s.dev.imgBase.toNat) s.dev.imgLen

/-- The host's image passes the checks of the ROM (R337).  An IMGBASE that is not a multiple of 4,096 or a length beyond 64 MiB fails them
(log entry 6). -/
def State.imageGood (s : State) : Bool :=
  s.dev.imgBase.toNat % 4096 = 0 && s.dev.imgLen ≤ 2 ^ 26 && Config.imageOk s.imageBytes

/-- IMGGO (R328): a write starts the verification of the image at IMGBASE.  A device that awaits an image, or has failed, boots from it; in any
other stage the result is noted and the stage stays (log entry 6). -/
def State.imgGo (s : State) : State :=
  if s.dev.stage = 2 || s.dev.stage = 15 then { s with dev := { s.dev with stage := 1, failCode := 0, hostImage := true } }
  else { s with dev := { s.dev with checked := some s.imageGood } }

/-- A verified image by its measurement and its security version: the device trains its links and memory next (R337). -/
def State.training (s : State) (m : BitVec 256) (v : Word) : State :=
  { s with dev := { s.dev with stage := 3, measure := m, version := v } }

/-- Firmware is up (R337 step 3): its measurement is in the attestation log, which the alias key signs (R338), the epoch is raised (R344), and
the device is ready. -/
def State.ready (s : State) : State :=
  let d := s.dev
  let log := d.attlog ++ [d.measure]
  { s with dev := { d with
      stage := 4
      boots := d.boots + 1
      epoch := Config.flashEpoch + d.boots + 1
      attlog := log
      attsig := Config.signature d.measure d.version (sha256 (log.flatMap fun m => beBytes 32 m.toNat)) } }

/-- The next stage of the boot (R337): the verification of the flash's or the host's image, or the end of the training. -/
def State.bootMove (s : State) : State :=
  if s.dev.stage = 3 then s.ready
  else if s.dev.stage != 1 then s
  else if s.dev.hostImage then
    if s.imageGood then s.training (sha256 s.imageBytes) (Config.imageVersion s.imageBytes)
    else { s with dev := { s.dev with checked := some false, stage := 15, failCode := Config.failureCode.toNat } }
  else if Config.flashImageOk then s.training Config.flashMeasure Config.flashVersion
  else { s with dev := { s.dev with checked := some false, stage := 2 } }

/-- POWER_ON (R337): everything but what lies outside the device starts from reset, and the ROM verifies the image of the flash. -/
def execPowerOn (s : State) : Host.Outcome State Fault Refusal :=
  .next { State.reset with
    mem := s.mem.filter fun x => hostBase ≤ x.1 && x.1 < 2 * hostBase
    agenda := s.agenda
    outbox := s.outbox
    dev := { stage := 1, boots := s.dev.boots } }

/-- IMGGO (R328, R337). -/
def execImggo (s : State) : Host.Outcome State Fault Refusal := .next s.imgGo

/-! ## Registers of the physical function (R328) -/

/-- A write to a register of the physical function.  R328 says that IMGBASE is a multiple of 4,096 and REQBASE one of 64, and not what the low
bits of another value do: the model keeps the value whole (log entry 34). -/
def State.pfWrite (s : State) (off : Nat) (val : DWord) : State :=
  match off with
  | 0x0008 => { s with dev := { s.dev with imgBase := val } }
  | 0x0010 => { s with dev := { s.dev with imgLen := val.toNat % 2 ^ 32 } }
  | 0x0014 => s.imgGo
  | 0x0100 => { s with dev := { s.dev with reqBase := val } }
  | 0x0108 => { s with dev := { s.dev with reqSize := val.toNat % 16 } }
  | 0x010C => { s with dev := { s.dev with reqProd := val.setWidth 32 } }
  | _ => s

end Sys2Proof.Machine
end

