-- ==== Sys2Proof/Machine/Launch.lean ====
section
/-! DEFINITION. Launch: queues and packets (R277 to R284), dispatch of units (R24, R224, R289 to R291), and completion (R239, R284). -/

namespace Sys2Proof.Machine

/-! ## Partitions -/

/-- The chiplets of a partition in ascending order (R275, R325). -/
def State.chipletsOf (s : State) (p : Nat) : List Nat := (List.range (max 1 ((s.part p).size / 2))).map (p / 2 + ·)

/-- The cores of a partition. -/
def State.coresOf (s : State) (p : Nat) : List Nat := (List.range (20 * (s.part p).size)).map (20 * p + ·)

/-! ## Registers and notifies (R277, R278, R328) -/

/-- A launch queue of a virtual interface changed. -/
def State.updQueue (s : State) (vi q : Nat) (f : LQueue → LQueue) : State :=
  s.updVi vi fun v => { v with queues := SMap.upd {} v.queues q f }

/-- The slot of a partition that a queue is mapped to. -/
def Part.slotOf (p : Part) (vi q : Nat) : Option Nat :=
  (p.slots.find? fun x => x.2.vi = vi && x.2.q = q).map (·.1)

/-- A notify (R278, R280): the notify word is written, then the index reaches the queue's slot, or sets pending-while-unmapped. -/
def State.notify (s : State) (vi q : Nat) (idx : Word) : State :=
  if 16 ≤ q || 64 ≤ vi then s
  else
    let word := (SMap.get {} (s.vi vi).queues q : LQueue).word.toNat
    let s := (s.postVirt (s.viPart vi) vi word (leBytes 4 idx.toNat)).wakeFutures
    match (s.vi vi).part with
    | none => s.updQueue vi q fun x => { x with pending := true }
    | some p =>
      match (s.part p).slotOf vi q with
      | some k => s.updPart p fun x => { x with slots := SMap.put x.slots k ⟨vi, q, idx⟩ }
      | none => s.updQueue vi q fun x => { x with pending := true }

/-- A write to a register of a virtual interface (R277): an alignment's low bits are dropped, a write of NOTIFY q is a notify (R278), other
offsets ignore the write. -/
def State.viWrite (s : State) (vi off : Nat) (val : DWord) : State :=
  if off < 0x400 then
    let q := off / 0x40
    match off % 0x40 with
    | 0x00 => s.updQueue vi q fun x => { x with base := val &&& ~~~127 }
    | 0x08 => s.updQueue vi q fun x =>
        let n := val.toNat % 16
        { x with size := n, enable := val.getLsbD 31 && 4 ≤ n && n ≤ 12 }
    | 0x10 => s.updQueue vi q fun x => { x with word := val &&& ~~~7 }
    | _ => s
  else if 0x800 ≤ off && off < 0x880 && off % 8 = 0 then s.notify vi ((off - 0x800) / 8) (val.setWidth 32)
  else match off with
    | 0x1000 => s.updVi vi fun v => { v with eqbase := val &&& ~~~31 }
    | 0x1008 => s.updVi vi fun v => { v with eqsize := val.toNat % 2 ^ 32 }
    | 0x1010 => s.updVi vi fun v => { v with eqcons := val.setWidth 32 }
    | _ => s

/-- REGISTER_WRITE (R277, R328). -/
def execRegisterWrite (space : RegSpace) (off : Nat) (val : DWord) (s : State) : Host.Outcome State Fault Refusal :=
  .next <|
    match space with
    | .vi v => if v < 64 then s.viWrite v off val else s
    | .pf => s.pfWrite off val

/-- NOTIFY (R278, R280). -/
def execNotify (vi q : Nat) (idx : Word) (s : State) : Host.Outcome State Fault Refusal := .next (s.notify vi q idx)

/-! ## Descriptors and packets (R281 to R283) -/

/-- A field of a record of bytes. -/
def field (l : List Byte) (off n : Nat) : Nat := leNat ((l.drop off).take n)

/-- A unit descriptor (R282). -/
def UnitDesc.ofBytes (l : List Byte) : UnitDesc :=
  { entry := BitVec.ofNat 64 (field l 0 8), text := field l 8 4, kind := field l 12 1, waves := field l 13 1, vregs := field l 14 1,
    acc := field l 15 1, barriers := field l 16 1, duet := field l 17 1 % 2 = 1, loaders := field l 18 1, storers := field l 19 1,
    stash := field l 20 4, lbud := field l 24 1 }

/-- The geometry that a ring word gives (R203). -/
def ringOf (w : Word) : Ring := { base := w.toNat / 2 ^ 19, size := w.toNat / 2 ^ 9 % 2 ^ 10, cnt := w.toNat % 2 ^ 9 }

/-- The stash range of a ring in units of 128 bytes. -/
def Ring.span (r : Ring) : Nat × Nat := (r.base, r.cnt * r.size)

/-- The ring words of a packet break a rule for a stash size (R283). -/
def ringsBad (ws : List Word) (stash : Nat) : Bool :=
  let rs := (ws.map ringOf).filter fun r => r.cnt != 0
  rs.any (fun r => r.size = 0 || stash < (r.base + r.cnt * r.size) * 128) ||
  (rs.zipIdx.any fun p => rs.zipIdx.any fun q => p.2 < q.2 && overlap [p.1.span] [q.1.span])

/-- A packet as its 128 bytes give it (R281), with the rules of R283 that need nothing else. -/
def Packet.ofBytes (l : List Byte) (vi part q : Nat) (idx : Word) : Packet :=
  let kind := field l 0 1
  let flags := field l 1 1
  let watch := field l 2 1
  let (x, y, z) := (field l 24 4, field l 28 4, field l 32 4)
  let heap := field l 36 4
  let rings : List Word := [BitVec.ofNat 32 (field l 40 4), BitVec.ofNat 32 (field l 44 4), BitVec.ofNat 32 (field l 48 4),
    BitVec.ofNat 32 (field l 52 4)]
  let bad := kind = 0 || 5 < kind || 4 ≤ flags || watch / 4 % 32 != 0 || field l 3 1 != 0 || 64 ≤ heap || field l 72 56 != 0 ||
    (kind = 1 && (x = 0 || y = 0 || z = 0 || 2 ^ 32 ≤ x * y * z ||
      (128 ≤ watch && (ringOf (rings.getD (watch % 4) 0)).cnt = 0)))
  { vi := vi, part := part, q := q, idx := idx, kind := kind, order := flags % 2 = 1, irq := flags / 2 % 2 = 1, watch := 128 ≤ watch,
    watchRing := watch % 4, bsize := field l 4 4, unit := BitVec.ofNat 64 (field l 8 8), args := BitVec.ofNat 64 (field l 16 8), x := x,
    y := y, z := z, heap := heap % 64, rings := rings, done := BitVec.ofNat 64 (field l 56 8), hdesc := BitVec.ofNat 64 (field l 64 8),
    err := bad }

/-- The rules of R283 for a grid and its descriptor. -/
def Packet.gridBad (p : Packet) (d : UnitDesc) : Bool :=
  d.kind != 0 || d.waves = 0 || 16 < d.waves || d.vregs = 0 || 16 < d.vregs || 8 < d.acc || 16 < d.barriers ||
  d.waves < d.loaders + d.storers || d.lbud = 0 || 16 < d.lbud || p.bsize = 0 || 96 * d.waves < p.bsize || (d.duet && p.x % 2 = 1) ||
  917504 < d.stash || ringsBad p.rings d.stash

/-- PACKET_ACCEPT (R279, R283): the next packet of a mapped queue of the resident VI.  A packet that cannot be read is a packet error. -/
def execPacketAccept (vi q : Nat) (s : State) : Host.Outcome State Fault Refusal :=
  .next <|
    match (s.vi vi).part with
    | none => s
    | some p =>
      let lq : LQueue := SMap.get {} (s.vi vi).queues q
      match (s.part p).slotOf vi q with
      | none => s
      | some k =>
        let slot := SMap.get ⟨vi, q, lq.cons⟩ (s.part p).slots k
        if (s.part p).resident != some vi || !lq.enable || slot.prod = lq.cons then s
        else
          let (s, got) := s.fetchVirt p vi (lq.base.toNat + lq.cons.toNat % 2 ^ lq.size * 128) 128
          let pkt := match got with
            | some l => Packet.ofBytes l vi p q lq.cons
            | none => { vi := vi, part := p, q := q, idx := lq.cons, err := true }
          let s := s.updQueue vi q fun x => { x with cons := x.cons + 1 }
          { s with packets := SMap.put s.packets s.nextPkt pkt, nextPkt := s.nextPkt + 1 }

/-! ## Completion (R239, R284) -/

/-- Live counted global lines that a packet's work filled, dropped without write-back and reported (R239). -/
def State.endCounts (s : State) (id : Nat) : State :=
  let mine := s.counted.filter fun p => p.2.packet = id
  let part := ((s.pkt id).map fun p => p.part).getD noPart
  let s := mine.foldl (fun s p => { (s.unreserve part [p.1]) with counted := SMap.erase s.counted p.1 }) s
  s.updPkt id fun p => { p with under := p.under ++ mine.map fun x => (x.2.va, x.2.count) }

/-- A pair put into a list that rises by address. -/
def insertAddr (x : Nat) : List Nat → List Nat
  | [] => [x]
  | y :: t => if x ≤ y then x :: y :: t else y :: insertAddr x t

/-- The UNDERREAD section (R239). -/
def underBytes (l : List (DWord × Nat)) : List Byte :=
  let addrs := (l.foldl (fun acc p => insertAddr p.1.toNat acc) []).take 16
  leBytes 4 (min l.length 0xFFFFFFFF) ++ leBytes 4 addrs.length ++
  leBytes 8 (min (l.foldl (fun n p => n + p.2) 0) (2 ^ 64 - 1)) ++
  addrs.flatMap (leBytes 8) ++ leBytes (128 - 8 * addrs.length) 0

/-- The completion record (R284). -/
def Packet.record (p : Packet) (now : Nat) : List Byte :=
  leBytes 4 p.status ++ leBytes 4 p.count ++ leBytes 8 (p.start.getD now) ++ leBytes 8 now ++
  leBytes 4 (p.q * 2 ^ 16 + p.idx.toNat % 2 ^ 16) ++ leBytes 4 p.errors ++ leBytes 8 p.srr.toNat ++ leBytes 4 p.unrun ++
  leBytes 4 (min p.dropped 0xFFFFFFFF) ++ leBytes 8 p.pops ++ leBytes 8 0 ++
  (if p.kind = 1 || p.kind = 3 then underBytes p.under else leBytes 144 0)

/-- Every access of a VI's work performed at .sys (R284): what its cores hold dirty in L1 reaches the homes. -/
def State.syncVi (s : State) (part vi : Nat) : State :=
  (s.coresOf part).foldl (fun s c =>
    ((s.core c).l1.filterMap fun p => if p.2.vi = vi then some p.1 else none).foldl (fun s l => s.cleanL1 c l) s) s

/-- A packet completes (R284): its record is written, the interrupt raised, and the packet is gone.  A record whose write faults is
dropped.  R283 asks nothing of the done address: that a record goes to an address that is not a multiple of 8 as it stands is the model's
choice (R281, log entry 80). -/
def State.completePkt (s : State) (id : Nat) : State :=
  let s := s.endCounts id
  match s.pkt id with
  | none => s
  | some p =>
    let s := s.syncVi p.part p.vi
    let s := (s.postVirt p.part p.vi p.done.toNat (p.record (s.cycle p.part))).wakeFutures
    let s := if p.irq then { s with outbox := s.outbox ++ [.msix p.vi] } else s
    { s with packets := SMap.erase s.packets id }

/-- Every block of a grid has exited, and its queues are empty (R284). -/
def Packet.gridDone (p : Packet) : Bool := p.kind = 1 && p.seq != 0 && p.count = p.x * p.y * p.z

/-- PACKET_COMPLETE (R284). -/
def execPacketComplete (id : Nat) (s : State) : Host.Outcome State Fault Refusal :=
  .next <|
    match s.pkt id with
    | some p => if p.state = .done || (p.state = .started && p.gridDone) then s.completePkt id else s
    | none => s

/-! ## Starting packets -/

/-- A packet may start (R279): with ORDER, when every earlier packet of its queue has completed. -/
def State.mayStart (s : State) (id : Nat) (p : Packet) : Bool :=
  p.state = .accepted && (s.part p.part).resident = some p.vi &&
  (!p.order || !(s.packets.any fun x => x.1 < id && x.2.vi = p.vi && x.2.q = p.q))

/-- A packet ends at its start with a status. -/
def State.endStart (s : State) (id status : Nat) : State :=
  s.updPkt id fun p => { p with state := .done, status := status }

/-- PACKET_START (R279): a packet that breaks a rule of R283 runs nothing and ends with status 2. -/
def execPacketStart (id : Nat) (s : State) : Host.Outcome State Fault Refusal :=
  .next <|
    match s.pkt id with
    | none => s
    | some p =>
      if !s.mayStart id p then s
      else
        let began := 1 + s.packets.foldl (fun k x => max k x.2.began) 0
        let s := s.updPkt id fun p => { p with state := .started, began := began, startedAt := s.cycle p.part, start := if p.kind = 1 && !p.err then none else some (s.cycle p.part) }
        if p.err then s.endStart id 2 else s

/-- A started packet of a kind whose own event has not taken place. -/
def State.fresh (s : State) (id kind : Nat) : Option Packet :=
  (s.pkt id).filter fun p => p.state = .started && p.kind = kind && p.seq = 0

/-- The units of a grid (R289). -/
def Packet.units (p : Packet) : Nat := (if p.desc.duet then p.x / 2 else p.x) * p.y * p.z

/-- GRID (R283, R289): the units are split over the partition's chiplets. -/
def execGrid (id : Nat) (s : State) : Host.Outcome State Fault Refusal :=
  .next <|
    match s.fresh id 1 with
    | none => s
    | some p =>
      let bad (s : State) : State := (s.endStart id 2).updPkt id fun p => { p with start := some p.startedAt }
      match s.fetchVirt p.part p.vi p.unit.toNat 32 with
      | (s, none) => bad s
      | (s, some l) =>
        let d := UnitDesc.ofBytes l
        if p.gridBad d then bad s
        else
          let n := ({ p with desc := d } : Packet).units
          let cs := s.chipletsOf p.part
          let m := cs.length
          let seq := 1 + s.packets.foldl (fun k x => max k x.2.seq) 0
          s.updPkt id fun p =>
            { p with desc := d, seq := seq, tickets := cs.zipIdx.map fun c => (c.1, n * c.2 / m, n * (c.2 + 1) / m) }

/-- MARKER (R281). -/
def execMarker (id : Nat) (s : State) : Host.Outcome State Fault Refusal :=
  .next (if (s.fresh id 5).isSome then s.endStart id 0 else s)

/-! ## Room on a core (R224, R291) -/

/-- The free wave slots of a quarter. -/
def State.freeWaveSlots (s : State) (core q : Nat) : List Nat :=
  ((List.range 16).map (16 * q + ·)).filter fun n => !(s.wave core n).live

/-- The quarter with the most free slots, the lowest-numbered on a tie. -/
def bestQuarter (qs : List (List Nat)) : Option Nat :=
  ((minBy (fun p => 64 - p.1.length) qs.zipIdx).filter fun p => !p.1.isEmpty).map (·.2)

/-- Wave slots taken one per quarter in turn (R291). -/
def pickSlots : Nat → List (List Nat) → Option (List Nat)
  | 0, _ => some []
  | n + 1, qs =>
    match bestQuarter qs with
    | none => none
    | some q =>
      match qs.getD q [] with
      | [] => none
      | x :: t => (pickSlots n (qs.set q t)).map (x :: ·)

/-- The blocks of a core. -/
def State.blocksOn (s : State) (core : Nat) : List Block := s.blocks.filterMap fun p => if p.2.core = core then some p.2 else none

/-- The registers of a choice of slots fit their quarters. -/
def slotsFit (slots : List Nat) (vregs : Nat) (free : Nat → Nat) : Bool :=
  (List.range 4).all fun q => (slots.filter fun n => quarterOf n = q).length * (8 * vregs) ≤ free q

/-- How many blocks of a descriptor an empty core holds by its wave slots, registers, accumulators and block slots (R224). -/
def fitCount (d : UnitDesc) : Nat → List (List Nat) → List Nat → Nat → Nat
  | 0, _, _, k => k
  | fuel + 1, qs, used, k =>
    match pickSlots d.waves qs with
    | none => k
    | some sl =>
      if 8 < d.acc * (k + 1) || !slotsFit (used ++ sl) d.vregs (fun _ => 1024) then k
      else fitCount d fuel (qs.map fun q => q.filter fun n => !sl.contains n) (used ++ sl) (k + 1)

/-- The stash part that the dispatcher sets on an empty core for a grid with units left to place (R224). -/
def stashPartFor (d : UnitDesc) (left : Nat) : Nat :=
  let k := max 1 (min left (fitCount d 16 ((List.range 4).map fun q => (List.range 16).map (16 * q + ·)) [] 0))
  min 917504 ((k * d.stash + 131071) / 131072 * 131072)

/-- The lowest offset of a free range of the stash part (R224). -/
def firstFit (size need : Nat) (used : List (Nat × Nat)) : Option Nat :=
  (0 :: used.map fun u => u.1 + u.2).foldl (fun (best : Option Nat) o =>
    if o + need ≤ size && !overlap [(o, need)] used && (match best with | some b => o < b | none => true) then some o else best) none

/-- Where a block would stand on a core: its wave slots, its stash offset, the stash part. -/
structure Place where
  slots : List Nat
  base : Nat
  split : Nat
deriving DecidableEq, Repr

/-- Room for a block or a task wave (R291): `left` units of its grid are not placed yet. -/
def State.room (s : State) (core : Nat) (d : UnitDesc) (task : Bool) (left : Nat) : Option Place :=
  let bs := s.blocksOn core
  let split := if bs.isEmpty && !task then stashPartFor d left else (s.core core).split
  match pickSlots d.waves ((List.range 4).map (s.freeWaveSlots core)), firstFit split d.stash (bs.map fun b => (b.stashBase, b.desc.stash)) with
  | some sl, some base =>
    if bs.length < 16 && (bs.foldl (fun n b => n + b.desc.acc) 0) + d.acc ≤ 8 && slotsFit sl d.vregs (s.freeRegs core) then
      some ⟨sl, base, split⟩
    else none
  | _, _ => none

/-! ## Placing a unit (R24, R289, R291) -/

/-- The near-memory split of a core set (R224): dirty L1 lines are written back and L1 is invalidated. -/
def State.setSplit (s : State) (core n : Nat) : State :=
  if (s.core core).split = n then s
  else
    let s := ((s.core core).l1.map (·.1)).foldl (fun s l => s.flushL1 core l) s
    s.updCore core fun k => { k with split := n }

/-- The root strand of a wave at its start (R24, R25). -/
def rootStrand (entry : DWord) (memb am : Lanes) (cycle : Nat) : Strand :=
  { state := .ready, kind := .root, pc := entry, memb := memb, am := am, readyAt := cycle }

/-- A kernel wave at its start (R24).  Its root holds all 96 lanes, as R118 and the table of strand slots have it; the tables of R319's section
show lanes 0 to 2, and the choice between the two is the model's (log entry 84). -/
def kernelWave (p : Packet) (b : Block) (blk i cycle : Nat) : Wave :=
  let d := b.desc
  let sregs := [(0, p.args.setWidth 32), (1, (p.args >>> 32).setWidth 32), (2, b.x), (3, b.y), (4, b.z), (5, BitVec.ofNat 32 i)]
  { live := true
    vi := p.vi
    blk := blk
    part := p.part
    pop := BitVec.allOnes 96
    v := (List.range 96).foldl (fun m l => SMap.set 0 m (vkey 0 l) (BitVec.ofNat 32 (96 * i + l))) []
    s := sregs.foldl (fun m x => SMap.set 0 m x.1 x.2) []
    strands := [(0, rootStrand d.entry (BitVec.allOnes 96) (BitVec.ofNat 96 (2 ^ min 96 (p.bsize - 96 * i) - 1)) cycle)]
    vbudget := 8 * d.vregs
    formerBudget := 8 * d.vregs
    role := if i < d.waves - d.loaders - d.storers then 0 else if i < d.waves - d.storers then 1 else 2
    blockX := b.x
    blockY := b.y
    blockZ := b.z
    waveInBlk := i
    nblocks := BitVec.ofNat 32 (p.x * p.y * p.z)
    duetRole := if d.duet then (if b.follower then 1 else 0) else 2 }

/-- The registers that a block's waves hold by quarter (R132). -/
def claimedBy (slots : List Nat) (vregs : Nat) : SMap Nat :=
  (List.range 4).foldl (fun m q => SMap.set 0 m q ((slots.filter fun n => quarterOf n = q).length * (8 * vregs))) []

/-- A block put on a core: its barriers, rings and waves (R22, R24, R203). -/
def State.placeBlock (s : State) (p : Packet) (id core : Nat) (pl : Place) (x y z : Nat) (peer : Option Nat) (follower : Bool) : State :=
  let d := p.desc
  let blk := s.nextBlk
  let bars : SMap Barrier :=
    (List.range 16).map (fun n => (n, { e := d.waves })) ++
    (if d.duet && !follower then (List.range 4).map fun n => (16 + n, { e := 2 * d.waves }) else [])
  let b : Block :=
    { live := true, vi := p.vi, part := p.part, core := core, desc := d, packet := id, x := BitVec.ofNat 32 x, y := BitVec.ofNat 32 y,
      z := BitVec.ofNat 32 z, peer := peer, follower := follower, waves := pl.slots.map (waveKey core), bars := bars,
      rings := p.rings.zipIdx.filterMap (fun r => if (ringOf r.1).cnt = 0 then none else some (r.2, ringOf r.1)),
      stashBase := pl.base, claimed := claimedBy pl.slots d.vregs, watch := p.watch, watchRing := p.watchRing }
  let s := s.setSplit core pl.split
  let cyc := s.cycle p.part
  let waves := pl.slots.zipIdx.foldl (fun m n => SMap.put m (waveKey core n.1) (kernelWave p b blk n.2 cyc)) s.waves
  ({ s with waves := waves, blocks := SMap.put s.blocks blk b, nextBlk := blk + 1 }).updateRanges core

/-- A unit put on its core or cores (R289). -/
def State.placeUnit (s : State) (p : Packet) (id core i : Nat) (pl : Place) (pl2 : Option Place) : State :=
  let s := s.updPkt id fun p => { p with start := some (p.start.getD (s.cycle p.part)) }
  match pl2 with
  | none => s.placeBlock p id core pl (i % p.x) (i / p.x % p.y) (i / (p.x * p.y)) none false
  | some pl2 =>
    let h := p.x / 2
    let n := s.nextBlk
    let (x, y, z) := (2 * (i % h), i / h % p.y, i / (h * p.y))
    (s.placeBlock p id core pl x y z (some (n + 1)) false).placeBlock p id (core + 1) pl2 (x + 1) y z (some n) true

/-! ## Tickets (R289, R290) -/

/-- The units of a grid that are not placed. -/
def Packet.left (p : Packet) : Nat := p.tickets.foldl (fun n t => n + (t.2.2 - t.2.1)) 0

/-- The oldest started grid of a VI with units left (R290): none while its units are not split yet. -/
def State.oldestGrid (s : State) (vi : Nat) : Option (Nat × Packet) :=
  (minBy (fun p => p.2.began) (s.packets.filter fun p =>
    p.2.vi = vi && p.2.kind = 1 && p.2.state = .started && (p.2.seq = 0 || p.2.left != 0))).filter fun p => p.2.seq != 0

/-- The range with the most units left, of the lowest-numbered chiplet on a tie. -/
def Packet.largest (p : Packet) : Option (Nat × Nat × Nat) := minBy (fun t => 2 ^ 33 - (t.2.2 - t.2.1)) p.tickets

/-- A steal (R290): units from the top of the largest range become the range of the chiplet. -/
def Packet.steal (p : Packet) (chiplet : Nat) : Packet :=
  match p.largest with
  | none => p
  | some (v, lo, hi) =>
    let t := max 1 (min 16 ((hi - lo) / 8))
    { p with tickets := p.tickets.map fun x =>
        if x.1 = chiplet then (chiplet, hi - t, hi) else if x.1 = v then (v, lo, hi - t) else x }

/-- The range of a chiplet. -/
def Packet.rangeOf (p : Packet) (chiplet : Nat) : Nat × Nat := ((p.tickets.find? fun t => t.1 = chiplet).map (·.2)).getD (0, 0)

/-- The next unit of a chiplet's range, after a steal when it is used up. -/
def Packet.take (p : Packet) (chiplet : Nat) : Nat × Packet :=
  let p := if (p.rangeOf chiplet).1 < (p.rangeOf chiplet).2 then p else p.steal chiplet
  let i := (p.rangeOf chiplet).1
  (i, { p with tickets := p.tickets.map fun x => if x.1 = chiplet then (chiplet, i + 1, x.2.2) else x })

/-- Room for a unit of a grid on a core: for a duet, on an even core and the core beside it (R291). -/
def State.unitRoom (s : State) (p : Packet) (core : Nat) : Option (Place × Option Place) :=
  if p.desc.duet then
    if core % 2 = 1 then none
    else (s.room core p.desc false p.left).bind fun a => (s.room (core + 1) p.desc false p.left).map fun b => (a, some b)
  else (s.room core p.desc false p.left).map fun a => (a, none)

/-- The cores of a partition that lie on a chiplet. -/
def State.chipletCores (s : State) (part chiplet : Nat) : List Nat := (s.coresOf part).filter fun c => c / 40 = chiplet

/-- A core has taken a unit in this cycle. -/
def State.hasTaken (s : State) (part core : Nat) : Bool := (s.core core).tookAt = some (s.cycle part)

/-- A core takes its chiplet's next index in its turn (R289): in one cycle the cores of a chiplet that have room take theirs in ascending
number.  R289 does not say whether one core may take several indices in a cycle: that it may is the model's choice (log entry 82). -/
def State.inTurn (s : State) (part : Nat) (p : Packet) (core : Nat) : Bool :=
  (s.chipletCores part (core / 40)).all fun c =>
    if c < core then s.hasTaken part c || (s.unitRoom p c).isNone else c = core || !s.hasTaken part c

/-- A steal from a range stands behind the tickets that its own chiplet's cores take in the cycle (R290). -/
def State.stealWaits (s : State) (part : Nat) (p : Packet) (core : Nat) : Bool :=
  let r := p.rangeOf (core / 40)
  !(r.1 < r.2) &&
  (match p.largest with
   | some v => (s.chipletCores part v.1).any fun c => !s.hasTaken part c && (s.unitRoom p c).isSome
   | none => false)

/-- TICKET_DISPATCH (R289 to R291): a core of the partition with room takes the next unit of the oldest grid. -/
def execTicketDispatch (part core : Nat) (s : State) : Host.Outcome State Fault Refusal :=
  .next <|
    match (s.part part).resident.bind s.oldestGrid with
    | none => s
    | some (id, p) =>
      if !(s.coresOf part).contains core || !s.inTurn part p core || s.stealWaits part p core then s
      else match s.unitRoom p core with
        | none => s
        | some (pl, pl2) =>
          let (i, p') := p.take (core / 40)
          let s := s.updCore core fun k => { k with tookAt := some (s.cycle part) }
          (s.updPkt id fun _ => p').placeUnit p' id core i pl pl2

end Sys2Proof.Machine
end

