-- ==== Sys2Proof/Machine/Carousel.lean ====
section
/-! DEFINITION. Heap packets (R291, R293), the Turnstile (R294) and the end of a heap run (R295). -/

namespace Sys2Proof.Machine

/-! ## Heap descriptors (R293) -/

/-- A heap descriptor of 64 bytes. -/
def Heap.ofBytes (l : List Byte) (vi : Nat) (hdesc : DWord) : Heap :=
  { vi := vi, hdesc := hdesc, base := BitVec.ofNat 64 (field l 0 8), cap := field l 8 4, thr := BitVec.ofNat 32 (field l 12 4),
    b := field l 16 1, pop := field l 17 1, conc := field l 18 2, tol := BitVec.ofNat 64 (field l 24 8),
    srr := BitVec.ofNat 64 (field l 32 8), image := BitVec.ofNat 64 (field l 40 8) }

/-- A binary64 value is finite. -/
def finite64 (x : DWord) : Bool := x.toNat / 2 ^ 52 % 2 ^ 11 != 2047

/-- A descriptor breaks a rule of R293. -/
def heapBad (l : List Byte) : Bool :=
  let h := Heap.ofBytes l 0 0
  h.base.toNat % 16 != 0 || h.cap = 0 || 2 ^ 26 < h.cap || badGain h.thr || (h.thr.msb && h.thr != 0x80000000) || 15 < h.b ||
  h.pop = 0 || 96 < h.pop || h.conc = 0 || 4096 < h.conc || field l 20 4 != 0 || field l 48 16 != 0 ||
  !finite64 h.tol || h.tol.msb || h.tol = 0 || !finite64 h.srr

/-! ## Heap packets (R281, R291) -/

/-- HEAP_CONFIGURE (R291, R293). -/
def execHeapConfigure (id : Nat) (s : State) : Host.Outcome State Fault Refusal :=
  .next <|
    match s.fresh id 2 with
    | none => s
    | some p =>
      match s.readVirt p.vi p.hdesc.toNat 64 with
      | .error r => (s.stoppedVirt p.part p.vi p.hdesc.toNat 64 r).endStart id 2
      | .ok l =>
        let s := s.countVirt p.part p.vi p.hdesc.toNat 64 false
        if heapBad l || (s.heap p.part p.heap).isSome then s.endStart id 2
        else
          (s.updPart p.part fun q => { q with heaps := SMap.put q.heaps p.heap (Heap.ofBytes l p.vi p.hdesc) }).endStart id 0

/-- The descriptor that a heap packet names read by the heap controller (R235): the state that the read leaves, and whether the descriptor can be
read and obeys R293. -/
def State.hdescOk (s : State) (p : Packet) : State × Bool :=
  match s.readVirt p.vi p.hdesc.toNat 64 with
  | .error r => (s.stoppedVirt p.part p.vi p.hdesc.toNat 64 r, false)
  | .ok l => (s.countVirt p.part p.vi p.hdesc.toNat 64 false, !heapBad l)

/-- HEAP_RUN (R283, R291, R294): the packet stays started until the run ends. -/
def execHeapRun (id : Nat) (s : State) : Host.Outcome State Fault Refusal :=
  .next <|
    match s.fresh id 3 with
    | none => s
    | some p =>
      match s.heap p.part p.heap with
      | none => s.endStart id 2
      | some h =>
        if h.run.isSome then s.endStart id 2
        else
          let (s, ok) := s.hdescOk p
          if !ok then s.endStart id 2
          else (s.updHeap p.part p.heap fun h => { h with run := some { packet := id }, dropped := 0 }).updPkt id fun p => { p with seq := 1 }

/-- The cached entries and SRR of a heap written back (R293, R295). -/
def State.heapWriteBack (s : State) (part id : Nat) : State :=
  match s.heap part id with
  | none => s
  | some h =>
    let s := h.recs.foldl (fun s r => s.taskWrite part id r.1 r.2) s
    match s.writeVirt h.vi (h.hdesc.toNat + 32) (leBytes 8 h.srr.toNat) with
    | .ok s => (s.countVirt part h.vi (h.hdesc.toNat + 32) 8 true).wakeFutures
    | .error x =>
      (s.walkVirt part h.vi (h.hdesc.toNat + 32) 8).postHeap h.vi (h.run.map fun r => r.packet) (h.hdesc.toNat + 32) x.cause.code

/-! ## The Turnstile (R294) -/

/-- A task with its record, ranked before another: greater gain, then smaller handle.  Gains are not negative, so their bits compare as
their values do. -/
def ranksBefore (a b : Nat × TaskRec) : Bool :=
  b.2.gain.toNat < a.2.gain.toNat || (a.2.gain = b.2.gain && a.1 < b.1)

/-- A task put into a ranked list. -/
def rankIn (x : Nat × TaskRec) : List (Nat × TaskRec) → List (Nat × TaskRec)
  | [] => [x]
  | y :: t => if ranksBefore x y then x :: y :: t else y :: rankIn x t

/-- The QUEUED tasks of a heap in rank order. -/
def Heap.ranked (h : Heap) : List (Nat × TaskRec) :=
  (h.recs.filter fun p => p.2.st = tQueued).foldl (fun l p => rankIn p l) []

/-- A gain is at least top times 2^-b, computed exactly. -/
def gainNear (b : Nat) (top g : Word) : Bool :=
  match Fmt.f32.unpack top.toNat, Fmt.f32.unpack g.toNat with
  | .fin _ m e, .fin _ n f =>
    let k := min (e - b) f
    m * 2 ^ (e - b - k).toNat ≤ n * 2 ^ (f - k).toNat
  | _, _ => false

/-- The tasks that a pop gathers, the top task first. -/
def Heap.gather (h : Heap) : List (Nat × TaskRec) :=
  match h.ranked.take 256 with
  | [] => []
  | t :: l => t :: (l.filter fun p => p.2.code = t.2.code && gainNear h.b t.2.gain p.2.gain).take (min h.pop 96 - 1)

/-- The descriptor of a task unit as its placement uses it: one wave, no stash, no accumulator, no barrier (R291). -/
def UnitDesc.task (d : UnitDesc) : UnitDesc :=
  { d with waves := 1, acc := 0, barriers := 0, duet := false, loaders := 0, storers := 0, stash := 0 }

/-- The mask of the first n lanes. -/
def firstLanes (n : Nat) : Lanes := BitVec.ofNat 96 (2 ^ min 96 n - 1)

/-- A task wave at its start (R25). -/
def taskWave (h : Heap) (part heap blk cycle : Nat) (d : UnitDesc) (l : List (Nat × TaskRec)) : Wave :=
  let handle (i : Nat) : Word := BitVec.ofNat 32 (heap * 2 ^ 26 + i)
  let m := firstLanes l.length
  { live := true
    vi := h.vi
    blk := blk
    part := part
    pop := m
    v := l.zipIdx.foldl (fun v (p : (Nat × TaskRec) × Nat) =>
      SMap.set 0 (SMap.set 0 (SMap.set 0 v (vkey 0 p.2) (p.1.2.frame.setWidth 32)) (vkey 1 p.2) ((p.1.2.frame >>> 32).setWidth 32))
        (vkey 2 p.2) (handle p.1.1)) []
    s := SMap.set 0 (SMap.set 0 [] 0 (h.hdesc.setWidth 32)) 1 ((h.hdesc >>> 32).setWidth 32)
    strands := [(0, rootStrand d.entry m m cycle)]
    vbudget := 8 * d.vregs
    formerBudget := 8 * d.vregs
    taskHeap := BitVec.ofNat 32 heap
    tasks := l.zipIdx.map fun p => ⟨p.2, handle p.1.1, p.1.2.gen⟩
    heapId := heap }

/-- The lowest-numbered core of a partition with room for a task wave. -/
def State.taskCore (s : State) (part : Nat) (d : UnitDesc) : Option (Nat × Place) :=
  (s.coresOf part).findSome? fun c => (s.room c d true 1).map fun pl => (c, pl)

/-- A task wave put on a core, and its tasks made RUNNING (R294).  The pop is an acquire at .dev (R252). -/
def State.placeTasks (s : State) (part heap : Nat) (h : Heap) (r : HeapRun) (d : UnitDesc) (core : Nat) (pl : Place)
    (l : List (Nat × TaskRec)) : State :=
  let blk := s.nextBlk
  let b : Block :=
    { live := true, vi := h.vi, part := part, core := core, desc := d, packet := r.packet, task := true,
      waves := pl.slots.map (waveKey core), claimed := claimedBy pl.slots d.vregs }
  let s := { s with
    waves := pl.slots.foldl (fun m n => SMap.put m (waveKey core n) (taskWave h part heap blk (s.cycle part) d l)) s.waves
    blocks := SMap.put s.blocks blk b
    nextBlk := blk + 1 }
  let s := (s.updateRanges core).acquire core blk .dev
  let s := l.foldl (fun s p => s.taskWrite part heap p.1 (p.2.setSt tRunning)) s
  s.updHeap part heap fun h => ({ h with
    run := some { r with running := r.running + 1, started := r.started + 1, pops := r.pops + l.length } } : Heap).latch

/-- TURNSTILE_POP (R294).  A task whose code descriptor cannot be read is not popped.  R294 does not say what follows where the descriptor is no
task unit, or holds vregs of 0 or above 16: that the task wave runs from it as it stands is the model's choice (log entry 96). -/
def execTurnstilePop (part heap : Nat) (s : State) : Host.Outcome State Fault Refusal :=
  .next <|
    match s.heap part heap with
    | none => s
    | some h =>
      match h.run with
      | none => s
      | some r =>
        if r.latch || h.conc ≤ r.running || (s.part part).resident != some h.vi then s
        else match h.gather with
          | [] => s
          | t :: l =>
            match s.fetchVirt part h.vi t.2.code.toNat 32 with
            | (s, none) => s
            | (s, some x) =>
              let d := (UnitDesc.ofBytes x).task
              match s.taskCore part d with
              | none => s
              | some (core, pl) => s.placeTasks part heap h r d core pl (t :: l)

/-! ## The release of a heap (R291, R293) -/

/-- The image of the entries beyond the 4,096 cached on chip written back at a release (R293): 8 bytes for each, whose layout no rule gives
(log entry 27). -/
def State.imageWriteBack (s : State) (part id : Nat) : State :=
  match s.heap part id with
  | none => s
  | some h =>
    let es := (h.ranked.drop 4096).map fun x => (x.1, x.2.gain)
    if es.isEmpty then s
    else
      let bytes := Config.heapImage es
      match s.writeVirt h.vi h.image.toNat ((List.range (8 * es.length)).map fun i => bytes.getD i 0) with
      | .ok s => (s.countVirt part h.vi h.image.toNat (8 * es.length) true).wakeFutures
      | .error x => (s.walkVirt part h.vi h.image.toNat (8 * es.length)).postHeap h.vi none h.image.toNat x.cause.code

/-- Operations that have arrived at a heap that goes away fail (R200), and parents' updates find it unconfigured (R201). -/
def State.failArrivals (s : State) (part id : Nat) : State :=
  match s.heap part id with
  | none => s
  | some h =>
    let s := h.arrivals.foldl (fun s o =>
      let s := s.failHeapOp o
      if s.opWave o then s.updWave o.core o.slot fun w => { w with heapOut := w.heapOut.erase o.strand } else s) s
    h.parentUps.foldl (fun s u => s.postHeap h.vi (if u.2 = 0 then none else some (u.2 - 1)) 0 Cause.heaperr.code) s

/-- HEAP_RELEASE (R291, R293). -/
def execHeapRelease (id : Nat) (s : State) : Host.Outcome State Fault Refusal :=
  .next <|
    match s.fresh id 4 with
    | none => s
    | some p =>
      match s.heap p.part p.heap with
      | none => s.endStart id 2
      | some h =>
        if h.run.isSome then s.endStart id 2
        else
          let s := ((s.heapWriteBack p.part p.heap).imageWriteBack p.part p.heap).failArrivals p.part p.heap
          (s.updPart p.part fun q => { q with heaps := SMap.erase q.heaps p.heap }).endStart id 0

/-! ## The end of a run (R295) -/

/-- How a run ends now, or none while it goes on. -/
def Heap.ending (h : Heap) : Option Nat :=
  match h.run with
  | none => none
  | some r =>
    if r.running != 0 || !h.arrivals.isEmpty || !h.parentUps.isEmpty then none
    else if r.failed then some 1
    else if r.latch then some 0
    else if h.recs.any (fun p => p.2.st = tQueued) then none
    else some 4

/-- A run ends with a status: entries and SRR are written back, and the packet completes. -/
def State.endRun (s : State) (part heap status : Nat) : State :=
  match s.heap part heap with
  | none => s
  | some h =>
    match h.run with
    | none => s
    | some r =>
      let s := s.heapWriteBack part heap
      let s := s.updHeap part heap fun h => { h with run := none }
      (s.updPkt r.packet fun p =>
        { p with
          status := status
          count := r.started
          srr := h.srr
          unrun := (h.recs.filter fun p => p.2.st = tQueued).length
          dropped := h.dropped
          pops := r.pops }).completePkt r.packet

/-- HEAP_RUN_END (R295). -/
def execHeapRunEnd (part heap : Nat) (s : State) : Host.Outcome State Fault Refusal :=
  .next <|
    match (s.heap part heap).bind Heap.ending with
    | some st => s.endRun part heap st
    | none => s

end Sys2Proof.Machine
end

