-- ==== Sys2Proof/Machine/Sched.lean ====
section
/-! DEFINITION. Roles (R292), time slices and context switches (R286, R287, R316, R317), scheduling passes (R280), partition layouts
(R275, R276). -/

namespace Sys2Proof.Machine

/-! ## Roles (R292) -/

/-- W as hardware clamps it. -/
def Part.window (p : Part) : Nat := max 256 (min 65536 p.w)

/-- A wave of the block has a pending change. -/
def State.changePending (s : State) (b : Block) : Bool := b.waves.any fun k => (s.waveK k).pendRole.isSome

/-- The cycle counts of a block start again. -/
def Block.recount (b : Block) : Block := { b with below := 0, above := 0 }

/-- The compute wave of highest WAVEINBLK receives a pending change to loader once the watched ring has been below TL long enough (R292).  Its
former budget is the one that it holds when the change is raised, which is the model's choice where a VGIVE or VCLAIM changes it before
the wave's RPOLL (log entry 83).  The cycle counts start again where the change is raised, not where RPOLL delivers it: R292 leaves that
open, and it is the model's choice (log entry 98). -/
def State.roleToLoader (s : State) (blk : Nat) : State :=
  let b := s.block blk
  let cs := b.waves.filter fun k => (s.waveK k).role = 0
  match minBy (fun k => 16 - (s.waveK k).waveInBlk) cs with
  | none => s
  | some k =>
    if !b.watch || b.below < (s.part b.part).window || cs.length < 2 || s.changePending b then s
    else
      (s.updWaveK k fun w => { w with pendRole := some (1, 8 * b.desc.lbud), formerBudget := w.vbudget }).updBlock blk fun b =>
        { b.recount with converted := k :: b.converted }

/-- The most recently converted wave receives a pending change back to compute once the watched ring has been at TH long enough (R292). -/
def State.roleToCompute (s : State) (blk : Nat) : State :=
  let b := s.block blk
  match b.converted.filter b.waves.contains with
  | [] => s
  | k :: t =>
    if !b.watch || b.above < (s.part b.part).window || s.changePending b then s
    else
      (s.updWaveK k fun w => { w with pendRole := some (0, w.formerBudget) }).updBlock blk fun b => { b.recount with converted := t }

/-- ROLE_TO_LOADER (R292). -/
def execRoleToLoader (blk : Nat) (s : State) : Host.Outcome State Fault Refusal := .next (s.roleToLoader blk)

/-- ROLE_TO_COMPUTE (R292). -/
def execRoleToCompute (blk : Nat) (s : State) : Host.Outcome State Fault Refusal := .next (s.roleToCompute blk)

/-! ## Readiness and slices (R286) -/

/-- The VI has saved work. -/
def Vi.hasSaved (v : Vi) : Bool :=
  match v.saved with
  | some x => !x.waves.isEmpty || !x.blocks.isEmpty || x.heaps.any fun h => h.2.run.isSome
  | none => false

/-- A VI is ready (R286).  Packets that it has accepted and that have not completed count as its work. -/
def State.viReady (s : State) (part vi : Nat) : Bool :=
  let v := s.vi vi
  ((s.part part).slots.any fun x =>
    let q : LQueue := SMap.get {} v.queues x.2.q
    x.2.vi = vi && q.enable && x.2.prod != q.cons) ||
  (v.queues.any fun q => q.2.pending) || v.hasSaved || (s.packets.any fun p => p.2.vi = vi) ||
  (s.part part).heaps.any fun h => h.2.vi = vi && h.2.run.isSome

/-- The VIs of a partition that are ready. -/
def State.readyVis (s : State) (part : Nat) : List Nat :=
  (s.vis.map (·.1)).filter fun v => (s.vi v).part = some part && s.viReady part v

/-- SLICE_END (R286): a slice with no other ready VI of equal or higher priority is renewed.  A microsecond is 3,000 cycles (R1). -/
def execSliceEnd (part : Nat) (s : State) : Host.Outcome State Fault Refusal :=
  .next <|
    let p := s.part part
    match p.resident with
    | none => s
    | some r =>
      if p.sliceOver || p.cycle - p.sliceStart < (s.vi r).slice * 3000 then s
      else if (s.readyVis part).any fun v => v != r && (s.vi r).prio ≤ (s.vi v).prio then
        s.updPart part fun p => { p with sliceOver := true }
      else s.updPart part fun p => { p with sliceStart := p.cycle }

/-- The cores of a saved context (R287). -/
def Saved.coresUsed (x : Saved) : List Nat := ((x.waves.map fun (w : Nat × Wave) => w.1 / 64) ++ x.blocks.map fun (b : Nat × Block) => b.2.core).eraseDups

/-- Where a saved context's cores go in a partition: each stays when the partition holds all of them; else the pairs of cores that it uses
take the partition's pairs in ascending order, and a context with more pairs than the partition waits for one that holds it (log
entry 68). -/
def Saved.placeIn (x : Saved) (part size : Nat) : Option (Nat → Nat) :=
  let used := x.coresUsed
  let pairs := (List.range 80).filter fun d => used.any fun c => c / 2 = d
  if used.all fun c => 20 * part ≤ c && c < 20 * (part + size) then some id
  else if pairs.length ≤ 10 * size then some fun c => 2 * (10 * part + pairs.idxOf (c / 2)) + c % 2
  else none

/-- A VI that can become resident: nothing of it is saved, or the partition has room for what is. -/
def State.canRestore (s : State) (part vi : Nat) : Bool :=
  (s.vi vi).saved.all fun x => (x.placeIn part (s.part part).size).isSome

/-- The VI that becomes resident next (R286): of highest priority, the next in VI number after the resident one.  R286 does not say whether a VI
that a higher one has pre-empted comes back before its equals: that the order goes on from the higher one's number is the model's choice
(log entry 81). -/
def State.incoming (s : State) (part : Nat) : Option Nat :=
  let p := s.part part
  let l := (s.readyVis part).filter (s.canRestore part)
  match p.resident with
  | none => minBy (fun v => (7 - (s.vi v).prio) * 64 + v) l
  | some r =>
    let c := l.filter fun v => v != r &&
      ((s.vi r).prio < (s.vi v).prio || !l.contains r || (p.sliceOver && (s.vi r).prio = (s.vi v).prio))
    minBy (fun v => (7 - (s.vi v).prio) * 64 + (v + 63 - r) % 64) c

/-! ## The switch (R287, R316, R317) -/

/-- The keys of the waves of a VI's blocks in a partition. -/
def State.viWaves (s : State) (part vi : Nat) : List Nat :=
  (s.waves.filter fun p => p.2.part = part && p.2.vi = vi && !p.2.firmware && p.2.live).map (·.1)

/-- No strand of the waves stands between a prefix and its instruction (R30, R316). -/
def State.noPrefix (s : State) (ks : List Nat) : Bool :=
  ks.all fun k => (List.range 9).all fun n => !(((s.waveK k).strand n).live && ((s.waveK k).strand n).pfx.isSome)

/-- Latched causes are taken first, those of this cycle among them (R317, R351). -/
def State.takeTraps (s : State) (ks : List Nat) : State :=
  ks.foldl (fun s k => if s.trapFirst (k / 64) (k % 64) then s.takeTrap (k / 64) (k % 64) else s) s

/-- The code ranges of every core of a partition brought up to date (R222). -/
def State.updateAllRanges (s : State) (part : Nat) : State :=
  ((s.cores.map (·.1)).filter fun c => 20 * part ≤ c && c < 20 * (part + (s.part part).size)).foldl (fun s c => s.updateRanges c) s

/-- The outgoing VI drained and saved (R287 steps 1 and 2). -/
def State.saveVi (s : State) (part vi : Nat) : State :=
  let s := (s.viWaves part vi).foldl (fun s k => s.drainWave (k / 64) (k % 64)) s
  let ks := s.viWaves part vi
  let mine (b : Block) : Bool := b.part = part && b.vi = vi
  let bs := s.blocks.filter fun p => mine p.2
  let x : Saved :=
    { waves := s.waves.filter fun p => ks.contains p.1
      blocks := bs
      heaps := (s.part part).heaps.filter fun h => h.2.vi = vi
      splits := bs.map fun p => (p.2.core, (s.core p.2.core).split) }
  let s := { s with
    waves := s.waves.filter fun p => !ks.contains p.1
    blocks := s.blocks.filter fun p => !mine p.2 }
  ((s.updVi vi fun v => { v with saved := some x }).updPart part fun p =>
    { p with resident := none, heaps := p.heaps.filter fun h => h.2.vi != vi }).updateAllRanges part

/-- A wave's key on another core. -/
def moveKey (f : Nat → Nat) (k : Nat) : Nat := waveKey (f (k / 64)) (k % 64)

/-- A block on another core of another partition, with its waves' keys (R276). -/
def Block.moved (b : Block) (part : Nat) (f : Nat → Nat) : Block :=
  { b with
    part := part
    core := f b.core
    waves := b.waves.map (moveKey f)
    converted := b.converted.map (moveKey f)
    queues := b.queues.map fun (q : Nat × List EngEntry) => (q.1, q.2.map fun e => { e with core := f e.core })
    mq := b.mq.map fun e => { e with core := f e.core }
    batchFlags := b.batchFlags.map fun x => (x.1, moveKey f x.2.1, x.2.2)
    rings := b.rings.map fun (r : Nat × Ring) => (r.1, { r.2 with
      slots := r.2.slots.map fun t => { t with reserver := moveKey f t.reserver, claimer := t.claimer.map (moveKey f) }
      waiters := r.2.waiters.map fun t => { t with wave := moveKey f t.wave } }) }

/-- A saved context as it stands on the cores of a partition (R276, R287). -/
def Saved.moved (x : Saved) (part : Nat) (f : Nat → Nat) : Saved :=
  { waves := SMap.putAll [] (x.waves.map fun (p : Nat × Wave) => (moveKey f p.1, { p.2 with part := part }))
    blocks := x.blocks.map fun (p : Nat × Block) => (p.1, p.2.moved part f)
    heaps := x.heaps.map fun (h : Nat × Heap) => (h.1, { h.2 with arrivals := h.2.arrivals.map fun a => { a with core := f a.core } })
    splits := SMap.putAll [] (x.splits.map fun (c : Nat × Nat) => (f c.1, c.2)) }

/-- The incoming VI restored where it stood (R287 step 4), or where its new partition puts it (R276). -/
def State.restoreVi (s : State) (part vi : Nat) : State :=
  let f := (((s.vi vi).saved.getD {}).placeIn part (s.part part).size).getD id
  let x := ((s.vi vi).saved.getD {}).moved part f
  let s := x.splits.foldl (fun s c => s.setSplit c.1 c.2) s
  let s := { s with
    waves := SMap.putAll s.waves x.waves
    blocks := SMap.putAll s.blocks x.blocks }
  ((s.updVi vi fun v => { v with
    saved := none
    late := SMap.putAll [] (v.late.map fun p => (16 * moveKey f (p.1 / 16) + p.1 % 16, p.2)) }).updPart part fun p =>
    { p with
      resident := some vi
      sliceStart := p.cycle
      sliceOver := false
      heaps := SMap.putAll p.heaps x.heaps }).updateAllRanges part

/-- CONTEXT_SWITCH (R286, R287, R316, R317). -/
def execContextSwitch (part : Nat) (s : State) : Host.Outcome State Fault Refusal :=
  .next <|
    match s.incoming part with
    | none => s
    | some v =>
      match (s.part part).resident with
      | none => s.restoreVi part v
      | some r =>
        let ks := s.viWaves part r
        if !s.noPrefix ks then s
        else ((s.takeTraps ks).saveVi part r).restoreVi part v

/-! ## Scheduling passes (R279, R280) -/

/-- A mapping that a pass may make: slots and queues are distinct, every queue is an enabled queue of a VI of the partition, and every
queue whose pending bit is set is among them.  R280 does not say what a pass does with more than 64 pending queues: that no mapping is then one
that a pass may make is the model's choice (log entry 99). -/
def State.mapsOk (s : State) (part : Nat) (maps : List (Nat × Nat × Nat)) : Bool :=
  let en (v q : Nat) : Bool := v < 64 && q < 16 && (s.vi v).part = some part && (SMap.get {} (s.vi v).queues q : LQueue).enable
  (maps.map (·.1)).Nodup && (maps.map (·.2)).Nodup && (maps.all fun m => m.1 < 64 && en m.2.1 m.2.2) &&
  s.vis.all fun v => v.2.part != some part || v.2.queues.all fun q => !q.2.pending || !q.2.enable || maps.any fun m => m.2 = (v.1, q.1)

/-- The capture point of a queue that leaves its slot (R280). -/
def State.unmapQueue (s : State) (part slot : Nat) : State :=
  match SMap.find? (s.part part).slots slot with
  | none => s
  | some x =>
    (s.updQueue x.vi x.q fun q => { q with saved := x.prod }).updPart part fun p => { p with slots := SMap.erase p.slots slot }

/-- A queue put on a slot (R280): its producer index comes from the notify word. -/
def State.mapQueue (s : State) (part slot vi q : Nat) : State :=
  let lq : LQueue := SMap.get {} (s.vi vi).queues q
  let (s, got) := s.fetchVirt part vi lq.word.toNat 4
  let prod := (got.map fun l => BitVec.ofNat 32 (leNat l)).getD lq.saved
  (s.updQueue vi q fun x => { x with pending := false }).updPart part fun p => { p with slots := SMap.put p.slots slot ⟨vi, q, prod⟩ }

/-- SCHEDULING_PASS (R280). -/
def execSchedulingPass (part : Nat) (maps : List (Nat × Nat × Nat)) (s : State) : Host.Outcome State Fault Refusal :=
  .next <|
    if !s.mapsOk part maps then s
    else
      let stays (slot vi q : Nat) : Bool := (SMap.find? (s.part part).slots slot).any fun x => x.vi = vi && x.q = q
      let gone := ((s.part part).slots.map (·.1)).filter fun k => !maps.any fun m => m.1 = k && stays k m.2.1 m.2.2
      let t := gone.foldl (fun t k => t.unmapQueue part k) s
      maps.foldl (fun t m =>
        if stays m.1 m.2.1 m.2.2 && !(SMap.get {} (s.vi m.2.1).queues m.2.2 : LQueue).pending then t
        else t.mapQueue part m.1 m.2.1 m.2.2) t

/-! ## The work of a VI stopped -/

/-- A block that is gone with nothing performed: its pinned lines are given back and its counted stash lines reported. -/
def State.discardBlock (s : State) (blk : Nat) : State :=
  let b := s.block blk
  let s := (s.unpinLines b.part (b.mq.flatMap fun e => e.pinned)).reportCounts blk
  { s with blocks := SMap.erase s.blocks blk }

/-- A heap whose waves are gone: no arrival and no parent's update is left. -/
def Heap.quiet (h : Heap) : Heap := { h with arrivals := [], parentUps := [] }

/-- Every wave and block of a VI is gone, resident or saved, and its heaps have no arrival; its saved heaps stay saved, apart from those of the
resident VI (R277). -/
def State.discardWork (s : State) (vi : Nat) : State :=
  let s : State := match (s.vi vi).saved with
    | none => s
    | some x =>
      let hs := x.heaps.map fun (h : Nat × Heap) => (h.1, h.2.quiet)
      ({ s with blocks := SMap.putAll s.blocks x.blocks }).updVi vi fun v =>
        { v with saved := if hs.isEmpty then none else some { heaps := hs } }
  let s := ((s.blocks.filter fun p => p.2.vi = vi).map (·.1)).foldl (fun s b => s.discardBlock b) s
  let s := { s with waves := s.waves.filter fun p => p.2.vi != vi || p.2.firmware }
  match (s.vi vi).part with
  | none => s
  | some part =>
    (s.updPart part fun p => { p with heaps := p.heaps.map fun h => if h.2.vi = vi then (h.1, h.2.quiet) else h }).updateAllRanges part

/-- A change of a VI's saved heaps, in the place of those of the resident VI (R277). -/
def State.onSaved (s : State) (part vi : Nat) (f : State → State) : State :=
  match (s.vi vi).saved with
  | none => s
  | some x =>
    let live := (s.part part).heaps
    let t := f (s.updPart part fun p => { p with heaps := x.heaps })
    (t.updVi vi fun v => { v with saved := some { x with heaps := (t.part part).heaps } }).updPart part fun p => { p with heaps := live }

/-- A VI without resident or saved work and without an unfinished packet. -/
def State.idleVi (s : State) (vi : Nat) : Bool :=
  !(s.waves.any fun p => p.2.vi = vi && p.2.live && !p.2.firmware) && !(s.blocks.any fun p => p.2.vi = vi) && !(s.vi vi).hasSaved &&
  !(s.packets.any fun p => p.2.vi = vi) && !(s.parts.any fun p => p.2.heaps.any fun h => h.2.vi = vi && h.2.run.isSome)

/-- A packet of a VI in its new partition (R276): units that it has not placed stay in their ranges, from which the new chiplets steal. -/
def Packet.moved (p : Packet) (part : Nat) (chiplets : List Nat) : Packet :=
  { p with
    part := part
    tickets := p.tickets ++ if p.tickets.isEmpty then []
      else (chiplets.filter fun c => !p.tickets.any fun t => t.1 = c).map fun c => (c, 0, 0) }

/-- A VI assigned to a partition (R329, R330, R342): its meters and SAT bits are cleared, its dump key is gone (R354), and what its extents hold
is read under its new key.  A context that a change of layout has saved stays, with its packets (R276) and its meters (R287): an ASSIGN needs
a VI without saved work.  That such a VI too counts one assignment more and loses its dump key is the model's choice (log entry 97). -/
def State.assignVi (s : State) (vi part : Nat) (keep : Bool := false) : State :=
  let s := { s with parts := s.parts.map fun (p : Nat × Part) =>
    (p.1, { p.2 with
      resident := if p.2.resident = some vi then none else p.2.resident
      slots := p.2.slots.filter fun x => x.2.vi != vi
      heaps := p.2.heaps.filter fun h => h.2.vi != vi }) }
  let s : State := { s with packets := s.packets.map fun (x : Nat × Packet) => (x.1, if x.2.vi = vi then x.2.moved part (s.chipletsOf part) else x.2) }
  let s := s.updVi vi fun v =>
    let v := { v with part := some part, assigns := v.assigns + 1, key := none }
    if keep then v else { v with meters := [], sat := 0, holding := false, late := [], saved := none }
  (s.dev.extents.filter fun e => e.vi = vi && !e.gone).foldl (fun s e => s.rekey vi e.base e.len) s

/-! ## Partition layouts (R275, R276, R241) -/

/-- The domains of a partition. -/
def domainsOf (p : PartSpec) : List Nat := (List.range p.size).map (p.low + ·)

/-- A new layout obeys R275 and R241: aligned unions of 1, 2, 4 or 8 domains that are disjoint, every VI in one of them, and lent
quadrants that no partition of the layout has as its own and that are lent once. -/
def layoutOk (l : List PartSpec) : Bool :=
  (l.all fun p => (p.size = 1 || p.size = 2 || p.size = 4 || p.size = 8) && p.low % p.size = 0 && p.low + p.size ≤ 8 &&
    p.lent.all fun q => q.1 < 12 && q.2 < 4 && l.all fun o => o.low = p.low || !((domainsOf o).any fun d => d / 2 = q.2)) &&
  (l.flatMap domainsOf).Nodup && (l.flatMap fun p => p.vis).Nodup && (l.flatMap fun p => p.lent).Nodup &&
  l.all fun p => p.vis.all fun v => v < 64

/-- A context that is saved through a change of layout is that of a VI which moves from one partition to another (R276). -/
def State.savesOk (s : State) (l : List PartSpec) : Bool :=
  l.all fun p => p.saves.all fun v => p.vis.contains v && (s.vi v).part.isSome

/-- The partitions that a layout concerns: those that share a domain with it. -/
def State.concerned (s : State) (l : List PartSpec) : List Nat :=
  (s.parts.filter fun p => (List.range p.2.size).any fun i => (l.flatMap domainsOf).contains (p.1 + i)).map (·.1)

/-- No partition concerned holds resident work, no partition that stays uses a quadrant to be lent or borrows one of the new partitions' own (R241),
and every VI that moves comes from a partition concerned or from none. -/
def State.mayReconfigure (s : State) (l : List PartSpec) : Bool :=
  let cs := s.concerned l
  !(s.waves.any fun w => cs.contains w.2.part && w.2.live && !w.2.firmware) && !(s.blocks.any fun b => cs.contains b.2.part) &&
  (s.parts.all fun p => cs.contains p.1 || l.all fun o =>
    (o.lent.all fun q => !p.2.lent.contains q && !((List.range p.2.size).any fun i => (p.1 + i) / 2 = q.2)) &&
    p.2.lent.all fun q => !((domainsOf o).any fun d => d / 2 = q.2)) &&
  s.savesOk l && l.all fun o => o.vis.all fun v => (s.vi v).part.all cs.contains

/-- A block that holds no pin in L2 any more: its operations read their lines without one (R240). -/
def Block.unpinned (b : Block) : Block := { b with mq := b.mq.map fun e => { e with pinned := [], fetched := [] } }

/-- The contexts of a partition's VIs before its reset (R276): those to be saved are saved, with the counts of their fills ended (R239) and without
pins in the L2 that is reset, and the others are discarded. -/
def State.settleContexts (s : State) (part : Nat) (vs saves : List Nat) : State :=
  vs.foldl (fun s v =>
    if saves.contains v then
      let s := if (s.part part).resident = some v then s.saveVi part v else s
      let s := ((s.packets.filter fun x => x.2.vi = v).map (·.1)).foldl (fun s id => s.endCounts id) s
      s.updVi v fun x => { x with saved := x.saved.map fun y => { y with blocks := y.blocks.map fun b => (b.1, b.2.unpinned) } }
    else s.discardWork v) s

/-- The dirty sectors of a partition's L2 written back before it is reset (R231, R341). -/
def State.drainL2 (s : State) (part size : Nat) : State :=
  (s.l2.filter fun x => 16 * part ≤ x.1 / 1024 && x.1 / 1024 < 16 * (part + size)).foldl (fun s x =>
    x.2.foldl (fun s w => if w.dirty = 0 then s else (s.chargeBytes w.vi w.line (popSectors w.dirty)).toDevice w.line) s) s

/-- A partition reset (R276): its L2 is written back, its registers, caches, tags and bins start afresh, and its queues leave their slots (R280). -/
def State.resetPart (s : State) (part : Nat) (saves : List Nat) : State :=
  let p := s.part part
  let vs := (s.vis.filter fun v => v.2.part = some part).map (·.1)
  let s := s.settleContexts part vs saves
  let s := (p.slots.map (·.1)).foldl (fun s k => s.unmapQueue part k) (s.drainL2 part p.size)
  let gone (v : Nat) : Bool := vs.contains v && !saves.contains v
  let core (c : Nat) : Bool := 20 * part ≤ c && c < 20 * (part + p.size)
  let slice (k : Nat) : Bool := 16 * part ≤ k && k < 16 * (part + p.size)
  { s with
    packets := s.packets.filter fun x => !gone x.2.vi
    cores := s.cores.filter fun c => !core c.1
    ctlb := s.ctlb.map fun c => (c.1, c.2.filter fun e => !vs.contains e.vi)
    l2 := s.l2.filter fun x => !slice (x.1 / 1024)
    spent := s.spent.filter fun x => !slice x.1
    counted := s.counted.filter fun x => !vs.contains x.2.vi
    vis := s.vis.map fun v => if vs.contains v.1 then (v.1, { v.2 with part := none, owners := [], saved := if saves.contains v.1 then v.2.saved else none }) else v
    parts := SMap.erase s.parts part }

/-- PARTITION_RECONFIGURE (R276). -/
def execPartitionReconfigure (layout : List PartSpec) (s : State) : Host.Outcome State Fault Refusal :=
  .next <|
    if !layoutOk layout || !s.mayReconfigure layout then s
    else
      let saves := layout.flatMap fun p => p.saves
      let s := (s.concerned layout).foldl (fun s p => s.resetPart p saves) s
      let new (p : PartSpec) : Part :=
        { size := p.size, lent := p.lent, quota := min 6 p.quota, tl := p.tl % 512, th := p.th % 512, w := p.w }
      let s := layout.foldl (fun s p => { s with parts := SMap.put s.parts p.low (new p) }) s
      layout.foldl (fun s p => p.vis.foldl (fun s v => s.assignVi v p.low (saves.contains v)) s) s

end Sys2Proof.Machine
end

