-- ==== Sys2Proof/Machine/Events.lean ====
section
/-! DEFINITION. Steps of a wave that no word makes: results written, entries released, page walks, traps taken, contexts and waves that
end, fetch fills, and strands that become capped. -/

namespace Sys2Proof.Machine

/-- RESULT_WRITE (R29, R219): a result lands in the lanes named, behind earlier results of its strand for the same registers. -/
def execResultWrite (core slot idx : Nat) (lanes : Lanes) (s : State) : Host.Outcome State Fault Refusal :=
  .next (if slot < 64 && !s.isStopped core slot && s.canLand core slot idx then (s.land core slot idx lanes).settle core slot else s)

/-- SSQ_ENTRY_RELEASE (R211): an entry that is neither held nor ordered behind another is performed. -/
def execSsqEntryRelease (core slot id : Nat) (s : State) : Host.Outcome State Fault Refusal :=
  .next <|
    match if 64 ≤ slot || s.isStopped core slot then none else (s.wave core slot).entry id with
    | some q =>
      if q.ssq && s.ripeNow core slot q && s.releasable core slot q && s.tlbReady core (s.wave core slot) q.op then
        (s.runEntry core slot q).settle core slot
      else s
    | none => s

/-- PAGE_WALK (R312 to R314): the walk of an access that no TLB covers, after which the access is performed or faults; an access that needs no
walk and has not been performed in the step of its issue is performed here too (R256). -/
def execPageWalk (core slot id : Nat) (s : State) : Host.Outcome State Fault Refusal :=
  .next <|
    match if 64 ≤ slot || s.isStopped core slot then none else (s.wave core slot).entry id with
    | some q => if s.ripeNow core slot q && s.releasable core slot q then (s.runEntry core slot q).settle core slot else s
    | none => s

/-- A latched cause that ends the context of the block (R311, R301). -/
def State.endsContext (s : State) (core slot : Nat) : Bool :=
  let w := s.wave core slot
  w.latched.any fun f => f.cause.kind = .terminal || f.strand = 8 || (s.vi w.vi).tba = 0

/-- TAKE_TRAP (R302). -/
def execTakeTrap (core slot : Nat) (s : State) : Host.Outcome State Fault Refusal :=
  .next (if slot < 64 && s.trapReady core slot && !s.endsContext core slot then s.takeTrap core slot else s)

/-- CONTEXT_END (R311). -/
def execContextEnd (core slot : Nat) (s : State) : Host.Outcome State Fault Refusal :=
  .next (if slot < 64 && s.trapReady core slot && s.endsContext core slot then s.takeTrap core slot else s)

/-- WAVE_END (R133). -/
def execWaveEnd (core slot : Nat) (s : State) : Host.Outcome State Fault Refusal :=
  .next (if slot < 64 then s.endWave core slot else s)

/-! ## Fetch (R221, R222) -/

/-- The cores of a chiplet whose registered ranges cover an address of a VI (R222). -/
def State.rangeCores (s : State) (chiplet vi va : Nat) : List Nat :=
  (s.cores.filter fun p => p.1 / 40 = chiplet && p.2.ranges.any fun r =>
    r.vi = vi && r.base.toNat / 128 * 128 ≤ va && va < r.base.toNat + r.len).map (·.1)

/-- A line put into a core's instruction cache (R221): 128 sets of 8 ways, indexed by the line's address; a full set gives up the line that
it has held longest (log entry 63). -/
def Core.install (k : Core) (key : Nat) (d : LineData) : Core :=
  let set (x : Nat) : Nat := x / 128 % 128
  let held := (k.icache.map (·.1)).filter fun x => set x = set key && x != key
  let out := if held.length < 8 then none else (k.icacheAge.find? held.contains).or held.head?
  match out with
  | some x => { k with icache := SMap.put (SMap.erase k.icache x) key d, icacheAge := (k.icacheAge.erase x).erase key ++ [key] }
  | none => { k with icache := SMap.put k.icache key d, icacheAge := k.icacheAge.erase key ++ [key] }

/-- FETCH_FILL (R221, R222): the line goes to the core that missed, and to every core of the chiplet whose ranges cover it.  A line with an
uncorrectable error is not delivered (R243). -/
def State.fetchFill (s : State) (core vi va : Nat) : State :=
  let line := va / 128 * 128
  if s.partOf core = noPart then s else
  match s.translate core vi line .fetch with
  | .error _ => s
  | .ok (x, s) =>
    if s.bad.contains x.line then s
    else
      let s := if x.region = 2 then s.recall x.line true none none else s
      let s := s.l2Access (s.partOf core) vi x.line 15 false .normal
      let d := s.homeData x
      (core :: s.rangeCores (core / 40) vi line).foldl (fun s c => s.updCore c fun k => k.install (icacheKey vi line) d) s

/-- FETCH_FILL: a core whose domain belongs to no partition fetches nothing (R275). -/
def execFetchFill (core vi : Nat) (va : DWord) (s : State) : Host.Outcome State Fault Refusal :=
  .next (if core < 176 then s.fetchFill core vi va.toNat else s)

/-! ## Capping (R216) -/

/-- STRAND_CAPPED (R216): a ready strand passed over 64 times. -/
def execStrandCapped (core slot strand : Nat) (s : State) : Host.Outcome State Fault Refusal :=
  .next <|
    let st := (s.wave core slot).strand strand
    if slot < 64 && st.state = .ready && st.cappedAt.isNone && 64 ≤ st.waits then
      s.updStrand core slot strand fun st => { st with cappedAt := some (s.cycle (s.wave core slot).part) }
    else s

end Sys2Proof.Machine
end

