-- ==== Sys2Proof/Machine/HostIface.lean ====
section
/-! DEFINITION. The host interface: register reads (R277, R328), host windows (R357) and the request ring (R329). -/

namespace Sys2Proof.Machine

/-! ## Registers as the host reads them (R277, R328) -/

/-- The register of a VI at an offset. -/
def State.viRead (s : State) (vi off : Nat) : DWord :=
  let v := s.vi vi
  if off < 0x400 then
    let q : LQueue := SMap.get {} v.queues (off / 0x40)
    let mapped := s.parts.any fun p => p.2.slots.any fun x => x.2.vi = vi && x.2.q = off / 0x40
    match off % 0x40 with
    | 0x00 => q.base
    | 0x08 => BitVec.ofNat 64 (q.size + (if q.enable then 2 ^ 31 else 0))
    | 0x10 => q.word
    | 0x18 => q.cons.setWidth 64
    | 0x1C => BitVec.ofNat 64 ((if mapped then 1 else 0) + (if q.pending then 2 else 0))
    | _ => 0
  else match off with
    | 0x1000 => v.eqbase
    | 0x1008 => BitVec.ofNat 64 v.eqsize
    | 0x100C => v.eqprod.setWidth 64
    | 0x1010 => v.eqcons.setWidth 64
    | 0x1014 => v.eqlost.setWidth 64
    | 0x1100 => BitVec.ofNat 64 v.prio
    | 0x1104 => BitVec.ofNat 64 v.slice
    | _ =>
      if 0x4000 ≤ off && off < 0x4000 + 8 * 32 then
        let r : Retention := SMap.get {} v.ret ((off - 0x4000) / 32)
        match (off - 0x4000) % 32 with
        | 0 => BitVec.ofNat 64 r.hit
        | 8 => BitVec.ofNat 64 r.miss
        | 16 => BitVec.ofNat 64 r.ovf
        | _ => 0
      else 0

/-- The register of the physical function at an offset. -/
def State.pfRead (s : State) (off : Nat) : DWord :=
  let d := s.dev
  match off with
  | 0x0000 => BitVec.ofNat 64 (d.stage + 256 * d.failCode)
  | 0x0008 => d.imgBase
  | 0x0010 => BitVec.ofNat 64 d.imgLen
  | 0x0018 => BitVec.ofNat 64 d.devNum
  | 0x0100 => d.reqBase
  | 0x0108 => BitVec.ofNat 64 d.reqSize
  | 0x010C => d.reqProd.setWidth 64
  | 0x0110 => d.reqCons.setWidth 64
  | _ => 0

/-! ## Windows (R357) -/

/-- The record of a host access that failed (R357). -/
def State.hostError (s : State) (vi off : Nat) (r : Raise) : State :=
  s.postError vi { va := BitVec.ofNat 64 off, cause := r.cause.code, queue := 0xFE }

/-- A window that the host has, with n bytes of it at an offset (R327, R357): that of the physical function holds 1 TiB, that of each of the 64
virtual functions 256 TiB. -/
def windowHolds (w : Window) (off n : Nat) : Bool :=
  match w with
  | .pf => off + n ≤ 2 ^ 40
  | .vi v => v < 64 && off + n ≤ 2 ^ 48

/-- HOST_WRITE (R267, R357): one posted write, then every future cell it fills wakes its waiters (R168). -/
def execHostWrite (w : Window) (off : Nat) (data : List Byte) (s : State) : Host.Outcome State Fault Refusal :=
  .next <|
    if !windowHolds w off data.length then s
    else match w with
    | .pf => (s.physWrite off (data.take (hbmEnd - off))).wakeFutures
    | .vi v =>
      match s.writeVirt v off data with
      | .ok s => (s.countVirt (s.viPart v) v off data.length true).wakeFutures
      | .error r => (s.walkVirt (s.viPart v) v off data.length).hostError v off r

/-- HOST_READ (R267, R357). -/
def execHostRead (w : Window) (off n : Nat) (s : State) : Host.Outcome State Fault Refusal :=
  let answer (s : State) (l : List Byte) : State := { s with outbox := s.outbox ++ [.hostData l] }
  .next <|
    if !windowHolds w off n then s
    else match w with
    | .pf => answer (s.physTouch off (min n (hbmEnd - off)) false) (s.physRead off (min n (hbmEnd - off)) ++ List.replicate (n - (hbmEnd - off)) 0)
    | .vi v =>
      match s.readVirt v off n with
      | .ok l => answer (s.countVirt (s.viPart v) v off n false) l
      | .error r =>
        let s := s.stoppedVirt (s.viPart v) v off n r
        answer (s.hostError v off r) (List.replicate n 0xFF)

/-! ## The request ring (R329) -/

/-- The address of the next request's entry. -/
def Device.reqAddr (d : Device) : Nat := hostBase + d.reqBase.toNat + d.reqCons.toNat % 2 ^ d.reqSize * 64

/-- The next request, when the ring is set up and holds one, with its entry. -/
def State.nextRequest (s : State) : Option (List Byte) :=
  if s.dev.stage != 4 || s.dev.reqSize < 4 || 12 < s.dev.reqSize || s.dev.reqProd = s.dev.reqCons then none
  else some (s.physRead s.dev.reqAddr 64)

/-- The next request served when it has a command's code: the status is written before REQCONS advances, then the interrupt is sent.  R329 gives
no status for an entry whose code is none of 1 to 7: that firmware never completes it, so that REQCONS stops there and no later request is
served, is the model's choice (log entry 42). -/
def State.serve (s : State) (code : Nat) (f : State → Nat → List Byte → Nat × State) : State :=
  match s.nextRequest with
  | none => s
  | some l =>
    if field l 0 2 != code then s
    else
      let vi := field l 2 2
      let (status, t) := if 64 ≤ vi then (1, s) else f s vi l
      let t := (t.physWrite (s.dev.reqAddr + 4) (leBytes 4 status)).wakeFutures
      { t with dev := { t.dev with reqCons := t.dev.reqCons + 1 }, outbox := t.outbox ++ [.pfMsix 0] }

/-- SETTRAP (R303, R329). -/
def execSettrap (s : State) : Host.Outcome State Fault Refusal :=
  .next <| s.serve 1 fun s vi l =>
    let (tba, tfb) := (field l 8 8, field l 16 8)
    if tfb % 8192 != 0 then (1, s)
    else (0, s.updVi vi fun v => { v with tba := BitVec.ofNat 64 tba, tfb := BitVec.ofNat 64 tfb })

/-- SETROOT (R329): every translation of the VI is invalidated. -/
def execSetroot (s : State) : Host.Outcome State Fault Refusal :=
  .next <| s.serve 2 fun s vi l =>
    let root := field l 8 8
    if root % 4096 != 0 then (1, s)
    else (0, (s.tlbInvalidate vi true 0).updVi vi fun v => { v with root := BitVec.ofNat 64 root })

/-- A queue holds a COLL of a group. -/
def Block.holdsColl (b : Block) (handle : Nat) : Bool :=
  (SMap.get [] b.queues 6).any fun e =>
    match e.op with
    | .coll _ _ _ g _ _ _ _ _ => g = handle
    | _ => false

/-- A COLL of a VI that has not completed names a group. -/
def State.groupBusy (s : State) (vi handle : Nat) : Bool :=
  (s.blocks.any fun p => p.2.vi = vi && p.2.holdsColl handle) ||
  (s.vi vi).saved.any fun x => x.blocks.any fun p => p.2.holdsColl handle

/-- GROUP (R329): a member list that cannot be read, an index outside the group or a list with a wrong entry breaks a rule. -/
def execGroup (s : State) : Host.Outcome State Fault Refusal :=
  .next <| s.serve 3 fun s vi l =>
    let (handle, m, q, list) := (field l 8 2, field l 10 2, field l 12 2, field l 16 8)
    if m ≤ q then (1, s)
    else match s.fetchVirt (s.viPart vi) vi list (8 * m) with
      | (s, none) => (1, s)
      | (s, some d) =>
        let es := (List.range m).map fun i => field d (8 * i) 8
        if es.any fun e => 2 ^ 32 ≤ e then (1, s)
        else if s.groupBusy vi handle then (2, s)
        else (0, s.updVi vi fun v => { v with groups := SMap.put v.groups handle ⟨m, q, es.map (BitVec.ofNat 64)⟩ })

/-- SCHEDP (R277, R329). -/
def execSchedp (s : State) : Host.Outcome State Fault Refusal :=
  .next <| s.serve 4 fun s vi l =>
    let (prio, slice) := (field l 8 4, field l 12 4)
    if 7 < prio || slice < 100 || 50000 < slice then (1, s)
    else (0, s.updVi vi fun v => { v with prio := prio, slice := slice })

/-- ASSIGN (R329, R330, R342). -/
def execAssign (s : State) : Host.Outcome State Fault Refusal :=
  .next <| s.serve 5 fun s vi l =>
    let part := field l 8 4
    if (s.part part).size = 0 then (1, s)
    else if !s.idleVi vi then (2, s)
    else (0, s.assignVi vi part)

/-- The runs of a VI's heaps of a partition end with a status (R295). -/
def State.endRuns (s : State) (part vi status : Nat) : State :=
  ((s.part part).heaps.filter fun h => h.2.vi = vi && h.2.run.isSome).foldl (fun s h => s.endRun part h.1 status) s

/-- The work of a VI ends (R329), with its runs, saved ones among them (R295): every accepted packet completes with status 3. -/
def State.resetVi (s : State) (vi : Nat) : State :=
  let s := s.discardWork vi
  let s := match (s.vi vi).part with
    | some p => (s.endRuns p vi 3).onSaved p vi fun s => s.endRuns p vi 3
    | none => s
  ((s.packets.filter fun p => p.2.vi = vi).map (·.1)).foldl (fun s id =>
    (s.updPkt id fun p => { p with state := .done, status := 3 }).completePkt id) s

/-- RESETVI (R284, R295, R329). -/
def execResetvi (s : State) : Host.Outcome State Fault Refusal := .next <| s.serve 6 fun s vi _ => (0, s.resetVi vi)

/-! ## Extents (R242, R330, R332) -/

/-- The record about an extent (R332). -/
def State.extentRecord (s : State) (vi base status : Nat) : State :=
  s.postError vi { va := BitVec.ofNat 64 base, status := status, cause := Cause.extentgone.code, queue := 0xFE }

/-- A physical line belongs to an extent. -/
def Extent.holds (e : Extent) (line : Nat) : Bool := capBase + e.base ≤ line * 128 && line * 128 < capBase + e.base + e.len

/-- A block's window lines over an extent are lost (R242). -/
def Block.dropExtent (b : Block) (e : Extent) : Block :=
  { b with wins := b.wins.map fun p => (p.1, { p.2 with lines := p.2.lines.map fun l =>
      if l.2.valid && ((SMap.find? p.2.phys l.1).any fun x => e.holds x.1) then (l.1, WinLine.recalled) else l }) }

/-- The window lines of every block, resident or saved, over an extent are lost (R242, R265). -/
def State.dropExtent (s : State) (e : Extent) : State :=
  let drop (m : SMap Block) : SMap Block := m.map fun p => (p.1, p.2.dropExtent e)
  { s with
    blocks := drop s.blocks
    vis := s.vis.map fun v => (v.1, { v.2 with saved := v.2.saved.map fun x => { x with blocks := drop x.blocks } }) }

/-- The extent fence (R242): every copy of its lines is dropped without write-back, and what the device has acknowledged stands. -/
def State.fenceExtent (s : State) (e : Extent) : State :=
  let s := s.dropExtent e
  let inside (a : Nat) : Bool := e.holds (a / 128)
  { s with
    cores := s.cores.map fun c => (c.1, { c.2 with
      l1 := c.2.l1.filter fun l => !e.holds l.1
      tile := c.2.tile.filter fun l => !e.holds l.line })
    l2 := s.l2.map fun x => (x.1, x.2.filter fun w => !e.holds w.line)
    counted := s.counted.filter fun x => !e.holds x.1
    bad := s.bad.filter fun l => !e.holds l
    mem := SMap.putAll (s.mem.filter fun x => !inside x.1) (s.capDev.filter fun x => inside x.1)
    dev := { s.dev with extents := s.dev.extents.map fun x => if x = e then { x with pending := false, gone := true } else x }
    outbox := s.outbox ++ [.released e.base] }

/-- EXTDONE (R329, R332). -/
def execExtdone (s : State) : Host.Outcome State Fault Refusal :=
  .next <| s.serve 7 fun s vi l =>
    match s.dev.extents.find? fun e => e.base = field l 8 8 && e.vi = vi && e.pending with
    | some e => (0, s.fenceExtent e)
    | none => (1, s)

end Sys2Proof.Machine
end

