-- ==== Sys2Proof/Machine/Fabric.lean ====
section
/-! DEFINITION. Extents (R330, R332), Lomior Link (R334, R335, R346), HBM refresh (R333), power (R339), and accesses of other devices
(R266, R326). -/

namespace Sys2Proof.Machine

/-! ## Extents (R330, R332) -/

/-- EXTENT_ADD (R330): an extent for exactly one VI, in the window and apart from every extent in use.  The VI reads what the device holds through its
own key. -/
def execExtentAdd (base len vi : Nat) (s : State) : Host.Outcome State Fault Refusal :=
  let clash (e : Extent) : Bool := e.base < base + len && base < e.base + e.len
  .next <|
    if len = 0 || 2 ^ 44 < base + len || 64 ≤ vi || s.dev.extents.any (fun e => clash e && !e.gone) then s
    else
      let t : State := { s with dev := { s.dev with
        extents := s.dev.extents.filter (fun e => !clash e) ++ [{ base := base, len := len, vi := vi }] } }
      t.rekey vi base len

/-- EXTENT_RELEASE (R332): the owner is told, once; a forced release goes on at once to the fence, that of an extent whose release is pending
too. -/
def execExtentRelease (base : Nat) (forced : Bool) (s : State) : Host.Outcome State Fault Refusal :=
  .next <|
    match s.dev.extents.find? fun e => e.base = base && !e.gone && (forced || !e.pending) with
    | none => s
    | some e =>
      let s := if e.pending then s else s.extentRecord e.vi e.base 3
      if forced then (s.extentRecord e.vi e.base 2).fenceExtent e
      else { s with dev := { s.dev with extents := s.dev.extents.map fun x => if x = e then { x with pending := true } else x } }

/-- GRACE_PERIOD_END (R332): no EXTDONE has arrived. -/
def execGracePeriodEnd (base : Nat) (s : State) : Host.Outcome State Fault Refusal :=
  .next <|
    match s.dev.extents.find? fun e => e.base = base && e.pending with
    | none => s
    | some e => (s.extentRecord e.vi e.base 2).fenceExtent e

/-! ## Job membership (R346) -/

/-- The ports of a partition that have a partner. -/
def State.portsUp (s : State) (part : Nat) : List Nat :=
  (List.range 16).filter fun n =>
    part ≤ n / 2 && n / 2 < part + (s.part part).size && (SMap.get {} s.dev.ports n : Port).up

/-- Bytes 0 to 703 of a job membership record (R346).  R346 does not say what a SETJOB of a VI without a partition puts there: that its record shows
partition 8, which is none, and no port is the model's choice (log entry 100). -/
def State.membHead (s : State) (vi : Nat) : List Byte :=
  let part := s.viPart vi
  let up := s.portsUp part
  leBytes 1 2 ++ leBytes 1 1 ++ leBytes 2 s.dev.devNum ++ leBytes 1 part ++ leBytes 1 vi ++
  leBytes 2 (up.foldl (fun n p => n + 2 ^ p) 0) ++ leBytes 8 (s.vi vi).job.toNat ++ leBytes 8 (s.dev.time / 3) ++
  leBytes 4 s.dev.epoch.toNat ++ leBytes 4 0 ++ beBytes 32 Config.identity.toNat ++
  (List.range 16).flatMap fun n =>
    let p : Port := SMap.get {} s.dev.ports n
    if up.contains n then beBytes 32 p.ident.toNat ++ leBytes 2 p.dev ++ leBytes 1 p.port ++ leBytes 1 1 ++ leBytes 4 0
    else leBytes 40 0

/-- A new job membership record of a VI (R346). -/
def State.formMemb (s : State) (vi : Nat) : State :=
  let r := s.signed (s.membHead vi)
  s.updVi vi fun v => { v with memb := r }

/-- New records for every VI of the partition that a port belongs to (R346). -/
def State.formMembs (s : State) (port : Nat) : State :=
  let part := s.partOf (10 * port)
  ((s.vis.filter fun v => v.2.part = some part).map (·.1)).foldl (fun s v => s.formMemb v) s

/-! ## Links (R334, R335) -/

/-- LINK_UP (R334): the partner's identity is known, and the device has its number. -/
def execLinkUp (port partner partnerPort : Nat) (ident : BitVec 256) (s : State) : Host.Outcome State Fault Refusal :=
  .next <|
    if 16 ≤ port || 1024 ≤ partner || 16 ≤ partnerPort then s
    else
      ({ s with dev := { s.dev with
          ports := SMap.upd {} s.dev.ports port fun p => { p with up := true, failed := false, dev := partner, port := partnerPort, ident := ident }
          devNum := Config.deviceNumber.toNat } }).formMembs port

/-- LINK_FAILURE (R335): the partition loses the partner when none of its other ports reaches it, each of its VIs receives a record, and job
membership records are formed anew (R346). -/
def execLinkFailure (port : Nat) (s : State) : Host.Outcome State Fault Refusal :=
  .next <|
    let p : Port := SMap.get {} s.dev.ports port
    if !p.up then s
    else
      let s := { s with dev := { s.dev with ports := SMap.put s.dev.ports port { p with up := false, failed := true } } }
      let part := s.partOf (10 * port)
      (((s.vis.filter fun v => v.2.part = some part).map (·.1)).foldl (fun s v =>
        s.postError v { va := BitVec.ofNat 64 p.dev, cause := Cause.mcheck.code, queue := 0xFE }) s).formMembs port

/-- A port lets a partition of another device reach an HBM address, whose partition owns it (R326). -/
def State.mayReach (s : State) (port dev part off : Nat) : Bool :=
  (s.hbmOwner off).any fun p => (SMap.get {} s.dev.ports port : Port).reach.contains (dev, part, p)

/-- The HBM offset of a request. -/
def remoteOff (op : RemoteOp) : Nat :=
  match op with
  | .load off _ => off
  | .store off _ => off
  | .atomic _ off _ _ => off

/-- REMOTE_ACCESS (R266, R326): an access of a partition of another device, which comes by a port that is up, performed at the home slice, or
refused where the port's programming does not let that partition reach the local one. -/
def execRemoteAccess (src : RemoteSource) (op : RemoteOp) (s : State) : Host.Outcome State Fault Refusal :=
  let answer (s : State) (l : List Byte) : State := { s with outbox := s.outbox ++ [.link src.dev l] }
  .next <|
    if 16 ≤ src.port || 1024 ≤ src.dev || 8 ≤ src.part || !(SMap.get {} s.dev.ports src.port : Port).up then s
    else if !s.mayReach src.port src.dev src.part (remoteOff op) then { s with outbox := s.outbox ++ [.refuse src.dev] }
    else match op with
    | .load off n => if hbmEnd < off + n then s else answer ((s.physTouch off n false).sendPayload off n) (s.physRead off n)
    | .store off data => if hbmEnd < off + data.length then s else answer (s.physWrite off data).wakeFutures []
    | .atomic ao off v c =>
      let n := atomSize ao
      if hbmEnd < off + n || off % n != 0 then s
      else
        let old := leNat (s.physRead off n)
        answer ((s.physWrite off (leBytes n (atomNew ao old (v.toNat % 2 ^ (8 * n)) (c.toNat % 2 ^ (8 * n))))).wakeFutures.sendPayload off n)
          (leBytes n old)

/-- Bytes of another device's 576 GiB of HBM as their owner holds them (R2, R266, R334): what this device's loads and atomics are served with. -/
def State.ownerWrites (s : State) (pa : Nat) (data : List Byte) : State :=
  match s.dev.target pa with
  | some (.remote _, _) => (s.physPut pa (data.take (hbmEnd - pa % 2 ^ 45))).wakeFutures
  | _ => s

/-! ## Refresh (R333) -/

/-- The key of a bank of a channel of a stack (R325). -/
def bankKey (stack chan bank : Nat) : Nat := 384 * bank + 32 * stack + chan

/-- The partition of a channel of a stack: the borrower of its quadrant, else that of its home domain (R241, R325).  The counts of
a channel whose domain belongs to none stand under `noPart`. -/
def State.chanPart (s : State) (stack chan : Nat) : Nat :=
  match s.parts.find? fun p => p.2.lent.contains (stack, chan / 8) with
  | some p => p.1
  | none => s.partOf (20 * (chan / 4))

/-- A channel of a stack that the device has (R2, R241). -/
def isChan (stack chan : Nat) : Bool := stack < 12 && chan < 32

/-- REFRESH_INTERVAL (R333): a bank owes one refresh more; at most 8 are postponed. -/
def execRefreshInterval (stack chan bank : Nat) (s : State) : Host.Outcome State Fault Refusal :=
  .next <|
    if !isChan stack chan then s
    else s.updPart (s.chanPart stack chan) fun p =>
      { p with refresh := SMap.set 0 p.refresh (bankKey stack chan bank) (min 8 (SMap.get 0 p.refresh (bankKey stack chan bank) + 1)) }

/-- A bank is activated once more (R333). -/
def State.activate (s : State) (stack chan bank : Nat) : State :=
  if !isChan stack chan then s
  else s.updPart (s.chanPart stack chan) fun p =>
    { p with acts := SMap.set 0 p.acts (bankKey stack chan bank) (SMap.get 0 p.acts (bankKey stack chan bank) + 1) }

/-- One of the refreshes that a bank owes is issued (R333). -/
def State.refreshBank (s : State) (stack chan bank : Nat) : State :=
  if !isChan stack chan then s
  else s.updPart (s.chanPart stack chan) fun p =>
    { p with refresh := SMap.set 0 p.refresh (bankKey stack chan bank) (SMap.get 0 p.refresh (bankKey stack chan bank) - 1) }

/-- ACTIVATION_ALERT (R333): a bank with activations issues the refreshes that it owes, then one for the alert, and its activation count starts
again; a bank without any raises no alert. -/
def execActivationAlert (stack chan bank : Nat) (s : State) : Host.Outcome State Fault Refusal :=
  .next <|
    let part := s.chanPart stack chan
    if !isChan stack chan || SMap.get 0 (s.part part).acts (bankKey stack chan bank) = 0 then s
    else s.updPart part fun p =>
      { p with
        refresh := SMap.set 0 p.refresh (bankKey stack chan bank) 0
        acts := SMap.set 0 p.acts (bankKey stack chan bank) 0 }

/-! ## Power (R339) -/

/-- POWER_OVERRUN (R339): the limiter withholds issue slots in every quarter. -/
def execPowerOverrun (s : State) : Host.Outcome State Fault Refusal := .next { s with dev := { s.dev with withhold := true } }

/-- OVER_TEMPERATURE (R339): the records of R335, then the partition is reset; its domains and its VIs stay as they are. -/
def execOverTemperature (part : Nat) (s : State) : Host.Outcome State Fault Refusal :=
  .next <|
    let p := s.part part
    if p.size = 0 then s
    else
      let vs := (s.vis.filter fun v => v.2.part = some part).map (·.1)
      let s := vs.foldl (fun s v => s.postError v { cause := Cause.mcheck.code, queue := 0xFE }) s
      let s := s.resetPart part []
      let s := { s with parts := SMap.put s.parts part { size := p.size, lent := p.lent } }
      vs.foldl (fun s v => s.updVi v fun x => { x with part := some part }) s

end Sys2Proof.Machine
end

