-- ==== Sys2Proof/Machine/Clock.lean ====
section
/-! DEFINITION. The lane-cycle record (R347, R348) and the passage of time (R1, R21, R292). -/

namespace Sys2Proof.Machine

/-! ## The lane-cycle record -/

/-- A lane's class in a beat (R347). -/
def laneClass (r : BeatRec) (lane : Nat) : Nat :=
  if r.exm.getLsbD lane then 0 else if r.memb.getLsbD lane then 2 else if r.pop.getLsbD lane then 1 else 3

/-- The counts of a slot by class. -/
def slotCounts (r : Option BeatRec) : List Nat :=
  match r with
  | none => [0, 0, 0, 0, 32]
  | some r => (List.range 5).map fun c => ((List.range 32).filter fun i => laneClass r (32 * r.beat + i) = c).length

/-- A slot added to a bin, each counter saturating with its SAT bit (R348). -/
def Bin.add (b : Bin) (l : List Nat) : Bin :=
  let t := b.counts.zipWith (· + ·) l
  { b with
    counts := t.map fun n => min n (2 ^ 48 - 1)
    sat := t.zipIdx.foldl (fun m p => if 2 ^ 48 - 1 < p.1 then m ||| (1#5 <<< p.2) else m) b.sat }

/-- What a quarter's slot shows in a cycle (R347): the beat in the vector pipe, else the word issued, else nothing. -/
def Quarter.slot (q : Quarter) (cycle : Nat) : Option BeatRec :=
  match q.beats.find? fun b => b.cycle ≤ cycle && cycle < b.cycle + b.len with
  | some b => some b
  | none => q.word.filter fun w => w.cycle = cycle

/-- LANE_CYCLE_RECORD (R347, R348): the slot of a quarter in this cycle, classified once. -/
def State.laneCycle (s : State) (core quarter : Nat) : State :=
  let part := s.partOf core
  let cyc := s.cycle part
  let q : Quarter := SMap.get {} (s.core core).quarters quarter
  if part = noPart || q.recorded = some cyc then s
  else
    let r := q.slot cyc
    let counts := slotCounts r
    let hit (b : Bin) : Bool :=
      match r with
      | some x => b.vi = x.vi && b.base ≤ x.pc && x.pc < b.limit
      | none => (s.part part).resident = some b.vi && b.base = 0 && b.limit = BitVec.allOnes 64
    let s := s.updPart part fun p => { p with bins := p.bins.map fun b => (b.1, if hit b.2 then b.2.add counts else b.2) }
    s.updCore core fun k => { k with quarters := SMap.upd {} k.quarters quarter fun q => { q with recorded := some cyc } }

/-- LANE_CYCLE_RECORD. -/
def execLaneCycleRecord (core quarter : Nat) (s : State) : Host.Outcome State Fault Refusal :=
  .next (if core < 160 && quarter < 4 then s.laneCycle core quarter else s)

/-! ## Time -/

/-- The occupancy counts of a watched block over one cycle (R292). -/
def Block.countRole (b : Block) (p : Part) : Block :=
  if !b.watch then b
  else
    let r : Ring := SMap.get {} b.rings b.watchRing
    let o := (r.pf - r.cc).toNat
    { b with below := if o < p.tl then b.below + 1 else 0, above := if p.th ≤ o then b.above + 1 else 0 }

/-- The role changes that a watched block's counts bring about (R292). -/
def State.roleChanges (s : State) : State :=
  s.blocks.foldl (fun s b => if b.2.watch then (s.roleToLoader b.1).roleToCompute b.1 else s) s

/-- One cycle in every partition: the lane-cycle record where a bin is set, the occupancy counts with the role changes that they bring about,
CYCLE and device time. -/
def State.cycle1 (s : State) : State :=
  let s := s.parts.foldl (fun s p =>
    if p.2.bins.isEmpty then s
    else (s.coresOf p.1).foldl (fun s c => (List.range 4).foldl (fun s q => s.laneCycle c q) s) s) s
  let t : State := { s with blocks := s.blocks.map fun b => (b.1, b.2.countRole (s.part b.2.part)) }
  let s := t.roleChanges
  { s with
    parts := s.parts.map fun p => (p.1, { p.2 with cycle := p.2.cycle + 1 })
    dev := { s.dev with time := s.dev.time + 1 } }

/-- n cycles, one by one. -/
def State.cycles (s : State) : Nat → State
  | 0 => s
  | n + 1 => s.cycle1.cycles n

/-- n cycles pass; where no bin is set and no block is watched they pass at once.  Requests under way are served meanwhile, unless memory
operations take steps of their own (R245, log entry 1). -/
def State.tick (s : State) (n : Nat) : State :=
  let s := if s.lag || n = 0 then s else s.served
  if s.parts.any (fun p => !p.2.bins.isEmpty) || s.blocks.any (fun b => b.2.watch) then s.cycles n
  else { s with
    parts := s.parts.map fun p => (p.1, { p.2 with cycle := p.2.cycle + n })
    dev := { s.dev with time := s.dev.time + n } }

end Sys2Proof.Machine
end

