-- ==== Sys2Proof/Machine/Debug.lean ====
section
/-! DEFINITION. Management messages (R340), snapshots (R345), precise stop (R351 to R353), the dump engine (R354). -/

namespace Sys2Proof.Machine

/-- The answer to a message (R340). -/
def State.reply (s : State) (status : Nat) (data : List Byte := []) : State := { s with outbox := s.outbox ++ [.reply status data] }

/-- A message that names a VI (R340): a number that is none of a VI breaks a rule (log entry 51), and while the VI's partition is being reset the
answer is busy and nothing changes. -/
def State.message (s : State) (vi : Nat) (f : State → State) : State :=
  if 64 ≤ vi then s.reply 1
  else if (s.vi vi).part.any fun p => (s.part p).resetting then s.reply 2
  else f s

/-- Firmware begins to reset a partition that holds no resident work, or gives it up (R276, R340); a new layout ends it. -/
def State.setResetting (s : State) (part : Nat) (on : Bool) : State :=
  if (s.part part).size = 0 || (s.waves.any fun w => w.2.part = part && w.2.live && !w.2.firmware) || s.blocks.any (fun b => b.2.part = part) then s
  else s.updPart part fun p => { p with resetting := on }

/-! ## Jobs and snapshots -/

/-- SETJOB (R340, R346). -/
def execSetjob (vi : Nat) (job : DWord) (s : State) : Host.Outcome State Fault Refusal :=
  .next (s.message vi fun s => ((s.updVi vi fun v => { v with job := job }).formMemb vi).reply 0)

/-- A snapshot taken by the VI's partition, which ends its cycle: an increment of the same cycle has been applied before it, and no later
one has (R345). -/
def State.snapNow (s : State) (vi trigger : Nat) : Option State :=
  ((s.vi vi).part.bind fun p => s.snapshot p vi trigger).map fun s => s.tick 1

/-- METSNAP_COMPLETE (R206, R345): OK, or FAULT with no sequence number used, which is the status too for a VI without a partition. -/
def execMetsnapComplete (core slot id : Nat) (s : State) : Host.Outcome State Fault Refusal :=
  .next <|
    match (if 64 ≤ slot then [] else (s.wave core slot).snaps).find? fun x => x.id = id with
    | none => s
    | some x =>
      let done (s : State) (status : Word) := s.updWave core slot fun w =>
        { w.completeToken x.token status with snaps := w.snaps.filter fun y => y.id != id }
      match s.snapNow x.vi 0 with
      | some s => done s 0
      | none => done s 2

/-- GETSNAP (R340, R344, R345): a buffer that is unusable gives status 1. -/
def execGetsnap (vi : Nat) (s : State) : Host.Outcome State Fault Refusal :=
  .next <| s.message vi fun s =>
    match s.snapNow vi 1 with
    | some t => t.reply 0 (SMap.get [] (t.part (s.viPart vi)).snaps vi)
    | none => s.reply 1

/-- GETMEMB (R340). -/
def execGetmemb (vi : Nat) (s : State) : Host.Outcome State Fault Refusal :=
  .next (s.message vi fun s => s.reply 0 (s.vi vi).memb)

/-! ## Bins (R348) -/

/-- SETBIN (R340, R348): a bin of the VI's partition. -/
def execSetbin (vi bin : Nat) (base limit : DWord) (binVi : Nat) (s : State) : Host.Outcome State Fault Refusal :=
  .next <| s.message vi fun s =>
    match (s.vi vi).part with
    | some part =>
      if 16 ≤ bin then s.reply 1
      else (s.updPart part fun p => { p with bins := SMap.put p.bins bin { base := base, limit := limit, vi := binVi } }).reply 0
    | none => s.reply 1

/-- A bin record (R348). -/
def Bin.bytes (b : Bin) : List Byte :=
  leBytes 8 b.base.toNat ++ leBytes 8 b.limit.toNat ++ leBytes 2 b.vi ++ leBytes 1 b.sat.toNat ++ leBytes 5 0 ++
  b.counts.flatMap (leBytes 8)

/-- GETBINS (R340): the records of the VI's partition. -/
def execGetbins (vi : Nat) (s : State) : Host.Outcome State Fault Refusal :=
  .next <| s.message vi fun s =>
    match (s.vi vi).part with
    | some part => s.reply 0 ((List.range 16).flatMap fun n => (SMap.get {} (s.part part).bins n : Bin).bytes)
    | none => s.reply 1

/-- SETTRACE (R340, R349). -/
def execSettrace (vi : Nat) (base : DWord) (size : Nat) (kinds : BitVec 8) (s : State) : Host.Outcome State Fault Refusal :=
  .next <| s.message vi fun s =>
    (s.updVi vi fun v => { v with trace := { v.trace with base := base, size := size, kinds := kinds } }).reply 0

/-! ## Precise stop (R351, R353) -/

/-- The block that a message names by queue, packet index and coordinates, with its duet peer. -/
def State.namedBlocks (s : State) (vi q idx x y z : Nat) : List Nat :=
  match s.blocks.find? fun p => p.2.vi = vi && p.2.live && !p.2.task && p.2.x.toNat = x && p.2.y.toNat = y && p.2.z.toNat = z &&
      (s.pkt p.2.packet).any fun k => k.q = q && k.idx.toNat = idx with
  | none => []
  | some p => p.1 :: p.2.peer.toList

/-- The stop record of a wave (R353): its PC is the next unissued word of the lowest-numbered live strand. -/
def Wave.stopRec (w : Wave) (cycle : Nat) : StopRec :=
  let n := w.liveSlots.headD 0
  { live := (List.range 8).foldl (fun m k => if (w.strand k).live then m ||| (1#8 <<< k) else m) 0
    mode := if (w.strand 8).live then 1 else 0
    skid := w.stopSkid
    pend := ((minBy (fun (f : FaultRec) => f.cause.code)
      (w.latched.toList ++ (List.range 8).flatMap fun k => (w.strand k).pend)).map fun f => f.cause.code).getD 0
    pc := if w.liveSlots.isEmpty then 0 else BitVec.ofNat 64 (canonPc (w.strand n).pc)
    cycle := cycle }

/-- A wave stopped: its results are written and its released entries performed. -/
def State.stopWave (s : State) (k : Nat) : State :=
  let s := s.drainWave (k / 64) (k % 64)
  s.updWaveK k fun w => { w with stop := some (w.stopRec (s.cycle w.part)) }

/-- A strand of the waves has yet to issue the instruction of a prefix that it has begun (R218, R351); a parked one stays parked with its prefix
(log entry 91). -/
def State.midPrefix (s : State) (ks : List Nat) : Bool :=
  ks.any fun k => (List.range 9).any fun n => ((s.waveK k).strand n).state = .ready && ((s.waveK k).strand n).pfx.isSome

/-- The blocks of a STOP stop (R351), once no strand of theirs stands between a prefix and its instruction: a trap that can be taken is taken
first, and the answer is sent. -/
def State.stopBlocks (s : State) (bs : List Nat) : State :=
  let ks := bs.flatMap s.blockWaves
  if s.midPrefix ks then s
  else
    let s := s.takeTraps ks
    let s := (bs.flatMap s.blockWaves).foldl (fun s k => s.stopWave k) s
    (bs.foldl (fun s b =>
      if (SMap.find? s.blocks b).isSome then s.updBlock b fun b => { b with stopped := true, stopping := false } else s) s).reply 0

/-- STOP (R351): the block and its duet peer issue nothing more but the instructions of begun prefixes, and then they stop.  One that stops
already, or has stopped, goes on doing so. -/
def execStop (vi q idx x y z : Nat) (s : State) : Host.Outcome State Fault Refusal :=
  .next <| s.message vi fun s =>
    match s.namedBlocks vi q idx x y z with
    | [] => s.reply 1
    | bs =>
      if bs.any fun b => (s.block b).stopped then s.reply 0
      else if bs.any fun b => (s.block b).stopping then s.stopBlocks bs
      else
        let s := (bs.flatMap s.blockWaves).foldl (fun s k => s.updWaveK k fun w => { w with stopSkid := 0 }) s
        (bs.foldl (fun s b => s.updBlock b fun b => { b with stopping := true }) s).stopBlocks bs

/-- A STOP that has waited for a prefix takes place (R351). -/
def State.stopDue (s : State) (blk : Nat) (b : Block) : Option State :=
  let bs := blk :: b.peer.toList
  if b.stopping && !s.midPrefix (bs.flatMap s.blockWaves) then some (s.stopBlocks bs) else none

/-- RESUME (R351, R353). -/
def execResume (vi q idx x y z : Nat) (s : State) : Host.Outcome State Fault Refusal :=
  .next <| s.message vi fun s =>
    match (s.namedBlocks vi q idx x y z).filter fun b => (s.block b).stopped with
    | [] => s.reply 1
    | bs =>
      let ks := bs.flatMap s.blockWaves
      let s := ks.foldl (fun s k => s.updWaveK k fun w => { w with stop := none }) s
      (bs.foldl (fun s b => s.updBlock b fun b => { b with stopped := false }) s).reply 0

/-! ## The dump engine (R352 to R354) -/

/-- DUMP_KEY (R327, R354): set by the VI's owner after ASSIGN. -/
def execDumpKey (vi : Nat) (key : BitVec 256) (s : State) : Host.Outcome State Fault Refusal :=
  .next (if (s.vi vi).part.isSome then s.updVi vi fun v => { v with key := some key } else s)

/-- The waves of a block that wait at a barrier, as R352 shows them. -/
def State.barWaiters (s : State) (blk id : Nat) : Nat :=
  (s.blockWaves blk).foldl (fun n k =>
    let w := s.waveK k
    if (List.range 9).any fun m =>
        let st := w.strand m
        st.state = .parked && st.park = .barrier &&
        match st.parkI with
        | some (.barW _ b) => b.toNat = id
        | some (.barwp _ b _) => b.toNat = id
        | _ => false
    then n + 2 ^ w.waveInBlk else n) 0

/-- The 16 bytes of a barrier as its block sees it (R352). -/
def State.barBytes (s : State) (blk id : Nat) : List Byte :=
  let b := s.barrier blk id
  let f := (s.block blk).follower
  let peer := if id < 16 then 0 else match (s.block blk).peer with
    | some p => s.barWaiters p id
    | none => 0
  let arr := if f && 16 ≤ id then b.arrived.toNat / 2 ^ 16 + b.arrived.toNat % 2 ^ 16 * 2 ^ 16 else b.arrived.toNat
  leBytes 1 b.e ++ leBytes 1 b.a ++ leBytes 1 (BitVec.ofInt 8 b.pending).toNat ++ leBytes 1 0 ++ leBytes 4 b.p.toNat ++
  leBytes 4 arr ++ leBytes 4 (s.barWaiters blk id + 2 ^ 16 * peer)

/-- The 32 bytes of a stop record (R353). -/
def StopRec.bytes (r : StopRec) : List Byte :=
  leBytes 1 Cause.dbghalt.code ++ leBytes 1 r.live.toNat ++ leBytes 1 r.mode ++ leBytes 1 r.skid ++ leBytes 1 r.pend ++ leBytes 3 0 ++
  leBytes 8 r.pc.toNat ++ leBytes 8 r.cycle ++ leBytes 8 0

/-- A list of bytes cut into pieces of at most n. -/
def pieces (n : Nat) : Nat → List Byte → List (List Byte)
  | 0, _ => []
  | k + 1, l => if l.isEmpty then [] else l.take n :: pieces n k (l.drop n)

/-- The number of an L1 state in a dump. -/
def L1State.num : L1State → Nat
  | .s => 0
  | .e => 1
  | .m => 2
  | .u _ => 3
  | .rs => 4
  | .pClean => 5
  | .pDirty => 6

/-- The bytes of an address with its data. -/
def Acc.bytes (a : Acc) : List Byte := leBytes 1 a.lane ++ leBytes 8 a.addr.toNat ++ leBytes 16 a.data.toNat ++ leBytes 4 a.cmp.toNat

/-- The operands of engine work in a dump. -/
def EngOp.bytes : EngOp → List Byte
  | .acopy d r len cnt => leBytes 8 d.toNat ++ leBytes 8 r.toNat ++ leBytes 4 len ++ leBytes 4 cnt
  | .gath t i a n es iw _ => leBytes 8 t.toNat ++ leBytes 8 i.toNat ++ leBytes 8 a.toNat ++ leBytes 4 n ++ leBytes 4 es ++ leBytes 4 iw
  | .scat t i a n op es iw _ =>
    leBytes 8 t.toNat ++ leBytes 8 i.toNat ++ leBytes 8 a.toNat ++ leBytes 4 n ++ leBytes 4 op ++ leBytes 4 es ++ leBytes 4 iw
  | .coll x r n g root rop ty op _ =>
    leBytes 8 x.toNat ++ leBytes 8 r.toNat ++ leBytes 4 n ++ leBytes 4 g ++ leBytes 4 root ++ leBytes 4 rop ++ leBytes 4 ty ++ leBytes 4 op
  | .join id _ => leBytes 4 id

/-- The addresses, data and operands of an SSQ entry in a dump (R210, R354). -/
def QOp.bytes : QOp → List Byte
  | .mem op => op.accs.flatMap Acc.bytes
  | .fence _ => []
  | .qfence m => leBytes 1 m.toNat
  | .engine q e => leBytes 1 q ++ e.op.bytes ++ leBytes 4 e.pix ++ leBytes 1 e.token
  | .matrix e => leBytes 4 e.word.toNat ++ leBytes 8 e.pc.toNat ++ leBytes 4 e.batch.toNat
  | .heap _ ops => ops.flatMap fun o => leBytes 1 o.1 ++ leBytes 4 o.2.1.toNat ++ leBytes 4 o.2.2.toNat
  | .ring _ r n d => leBytes 1 r ++ leBytes 4 n.toNat ++ leBytes 1 d
  | .port op => leBytes 8 op.base.toNat ++ leBytes 8 op.len ++ leBytes 1 op.token
  | .pin k ways base size => leBytes 1 k ++ leBytes 1 ways ++ leBytes 8 base.toNat ++ leBytes 8 size
  | .arrive id adj d => leBytes 1 id ++ leBytes 4 (BitVec.ofInt 32 adj).toNat ++ leBytes 1 (d.getD 63)

/-- A ring with its slots and its waiters in a dump (R203, R204). -/
def Ring.bytes (r : Ring) : List Byte :=
  leBytes 4 r.base ++ leBytes 4 r.size ++ leBytes 4 r.cnt ++ leBytes 4 r.pr.toNat ++ leBytes 4 r.pf.toNat ++ leBytes 4 r.cc.toNat ++
  leBytes 4 r.cf.toNat ++
  (r.slots.flatMap fun t => leBytes 4 t.idx.toNat ++ leBytes 4 t.reserver ++ leBytes 1 (if t.filled then 1 else 0) ++
    leBytes 4 (t.claimer.getD 0xFFFFFFFF) ++ leBytes 1 (if t.freed then 1 else 0)) ++
  r.waiters.flatMap fun t => leBytes 4 t.wave ++ leBytes 1 t.strand ++ leBytes 1 (if t.prod then 1 else 0) ++ leBytes 4 t.n.toNat ++ leBytes 1 t.d

/-- A block is one of a VI, resident or saved. -/
def State.ownsBlock (s : State) (vi blk : Nat) : Bool :=
  (SMap.find? s.blocks blk).any (fun b => b.vi = vi) || (s.vi vi).saved.any fun x => (SMap.find? x.blocks blk).isSome

/-- What a dump emits of the memories of cores, chiplets and slices: the entries with the VI's tag in L1, the tile fetch units' buffers, the TLBs and L2.  What holds no
such entry shows nowhere in the stream (R354). -/
def State.dumpCaches (s : State) (vi : Nat) : List (Nat × Nat × List Byte) :=
  let held (n k : Nat) (l : List Byte) : List (Nat × Nat × List Byte) := if l.isEmpty then [] else [(n, k, Config.dumpLayout n l)]
  let tlb (l : List TlbEntry) : List Byte :=
    (l.filter fun e => e.vi = vi).flatMap fun e => leBytes 8 e.base ++ leBytes 8 e.size ++ leBytes 8 e.pte.toNat
  (s.cores.flatMap fun c =>
    held 7 c.1 ((c.2.l1.filter fun l => l.2.vi = vi).flatMap fun l =>
      leBytes 8 l.1 ++ leBytes 1 l.2.st.num ++ leBytes 1 l.2.valid.toNat ++ leBytes 1 l.2.dirty.toNat ++ leBytes 128 l.2.data.toNat) ++
    held 11 c.1 ((c.2.tile.filter fun t => s.ownsBlock vi t.blk).flatMap fun t =>
      leBytes 8 t.line ++ leBytes 4 t.batch.toNat ++ leBytes 128 t.data.toNat) ++
    held 8 c.1 (tlb c.2.tlb)) ++
  (s.ctlb.flatMap fun c => held 9 c.1 (tlb c.2)) ++
  s.l2.flatMap fun x => held 10 x.1 ((x.2.filter fun w => w.vi = vi).flatMap fun w =>
    leBytes 8 w.line ++ leBytes 1 w.valid.toNat ++ leBytes 1 w.dirty.toNat ++ leBytes 128 (s.homeLine w.line).toNat)

/-- The structures that a dump emits for a VI: their numbers, instances and bytes.  R352 gives the bytes of barriers (structure 0) and R353
those of stop records (1); the numbers and the layout of the others are free (log entry 50). -/
def State.dumpParts (s : State) (vi : Nat) : List (Nat × Nat × List Byte) :=
  let blocks := s.blocks.filter fun p => p.2.vi = vi
  let waves := s.waves.filter fun p => p.2.vi = vi && !p.2.firmware
  let free (n k : Nat) (l : List Byte) : Nat × Nat × List Byte := (n, k, Config.dumpLayout n l)
  blocks.flatMap (fun p =>
    [(0, p.1, (List.range 20).flatMap fun id => s.barBytes p.1 id),
     free 2 p.1 (Memory.bytes p.2.stash 0 p.2.desc.stash),
     free 3 p.1 (p.2.rings.flatMap fun r => leBytes 1 r.1 ++ r.2.bytes),
     free 13 p.1 (p.2.accs.flatMap fun a => leBytes 4 a.1 ++ leBytes 4 a.2.toNat)]) ++
  waves.flatMap (fun p =>
    (match p.2.stop with | some r => [(1, p.1, r.bytes)] | none => []) ++
    [free 4 p.1 ((List.range (96 * p.2.vbudget)).flatMap fun k => leBytes 4 (SMap.get 0 p.2.v k).toNat),
     free 5 p.1 ((List.range 60).flatMap fun k => leBytes 4 (SMap.get 0 p.2.s k).toNat),
     free 6 p.1 ((List.range 9).flatMap fun n => (p.2.strand n).snapshot),
     free 12 p.1 ((p.2.queue.filter fun q => q.ssq).flatMap fun q =>
       leBytes 4 q.word.toNat ++ leBytes 8 q.pc.toNat ++ leBytes 1 q.strand ++ leBytes 12 q.lanes.toNat ++ q.op.bytes)]) ++
  s.dumpCaches vi

/-- The chunks of a dump (R354), each at most 64 KiB with its header of 32 bytes and its tag of 16, the last with the chunk count. -/
def dumpChunks (l : List (Nat × Nat × List Byte)) : List (List Byte) :=
  let body := l.flatMap fun p =>
    (pieces 65488 (p.2.2.length / 65488 + 1) p.2.2).zipIdx.map fun c =>
      leBytes 8 p.1 ++ leBytes 8 p.2.1 ++ leBytes 8 (65488 * c.2) ++ leBytes 8 c.1.length ++ c.1
  body ++ [leBytes 8 0xFF ++ leBytes 16 0 ++ leBytes 8 4 ++ leBytes 4 (body.length + 1)]

/-- The sealed chunks of dump n of a VI (R354): the IV is the dump's number, then the chunk's in its low 32 bits (log entry 50). -/
def State.sealedDump (s : State) (vi n : Nat) (key : BitVec 256) : List (List Byte) :=
  (dumpChunks (s.dumpParts vi)).zipIdx.map fun c => sealGcm key (BitVec.ofNat 96 (n * 2 ^ 32 + c.2)) c.1

/-- A dump's chunks sent to their target (R340): one after the other into host memory, or out by Ethernet. -/
def State.sendDump (s : State) (target : DumpTarget) (cs : List (List Byte)) : State :=
  match target with
  | .host a => (s.physPut (hostBase + a) (cs.flatten.take (hostBase - a))).wakeFutures
  | .ethernet n => { s with outbox := s.outbox ++ cs.map fun c => Out.chunk n c }

/-- DUMP (R354): refused while the VI is resident and not stopped. -/
def execDump (req : DumpRequest) (s : State) : Host.Outcome State Fault Refusal :=
  let vi := req.vi
  .next <| s.message vi fun s =>
    match (s.vi vi).part, (s.vi vi).key with
    | some p, some key =>
      if (s.part p).resident = some vi && s.blocks.any (fun b => b.2.vi = vi && !b.2.stopped) then s.reply 2
      else
        let n := s.dev.dumpSeq + 1
        ({ s with dev := { s.dev with dumpSeq := n } }.reply 0).sendDump req.target (s.sealedDump vi n key)
    | _, _ => s.reply 1

end Sys2Proof.Machine
end

