-- ==== Sys2Proof/Machine/Dispatch.lean ====
section
/-! DEFINITION. The meaning of every instruction: one arm for each constructor of `Instr`. -/

namespace Sys2Proof.Machine

def exec (i : Instr) (s : State) : Host.Outcome State Fault Refusal :=
  match i with
  | .vadd m ty d a b => Sys2Proof.Machine.execVadd m ty d a b s
  | .vsub m ty d a b => Sys2Proof.Machine.execVsub m ty d a b s
  | .vmul m ty d a b => Sys2Proof.Machine.execVmul m ty d a b s
  | .vfma m ty d a b => Sys2Proof.Machine.execVfma m ty d a b s
  | .vfnma m ty d a b => Sys2Proof.Machine.execVfnma m ty d a b s
  | .vmin m ty d a b => Sys2Proof.Machine.execVmin m ty d a b s
  | .vmax m ty d a b => Sys2Proof.Machine.execVmax m ty d a b s
  | .vcpsgn m ty d a b => Sys2Proof.Machine.execVcpsgn m ty d a b s
  | .vscale m ty d a b => Sys2Proof.Machine.execVscale m ty d a b s
  | .vabsd m ty d a b => Sys2Proof.Machine.execVabsd m ty d a b s
  | .viadd m ty d a b => Sys2Proof.Machine.execViadd m ty d a b s
  | .visub m ty d a b => Sys2Proof.Machine.execVisub m ty d a b s
  | .vimul m ty d a b => Sys2Proof.Machine.execVimul m ty d a b s
  | .vimad m ty d a b => Sys2Proof.Machine.execVimad m ty d a b s
  | .vimulhs m ty d a b => Sys2Proof.Machine.execVimulhs m ty d a b s
  | .vimulhn m ty d a b => Sys2Proof.Machine.execVimulhn m ty d a b s
  | .vimins m ty d a b => Sys2Proof.Machine.execVimins m ty d a b s
  | .viminn m ty d a b => Sys2Proof.Machine.execViminn m ty d a b s
  | .vimaxs m ty d a b => Sys2Proof.Machine.execVimaxs m ty d a b s
  | .vimaxn m ty d a b => Sys2Proof.Machine.execVimaxn m ty d a b s
  | .viaddss m ty d a b => Sys2Proof.Machine.execViaddss m ty d a b s
  | .viaddsn m ty d a b => Sys2Proof.Machine.execViaddsn m ty d a b s
  | .vshl m ty d a b => Sys2Proof.Machine.execVshl m ty d a b s
  | .vshr m ty d a b => Sys2Proof.Machine.execVshr m ty d a b s
  | .vsra m ty d a b => Sys2Proof.Machine.execVsra m ty d a b s
  | .visubss m ty d a b => Sys2Proof.Machine.execVisubss m ty d a b s
  | .vand m d a b => Sys2Proof.Machine.execVand m d a b s
  | .vor m d a b => Sys2Proof.Machine.execVor m d a b s
  | .vxor m d a b => Sys2Proof.Machine.execVxor m d a b s
  | .vandn m d a b => Sys2Proof.Machine.execVandn m d a b s
  | .vbfes m d a b => Sys2Proof.Machine.execVbfes m d a b s
  | .vbfen m d a b => Sys2Proof.Machine.execVbfen m d a b s
  | .vbfi m d a b => Sys2Proof.Machine.execVbfi m d a b s
  | .vpopc m d b => Sys2Proof.Machine.execVpopc m d b s
  | .vclz m d b => Sys2Proof.Machine.execVclz m d b s
  | .vpermb m d a b => Sys2Proof.Machine.execVpermb m d a b s
  | .vmov m d b => Sys2Proof.Machine.execVmov m d b s
  | .vsel m d a b => Sys2Proof.Machine.execVsel m d a b s
  | .vcvt m d a pair rnd sel => Sys2Proof.Machine.execVcvt m d a pair rnd sel s
  | .vqnt m d a fmt sat slot => Sys2Proof.Machine.execVqnt m d a fmt sat slot s
  | .vdq m d a fmt slot => Sys2Proof.Machine.execVdq m d a fmt slot s
  | .vbscale m d a fmt => Sys2Proof.Machine.execVbscale m d a fmt s
  | .vrcp m d b => Sys2Proof.Machine.execVrcp m d b s
  | .vrsq m d b => Sys2Proof.Machine.execVrsq m d b s
  | .vsqrt m d b => Sys2Proof.Machine.execVsqrt m d b s
  | .vex2 m d b => Sys2Proof.Machine.execVex2 m d b s
  | .vlg2 m d b => Sys2Proof.Machine.execVlg2 m d b s
  | .vsin m d b => Sys2Proof.Machine.execVsin m d b s
  | .vcos m d b => Sys2Proof.Machine.execVcos m d b s
  | .vtanh m d b => Sys2Proof.Machine.execVtanh m d b s
  | .vlane m d => Sys2Proof.Machine.execVlane m d s
  | .vshfl m d a b => Sys2Proof.Machine.execVshfl m d a b s
  | .vbcast m d a b => Sys2Proof.Machine.execVbcast m d a b s
  | .vscan m d op b => Sys2Proof.Machine.execVscan m d op b s
  | .vreds m d op b => Sys2Proof.Machine.execVreds m d op b s
  | .vrdl m d a b => Sys2Proof.Machine.execVrdl m d a b s
  | .vwrl m d lane b => Sys2Proof.Machine.execVwrl m d lane b s
  | .vrdi m d n => Sys2Proof.Machine.execVrdi m d n s
  | .vwri m n a => Sys2Proof.Machine.execVwri m n a s
  | .vcmpEqF64 m k a b => Sys2Proof.Machine.execVcmpEqF64 m k a b s
  | .vcmpNeF64 m k a b => Sys2Proof.Machine.execVcmpNeF64 m k a b s
  | .vcmpLtF64 m k a b => Sys2Proof.Machine.execVcmpLtF64 m k a b s
  | .vcmpLeF64 m k a b => Sys2Proof.Machine.execVcmpLeF64 m k a b s
  | .vcmpGtF64 m k a b => Sys2Proof.Machine.execVcmpGtF64 m k a b s
  | .vcmpGeF64 m k a b => Sys2Proof.Machine.execVcmpGeF64 m k a b s
  | .vclassF32 m k a b => Sys2Proof.Machine.execVclassF32 m k a b s
  | .vcmpF32 m c k a b => Sys2Proof.Machine.execVcmpF32 m c k a b s
  | .vcmpS32 m c k a b => Sys2Proof.Machine.execVcmpS32 m c k a b s
  | .vcmpN32 m c k a b => Sys2Proof.Machine.execVcmpN32 m c k a b s
  | .vldB32 m t a b q => Sys2Proof.Machine.execVldB32 m t a b q s
  | .vldB64 m t a b q => Sys2Proof.Machine.execVldB64 m t a b q s
  | .vldB128 m t a b q => Sys2Proof.Machine.execVldB128 m t a b q s
  | .vldS8 m t a b q => Sys2Proof.Machine.execVldS8 m t a b q s
  | .vldN8 m t a b q => Sys2Proof.Machine.execVldN8 m t a b q s
  | .vldS16 m t a b q => Sys2Proof.Machine.execVldS16 m t a b q s
  | .vldN16 m t a b q => Sys2Proof.Machine.execVldN16 m t a b q s
  | .vstB32 m t a b q => Sys2Proof.Machine.execVstB32 m t a b q s
  | .vstB64 m t a b q => Sys2Proof.Machine.execVstB64 m t a b q s
  | .vstB128 m t a b q => Sys2Proof.Machine.execVstB128 m t a b q s
  | .vstB8 m t a b q => Sys2Proof.Machine.execVstB8 m t a b q s
  | .vstB16 m t a b q => Sys2Proof.Machine.execVstB16 m t a b q s
  | .vpref m l2 a b => Sys2Proof.Machine.execVpref m l2 a b s
  | .fget m t a b acq => Sys2Proof.Machine.execFget m t a b acq s
  | .fput m t a b rel => Sys2Proof.Machine.execFput m t a b rel s
  | .vatom m op t a b q => Sys2Proof.Machine.execVatom m op t a b q s
  | .vred m op t a b q => Sys2Proof.Machine.execVred m op t a b q s
  | .sadd m d a b => Sys2Proof.Machine.execSadd m d a b s
  | .ssub m d a b => Sys2Proof.Machine.execSsub m d a b s
  | .smul m d a b => Sys2Proof.Machine.execSmul m d a b s
  | .smulhs m d a b => Sys2Proof.Machine.execSmulhs m d a b s
  | .smulhn m d a b => Sys2Proof.Machine.execSmulhn m d a b s
  | .sand m d a b => Sys2Proof.Machine.execSand m d a b s
  | .sor m d a b => Sys2Proof.Machine.execSor m d a b s
  | .sxor m d a b => Sys2Proof.Machine.execSxor m d a b s
  | .sandn m d a b => Sys2Proof.Machine.execSandn m d a b s
  | .sshl m d a b => Sys2Proof.Machine.execSshl m d a b s
  | .sshr m d a b => Sys2Proof.Machine.execSshr m d a b s
  | .ssra m d a b => Sys2Proof.Machine.execSsra m d a b s
  | .smins m d a b => Sys2Proof.Machine.execSmins m d a b s
  | .sminn m d a b => Sys2Proof.Machine.execSminn m d a b s
  | .smaxs m d a b => Sys2Proof.Machine.execSmaxs m d a b s
  | .smaxn m d a b => Sys2Proof.Machine.execSmaxn m d a b s
  | .sslt m d a b => Sys2Proof.Machine.execSslt m d a b s
  | .ssltn m d a b => Sys2Proof.Machine.execSsltn m d a b s
  | .sseq m d a b => Sys2Proof.Machine.execSseq m d a b s
  | .ssne m d a b => Sys2Proof.Machine.execSsne m d a b s
  | .ssle m d a b => Sys2Proof.Machine.execSsle m d a b s
  | .sslen m d a b => Sys2Proof.Machine.execSslen m d a b s
  | .smov m d b => Sys2Proof.Machine.execSmov m d b s
  | .scmov m d a b => Sys2Proof.Machine.execScmov m d a b s
  | .sadd64 m d a b => Sys2Proof.Machine.execSadd64 m d a b s
  | .ssub64 m d a b => Sys2Proof.Machine.execSsub64 m d a b s
  | .sshl64 m d a b => Sys2Proof.Machine.execSshl64 m d a b s
  | .sshr64 m d a b => Sys2Proof.Machine.execSshr64 m d a b s
  | .spopc m d a => Sys2Proof.Machine.execSpopc m d a s
  | .sclz m d a => Sys2Proof.Machine.execSclz m d a s
  | .sbfen m d a b => Sys2Proof.Machine.execSbfen m d a b s
  | .smulw m d a b => Sys2Proof.Machine.execSmulw m d a b s
  | .kand m d a b => Sys2Proof.Machine.execKand m d a b s
  | .kor m d a b => Sys2Proof.Machine.execKor m d a b s
  | .kxor m d a b => Sys2Proof.Machine.execKxor m d a b s
  | .kandn m d a b => Sys2Proof.Machine.execKandn m d a b s
  | .kmov m d b => Sys2Proof.Machine.execKmov m d b s
  | .kpopc m d a => Sys2Proof.Machine.execKpopc m d a s
  | .kffs m d a => Sys2Proof.Machine.execKffs m d a s
  | .klane m d a b => Sys2Proof.Machine.execKlane m d a b s
  | .sldB32 m d a b => Sys2Proof.Machine.execSldB32 m d a b s
  | .sldB64 m d a b => Sys2Proof.Machine.execSldB64 m d a b s
  | .sldB128 m d a b => Sys2Proof.Machine.execSldB128 m d a b s
  | .sstB32 m d a b => Sys2Proof.Machine.execSstB32 m d a b s
  | .sstB64 m d a b => Sys2Proof.Machine.execSstB64 m d a b s
  | .satomAdd m d a b => Sys2Proof.Machine.execSatomAdd m d a b s
  | .satomCas m d a b => Sys2Proof.Machine.execSatomCas m d a b s
  | .satomExch m d a b => Sys2Proof.Machine.execSatomExch m d a b s
  | .sget m d x => Sys2Proof.Machine.execSget m d x s
  | .sset m a x => Sys2Proof.Machine.execSset m a x s
  | .br m off => Sys2Proof.Machine.execBr m off s
  | .brany m k off => Sys2Proof.Machine.execBrany m k off s
  | .brall m k off => Sys2Proof.Machine.execBrall m k off s
  | .brnone m k off => Sys2Proof.Machine.execBrnone m k off s
  | .brnz m r off => Sys2Proof.Machine.execBrnz m r off s
  | .brz m r off => Sys2Proof.Machine.execBrz m r off s
  | .call m p off => Sys2Proof.Machine.execCall m p off s
  | .jmpr m p => Sys2Proof.Machine.execJmpr m p s
  | .split m k offA offC => Sys2Proof.Machine.execSplit m k offA offC s
  | .ends m => Sys2Proof.Machine.execEnds m s
  | .pub m v vcnt r scnt => Sys2Proof.Machine.execPub m v vcnt r scnt s
  | .join m d a b => Sys2Proof.Machine.execJoin m d a b s
  | .joins m d a armF => Sys2Proof.Machine.execJoins m d a armF s
  | .joinm m => Sys2Proof.Machine.execJoinm m s
  | .barW m id => Sys2Proof.Machine.execBarW m id s
  | .barA m id d => Sys2Proof.Machine.execBarA m id d s
  | .barD m id => Sys2Proof.Machine.execBarD m id s
  | .barJ m id => Sys2Proof.Machine.execBarJ m id s
  | .barwp m id r => Sys2Proof.Machine.execBarwp m id r s
  | .fence m scope => Sys2Proof.Machine.execFence m scope s
  | .qfence m mask => Sys2Proof.Machine.execQfence m mask s
  | .twait m r => Sys2Proof.Machine.execTwait m r s
  | .mwait m r => Sys2Proof.Machine.execMwait m r s
  | .rpoll m d => Sys2Proof.Machine.execRpoll m d s
  | .vgive m n => Sys2Proof.Machine.execVgive m n s
  | .vclaim m n => Sys2Proof.Machine.execVclaim m n s
  | .exit m => Sys2Proof.Machine.execExit m s
  | .trap m code => Sys2Proof.Machine.execTrap m code s
  | .tret m => Sys2Proof.Machine.execTret m s
  | .nop m => Sys2Proof.Machine.execNop m s
  | .acopy m d a b q => Sys2Proof.Machine.execAcopy m d a b q s
  | .gath m d a => Sys2Proof.Machine.execGath m d a s
  | .scat m d a => Sys2Proof.Machine.execScat m d a s
  | .mma m sh acc a b f => Sys2Proof.Machine.execMma m sh acc a b f s
  | .mmasp m sh acc a b f => Sys2Proof.Machine.execMmasp m sh acc a b f s
  | .mzacc m sh acc => Sys2Proof.Machine.execMzacc m sh acc s
  | .mstacc m sh acc a b fmt => Sys2Proof.Machine.execMstacc m sh acc a b fmt s
  | .mldacc m sh acc a b fmt => Sys2Proof.Machine.execMldacc m sh acc a b fmt s
  | .mfence m d => Sys2Proof.Machine.execMfence m d s
  | .coll m d a => Sys2Proof.Machine.execColl m d a s
  | .tenq m a b => Sys2Proof.Machine.execTenq m a b s
  | .tgaina m a b => Sys2Proof.Machine.execTgaina m a b s
  | .tgainm m a b => Sys2Proof.Machine.execTgainm m a b s
  | .tgains m a b => Sys2Proof.Machine.execTgains m a b s
  | .tdone m a => Sys2Proof.Machine.execTdone m a s
  | .tjset m a b => Sys2Proof.Machine.execTjset m a b s
  | .hres m d heap => Sys2Proof.Machine.execHres m d heap s
  | .ringp m d a ring => Sys2Proof.Machine.execRingp m d a ring s
  | .ringc m d a ring => Sys2Proof.Machine.execRingc m d a ring s
  | .ringq m d ring => Sys2Proof.Machine.execRingq m d ring s
  | .smap m d a zero => Sys2Proof.Machine.execSmap m d a zero s
  | .sunmap m d a wb => Sys2Proof.Machine.execSunmap m d a wb s
  | .cdrop m d a b => Sys2Proof.Machine.execCdrop m d a b s
  | .cqry m d a => Sys2Proof.Machine.execCqry m d a s
  | .l2pin m ways a b slot => Sys2Proof.Machine.execL2pin m ways a b slot s
  | .l2unpin m slot => Sys2Proof.Machine.execL2unpin m slot s
  | .cinv m d a b => Sys2Proof.Machine.execCinv m d a b s
  | .cinvI m d a b => Sys2Proof.Machine.execCinvI m d a b s
  | .cwb m d a b => Sys2Proof.Machine.execCwb m d a b s
  | .xmod k z rnd v4 v4ok aux => Sys2Proof.Machine.execXmod k z rnd v4 v4ok aux s
  | .limm p => Sys2Proof.Machine.execLimm p s
  | .limmh h => Sys2Proof.Machine.execLimmh h s
  | .limml h => Sys2Proof.Machine.execLimml h s
  | .limmf p => Sys2Proof.Machine.execLimmf p s
  | .sched m lvl => Sys2Proof.Machine.execSched m lvl s
  | .sysld m d a => Sys2Proof.Machine.execSysld m d a s
  | .sysst m d a => Sys2Proof.Machine.execSysst m d a s
  | .tlbinv m a => Sys2Proof.Machine.execTlbinv m a s
  | .cntrd m d meter => Sys2Proof.Machine.execCntrd m d meter s
  | .trace m a => Sys2Proof.Machine.execTrace m a s
  | .brkpt m => Sys2Proof.Machine.execBrkpt m s
  | .waiti m => Sys2Proof.Machine.execWaiti m s
  | .metsnap m t => Sys2Proof.Machine.execMetsnap m t s
  | .vidivS32 m d a b => Sys2Proof.Machine.execVidivS32 m d a b s
  | .emulation m op x => Sys2Proof.Machine.execEmulation m op x s
  | .strandWake core slot strand => Sys2Proof.Machine.execStrandWake core slot strand s
  | .resultWrite core slot idx lanes => Sys2Proof.Machine.execResultWrite core slot idx lanes s
  | .ssqEntryRelease core slot id => Sys2Proof.Machine.execSsqEntryRelease core slot id s
  | .pageWalk core slot id => Sys2Proof.Machine.execPageWalk core slot id s
  | .takeTrap core slot => Sys2Proof.Machine.execTakeTrap core slot s
  | .contextEnd core slot => Sys2Proof.Machine.execContextEnd core slot s
  | .waveEnd core slot => Sys2Proof.Machine.execWaveEnd core slot s
  | .acopyComplete blk q => Sys2Proof.Machine.execAcopyComplete blk q s
  | .gathScatComplete blk => Sys2Proof.Machine.execGathScatComplete blk s
  | .sunmapComplete core slot id => Sys2Proof.Machine.execSunmapComplete core slot id s
  | .cdropComplete core slot id => Sys2Proof.Machine.execCdropComplete core slot id s
  | .cinvCwbComplete core slot id => Sys2Proof.Machine.execCinvCwbComplete core slot id s
  | .metsnapComplete core slot id => Sys2Proof.Machine.execMetsnapComplete core slot id s
  | .matrixOpComplete blk => Sys2Proof.Machine.execMatrixOpComplete blk s
  | .batchComplete blk => Sys2Proof.Machine.execBatchComplete blk s
  | .heapOpPerform part heap => Sys2Proof.Machine.execHeapOpPerform part heap s
  | .tdoneParentUpdate part heap => Sys2Proof.Machine.execTdoneParentUpdate part heap s
  | .turnstilePop part heap => Sys2Proof.Machine.execTurnstilePop part heap s
  | .heapRunEnd part heap => Sys2Proof.Machine.execHeapRunEnd part heap s
  | .registerWrite space off val => Sys2Proof.Machine.execRegisterWrite space off val s
  | .packetAccept vi q => Sys2Proof.Machine.execPacketAccept vi q s
  | .packetStart id => Sys2Proof.Machine.execPacketStart id s
  | .grid id => Sys2Proof.Machine.execGrid id s
  | .heapConfigure id => Sys2Proof.Machine.execHeapConfigure id s
  | .heapRun id => Sys2Proof.Machine.execHeapRun id s
  | .heapRelease id => Sys2Proof.Machine.execHeapRelease id s
  | .marker id => Sys2Proof.Machine.execMarker id s
  | .packetComplete id => Sys2Proof.Machine.execPacketComplete id s
  | .ticketDispatch part core => Sys2Proof.Machine.execTicketDispatch part core s
  | .contextSwitch part => Sys2Proof.Machine.execContextSwitch part s
  | .schedulingPass part maps => Sys2Proof.Machine.execSchedulingPass part maps s
  | .partitionReconfigure layout => Sys2Proof.Machine.execPartitionReconfigure layout s
  | .illegalWord w => Sys2Proof.Machine.execIllegalWord w s
  | .collComplete blk inp => Sys2Proof.Machine.execCollComplete blk inp s
  | .notify vi q idx => Sys2Proof.Machine.execNotify vi q idx s
  | .hostWrite w off data => Sys2Proof.Machine.execHostWrite w off data s
  | .hostRead w off n => Sys2Proof.Machine.execHostRead w off n s
  | .dumpKey vi key => Sys2Proof.Machine.execDumpKey vi key s
  | .laneCycleRecord core quarter => Sys2Proof.Machine.execLaneCycleRecord core quarter s
  | .remoteAccess src op => Sys2Proof.Machine.execRemoteAccess src op s
  | .dump req => Sys2Proof.Machine.execDump req s
  | .resume vi q idx x y z => Sys2Proof.Machine.execResume vi q idx x y z s
  | .stop vi q idx x y z => Sys2Proof.Machine.execStop vi q idx x y z s
  | .settrace vi base size kinds => Sys2Proof.Machine.execSettrace vi base size kinds s
  | .getbins vi => Sys2Proof.Machine.execGetbins vi s
  | .setbin vi bin base limit binVi => Sys2Proof.Machine.execSetbin vi bin base limit binVi s
  | .getmemb vi => Sys2Proof.Machine.execGetmemb vi s
  | .getsnap vi => Sys2Proof.Machine.execGetsnap vi s
  | .setjob vi job => Sys2Proof.Machine.execSetjob vi job s
  | .overTemperature part => Sys2Proof.Machine.execOverTemperature part s
  | .linkFailure port => Sys2Proof.Machine.execLinkFailure port s
  | .linkUp port partner partnerPort ident => Sys2Proof.Machine.execLinkUp port partner partnerPort ident s
  | .activationAlert stack chan bank => Sys2Proof.Machine.execActivationAlert stack chan bank s
  | .refreshInterval stack chan bank => Sys2Proof.Machine.execRefreshInterval stack chan bank s
  | .gracePeriodEnd base => Sys2Proof.Machine.execGracePeriodEnd base s
  | .extentRelease base forced => Sys2Proof.Machine.execExtentRelease base forced s
  | .extentAdd base len vi => Sys2Proof.Machine.execExtentAdd base len vi s
  | .sliceEnd part => Sys2Proof.Machine.execSliceEnd part s
  | .strandCapped core slot strand => Sys2Proof.Machine.execStrandCapped core slot strand s
  | .fetchFill core vi va => Sys2Proof.Machine.execFetchFill core vi va s
  | .roleToLoader blk => Sys2Proof.Machine.execRoleToLoader blk s
  | .roleToCompute blk => Sys2Proof.Machine.execRoleToCompute blk s
  | .powerOverrun => Sys2Proof.Machine.execPowerOverrun s
  | .settrap => Sys2Proof.Machine.execSettrap s
  | .setroot => Sys2Proof.Machine.execSetroot s
  | .group => Sys2Proof.Machine.execGroup s
  | .schedp => Sys2Proof.Machine.execSchedp s
  | .assign => Sys2Proof.Machine.execAssign s
  | .resetvi => Sys2Proof.Machine.execResetvi s
  | .extdone => Sys2Proof.Machine.execExtdone s
  | .imggo => Sys2Proof.Machine.execImggo s
  | .powerOn => Sys2Proof.Machine.execPowerOn s

end Sys2Proof.Machine
end

