-- ==== Sys2Proof/Machine/Schedule.lean ====
section
/-! DEFINITION. Issue (R215 to R218, R221), and the order in which the model takes its steps
when the agenda names none (log entry 1). -/

namespace Sys2Proof.Machine

/-! ## The vector pipe (R5, R138) -/

/-- The cycles for which a beat of a word holds the vector pipe; none for a word that does not use it.  The table of R138 does not name
class 3: its beats hold the pipe for one cycle, as R5 says of most instructions (log entry 69). -/
def pipeCycles (i : Instr) : Option Nat :=
  match i with
  | .vadd _ ty .. | .vsub _ ty .. | .vmul _ ty .. | .vfma _ ty .. | .vfnma _ ty .. | .vmin _ ty .. | .vmax _ ty ..
  | .vcpsgn _ ty .. | .vscale _ ty .. | .vabsd _ ty .. => some (if ty = .f64 then 4 else 1)
  | .vimul _ ty .. | .vimad _ ty .. | .vimulhs _ ty .. | .vimulhn _ ty .. => some (if ty = .i64 then 4 else 1)
  | .viadd _ ty .. | .visub _ ty .. | .vimins _ ty .. | .viminn _ ty .. | .vimaxs _ ty .. | .vimaxn _ ty .. | .viaddss _ ty ..
  | .viaddsn _ ty .. | .vshl _ ty .. | .vshr _ ty .. | .vsra _ ty .. | .visubss _ ty .. => some (if ty = .i64 then 2 else 1)
  | .vcmpEqF64 .. | .vcmpNeF64 .. | .vcmpLtF64 .. | .vcmpLeF64 .. | .vcmpGtF64 .. | .vcmpGeF64 .. => some 4
  | .vscan .. | .vreds .. => some 3
  | .vcvt .. | .vqnt .. | .vdq .. | .vbscale .. | .vrcp .. | .vrsq .. | .vsqrt .. | .vex2 .. | .vlg2 .. | .vsin .. | .vcos ..
  | .vtanh .. => none
  | _ => if classOf i = 2 || classOf i = 3 then some 1 else none

/-- Beat b of a mask holds a lane. -/
def hasBeat (m : Lanes) (b : Nat) : Bool := maskWord m b != 0

/-- The beats that a vector word issues from a cycle on (R5): those that hold a lane of AM. -/
def beatsOf (i : Instr) (r : BeatRec) (am : Lanes) : List BeatRec :=
  match pipeCycles i with
  | none => []
  | some c => ((List.range 3).filter (hasBeat am)).zipIdx.map fun b => { r with cycle := r.cycle + c * b.2, beat := b.1, len := c }

/-! ## Issue -/

/-- Another strand of the quarter stands between a prefix and its instruction (R30, R218). -/
def State.prefixElsewhere (s : State) (core slot n : Nat) : Bool :=
  (List.range 16).any fun k =>
    let m := 16 * quarterOf slot + k
    (s.wave core m).live && (List.range 9).any fun j =>
      let st := (s.wave core m).strand j
      !(m = slot && j = n) && st.live && st.pfx.isSome

/-- A word of code by its address, when the core's instruction cache holds its line. -/
def State.cachedWord (s : State) (core vi pc : Nat) : Option Word :=
  (SMap.find? (s.core core).icache (icacheKey vi pc)).map fun d => BitVec.ofNat 32 (lineGet d (pc % 128) 4)

/-- The next word of a strand, when the core's instruction cache holds its line. -/
def State.nextWord (s : State) (core slot n : Nat) : Option Word :=
  let w := s.wave core slot
  let pc := (w.strand n).pc.toNat
  if canonical pc then s.cachedWord core w.vi pc else none

/-- A hint, which only begins or continues a prefix (R30). -/
def Instr.isHint (i : Instr) : Bool :=
  match i with
  | .xmod .. | .limm _ | .limmf _ | .limmh _ | .limml _ => true
  | _ => false

/-- A fault that a wave of the block has latched, or a halt, lets the strand issue no more (R214, R302): a strand of the same wave, the
faulting one among them, completes a begun prefix, a sibling issues at most 8 further words in total, a begun prefix of up to 3 hints with its
instruction among them, and so begins no prefix that could exceed them. -/
def State.halting (s : State) (core slot n : Nat) : Bool :=
  let w := s.wave core slot
  let st := w.strand n
  (w.halted && n != 8) ||
  (match w.latched with
   | some _ => st.pfx.isNone
   | none =>
     ((s.block w.blk).waves.any fun k => k != waveKey core slot && (s.waveK k).latched.isSome) && st.pfx.isNone &&
     (8 ≤ w.sinceHalt || (4 < w.sinceHalt && (s.nextWord core slot n).any fun x => Instr.isHint (decode x))))

/-- A wave whose VCLAIM waits for registers is parked whole (R131). -/
def Wave.poolParked (w : Wave) : Bool := (List.range 8).any fun n => (w.strand n).state = .parked && (w.strand n).park = .pool

/-- A ready strand that ages (R216). -/
def Wave.ages (w : Wave) (n : Nat) : Bool := w.live && (w.strand n).state = .ready && (n = 8 || !w.poolParked)

/-- A strand of the quarter has been passed over 64 times and is not yet capped: it becomes capped before the next word (R216). -/
def State.capDue (s : State) (core slot : Nat) : Bool :=
  (List.range 16).any fun k =>
    let w := s.wave core (16 * quarterOf slot + k)
    w.live && (List.range 9).any fun n => w.ages n && (w.strand n).cappedAt.isNone && 64 ≤ (w.strand n).waits

/-- The strand is ready, and neither a halt, a stop, another strand's prefix nor the limiter keeps it from issuing (R214 to R218, R339). -/
def State.mayIssue (s : State) (core slot n : Nat) : Bool :=
  let w := s.wave core slot
  w.live && n ≤ 8 && slot < 64 && w.ages n && !s.halting core slot n && !(s.block w.blk).stopped &&
  !((s.block w.blk).stopping && (w.strand n).pfx.isNone) &&
  !(s.block w.blk).dead && !s.dev.withhold && !s.prefixElsewhere core slot n && !s.capDue core slot

/-- The quarter of a wave slot as the record sees it. -/
def State.quarter (s : State) (core slot : Nat) : Quarter := SMap.get {} (s.core core).quarters (quarterOf slot)

/-- A quarter has issued a word in this cycle (R215). -/
def State.hasIssued (s : State) (core slot : Nat) : Bool := (s.quarter core slot).lastIssue = some (s.cycle (s.partOf core))

/-- The cycle in which a quarter can issue its next word: the next one where it has issued a word in this one. -/
def State.issueCycle (s : State) (core slot : Nat) : State := if s.hasIssued core slot then s.tick 1 else s

/-! ## Eligibility (R215, R220, R245) -/

/-- A word needs the quarter's memory port (R157, R178, R179, R183, R215). -/
def usesPort (i : Instr) : Bool :=
  match i with
  | .sunmap .. | .cdrop .. | .cinv .. | .cinvI .. | .cwb .. | .sldB32 .. | .sldB64 .. | .sldB128 .. | .sstB32 .. | .sstB64 .. | .satomAdd .. | .satomCas .. | .satomExch .. | .cqry .. => true
  | _ => classOf i = 3

/-- The vector pipe of a quarter is held by a beat in this cycle. -/
def State.pipeBusy (s : State) (core slot : Nat) : Bool :=
  (s.quarter core slot).beats.any fun b => s.cycle (s.partOf core) < b.cycle + b.len

/-- The SFU queue (1) holds 16 entries, or the conversion queue (2) 8 (R219, R220). -/
def State.unitFull (s : State) (core slot unit : Nat) : Bool :=
  let n := (s.unitResults core (quarterOf slot) unit).length
  (unit = 1 && 16 ≤ n) || (unit = 2 && 8 ≤ n)

/-- A request waits at the quarter's memory port for a miss register or an entry of a slice (R245). -/
def State.portWaits (s : State) (core slot : Nat) : Bool :=
  (List.range 16).any fun k => s.missWaits core (16 * quarterOf slot + k)

/-- The strand's next word is in the instruction cache, and the pipe, queue or port that it needs can take it in this cycle (R215, R220,
R221, R245). -/
def State.accepts (s : State) (core slot n : Nat) : Bool :=
  match s.nextWord core slot n with
  | none => false
  | some x =>
    let i := decode x
    !(usesPort i && s.portWaits core slot) && !(unitOf i != 0 && s.unitFull core slot (unitOf i)) &&
    !(s.pipeBusy core slot && !(beatsOf i ⟨0, 0, 0, 0, 0, 0, 0, 1⟩ ((s.wave core slot).strand n).am).isEmpty)

/-- The strand is eligible in this cycle (R215). -/
def State.eligible (s : State) (core slot n : Nat) : Bool := s.mayIssue core slot n && s.accepts core slot n

/-- The rank of an eligible strand (R216), lowest first: capped before not, trap mode, SCHED level, the cycle in which it was capped or
became ready, age, slot. -/
def strandRank (st : Strand) (slot n : Nat) : Nat :=
  let key4 := st.readyAt * 2 ^ 46 + st.age.toNat * 2 ^ 8 + slot
  match st.cappedAt with
  | some c => c * 2 ^ 128 + key4
  | none => 2 ^ 200 + ((if n = 8 then 0 else 1) * 8 + (7 - st.sched.toNat)) * 2 ^ 140 + key4

/-- The strand that a quarter issues in this cycle: of its eligible strands the one that ranks first (R216), as its wave slot and strand. -/
def State.pick (s : State) (core q : Nat) : Option (Nat × Nat) :=
  (minBy (fun x => x.2) ((List.range 16).flatMap fun k =>
    let slot := 16 * q + k
    let w := s.wave core slot
    if !w.live then []
    else (List.range 9).filterMap fun n =>
      if s.eligible core slot n then some ((slot, n), strandRank (w.strand n) slot n) else none)).map (·.1)

/-! ## Fetch and issue -/

/-- The fetch of the line at the issuing strand's PC (R221); a line with an uncorrectable error raises MCHECK (R243). -/
def State.fetch (s : State) : Except Raise State :=
  let vi := s.cw.vi
  let pc := s.cs.pc.toNat
  match s.translate s.cur.1 vi pc .fetch with
  | .error r => .error r
  | .ok (x, _) => if s.bad.contains x.line then .error (x.fault pc .mcheck) else .ok (s.fetchFill s.cur.1 vi pc)

/-- A fetch that faults (R221, R313): nothing issues, and the cause is precise at the fetched address. -/
def State.fetchFault (s : State) (r : Raise) : State :=
  let st := s.cs
  ((s.updCs fun st => { st with pc := st.start, pfx := none, replay := none }).latch s.cur.1 s.cur.2.1
    ⟨r.cause, r.val, s.cur.2.2, st.start, s.exm, 0, st.issued, false⟩).settle s.cur.1 s.cur.2.1

/-- The wait counts of the other ready strands of a quarter rise by one, and the issuing strand's is cleared (R216). -/
def State.countWaits (s : State) : State :=
  let core := s.cur.1
  (List.range 16).foldl (fun s k =>
    let slot := 16 * quarterOf s.cur.2.1 + k
    if (s.wave core slot).live && !s.isStopped core slot then
      s.updWave core slot fun w => { w with strands := w.strands.map fun p =>
        (p.1,
         if slot = s.cur.2.1 && p.1 = s.cur.2.2 then { p.2 with waits := 0, cappedAt := none }
         else if w.ages p.1 then { p.2 with waits := p.2.waits + 1 } else p.2) }
    else s) s

/-- The words that a sibling of a wave with a latched fault issues (R302), and those that a wave issues after a STOP has reached it (R353). -/
def State.countSkid (s : State) : State :=
  let s := if (s.block s.cw.blk).stopping then s.updCw fun w => { w with stopSkid := w.stopSkid + 1 } else s
  let w := s.cw
  if w.latched.isNone && (s.block w.blk).waves.any fun k => k != waveKey s.cur.1 s.cur.2.1 && (s.waveK k).latched.isSome then
    s.updCw fun w => { w with sinceHalt := w.sinceHalt + 1 }
  else s

/-- The issue of a word as its quarter sees it (R215, R216, R347): the cycle, the beats and the wait counts are noted. -/
def State.account (s : State) (i : Instr) : State :=
  let (core, slot) := (s.cur.1, s.cur.2.1)
  let cyc := s.cycle (s.partOf core)
  let st := s.cs
  let r : BeatRec := ⟨cyc, s.cw.vi, BitVec.ofNat 64 (canonPc st.pc), s.maskFor i, st.memb, s.cw.pop, 0, 1⟩
  let low := ((List.range 3).find? (hasBeat st.memb)).getD 0
  let s := s.updCore core fun k => { k with quarters := SMap.upd {} k.quarters (quarterOf slot) fun q =>
    { q with
      lastIssue := some cyc
      word := some { r with exm := st.am, beat := low }
      beats := q.beats.filter (fun b => cyc < b.cycle + b.len) ++ beatsOf i r st.am } }
  s.countWaits.countSkid

/-- The issuing strand has parked on its word, which has not issued: it waits for a token or for space (R17, R172, R212). -/
def State.stalls (s : State) : Bool := s.cs.state = .parked && s.cs.retries

/-- The fetch for a strand that may issue and whose next word is not in the instruction cache (R221): nothing issues, and the word is
eligible once its line is there. -/
def State.fetchNext (s : State) (core slot n : Nat) : State :=
  let t := { s with cur := (core, slot, n) }
  if !s.mayIssue core slot n then s
  else match t.fetch with
    | .ok u => u
    | .error r => (t.walkedFor core t.cw.vi r).fetchFault r

/-- The word at the issuing strand's PC: a word that only waits does not issue, and takes neither slot nor beat (R5, R17, R215). -/
def State.issueWord (s : State) (i : Instr) : Host.Outcome State Fault Refusal :=
  match exec i (s.account i) with
  | .next u => if u.stalls then exec i s else .next u
  | o => o

/-- The issue of the next word of a strand that its quarter picks in a cycle in which it has issued no word (R215, R216).  A strand that the
quarter does not pick issues nothing. -/
def State.issueNext (s : State) (core slot n : Nat) : Host.Outcome State Fault Refusal :=
  if (s.nextWord core slot n).isNone then .next (s.fetchNext core slot n)
  else
    let t := s.issueCycle core slot
    if t.pick core (quarterOf slot) != some (slot, n) then .next s
    else { t with cur := (core, slot, n) }.issueWord (decode ((t.nextWord core slot n).getD 0))

/-! ## The choices of the agenda (log entry 1) -/

/-- The instruction is a step of the device, which no strand issues. -/
def Instr.isEvent (i : Instr) : Bool := !i.isWord && (match i with | .illegalWord _ => false | _ => true)

/-- One choice taken. -/
def State.choose (s : State) (c : Choice) : Host.Outcome State Fault Refusal :=
  match c with
  | .issue core slot n => s.issueNext core slot n
  | .event i => if Instr.isEvent i then exec i s else .next s
  | .evict core line => .next (s.flushL1 core line)
  | .evictTlb core n => .next (s.updCore core fun k => { k with tlb := k.tlb.eraseIdx n })
  | .progress blk q n => .next (s.progressQ blk q n)
  | .withhold on => .next { s with dev := { s.dev with withhold := on } }
  | .defer on => .next { s with deferTraps := on }
  | .tick n => .next (s.tick n)
  | .lag on => .next { s with lag := on }
  | .scat blk order => .next (if s.enginesRun blk && s.headOpen blk 4 then s.scatMixed blk order else s)
  | .eccFixed part => .next (if (s.part part).size = 0 then s else s.updPart part fun p => { p with fixed := p.fixed + 1 })
  | .served key n => .next { s with inFlight := SMap.set 0 s.inFlight key (SMap.get 0 s.inFlight key - n) }
  | .eccLine line => .next (s.markBad line)
  | .eccCopy core line => .next (if ((SMap.find? (s.core core).l1 line).isSome) then
      s.updCore core fun k => { k with l1 := k.l1.map fun (p : Nat × L1Line) => if p.1 = line then (p.1, { p.2 with bad := true }) else p } else s)
  | .eccTile core line => .next (if (s.core core).tile.any fun t => t.line = line then
      s.updCore core fun k => { k with tile := k.tile.map fun t => if t.line = line then { t with bad := true } else t } else s)
  | .program port reach => .next (if 16 ≤ port then s else
      { s with dev := { s.dev with ports := SMap.upd {} s.dev.ports port fun p => { p with reach := reach } } })
  | .refused l => .next { s with dev := { s.dev with refused := l } }
  | .owner pa data => .next (s.ownerWrites pa data)
  | .port core slot id => .next (s.carryPort core slot id)
  | .activate stack chan bank => .next (s.activate stack chan bank)
  | .refresh stack chan bank => .next (s.refreshBank stack chan bank)
  | .resetting part on => .next (s.setResetting part on)
  | .holdMeters vi on => .next (s.updVi vi fun v => { v with holding := on, late := [] })
  | .boot => .next s.bootMove
  | .interrupt core => .next { s with dev := { s.dev with irqs := core :: s.dev.irqs.filter (· != core) } }
  | .eccStash blk line => .next (s.updBlock blk fun b => { b with bad := if b.bad.contains line then b.bad else line :: b.bad })

/-! ## The order of steps when the agenda is empty -/

/-- The live waves: core, slot, wave. -/
def State.liveWaves (s : State) : List (Nat × Nat × Wave) :=
  s.waves.filterMap fun p => if p.2.live then some (p.1 / 64, p.1 % 64, p.2) else none

/-- An FGET in the queue has found all its cells full, or finds another one full; an operation of another kind has no cells. -/
def State.findsCell (s : State) (core slot : Nat) (q : QEntry) : Bool :=
  match q.op with
  | .mem op => !q.isFget || q.fgetDone || (s.tryCells (s.agentOf core slot .normal) op op.accs).1 != op.accs
  | _ => true

/-- A queue entry whose conditions to be performed hold and whose pages are known. -/
def State.entryDue (s : State) (core slot : Nat) (w : Wave) (q : QEntry) : Bool :=
  s.ripeNow core slot q && s.tlbReady core w q.op && s.releasable core slot q && s.findsCell core slot q

/-- A queue entry that a page walk can let be performed. -/
def State.entryWalks (s : State) (core slot : Nat) (w : Wave) (q : QEntry) : Bool :=
  s.ripeNow core slot q && !s.tlbReady core w q.op && s.releasable core slot q

/-- What is due in a wave: a trap, results, a queue entry that waits for nothing, a parked strand whose condition holds.  Nothing is in a stopped
block (R351). -/
def State.waveMove (s : State) (core slot : Nat) (w : Wave) : Option State :=
  if (s.block w.blk).stopped then none
  else if s.trapReady core slot then some (s.takeTrap core slot)
  else match if w.outs.isEmpty then none else s.nextLand core slot with
    | some i => some ((s.land core slot i (BitVec.allOnes 96)).settle core slot)
    | none =>
      match w.queue.find? (s.entryDue core slot w) with
      | some q => some ((s.runEntry core slot q).settle core slot)
      | none => ((List.range 9).find? (s.canWake core slot)).map fun n => (s.wakeStrand core slot n).settle core slot

/-- What takes a wave longer: a page walk, the completion of an access to the port or of a snapshot, its end.  Of these a stopped block has the
completion of a snapshot alone, whose token is delivered as usual (R351). -/
def State.waveSlow (s : State) (core slot : Nat) (w : Wave) : Option State :=
  let stopped := (s.block w.blk).stopped
  match if stopped then none else w.queue.find? (s.entryWalks core slot w) with
  | some q => some ((s.runEntry core slot q).settle core slot)
  | none =>
    match if stopped then [] else w.port, w.snaps with
    | op :: _, _ => some (s.completePort core slot op.id fun _ => true)
    | [], x :: _ => match execMetsnapComplete core slot x.id s with | .next s => some s | _ => none
    | [], [] => if stopped then none else if w.finished && w.queue.isEmpty then some (s.endWave core slot) else none

/-- The meaning of an event that always goes on. -/
def nextOf (s : State) (o : Host.Outcome State Fault Refusal) : State := match o with | .next t => t | _ => s

/-- The head of a block's xq that completes without another member: its operands break a rule, or it is its group's only member (R198). -/
def State.collAlone (s : State) (blk : Nat) (b : Block) : Option CollInput :=
  match SMap.get [] b.queues 6 with
  | [] => none
  | e :: _ =>
    match e.op with
    | .coll sd rv n gid root _ ty op ok =>
      let grp := SMap.find? (s.vi (s.engAgent blk e).vi).groups gid
      if collRange grp sd.toNat rv.toNat n root ty op ok then some .disagree
      else if (grp.getD {}).m = 1 then
        some (.sends [List.replicate (collLens op n 1 (collSize ty)).1 0] [0])
      else none
    | _ => none

/-- What a block's engines can do. -/
def State.blockMove (s : State) (blk : Nat) (b : Block) : Option State :=
  if !s.enginesRun blk then none
  else match (List.range 4).find? fun q => !(SMap.get [] b.queues q).isEmpty && (b.headJoin q).isNone && s.headOpen blk q with
    | some q => some (nextOf s (execAcopyComplete blk q s))
    | none =>
      if s.headOpen blk 4 && (b.headJoin 4).isNone then some (nextOf s (execGathScatComplete blk s))
      else if s.headOpen blk 6 && (s.collAlone blk b).isSome then (s.collAlone blk b).map fun inp => nextOf s (execCollComplete blk inp s)
      else if s.matReady blk && (b.headJoin 5).isNone then some (nextOf s (execMatrixOpComplete blk s))
      else if b.batchReady then some (nextOf s (execBatchComplete blk s))
      else none

/-- The operations and parents' updates that have come to a heap's controller. -/
def State.heapWork (s : State) (part id : Nat) (h : Heap) : Option State :=
  if !h.arrivals.isEmpty then some (s.performHeap part id)
  else if !h.parentUps.isEmpty then some (s.parentUpdate part id)
  else none

/-- What a heap's controller can do of its own accord. -/
def State.heapMove (s : State) (part id : Nat) (h : Heap) : Option State :=
  match h.ending with
    | some st => some (s.endRun part id st)
    | none =>
      let t := nextOf s (execTurnstilePop part id s)
      if t.nextBlk = s.nextBlk then none else some t

/-- What can be done with an accepted packet. -/
def State.pktMove (s : State) (id : Nat) (p : Packet) : Option State :=
  if s.mayStart id p then some (nextOf s (execPacketStart id s))
  else if p.state = .done || (p.state = .started && p.gridDone) then some (s.completePkt id)
  else if p.state = .started && p.seq = 0 then
    match p.kind with
    | 1 => some (nextOf s (execGrid id s))
    | 2 => some (nextOf s (execHeapConfigure id s))
    | 3 => some (nextOf s (execHeapRun id s))
    | 4 => some (nextOf s (execHeapRelease id s))
    | 5 => some (nextOf s (execMarker id s))
    | _ => none
  else none

/-- The mapping that firmware's pass makes: the queues that are mapped stay, and pending ones take free slots. -/
def State.newMaps (s : State) (part : Nat) : List (Nat × Nat × Nat) :=
  let old := (s.part part).slots.map fun x => (x.1, x.2.vi, x.2.q)
  let new := s.vis.flatMap fun v =>
    if v.2.part = some part then
      v.2.queues.filterMap fun q => if q.2.pending && q.2.enable && !old.any (fun m => m.2 = (v.1, q.1)) then some (v.1, q.1) else none
    else []
  let free := (List.range 64).filter fun k => !old.any fun m => m.1 = k
  old ++ (free.zip new)

/-- The dispatch of a block of the oldest grid with blocks left to a core with room. -/
def State.dispatchMove (s : State) (part : Nat) (p : Part) : Option State :=
  (p.resident.bind s.oldestGrid).bind fun g => (s.coresOf part).findSome? fun c =>
    if (s.room c g.2.desc false g.2.left).isSome then
      let t := nextOf s (execTicketDispatch part c s)
      if t.nextBlk != s.nextBlk then some t else none
    else none

/-- What the dispatcher and firmware of a partition can do. -/
def State.partMove (s : State) (part : Nat) (p : Part) : Option State :=
  let accept := p.slots.find? fun x =>
    let q : LQueue := SMap.get {} (s.vi x.2.vi).queues x.2.q
    p.resident = some x.2.vi && q.enable && x.2.prod != q.cons
  match accept with
  | some x => some (nextOf s (execPacketAccept x.2.vi x.2.q s))
  | none =>
    match s.dispatchMove part p with
    | some t => some t
    | none =>
      if (s.newMaps part).length != p.slots.length && s.mapsOk part (s.newMaps part) then some (nextOf s (execSchedulingPass part (s.newMaps part) s))
      else if (s.incoming part).isSome && (p.resident.all fun r => s.noPrefix (s.viWaves part r)) then
        some (nextOf s (execContextSwitch part s))
      else if p.resident.any fun r => !p.sliceOver && (s.vi r).slice * 3000 ≤ p.cycle - p.sliceStart then
        some (nextOf s (execSliceEnd part s))
      else none

/-- The quarters that hold live waves. -/
def liveQuarters (ws : List (Nat × Nat × Wave)) : List (Nat × Nat) := (ws.map fun w => (w.1, quarterOf w.2.1)).eraseDups

/-- A strand that has become capped (R216). -/
def State.capMove (s : State) (ws : List (Nat × Nat × Wave)) : Option State :=
  (ws.findSome? fun w => (List.range 9).findSome? fun n =>
    let st := w.2.2.strand n
    if w.2.2.ages n && st.cappedAt.isNone && 64 ≤ st.waits then some (w.1, w.2.1, n) else none).map fun x =>
      nextOf s (execStrandCapped x.1 x.2.1 x.2.2 s)

/-- The next request of R329 served by firmware. -/
def State.requestMove (s : State) : Option State :=
  if s.nextRequest.isNone then none
  else
    [execSettrap, execSetroot, execGroup, execSchedp, execAssign, execResetvi, execExtdone].findSome? fun f =>
      let t := nextOf s (f s)
      if t.dev.reqCons = s.dev.reqCons then none else some t

/-- The slower steps, in the model's order: waves, engines, heaps, packets, requests, partitions. -/
def State.slowMove (s : State) (ws : List (Nat × Nat × Wave)) : Option State :=
  (ws.findSome? fun w => s.waveSlow w.1 w.2.1 w.2.2).orElse fun _ =>
  (s.blocks.findSome? fun b => s.blockMove b.1 b.2).orElse fun _ =>
  (s.parts.findSome? fun p => p.2.heaps.findSome? fun h => s.heapWork p.1 h.1 h.2).orElse fun _ =>
  (s.parts.findSome? fun p => p.2.heaps.findSome? fun h => s.heapMove p.1 h.1 h.2).orElse fun _ =>
  (s.packets.findSome? fun p => s.pktMove p.1 p.2).orElse fun _ =>
  s.requestMove.orElse fun _ =>
  (if s.dev.stage = 1 || s.dev.stage = 3 then some s.bootMove else none).orElse fun _ =>
  s.parts.findSome? fun p => s.partMove p.1 p.2

/-- The slower steps come first in one part of eight of the time, so that strands that always have a word to issue hold up nothing. -/
def State.slowFirst (s : State) : Bool := 224 ≤ s.dev.time % 256

/-- A strand that may issue and whose next word is to be fetched. -/
def State.fetchDue (s : State) (ws : List (Nat × Nat × Wave)) : Option (Nat × Nat × Nat) :=
  ws.findSome? fun w => ((List.range 9).find? fun n => s.mayIssue w.1 w.2.1 n && (s.nextWord w.1 w.2.1 n).isNone).map fun n =>
    (w.1, w.2.1, n)

/-- A strand whose next word is to be fetched, or that a quarter can issue in this cycle: core, wave slot, strand. -/
def State.nextIssue (s : State) (ws : List (Nat × Nat × Wave)) : Option (Nat × Nat × Nat) :=
  (s.fetchDue ws).orElse fun _ => (liveQuarters ws).findSome? fun q =>
    if s.hasIssued q.1 (16 * q.2) then none else (s.pick q.1 q.2).map fun x => (q.1, x)

/-- A word issued in this cycle or in the next; where a strand is ready and every one is blocked, a cycle. -/
def State.issueMove (s : State) (ws : List (Nat × Nat × Wave)) : Option (Host.Outcome State Fault Refusal) :=
  match s.nextIssue ws with
  | some (core, slot, n) => some (s.issueNext core slot n)
  | none =>
    if ws.any fun w => (List.range 9).any fun n => s.mayIssue w.1 w.2.1 n then
      let t := s.served.tick 1
      match t.nextIssue ws with
      | some (core, slot, n) => some (t.issueNext core slot n)
      | none => some (.next t)
    else none

/-- The step that the model takes when the agenda is empty: what is due in a wave, then a strand's issue, then what takes longer, then
a cycle. -/
def State.auto (s : State) : Host.Outcome State Fault Refusal :=
  let ws := s.liveWaves
  match (s.blocks.findSome? fun b => s.stopDue b.1 b.2).orElse fun _ =>
      (ws.findSome? fun w => s.waveMove w.1 w.2.1 w.2.2).orElse fun _ => (s.capMove ws).orElse fun _ =>
      s.parts.findSome? fun p => s.dispatchMove p.1 p.2 with
  | some t => .next t
  | none =>
  match if s.slowFirst then s.slowMove ws else none with
  | some t => .next t
  | none =>
  match s.issueMove ws with
  | some o => o
  | none =>
  match s.slowMove ws with
  | some t => .next t
  | none => .next { s.served.tick 1 with dev := { (s.served.tick 1).dev with withhold := false } }

/-- One step: the agenda's first choice, or the model's own. -/
def State.stepOnce (s : State) : Host.Outcome State Fault Refusal :=
  match s.agenda with
  | c :: t => { s with agenda := t }.choose c
  | [] => s.auto

/-! ## A word to be fetched next -/

/-- The translation of the page of code that holds a word to be run: read-shared, readable and executable. -/
def probePage : Nat := 0x10000

/-- The state in which the next step fetches and runs a word: a wave of one block on core 0, with its page of code in the TLB and its line
in the instruction cache. -/
def State.withWord (s : State) (w : Word) : State :=
  let a := Memory.write s.mem probePage 4 w.toNat
  let page (va region perm : Nat) : TlbEntry := ⟨0, va, 16, BitVec.ofNat 64 (va + 64 * region + 8 * perm + 3)⟩
  let st : Strand := { state := .ready, pc := BitVec.ofNat 64 probePage, memb := BitVec.allOnes 96, am := 1 }
  let wave : Wave :=
    { live := true, vi := 0, blk := 0, part := 0, pop := BitVec.allOnes 96, strands := [(0, st)], nblocks := 1 }
  let blk : Block :=
    { live := true, desc := { entry := BitVec.ofNat 64 probePage, text := 4 }, waves := [0], bars := [(0, { e := 1 })], claimed := [(0, 8)] }
  { s with
    mem := a
    parts := SMap.put s.parts 0 { s.part 0 with size := max 1 (s.part 0).size, resident := some 0 }
    vis := SMap.put s.vis 0 { s.vi 0 with part := some 0 }
    waves := SMap.put s.waves 0 wave
    blocks := SMap.put s.blocks 0 blk
    nextBlk := max 1 s.nextBlk
    cores := SMap.put s.cores 0 { s.core 0 with
      tlb := [page probePage 1 5, page 0x20000 2 3]
      icache := SMap.put (s.core 0).icache (icacheKey 0 probePage) (Memory.line a (probePage / 128)) }
    agenda := [.issue 0 0 0] }

end Sys2Proof.Machine
end

