-- ==== Sys2Proof/Machine/Step.lean ====
section
/-! DEFINITION. The step of the machine, and the state whose next step runs a given word. -/

namespace Sys2Proof.Machine

/-- One step of the machine. -/
def step (s : State) : Host.Outcome State Fault Refusal := s.stepOnce

/-- The state s with the instruction of the opcode table's bits where its next step fetches. -/
def State.withFetchWord (s : State) (_nbits w : Nat) : State := s.withWord (BitVec.ofNat 32 w)

end Sys2Proof.Machine
end

