-- ==== Sys2Proof/Safety.lean ====
section
/-! DEFINITION. The terms that claims use: what a word needs in order to issue, the state after it, and what counts as a safe run. -/

namespace Sys2Proof.Machine

/-! ## The issue of a word -/

/-- None of a list of causes is raised. -/
def NoCause (l : List (Option Raise)) : Prop := ∀ x ∈ l, x = none

/-- A word issues with its own effect (R17, R28, R301): its strand is ready, no trap is latched in its wave, its prefix may stand before
it, none of the causes that its forms can raise is raised, and no register that it reads is a pending token. -/
structure State.Issues (s : State) (i : Instr) (static : List (Option Raise)) (reads : List Nat) (dynamic : List (Option Raise)) : Prop where
  ready : s.cs.state = .ready
  calm : s.cw.latched = none
  group : NoCause (pfxFaults i s.cs.pfx)
  static : NoCause static
  tokens : ∀ r ∈ reads, s.cw.isPending r = false
  dynamic : NoCause dynamic

/-- A strand after a word that issued in a cycle: at the next word, without prefix and replay mask, and parked when the word carries the park
marker (R54, R209). -/
def Strand.past (st : Strand) (m : Bool) (cycle : Nat) : Strand :=
  { st with
    pc := st.pc + 4
    pfx := none
    replay := none
    issued := st.issued + 1
    issuedAt := cycle
    state := if m then .parked else .ready
    park := if m then .marker else st.park }

/-- The state after a word that has no effect but to let its strand go on. -/
def State.past (s : State) (m : Bool) : State := s.updCs fun st => st.past m (s.cycle s.cw.part)

/-- A result of the issuing word with what every result records of it (R19, R29, R107, R220). -/
def State.filled (s : State) (i : Instr) (r : Result) : Result :=
  { r with
    strand := s.cur.2.2
    enables := s.cw.enables
    word := encode i
    after := s.cs.pc + 4
    am := s.cs.am
    seq := s.cs.issued + 1
    unit := unitOf i
    place := s.cycle s.cw.part }

/-- The state after a word whose effect is one result, outstanding until its RESULT_WRITE (R29). -/
def State.wrote (s : State) (i : Instr) (m : Bool) (r : Result) : State :=
  (s.past m).updCw fun w => { w with outs := w.outs ++ [s.filled i r] }

/-- The state after a word that its strand goes on from at a target (R117). -/
def State.jumped (s : State) (m : Bool) (pc : DWord) : State := (s.past m).updCs fun st => { st with pc := pc }

/-- The state after a word whose effect follows the strand's advance and may wake, park or trap: the effect, the park marker of the
word (R209), and a trap that it latched (R302). -/
def State.did (s : State) (m : Bool) (eff : State → State) : State := ((eff s.advance).marker m).settle s.cur.1 s.cur.2.1

/-- Nothing keeps the issuing strand from going on when its word's own condition holds as it issues (R209, R214): its wave is not halted, its
block neither stopped nor ended, and no park marker of an earlier word is left. -/
structure State.Awake (s : State) : Prop where
  halted : s.cw.halted = false ∨ s.cur.2.2 = 8
  stopped : (s.block s.cw.blk).stopped = false
  dead : (s.block s.cw.blk).dead = false
  marker : s.cs.parkM = false

/-- The state after a word whose own condition holds as it issues: the strand has come to the condition, the word has its effect, and the
strand is ready for the next word, or parked by the park marker (R209). -/
def State.wentOn (s : State) (m : Bool) (p : Park) (i : Instr) (arg : Word) (eff : State → State) : State :=
  s.did m fun t => (eff (t.parkOn p i arg)).updCs fun st => st.wake (s.cycle s.cw.part)

/-- The state after a word that raised a precise cause (R299): TPC is the first word of its prefix, nothing else of it is done, and the
trap is latched with the lanes of EXM. -/
def State.raised (s : State) (i : Instr) (r : Raise) : State :=
  (s.updCs fun st => { st with pc := st.start, pfx := none, replay := none }).latch s.cur.1 s.cur.2.1
    ⟨r.cause, r.val, s.cur.2.2, s.cs.start, s.maskFor i, encode i, s.cs.issued, false⟩

/-! ## What the families of words need, and what they write -/

/-- A class 0 word of a type issues (R11, R17, R122, R136): its registers are within the budget, its destination is not published, its
scalar operand is no pending token. -/
abbrev State.FloatIssues (s : State) (i : Instr) (ty : FTy) (d a : VReg) (b : Code) : Prop :=
  s.Issues i
    (s.vdest d.toNat (if ty.kind.wide then 2 else 1) ++ s.cw.vranges a.toNat (if ty.kind.wide then 2 else 1) ++
      s.cw.codeRange ty.kind b ++ s.v4Range (if ty.kind.wide then 2 else 1))
    (codeRegs ty.kind b ++ s.xmodRegs) []

/-- What the lanes of EXM give a class 0 word: lane, bits and flags of an element operation on a, the operand b and, for the fused ones,
the addend (R135, R140). -/
def State.floatLanes (s : State) (ty : FTy) (d a : VReg) (b : Code) (fused : Bool) (f : FloatFn) : List (Nat × FRes) :=
  (lanesOf s.exm).map fun l =>
    (l, floatLane ty f s.modeFloat (s.src a.toNat ty.kind.wide l) (s.operand ty.kind b l)
      (if fused then s.src (s.v4 d) ty.kind.wide l else 0))

/-- The result of a class 0 word (R135, R139): the bits of every lane of EXM, the flags of all of them ORed together, the meter. -/
def State.floatResult (s : State) (ty : FTy) (d a : VReg) (b : Code) (fused : Bool) (f : FloatFn) : Result :=
  { strand := 0
    vec := s.vecOut d.toNat ty.kind.wide ((s.floatLanes ty d a b fused f).map fun p => (p.1, p.2.bits))
    flags := orFlags ((s.floatLanes ty d a b fused f).map fun p => p.2.fl)
    meters := floatMeter ty fused (lanesOf s.exm).length }

/-- A class 1 word of a type issues (R136, R142). -/
abbrev State.IntIssues (s : State) (i : Instr) (ty : ITy) (d a : VReg) (b : Code) : Prop :=
  s.Issues i
    (s.vdest d.toNat (if ty.kind.wide then 2 else 1) ++ s.cw.vranges a.toNat (if ty.kind.wide then 2 else 1) ++
      s.cw.codeRange ty.kind b ++ s.v4Range (if ty.kind.wide then 2 else 1))
    (codeRegs ty.kind b ++ s.xmodRegs) []

/-- The result of a class 1 word: an operation on every element of every lane of EXM (R78, R142). -/
def State.intResult (s : State) (ty : ITy) (d a : VReg) (b : Code) (fused : Bool) (f : IntFn) : Result :=
  { strand := 0
    vec := s.vecOut d.toNat ty.kind.wide ((lanesOf s.exm).map fun l =>
      (l, intLane ty f (s.src a.toNat ty.kind.wide l) (s.operand ty.kind b l) (if fused then s.src (s.v4 d) ty.kind.wide l else 0))) }

/-- The kind of a shift's amount (R58). -/
def amountKind (ty : ITy) : Kind := if ty = .i64 then .amount64 else .amount

/-- A shift of class 1 issues (R80, R136). -/
abbrev State.ShiftIssues (s : State) (i : Instr) (ty : ITy) (d a : VReg) (b : Code) : Prop :=
  s.Issues i
    (s.vdest d.toNat (if ty.kind.wide then 2 else 1) ++ s.cw.vranges a.toNat (if ty.kind.wide then 2 else 1) ++
      s.cw.codeRange (amountKind ty) b)
    (codeRegs (amountKind ty) b ++ s.xmodRegs) []

/-- The result of a shift of class 1. -/
def State.shiftResult (s : State) (ty : ITy) (d a : VReg) (b : Code) (f : Nat → Nat → Nat → Nat) : Result :=
  { strand := 0
    vec := s.vecOut d.toNat ty.kind.wide
      ((lanesOf s.exm).map fun l => (l, s.shiftLane ty b f (s.src a.toNat ty.kind.wide l) l)) }

/-- A class 2 word with one vector destination, source registers and an operand code issues (R136). -/
abbrev State.MiscIssues (s : State) (i : Instr) (d : VReg) (srcs : List VReg) (k : Kind) (b : Option Code) : Prop :=
  s.Issues i
    (s.vdest d.toNat 1 ++ srcs.map (fun a => s.cw.vrange a.toNat) ++ (b.map (s.cw.codeRange k)).getD [])
    ((b.map (codeRegs k)).getD [] ++ s.xmodRegs) []

/-- A value for every lane of EXM, and 0 for those that XMOD z zeroes, in one vector register (R135). -/
def State.laneResult (s : State) (d : VReg) (f : Nat → Nat) : Result :=
  { strand := 0, vec := s.vecOut d.toNat false ((lanesOf s.exm).map fun l => (l, f l)) }

/-- A conversion issues (R136): the widths of its source and its destination. -/
abbrev State.CvtIssues (s : State) (i : Instr) (d a : VReg) (sw dw : Bool) : Prop :=
  s.Issues i (s.vdest d.toNat (if dw then 2 else 1) ++ s.cw.vranges a.toNat (if sw then 2 else 1)) s.xmodRegs []

/-- The result of a conversion: of each lane's source and old destination. -/
def State.cvtResult (s : State) (d a : VReg) (sw dw : Bool) (f : Nat → Nat → FRes) : Result :=
  { strand := 0
    vec := s.vecOut d.toNat dw
      ((lanesOf s.exm).map fun l => (l, (f (s.src a.toNat sw l) (s.src d.toNat false l)).bits))
    flags := orFlags ((lanesOf s.exm).map fun l => (f (s.src a.toNat sw l) (s.src d.toNat false l)).fl) }

/-- A word of the special function unit issues (R136, R150). -/
abbrev State.SfuIssues (s : State) (i : Instr) (d : VReg) (b : Code) : Prop :=
  s.Issues i (s.vdest d.toNat 1 ++ s.cw.codeRange .f32 b) (codeRegs .f32 b ++ s.xmodRegs) []

/-- The result of a word of the special function unit, with its meter (R139). -/
def State.sfuResult (s : State) (d : VReg) (b : Code) (f : FVal → FRes) : Result :=
  { strand := 0
    vec := s.vecOut d.toNat false ((lanesOf s.exm).map fun l => (l, (sfuLane f s.cw.ftz (s.operand .f32 b l)).bits))
    flags := orFlags ((lanesOf s.exm).map fun l => (sfuLane f s.cw.ftz (s.operand .f32 b l)).fl)
    meters := [(12, (lanesOf s.exm).length)] }

/-- A compare of a kind issues (R136, R155). -/
abbrev State.CmpIssues (s : State) (i : Instr) (k : KReg) (a : VReg) (b : Code) (kd : Kind) : Prop :=
  s.Issues i (s.kdest k.toNat ++ s.cw.vranges a.toNat (if kd.wide then 2 else 1) ++ s.cw.codeRange kd b)
    (codeRegs kd b ++ s.xmodRegs) []

/-- The result of a compare (R155): the bits of the lanes of EXM, 0 in the lanes that z zeroes, the flags of all lanes. -/
def State.cmpResult (s : State) (k : KReg) (a : VReg) (b : Code) (kd : Kind) (f : Nat → Nat → Bool × BitVec 5) : Result :=
  { strand := 0
    bits := some (k.toNat, s.exm ||| s.zeroLanes,
      maskOf ((lanesOf s.exm).filter fun l => (f (s.src a.toNat kd.wide l) (s.operand kd b l)).1))
    flags := orFlags ((lanesOf s.exm).map fun l => (f (s.src a.toNat kd.wide l) (s.operand kd b l)).2) }

/-- A class 4 word with a one-word destination and the operands s[sa] and b issues (R17, R108). -/
abbrev State.ScalIssues (s : State) (i : Instr) (d a : SReg) (b : SOp) : Prop :=
  s.Issues i (s.sdest d.toNat 1) (a.toNat :: sopRegs b) []

/-- A scalar register as the issuing strand reads it. -/
def State.sa (s : State) (a : SReg) : Word := s.cw.sreg s.cur.2.2 a.toNat

/-- A scalar pair as the issuing strand reads it (R14). -/
def State.sa64 (s : State) (a : SReg) : DWord := s.cw.spair s.cur.2.2 a.toNat

/-- The state after a class 4 word that writes one word to sd (R15: zr discards it). -/
def State.wroteS (s : State) (i : Instr) (m : Bool) (d : SReg) (x : Word) : State :=
  s.wrote i m { strand := 0, sca := if d = 63 then [] else [(d.toNat, x)] }

/-- The state after a class 4 word that writes a pair (R14, R111). -/
def State.wrotePair (s : State) (i : Instr) (m : Bool) (d : SReg) (x : DWord) : State :=
  s.wrote i m { strand := 0, sca := if d = 63 then [] else [(d.toNat, x.extractLsb' 0 32), (d.toNat + 1, x.extractLsb' 32 32)] }

/-- The state after a word that writes a mask triple (R6, R112). -/
def State.wroteK (s : State) (i : Instr) (m : Bool) (d : KReg) (x : Lanes) : State :=
  s.wrote i m { strand := 0, sca := [(3 * d.toNat, maskWord x 0), (3 * d.toNat + 1, maskWord x 1), (3 * d.toNat + 2, maskWord x 2)] }

/-! ## Memory words -/

/-- The operation of a class 3 word: one access for each lane of EXM, at the pair's base plus the lane's offset (R157). -/
def State.vecOp (s : State) (kind : MemKind) (ord : Ordq) (a : VReg) (b : BitVec 5) (data : Nat → BitVec 128) (cmp : Nat → Word) : MemOp :=
  { kind := kind
    accs := (lanesOf s.exm).map fun l => ⟨l, s.vaddr a b l, data l, cmp l⟩
    ord := ord
    scope := s.scopeOf
    pol := s.polOf
    zero := s.zeroLanes }

/-- The operation of a scalar access: one access (R113, R115). -/
def scaOp (kind : MemKind) (addr : DWord) (data : BitVec 128) (cmp : Word) : MemOp := { kind := kind, accs := [⟨0, addr, data, cmp⟩] }

/-- A word whose operation goes through the wave's queue issues: it needs what any word needs, and room in the queue (R212). -/
structure State.Queues (s : State) (i : Instr) (static : List (Option Raise)) (reads : List Nat) (dynamic : List (Option Raise))
    (q : QEntry) : Prop extends s.Issues i static reads dynamic where
  room : s.busyFor q = none

/-- The state after a word whose operation goes through the wave's queue: the entry joins the queue behind an own first effect, and is
performed at once when nothing holds it back (R210, R211). -/
def State.queued (s : State) (m : Bool) (q : QEntry) (before : State → State := id) : State :=
  s.did m fun t => (before t).issueQ s.cur.1 s.cur.2.1 q

/-- Nothing orders an operation of the issuing strand behind another one: the wave's queue and the memory port hold nothing of
the wave, no strand and no entry of an earlier strand precedes it, it waits at no ring, no wave waits in an FGET, no operation is half done, the agenda has not chosen that accesses are
performed in steps of their own (R256), and no handler keeps the strand halted (R302). -/
structure State.Unordered (s : State) : Prop where
  queue : s.cw.queue = []
  port : s.cw.port = []
  first : s.cs.before = []
  old : s.cs.old = []
  claims : s.ringWaits s.cur.1 s.cur.2.1 s.cur.2.2 = false
  waiters : (s.waves.any fun p => p.2.queue.any QEntry.atHome) = false
  asked : s.asked = none
  lag : s.lag = false
  awake : s.cw.halted = false ∨ s.cur.2.2 = 8

/-- Every lane of EXM reaches n bytes of a stash that no window covers and whose data are good: the block that owns them and the offset in
its stash (R157). -/
structure State.StashCells (s : State) (a : VReg) (b : BitVec 5) (n : Nat) (cell : Nat → Nat × Nat) : Prop where
  found : ∀ l ∈ lanesOf s.exm, ∃ off, stashOff (s.vaddr a b l).toNat = some off ∧ s.stashAt s.cw.blk off n = some (cell l)
  plain : ∀ l ∈ lanesOf s.exm, (s.block (cell l).1).winAt (cell l).2 = none
  good : ∀ l ∈ lanesOf s.exm, (s.block (cell l).1).bad.contains ((cell l).2 / 128) = false

/-- The one access of an operation is to a byte of a page that an entry of the TLB translates and permits, in a line that no cache but L2
and no window holds and whose data are good, when its requests find room and no line leaves a cache for its own (R157, R224, R228, R245). -/
structure State.OnPage (s : State) (op : MemOp) (va : DWord) (x : Xlat) : Prop where
  known : s.tlbReady s.cur.1 s.cw (.mem op) = true
  room : s.missRoom (s.agentOf s.cur.1 s.cur.2.1 .normal) op = true
  flat : stashOff va.toNat = none
  page : ∃ u, s.translate s.cur.1 s.cw.vi va.toNat op.kind.need = .ok (x, u)
  cached : s.uncached x = false
  copies : s.holders x.line = [] ∧ s.winsOver x.line = []
  good : s.bad.contains x.line = false
  l1 : (s.core s.cur.1).l1Victim x.line = none
  l2 : let ways := SMap.get [] s.l2 (l2Key s.cw.part (s.part s.cw.part).size x.line)
    ways.length < 16 ∨ ∃ w ∈ ways, w.line = x.line ∧ w.spent = false

/-- No two lanes of EXM share a byte of their n bytes. -/
def State.Apart (s : State) (n : Nat) (cell : Nat → Nat × Nat) : Prop :=
  ∀ l ∈ lanesOf s.exm, ∀ k ∈ lanesOf s.exm, k ≠ l →
    (cell k).1 ≠ (cell l).1 ∨ (cell k).2 + n ≤ (cell l).2 ∨ (cell l).2 + n ≤ (cell k).2

/-- Every register of a wave but those named is unchanged: the vector registers, s0 to s59, FMODE, FSTAT, MSTAT, the trap registers, the
budget, the role. -/
structure SameRegs (w u : Wave) : Prop where
  v : u.v = w.v
  s : u.s = w.s
  tokens : u.tokens = w.tokens
  fmode : u.fmode = w.fmode
  fstat : u.fstat = w.fstat
  mstat : u.mstat = w.mstat
  vbudget : u.vbudget = w.vbudget
  role : u.role = w.role
  barphase : u.barphase = w.barphase
  tcause : u.tcause = w.tcause
  tval : u.tval = w.tval
  tpc : u.tpc = w.tpc
  tskid : u.tskid = w.tskid
  tlane : u.tlane = w.tlane
  tstrand : u.tstrand = w.tstrand

/-- The state after a word: its strand has gone on, and its registers and memory are as they were. -/
structure State.WentBy (s u : State) (m : Bool) : Prop where
  strand : u.cs = s.cs.past m (s.cycle s.cw.part)
  regs : SameRegs s.cw u.cw
  mem : u.mem = s.mem

/-- The outstanding result of a vector access: for every lane of EXM the words of its value in n consecutive registers, and 0 in the lanes
that XMOD z zeroes (R135, R162). -/
def State.Returned (s u : State) (t n : Nat) (value : Nat → Nat → Word) : Prop :=
  ∃ r : Result, u.cw.outs = insertOut r s.cw.outs ∧ r.strand = s.cur.2.2 ∧ r.seq = s.cs.issued + 1 ∧
    (∀ l ∈ lanesOf s.exm, ∀ j, j < n → (vkey (t + j) l, value l j) ∈ r.vec) ∧
    (∀ p ∈ r.vec, ∃ l j, j < n ∧ p.1 = vkey (t + j) l ∧ ((l ∈ lanesOf s.exm ∧ p.2 = value l j) ∨ (l ∈ lanesOf s.zeroLanes ∧ p.2 = 0)))

/-- The bytes of the stashes after a vector access: the n bytes of every lane of EXM hold its new value, and every other byte is as it
was. -/
def State.Stored (s u : State) (n : Nat) (cell : Nat → Nat × Nat) (new : Nat → Nat) : Prop :=
  (∀ l ∈ lanesOf s.exm, ∀ j, j < n → (Memory.byte (u.block (cell l).1).stash ((cell l).2 + j)).toNat = new l / 256 ^ j % 256) ∧
  (∀ k c, (∀ l ∈ lanesOf s.exm, (cell l).1 = k → c < (cell l).2 ∨ (cell l).2 + n ≤ c) →
    Memory.byte (u.block k).stash c = Memory.byte (s.block k).stash c)

/-- The state after a word whose one access wrote a stash: n bytes at an offset of the owner's stash. -/
def State.storedStash (s : State) (m : Bool) (owner o n v : Nat) : State :=
  (((s.past m).updCw fun w => { w with nextId := w.nextId + 1 })).updBlock owner fun b => { b with stash := Memory.write b.stash o n v }

/-! ## Events -/

/-- The state after a request of the ring was answered (R329): the status in its entry, REQCONS one further, the interrupt sent. -/
def State.answered (s t : State) (status : Nat) : State :=
  let u := (t.physWrite (s.dev.reqAddr + 4) (leBytes 4 status)).wakeFutures
  { u with dev := { u.dev with reqCons := u.dev.reqCons + 1 }, outbox := u.outbox ++ [.pfMsix 0] }

/-- The next request of the ring has a code and names a VI; its 64 bytes. -/
def State.asks (s : State) (code vi : Nat) (l : List Byte) : Prop :=
  s.nextRequest = some l ∧ field l 0 2 = code ∧ field l 2 2 = vi ∧ vi < 64

/-! ## What is not changed -/

/-- Two states agree in everything but the waves. -/
structure SameOutside (s t : State) : Prop where
  blocks : t.blocks = s.blocks
  cores : t.cores = s.cores
  ctlb : t.ctlb = s.ctlb
  parts : t.parts = s.parts
  vis : t.vis = s.vis
  packets : t.packets = s.packets
  mem : t.mem = s.mem
  capDev : t.capDev = s.capDev
  atRest : t.atRest = s.atRest
  counted : t.counted = s.counted
  l2 : t.l2 = s.l2
  spent : t.spent = s.spent
  sysmem : t.sysmem = s.sysmem
  inFlight : t.inFlight = s.inFlight
  bad : t.bad = s.bad
  dev : t.dev = s.dev
  outbox : t.outbox = s.outbox

/-- Every byte of physical memory reads as before. -/
def SameMemory (s t : State) : Prop := ∀ a, Memory.byte t.mem a = Memory.byte s.mem a

/-- The words that only registers and their strand take part in: classes 0 to 2, the scalar words without an access, the branches, the
hints, and the words that are no instruction. -/
def registerOnly : Instr → Bool
  | .vadd .. | .vsub .. | .vmul .. | .vfma .. | .vfnma .. | .vmin .. | .vmax .. | .vcpsgn .. | .vscale .. | .vabsd ..
  | .viadd .. | .visub .. | .vimul .. | .vimad .. | .vimulhs .. | .vimulhn .. | .vimins .. | .viminn .. | .vimaxs ..
  | .vimaxn .. | .viaddss .. | .viaddsn .. | .vshl .. | .vshr .. | .vsra .. | .visubss .. | .vand .. | .vor .. | .vxor ..
  | .vandn .. | .vbfes .. | .vbfen .. | .vbfi .. | .vpopc .. | .vclz .. | .vpermb .. | .vmov .. | .vsel .. | .vcvt .. | .vqnt ..
  | .vdq .. | .vbscale .. | .vrcp .. | .vrsq .. | .vsqrt .. | .vex2 .. | .vlg2 .. | .vsin .. | .vcos .. | .vtanh .. | .vlane ..
  | .vshfl .. | .vbcast .. | .vscan .. | .vreds .. | .vrdl .. | .vwrl .. | .vrdi .. | .vwri .. | .vcmpEqF64 .. | .vcmpNeF64 ..
  | .vcmpLtF64 .. | .vcmpLeF64 .. | .vcmpGtF64 .. | .vcmpGeF64 .. | .vclassF32 .. | .vcmpF32 .. | .vcmpS32 .. | .vcmpN32 ..
  | .sadd .. | .ssub .. | .smul .. | .smulhs .. | .smulhn .. | .sand .. | .sor .. | .sxor .. | .sandn .. | .sshl .. | .sshr ..
  | .ssra .. | .smins .. | .sminn .. | .smaxs .. | .smaxn .. | .sslt .. | .ssltn .. | .sseq .. | .ssne .. | .ssle .. | .sslen ..
  | .smov .. | .scmov .. | .sadd64 .. | .ssub64 .. | .sshl64 .. | .sshr64 .. | .spopc .. | .sclz .. | .sbfen .. | .smulw ..
  | .kand .. | .kor .. | .kxor .. | .kandn .. | .kmov .. | .kpopc .. | .kffs .. | .klane .. | .sget .. | .br .. | .brany ..
  | .brall .. | .brnone .. | .brnz .. | .brz .. | .call .. | .jmpr .. | .nop .. | .xmod .. | .limm .. | .limmh .. | .limml ..
  | .limmf .. | .cntrd .. | .sched .. | .vidivS32 .. | .emulation .. | .illegalWord .. => true
  | _ => false

/-! ## The run -/

/-- The canonical form of everything that is held as a map of bytes: physical memory and the capacity devices. -/
def State.Canonical (s : State) : Prop := Memory.wf s.mem = true ∧ Memory.wf s.capDev = true

/-- A step that answers a next state, which every step does: the machine takes every cause of R300 as a next state. -/
def State.Goes (s : State) : Prop := ∃ t, step s = .next t

end Sys2Proof.Machine
end

