-- ==== Sys2Proof/Certificates/Slice0/Obligations.lean ====
section
/-! DEFINITION. The statements for the provers. -/

open Sys2Proof Sys2Proof.Machine

/-! ## Results of class 0 to 2 words -/

/-- R135, R136, R139, R140: each class 0 word completes, and its result holds, for every lane of EXM, its element operation on a, b and the
addend, the flags of all lanes, and its meter. -/
def Obligations.VectorFloatResults : Prop :=
  ∀ (m : Bool) (ty : FTy) (d a : VReg) (b : Code) (s : State),
    let gives (i : Instr) (fused : Bool) (f : FloatFn) :=
      s.FloatIssues i ty d a b → exec i s = .next (s.wrote i m (s.floatResult ty d a b fused f))
    gives (.vadd m ty d a b) false (fun F md x y _ => F.add md x y) ∧
    gives (.vsub m ty d a b) false (fun F md x y _ => F.sub md x y) ∧
    gives (.vmul m ty d a b) false (fun F md x y _ => F.mul md x y) ∧
    gives (.vfma m ty d a b) true (fun F md x y z => F.fma md false x y z) ∧
    gives (.vfnma m ty d a b) true (fun F md x y z => F.fma md true x y z) ∧
    gives (.vmin m ty d a b) false (fun F md x y _ => F.minMax md false x y) ∧
    gives (.vmax m ty d a b) false (fun F md x y _ => F.minMax md true x y) ∧
    gives (.vcpsgn m ty d a b) false (fun F _ x y _ => F.copySign x y) ∧
    gives (.vscale m ty d a b) false (fun F md x y _ => F.scale md x y) ∧
    gives (.vabsd m ty d a b) false (fun F md x y _ => F.absDiff md x y)

/-- R79, R142: each class 1 word but the shifts completes, and every element of every lane of EXM takes its operation: sums, differences
and products wrap, the high products take the high half, minima and maxima compare signed or unsigned, SatS and SatN clamp. -/
def Obligations.VectorIntResults : Prop :=
  ∀ (m : Bool) (ty : ITy) (d a : VReg) (b : Code) (s : State),
    let gives (i : Instr) (fused : Bool) (f : IntFn) :=
      s.IntIssues i ty d a b → exec i s = .next (s.wrote i m (s.intResult ty d a b fused f))
    gives (.viadd m ty d a b) false (fun _ x y _ => x + y) ∧
    gives (.visub m ty d a b) false (fun n x y _ => x + 2 ^ n - y) ∧
    gives (.vimul m ty d a b) false (fun _ x y _ => x * y) ∧
    gives (.vimad m ty d a b) true (fun _ x y z => x * y + z) ∧
    gives (.vimulhs m ty d a b) false (fun n x y _ => toBits n (sgnOf n x * sgnOf n y / 2 ^ n)) ∧
    gives (.vimulhn m ty d a b) false (fun n x y _ => x * y / 2 ^ n) ∧
    gives (.vimins m ty d a b) false (fun n x y _ => if sgnOf n x ≤ sgnOf n y then x else y) ∧
    gives (.viminn m ty d a b) false (fun _ x y _ => min x y) ∧
    gives (.vimaxs m ty d a b) false (fun n x y _ => if sgnOf n x ≤ sgnOf n y then y else x) ∧
    gives (.vimaxn m ty d a b) false (fun _ x y _ => max x y) ∧
    gives (.viaddss m ty d a b) false (fun n x y _ => satS n (sgnOf n x + sgnOf n y)) ∧
    gives (.viaddsn m ty d a b) false (fun n x y _ => satN n ((x : Int) + y)) ∧
    gives (.visubss m ty d a b) false (fun n x y _ => satS n (sgnOf n x - sgnOf n y))

/-- R80, R142: each shift of class 1 completes; a vector amount gives every element its own, any other amount is one 32-bit value for all of
them; an amount of the width or more gives 0, or the sign in every bit for VSRA. -/
def Obligations.VectorShifts : Prop :=
  ∀ (m : Bool) (ty : ITy) (d a : VReg) (b : Code) (s : State),
    let gives (i : Instr) (f : Nat → Nat → Nat → Nat) :=
      s.ShiftIssues i ty d a b → exec i s = .next (s.wrote i m (s.shiftResult ty d a b f))
    gives (.vshl m ty d a b) (fun n x k => if n ≤ k then 0 else x * 2 ^ k % 2 ^ n) ∧
    gives (.vshr m ty d a b) (fun n x k => if n ≤ k then 0 else x / 2 ^ k) ∧
    gives (.vsra m ty d a b) (fun n x k => toBits n (sgnOf n x / 2 ^ (min k n)))

/-- R143 to R145, R151: each word of bits, moves and lane operations of class 2 with a vector destination completes, with its value in every
lane of EXM.  R26, R143: VSEL writes every lane of AM, from a where the mask of its XMOD (k0 without one) holds the lane and from b
elsewhere. -/
def Obligations.BitWordsAndSelect : Prop :=
  (∀ (m : Bool) (d a : VReg) (b : Code) (s : State),
     let x (l : Nat) := (s.cw.vreg a.toNat l).toNat;
     let old (l : Nat) := (s.cw.vreg d.toNat l).toNat;
     let gives (i : Instr) (srcs : List VReg) (k : Kind) (c : Option Code) (f : Nat → Nat) :=
       s.MiscIssues i d srcs k c → exec i s = .next (s.wrote i m (s.laneResult d f));
     gives (.vand m d a b) [a] .raw (some b) (fun l => x l &&& s.operand .raw b l) ∧
     gives (.vor m d a b) [a] .raw (some b) (fun l => x l ||| s.operand .raw b l) ∧
     gives (.vxor m d a b) [a] .raw (some b) (fun l => x l ^^^ s.operand .raw b l) ∧
     gives (.vandn m d a b) [a] .raw (some b) (fun l => x l &&& (s.operand .raw b l ^^^ 0xFFFFFFFF)) ∧
     gives (.vbfes m d a b) [a] .i32 (some b) (fun l => bitFieldS (x l) (s.operand .i32 b l)) ∧
     gives (.vbfen m d a b) [a] .i32 (some b)
       (fun l => x l / 2 ^ (s.operand .i32 b l % 32) % 2 ^ (s.operand .i32 b l / 256 % 32)) ∧
     gives (.vbfi m d a b) [a] .i32 (some b) (fun l => bitInsert (old l) (x l) (s.operand .i32 b l)) ∧
     gives (.vpermb m d a b) [a] .i32 (some b) (fun l => permBytes (old l) (x l) (s.operand .i32 b l)) ∧
     gives (.vpopc m d b) [] .i32 (some b) (fun l => popCount (s.operand .i32 b l) 32) ∧
     gives (.vclz m d b) [] .i32 (some b) (fun l => 32 - bitLen (s.operand .i32 b l)) ∧
     gives (.vmov m d b) [] .raw (some b) (fun l => s.operand .raw b l) ∧
     gives (.vlane m d) [] .i32 none (fun l => l) ∧
     gives (.vshfl m d a b) [a] .i32 (some b) (fun l => x (s.operand .i32 b l % 96)) ∧
     gives (.vbcast m d a b) [a] .i32 (some b) (fun l => if s.operand .i32 b l < 96 then x (s.operand .i32 b l) else 0)) ∧
  (∀ (m : Bool) (d a : VReg) (b : Code) (s : State),
     let k := match s.cs.xmod with
       | some x => if x.k.toNat ≤ 20 then x.k.toNat else 0
       | none => 0;
     s.Issues (.vsel m d a b) (s.vdest d.toNat 1 ++ [s.cw.vrange a.toNat] ++ s.cw.codeRange .raw b) (codeRegs .raw b ++ kregs k) [] →
     exec (.vsel m d a b) s = .next (s.wrote (.vsel m d a b) m
       { strand := 0
         vec := (lanesOf (s.cs.am &&& s.cs.replayMask)).map fun l =>
           (vkey d.toNat l, BitVec.ofNat 32
             (if (s.cw.ktriple s.cur.2.2 k).getLsbD l then (s.cw.vreg a.toNat l).toNat else s.operand .raw b l)) }))

/-- R146 to R149: each conversion completes; VQNT writes one slot and keeps the others, VDQ reads one slot. -/
def Obligations.Conversions : Prop :=
  ∀ (m : Bool) (d a : VReg) (s : State),
    let gives (i : Instr) (sw dw : Bool) (f : Nat → Nat → FRes) :=
      s.CvtIssues i d a sw dw → exec i s = .next (s.wrote i m (s.cvtResult d a sw dw f))
    (∀ pair rnd sel, gives (.vcvt m d a pair rnd sel) (cvtSrcWide pair) (cvtDstWide pair) (cvtLane pair sel.toNat (s.modeCvt rnd))) ∧
    (∀ fmt sat slot, gives (.vqnt m d a fmt sat slot) false false fun x old =>
      let r := nEncode fmt sat (Fmt.f32.unpack x)
      let sh := 2 ^ (nWidth fmt * BitVec.toNat slot)
      ⟨old - old / sh % 2 ^ nWidth fmt * sh + r.bits * sh, r.fl⟩) ∧
    (∀ fmt slot, gives (.vdq m d a fmt slot) false false fun x _ =>
      ⟨(Fmt.f32.roundVal .rne (nDecode fmt (x / 2 ^ (nWidth fmt * BitVec.toNat slot) % 2 ^ nWidth fmt))).bits, 0⟩) ∧
    (∀ fmt, gives (.vbscale m d a fmt) false false fun x _ => ⟨blockScale (Fmt.f32.unpack x) fmt, 0⟩)

/-- R92, R93, R150: each function word completes, with its function of b in every lane of EXM, its flags and its meter.  How the functions
round beyond the bounds of R93 is the model's choice (log entry 20). -/
def Obligations.SpecialFunctions : Prop :=
  ∀ (m : Bool) (d : VReg) (b : Code) (s : State),
    let gives (i : Instr) (f : FVal → FRes) := s.SfuIssues i d b → exec i s = .next (s.wrote i m (s.sfuResult d b f))
    gives (.vrcp m d b) sfuRcp ∧ gives (.vrsq m d b) sfuRsq ∧ gives (.vsqrt m d b) sfuSqrt ∧ gives (.vex2 m d b) sfuEx2 ∧
    gives (.vlg2 m d b) sfuLg2 ∧ gives (.vsin m d b) sfuSin ∧ gives (.vcos m d b) sfuCos ∧ gives (.vtanh m d b) sfuTanh

/-- R35, R152: VSCAN writes an inclusive scan of each segment of AM's lanes in ascending order; VREDS writes the last value of the one scan
without heads, or the identity when AM is empty. -/
def Obligations.ScansAndReductions : Prop :=
  ∀ (m : Bool) (op : RedOp) (b : Code) (s : State),
    let heads : Lanes := match s.cs.xmod with
      | some x => if x.k.toNat ≤ 20 then s.cw.ktriple s.cur.2.2 x.k.toNat else 0
      | none => 0
    let scan (h : Lanes) := scanFrom op s.modeNearest (s.cs.am &&& s.cs.replayMask) h (s.operand op.kind b) 96 0 none
    (∀ d : VReg, s.Issues (.vscan m d op b) (s.vdest d.toNat 1 ++ s.cw.codeRange op.kind b) (codeRegs op.kind b ++ s.xmodRegs) [] →
      exec (.vscan m d op b) s = .next (s.wrote (.vscan m d op b) m
        { strand := 0
          vec := (scan heads).map fun p => (vkey d.toNat p.1, BitVec.ofNat 32 p.2.bits)
          flags := orFlags ((scan heads).map fun p => p.2.fl)
          meters := redMeter op (scan heads).length })) ∧
    (∀ d : SReg, s.Issues (.vreds m d op b) (s.sdest d.toNat 1 ++ s.cw.codeRange op.kind b) (codeRegs op.kind b ++ s.xmodRegs) [] →
      exec (.vreds m d op b) s = .next (s.wrote (.vreds m d op b) m
        { strand := 0
          sca := if d = 63 then [] else
            [(d.toNat, BitVec.ofNat 32 (match (scan 0).getLast? with | some p => p.2.bits | none => redIdentity op))]
          flags := orFlags ((scan 0).map fun p => p.2.fl)
          meters := redMeter op (scan 0).length }))

/-- R153, R154: VRDL reads the lane that b gives the lowest lane of AM, and 0 from 96 on; VWRL writes its one lane if EXM holds it, or zeroes
it; VRDI and VWRI name their register by a scalar, which must be below the budget. -/
def Obligations.IndexedLanes : Prop :=
  ∀ (m : Bool) (s : State),
    (∀ (d : SReg) (a : VReg) (b : Code),
      let j := s.operand .i32 b ((lanesOf s.cs.am).headD 0)
      s.Issues (.vrdl m d a b) (s.sdest d.toNat 1 ++ [s.cw.vrange a.toNat] ++ s.cw.codeRange .i32 b) (codeRegs .i32 b ++ s.xmodRegs) [] →
      exec (.vrdl m d a b) s = .next (s.wroteS (.vrdl m d a b) m d (if j < 96 then s.cw.vreg a.toNat j else 0))) ∧
    (∀ (d : VReg) (lane : BitVec 7) (b : Code),
      let key := vkey d.toNat lane.toNat
      s.Issues (.vwrl m d lane b) (s.vdest d.toNat 1 ++ s.cw.codeRange .raw b) (codeRegs .raw b ++ s.xmodRegs) [] →
      exec (.vwrl m d lane b) s = .next (s.wrote (.vwrl m d lane b) m
        { strand := 0
          vec := if s.exm.getLsbD lane.toNat then [(key, BitVec.ofNat 32 (s.operand .raw b lane.toNat))]
            else if s.zeroLanes.getLsbD lane.toNat then [(key, 0)] else [] })) ∧
    (∀ (d : VReg) (n : SReg),
      s.Issues (.vrdi m d n) [s.cw.vrange d.toNat] (n.toNat :: s.xmodRegs) (s.cw.vrange (s.sa n).toNat :: s.vdest d.toNat 1) →
      exec (.vrdi m d n) s = .next (s.wrote (.vrdi m d n) m (s.laneResult d fun l => (s.cw.vreg (s.sa n).toNat l).toNat))) ∧
    (∀ (n : SReg) (a : VReg),
      s.Issues (.vwri m n a) [s.cw.vrange a.toNat] (n.toNat :: s.xmodRegs) (s.vdest (s.sa n).toNat 1) →
      exec (.vwri m n a) s = .next (s.wrote (.vwri m n a) m
        { strand := 0, vec := (lanesOf s.exm).map fun l => (vkey (s.sa n).toNat l, s.cw.vreg a.toNat l) }))

/-- R155, R156: each compare and the class test complete: the bits of the lanes of EXM, 0 where z zeroes, the flags of the float compares. -/
def Obligations.Compares : Prop :=
  ∀ (m : Bool) (k : KReg) (a : VReg) (b : Code) (s : State),
    let gives (i : Instr) (kd : Kind) (f : Nat → Nat → Bool × BitVec 5) :=
      s.CmpIssues i k a b kd → exec i s = .next (s.wrote i m (s.cmpResult k a b kd f))
    gives (.vcmpEqF64 m k a b) .f64 (floatCond Fmt.f64 s.cw.ftz .eq) ∧
    gives (.vcmpNeF64 m k a b) .f64 (floatCond Fmt.f64 s.cw.ftz .ne) ∧
    gives (.vcmpLtF64 m k a b) .f64 (floatCond Fmt.f64 s.cw.ftz .lt) ∧
    gives (.vcmpLeF64 m k a b) .f64 (floatCond Fmt.f64 s.cw.ftz .le) ∧
    gives (.vcmpGtF64 m k a b) .f64 (floatCond Fmt.f64 s.cw.ftz .gt) ∧
    gives (.vcmpGeF64 m k a b) .f64 (floatCond Fmt.f64 s.cw.ftz .ge) ∧
    (∀ c, gives (.vcmpF32 m c k a b) .f32 (floatCond Fmt.f32 s.cw.ftz c)) ∧
    (∀ c, gives (.vcmpS32 m c k a b) .i32 fun x y => (match c with
      | .eq => x = y | .ne => x ≠ y | .lt => sgnOf 32 x < sgnOf 32 y | .le => sgnOf 32 x ≤ sgnOf 32 y
      | .gt => sgnOf 32 y < sgnOf 32 x | .ge => sgnOf 32 y ≤ sgnOf 32 x, 0)) ∧
    (∀ c, gives (.vcmpN32 m c k a b) .i32 fun x y => (match c with
      | .eq => x = y | .ne => x ≠ y | .lt => x < y | .le => x ≤ y | .gt => y < x | .ge => y ≤ x, 0)) ∧
    gives (.vclassF32 m k a b) .i32 (fun x y => (y.testBit (classOfF32 x), 0))

/-! ## Results of class 4 words -/

/-- R110, R111: each class 4 word with a one-word result completes, and writes sd the result of the rule on s[sa] and b; zr discards it. -/
def Obligations.ScalarWords : Prop :=
  ∀ (m : Bool) (d a : SReg) (b : SOp) (s : State),
    let x := s.sa a
    let y := s.sop b
    let gives (i : Instr) (r : Word) := s.ScalIssues i d a b → exec i s = .next (s.wroteS i m d r)
    gives (.sadd m d a b) (x + y) ∧ gives (.ssub m d a b) (x - y) ∧ gives (.smul m d a b) (x * y) ∧
    gives (.smulhs m d a b) (BitVec.ofInt 32 (x.toInt * y.toInt / 2 ^ 32)) ∧
    gives (.smulhn m d a b) (BitVec.ofNat 32 (x.toNat * y.toNat / 2 ^ 32)) ∧
    gives (.sand m d a b) (x &&& y) ∧ gives (.sor m d a b) (x ||| y) ∧ gives (.sxor m d a b) (x ^^^ y) ∧
    gives (.sandn m d a b) (x &&& ~~~y) ∧
    gives (.sshl m d a b) (x <<< y.toNat) ∧ gives (.sshr m d a b) (x >>> y.toNat) ∧ gives (.ssra m d a b) (x.sshiftRight y.toNat) ∧
    gives (.smins m d a b) (if x.toInt ≤ y.toInt then x else y) ∧ gives (.sminn m d a b) (if x.toNat ≤ y.toNat then x else y) ∧
    gives (.smaxs m d a b) (if x.toInt ≤ y.toInt then y else x) ∧ gives (.smaxn m d a b) (if x.toNat ≤ y.toNat then y else x) ∧
    gives (.sslt m d a b) (if x.slt y then 1 else 0) ∧ gives (.ssltn m d a b) (if x.ult y then 1 else 0) ∧
    gives (.sseq m d a b) (if x = y then 1 else 0) ∧ gives (.ssne m d a b) (if x = y then 0 else 1) ∧
    gives (.ssle m d a b) (if x.sle y then 1 else 0) ∧ gives (.sslen m d a b) (if x.ule y then 1 else 0) ∧
    gives (.sbfen m d a b) (BitVec.ofNat 32 ((x.toNat >>> (y.toNat % 32)) % 2 ^ ((y.toNat >>> 8) % 32)))

/-- R14, R109 to R111: SMOV writes b; SCMOV writes b when s[sa] is not 0 and has no destination otherwise; SPOPC counts the ones and SCLZ the
leading zeros of s[sa].  Each class 4 word whose result is a pair completes and writes the low word to sd and the high word to
s[sd + 1]. -/
def Obligations.ScalarMovesAndPairs : Prop :=
  (∀ (m : Bool) (d a : SReg) (b : SOp) (s : State),
     (s.Issues (.smov m d b) (s.sdest d.toNat 1) (sopRegs b) [] →
       exec (.smov m d b) s = .next (s.wroteS (.smov m d b) m d (s.sop b))) ∧
     (s.sa a ≠ 0 → s.Issues (.scmov m d a b) [] (a.toNat :: sopRegs b) (s.sdest d.toNat 1) →
       exec (.scmov m d a b) s = .next (s.wroteS (.scmov m d a b) m d (s.sop b))) ∧
     (s.sa a = 0 → s.Issues (.scmov m d a b) [] (a.toNat :: sopRegs b) [] → exec (.scmov m d a b) s = .next (s.past m)) ∧
     (s.Issues (.spopc m d a) (s.sdest d.toNat 1) [a.toNat] [] →
       exec (.spopc m d a) s = .next (s.wroteS (.spopc m d a) m d (BitVec.ofNat 32 ((List.range 32).countP (s.sa a).getLsbD)))) ∧
     (s.Issues (.sclz m d a) (s.sdest d.toNat 1) [a.toNat] [] →
       exec (.sclz m d a) s = .next (s.wroteS (.sclz m d a) m d (s.sa a).clz))) ∧
  (∀ (m : Bool) (d a : SReg) (b : SOp) (s : State),
     let gives (i : Instr) (reads : List Nat) (r : DWord) :=
       s.Issues i (s.sdest d.toNat 2) reads [] → exec i s = .next (s.wrotePair i m d r);
     gives (.sadd64 m d a b) (pairRegs a.toNat ++ sopRegs64 b) (s.sa64 a + s.sop64 b) ∧
     gives (.ssub64 m d a b) (pairRegs a.toNat ++ sopRegs64 b) (s.sa64 a - s.sop64 b) ∧
     gives (.sshl64 m d a b) (pairRegs a.toNat ++ sopRegs b) (s.sa64 a <<< (s.sop b).toNat) ∧
     gives (.sshr64 m d a b) (pairRegs a.toNat ++ sopRegs b) (s.sa64 a >>> (s.sop b).toNat) ∧
     gives (.smulw m d a b) (a.toNat :: sopRegs b) (BitVec.ofNat 64 ((s.sa a).toNat * (s.sop b).toNat)))

/-- R112: each word on mask triples completes: the Boolean operations, all zeros or all ones, the lanes from s[sa] up to b, the number of
lanes, and the lowest lane or all ones when there is none. -/
def Obligations.MaskWords : Prop :=
  ∀ (m : Bool) (s : State),
    let val (k : KReg) : Lanes := s.cw.ktriple s.cur.2.2 k.toNat
    let gives (i : Instr) (d : KReg) (reads : List Nat) (x : Lanes) :=
      s.Issues i (s.kdest d.toNat) reads [] → exec i s = .next (s.wroteK i m d x)
    (∀ d a b : KReg,
      gives (.kand m d a b) d (kregs a.toNat ++ kregs b.toNat) (val a &&& val b) ∧
      gives (.kor m d a b) d (kregs a.toNat ++ kregs b.toNat) (val a ||| val b) ∧
      gives (.kxor m d a b) d (kregs a.toNat ++ kregs b.toNat) (val a ^^^ val b) ∧
      gives (.kandn m d a b) d (kregs a.toNat ++ kregs b.toNat) (val a &&& ~~~val b)) ∧
    (∀ d : KReg, (∀ r : SReg, gives (.kmov m d (.reg r)) d (kregs r.toNat) (s.cw.ktriple s.cur.2.2 r.toNat)) ∧
      ∀ v : BitVec 9, gives (.kmov m d (.imm v)) d [] (if v = 0 then 0 else BitVec.allOnes 96)) ∧
    (∀ (d : KReg) (a : SReg) (b : SOp) (x : Lanes),
      (∀ l, l < 96 → x.getLsbD l = decide ((s.sa a).toNat ≤ l ∧ l < (s.sop b).toNat)) →
      gives (.klane m d a b) d (a.toNat :: sopRegs b) x) ∧
    (∀ (d : SReg) (a : KReg), s.Issues (.kpopc m d a) (s.sdest d.toNat 1) (kregs a.toNat) [] →
      exec (.kpopc m d a) s = .next (s.wroteS (.kpopc m d a) m d (BitVec.ofNat 32 ((List.range 96).countP (val a).getLsbD)))) ∧
    (∀ (d : SReg) (a : KReg), s.Issues (.kffs m d a) (s.sdest d.toNat 1) (kregs a.toNat) [] →
      exec (.kffs m d a) s = .next (s.wroteS (.kffs m d a) m d
        (match (List.range 96).find? (val a).getLsbD with | some l => BitVec.ofNat 32 l | none => 0xFFFFFFFF)))

/-! ## Memory words -/

/-- R157, R162 to R169, R210: each class 3 word issues one operation with an access for every lane of EXM, which enters the wave's queue; the
ordered loads, every store, the futures that order and the atomics take an entry of the strand store queue.  R167: an FGET that nothing
orders behind another operation, with a full cell of its own in a stash for every lane of EXM, goes on, with the values of the cells as its
outstanding result. -/
def Obligations.VectorMemoryWords : Prop :=
  ∀ (m : Bool) (t a : VReg) (b : BitVec 5) (s : State),
    let gives (i : Instr) (kind : MemKind) (ord : Ordq) (ssq : Bool) (static : List (Option Raise)) (data : Nat → BitVec 128)
        (cmp : Nat → Word) :=
      let op := s.vecOp kind ord a b data cmp
      let q := s.entryOf i (.mem op) s.exm ssq
      s.Queues i (static ++ [s.cw.vrange a.toNat]) (pairRegs (2 * b.toNat) ++ s.xmodRegs) (s.addrFaults op) q →
      exec i s = .next (s.did m fun u => s.parkFget i q (u.issueQ s.cur.1 s.cur.2.1 q))
    let load (i : Instr) (n : Nat) (sgn : Bool) (q : LdQ) :=
      gives i (.load n sgn t.toNat) (ldOrd q) (q = .acq ∨ q = .sc) (s.vdest t.toNat (max 1 (n / 4))) (fun _ => 0) (fun _ => 0)
    let store (i : Instr) (n : Nat) (q : StQ) :=
      gives i (.store n) (stOrd q) true (s.cw.vranges t.toNat (max 1 (n / 4))) (s.vdata t n) (fun _ => 0)
    (∀ q, load (.vldB32 m t a b q) 4 false q ∧ load (.vldB64 m t a b q) 8 false q ∧ load (.vldB128 m t a b q) 16 false q ∧
      load (.vldS8 m t a b q) 1 true q ∧ load (.vldN8 m t a b q) 1 false q ∧ load (.vldS16 m t a b q) 2 true q ∧
      load (.vldN16 m t a b q) 2 false q) ∧
    (∀ q, store (.vstB32 m t a b q) 4 q ∧ store (.vstB64 m t a b q) 8 q ∧ store (.vstB128 m t a b q) 16 q ∧
      store (.vstB8 m t a b q) 1 q ∧ store (.vstB16 m t a b q) 2 q) ∧
    (∀ l2, gives (.vpref m l2 a b) (.pref l2) .rlx false [] (fun _ => 0) (fun _ => 0)) ∧
    (∀ acq, gives (.fget m t a b acq) (.fget t.toNat) (if acq then .acq else .rlx) acq (s.vdest t.toNat 1) (fun _ => 0) (fun _ => 0)) ∧
    (∀ rel, gives (.fput m t a b rel) .fput (if rel then .rel else .rlx) true [s.cw.vrange t.toNat] (s.vdata t 4) (fun _ => 0)) ∧
    (∀ op q, gives (.vatom m op t a b q) (.atom op (some t.toNat)) (atOrd q) true
      (s.cw.vranges t.toNat (atomRegs op) ++ s.cs.pubVs t.toNat (atomSize op / 4)) (s.vdata t (atomSize op))
      (fun l => s.cw.vreg (t.toNat + 1) l)) ∧
    (∀ op q, gives (.vred m op t a b q) (.atom op none) (rdOrd q) true (s.cw.vranges t.toNat (atomRegs op)) (s.vdata t (atomSize op))
      (fun _ => 0)) ∧
    (∀ (acq : Bool) (cell : Nat → Nat × Nat), let i : Instr := .fget m t a b acq
      let op := s.vecOp (.fget t.toNat) (if acq then .acq else .rlx) a b (fun _ => 0) (fun _ => 0)
      let value (l : Nat) : Nat := Memory.read (s.block (cell l).1).stash (cell l).2 8
      s.Queues i (s.vdest t.toNat 1 ++ [s.cw.vrange a.toNat]) (pairRegs (2 * b.toNat) ++ s.xmodRegs) (s.addrFaults op)
        (s.entryOf i (.mem op) s.exm acq) → s.Unordered →
      (∀ l ∈ lanesOf s.exm, ∃ off, stashOff (s.vaddr a b l).toNat = some off ∧ s.stashAt s.cw.blk off 8 = some (cell l) ∧
        (s.block (cell l).1).winAt (cell l).2 = none ∧ (s.block (cell l).1).bad.contains ((cell l).2 / 128) = false ∧
        2 ^ 32 ≤ value l) →
      (∀ l ∈ lanesOf s.exm, ∀ k ∈ lanesOf s.exm, k ≠ l →
        (cell k).1 ≠ (cell l).1 ∨ (cell k).2 + 8 ≤ (cell l).2 ∨ (cell l).2 + 8 ≤ (cell k).2) →
      ∃ u, exec i s = .next u ∧ u.cs = s.cs.past m (s.cycle s.cw.part) ∧ SameRegs s.cw u.cw ∧ u.mem = s.mem ∧
        ∃ r : Result, u.cw.outs = insertOut r s.cw.outs ∧ r.strand = s.cur.2.2 ∧
          ∀ l ∈ lanesOf s.exm, (vkey t.toNat l, BitVec.ofNat 32 (value l)) ∈ r.vec)

/-- R113 to R115, R158, R210: each scalar access issues one operation in the order of the strand's whole membership; the stores and the atomics
take an entry of the strand store queue.  An access whose address is not a multiple of its size raises ALIGN with that address, before
any access is performed. -/
def Obligations.ScalarMemoryWords : Prop :=
  (∀ (m : Bool) (d a : SReg) (s : State),
     let gives (i : Instr) (op : MemOp) (ssq : Bool) (static : List (Option Raise)) (reads : List Nat) :=
       let q := s.entryOf i (.mem op) s.cs.memb ssq;
       s.Queues i static reads (s.addrFaults op) q → exec i s = .next (s.queued m q);
     let load (i : Instr) (n : Nat) (b : SOp) :=
       gives i (scaOp (.sload n d.toNat) (s.saddr a b n) 0 0) false (s.sdest d.toNat (n / 4)) (pairRegs a.toNat ++ sopRegs b);
     let atomic (i : Instr) (op : AtomOp) (b : SReg) (reads : List Nat) (old : Word) :=
       gives i (scaOp (.satom op d.toNat) (s.sa64 a) ((s.sa b).setWidth 128) old) true (s.sdest d.toNat 1)
         (reads ++ pairRegs a.toNat ++ [b.toNat]);
     (∀ b, load (.sldB32 m d a b) 4 b ∧ load (.sldB64 m d a b) 8 b ∧ load (.sldB128 m d a b) 16 b ∧
       gives (.sstB32 m d a b) (scaOp (.sstore 4) (s.saddr a b 4) ((s.sa d).setWidth 128) 0) true []
         (d.toNat :: pairRegs a.toNat ++ sopRegs b) ∧
       gives (.sstB64 m d a b) (scaOp (.sstore 8) (s.saddr a b 8) ((s.sa64 d).setWidth 128) 0) true []
         (pairRegs d.toNat ++ pairRegs a.toNat ++ sopRegs b)) ∧
     (∀ b, atomic (.satomAdd m d a b) .addI32 b [] 0 ∧ atomic (.satomCas m d a b) .casB32 b [d.toNat] (s.sa d) ∧
       atomic (.satomExch m d a b) .exchB32 b [] 0)) ∧
  (∀ (m : Bool) (d a : SReg) (b : SOp) (s : State),
     let raises (i : Instr) (n : Nat) (static : List (Option Raise)) (reads : List Nat) :=
       s.Issues i static reads [] → (s.saddr a b n).toNat % n ≠ 0 →
       exec i s = .next ((s.raised i ⟨.align, s.saddr a b n⟩).settle s.cur.1 s.cur.2.1);
     raises (.sldB32 m d a b) 4 (s.sdest d.toNat 1) (pairRegs a.toNat ++ sopRegs b) ∧
     raises (.sldB64 m d a b) 8 (s.sdest d.toNat 2) (pairRegs a.toNat ++ sopRegs b) ∧
     raises (.sldB128 m d a b) 16 (s.sdest d.toNat 4) (pairRegs a.toNat ++ sopRegs b) ∧
     raises (.sstB32 m d a b) 4 [] (d.toNat :: pairRegs a.toNat ++ sopRegs b) ∧
     raises (.sstB64 m d a b) 8 [] (pairRegs d.toNat ++ pairRegs a.toNat ++ sopRegs b)) ∧
  (∀ (m : Bool) (d a b : SReg) (s : State),
     let raises (i : Instr) (reads : List Nat) :=
       s.Issues i (s.sdest d.toNat 1) (reads ++ pairRegs a.toNat ++ [b.toNat]) [] → (s.sa64 a).toNat % 4 ≠ 0 →
       exec i s = .next ((s.raised i ⟨.align, s.sa64 a⟩).settle s.cur.1 s.cur.2.1);
     raises (.satomAdd m d a b) [] ∧ raises (.satomCas m d a b) [d.toNat] ∧ raises (.satomExch m d a b) [])

/-- R3, R113, R157, R165: SST.b32, SST.b64 and SLD.b32 at an aligned address of a stash, with nothing that orders them: a store writes its
bytes there at once and changes no other byte of a stash, no byte of memory and no register; the load completes with the four bytes there,
the lowest address in bits 7:0, as its outstanding result, and changes no byte.  R227: a store to a page of region RS whose translation is
known writes its bytes at the physical address at once, and, where no line leaves L2 for its own (R228), changes no other byte of memory, no
byte of a stash and no register; a load of a page whose translation is known completes with the four bytes at the physical address, of a line that no
cache but L2 and no window holds.  R312, R313: a page walk takes its five levels by the bits of the address, each entry valid, without a field that must be
zero, region 3 or a misaligned address, to a leaf of 1 GiB, 2 MiB or 64 KiB, and ends with TRANSLATE everywhere else; the translation names
the address of the page and the byte in it, and a missing permission raises PROTECT.  An entry that the walk cannot read counts as not valid by
the model's choice (log entry 78). -/
def Obligations.ScalarAccesses : Prop :=
  (∀ (m : Bool) (d a : SReg) (b : SOp) (s : State) (off owner o : Nat),
     let stores (i : Instr) (n : Nat) (v : BitVec 128) (reads : List Nat) :=
       let op := scaOp (.sstore n) (s.saddr a b n) v 0;
       s.Queues i [] reads (s.addrFaults op) (s.entryOf i (.mem op) s.cs.memb true) → s.Unordered →
       stashOff (s.saddr a b n).toNat = some off → s.stashAt s.cw.blk off n = some (owner, o) → (s.block owner).winAt o = none →
       let t := s.storedStash m owner o n v.toNat;
       exec i s = .next t ∧
       (∀ j, j < n → (Memory.byte (t.block owner).stash (o + j)).toNat = v.toNat / 256 ^ j % 256) ∧
       (∀ c, c < o ∨ o + n ≤ c → Memory.byte (t.block owner).stash c = Memory.byte (s.block owner).stash c) ∧
       (∀ k, k ≠ owner → t.block k = s.block k) ∧ t.mem = s.mem ∧ SameRegs s.cw t.cw;
     stores (.sstB32 m d a b) 4 ((s.sa d).setWidth 128) (d.toNat :: pairRegs a.toNat ++ sopRegs b) ∧
     stores (.sstB64 m d a b) 8 ((s.sa64 d).setWidth 128) (pairRegs d.toNat ++ pairRegs a.toNat ++ sopRegs b)) ∧
  (∀ (m : Bool) (d a : SReg) (b : SOp) (s : State) (off owner o : Nat),
     let i : Instr := .sldB32 m d a b;
     let op := scaOp (.sload 4 d.toNat) (s.saddr a b 4) 0 0;
     s.Queues i (s.sdest d.toNat 1) (pairRegs a.toNat ++ sopRegs b) (s.addrFaults op) (s.entryOf i (.mem op) s.cs.memb false) →
     s.Unordered → stashOff (s.saddr a b 4).toNat = some off → s.stashAt s.cw.blk off 4 = some (owner, o) →
     (s.block owner).winAt o = none → (s.block owner).bad.contains (o / 128) = false →
     let byte (j : Nat) := Memory.byte (s.block owner).stash (o + j);
     ∃ t, exec i s = .next t ∧
       t.cw.outs = insertOut { strand := s.cur.2.2, word := encode i, after := s.cs.pc + 4, seq := s.cs.issued + 1,
                               sca := if d = 63 then [] else [(d.toNat, byte 3 ++ byte 2 ++ byte 1 ++ byte 0)] } s.cw.outs ∧
       t.cs = s.cs.past m (s.cycle s.cw.part) ∧ SameRegs s.cw t.cw ∧ t.mem = s.mem ∧ t.blocks = s.blocks) ∧
  (∀ (m : Bool) (d a : SReg) (b : SOp) (s u : State) (x : Xlat),
     let stores (i : Instr) (n : Nat) (v : BitVec 128) (reads : List Nat) :=
       let op := scaOp (.sstore n) (s.saddr a b n) v 0;
       s.Queues i [] reads (s.addrFaults op) (s.entryOf i (.mem op) s.cs.memb true) → s.Unordered →
       let ways := SMap.get [] s.l2 (l2Key s.cw.part (s.part s.cw.part).size x.line);
       s.tlbReady s.cur.1 s.cw (.mem op) = true → s.missRoom (s.agentOf s.cur.1 s.cur.2.1 .normal) op = true →
       stashOff (s.saddr a b n).toNat = none → s.translate s.cur.1 s.cw.vi (s.saddr a b n).toNat .wr = .ok (x, u) → x.region = 1 →
       s.uncached x = false → (ways.length < 16 ∨ ∃ w ∈ ways, w.line = x.line ∧ w.spent = false) →
       ∃ t, exec i s = .next t ∧ (∀ j, j < n → (Memory.byte t.mem (x.pa + j)).toNat = v.toNat / 256 ^ j % 256) ∧
         (∀ c, c < x.pa ∨ x.pa + n ≤ c → Memory.byte t.mem c = Memory.byte s.mem c) ∧
         (∀ k, (t.block k).stash = (s.block k).stash) ∧ SameRegs s.cw t.cw;
     stores (.sstB32 m d a b) 4 ((s.sa d).setWidth 128) (d.toNat :: pairRegs a.toNat ++ sopRegs b) ∧
     stores (.sstB64 m d a b) 8 ((s.sa64 d).setWidth 128) (pairRegs d.toNat ++ pairRegs a.toNat ++ sopRegs b)) ∧
  (∀ (m : Bool) (d a : SReg) (b : SOp) (s : State) (x : Xlat),
     let i : Instr := .sldB32 m d a b;
     let op := scaOp (.sload 4 d.toNat) (s.saddr a b 4) 0 0;
     s.Queues i (s.sdest d.toNat 1) (pairRegs a.toNat ++ sopRegs b) (s.addrFaults op) (s.entryOf i (.mem op) s.cs.memb false) →
     s.Unordered → s.OnPage op (s.saddr a b 4) x →
     let byte (j : Nat) := Memory.byte s.mem (x.pa + j);
     ∃ t r, exec i s = .next t ∧ t.cw.outs = insertOut r s.cw.outs ∧ r.strand = s.cur.2.2 ∧ r.seq = s.cs.issued + 1 ∧ r.vec = [] ∧
       r.sca = (if d = 63 then [] else [(d.toNat, byte 3 ++ byte 2 ++ byte 1 ++ byte 0)]) ∧
       t.cs = s.cs.past m (s.cycle s.cw.part) ∧ SameRegs s.cw t.cw ∧ t.mem = s.mem ∧ ∀ k, (t.block k).stash = (s.block k).stash) ∧
  (∀ (vi va : Nat) (s : State),
     let addr (e : Nat) := e / 2 ^ 8 % 2 ^ 48 * 2 ^ 8;
     let rd (tbl lo bits : Nat) := s.tableEntry vi (tbl + 8 * (va / 2 ^ lo % 2 ^ bits));
     let e0 := rd (s.vi vi).root.toNat 48 9;
     let e1 := rd (addr e0) 39 9;
     let e2 := rd (addr e1) 30 9;
     let e3 := rd (addr e2) 21 9;
     let e4 := rd (addr e3) 16 5;
     let valid (e : Nat) := e % 2 = 1 ∧ e / 2 ^ 56 = 0 ∧ e / 4 % 2 = 0 ∧ e / 64 % 4 ≠ 3;
     let next (e size : Nat) := valid e ∧ e / 2 % 2 = 0 ∧ addr e % size = 0;
     let leaf (e k : Nat) := valid e ∧ e / 2 % 2 = 1 ∧ addr e % 2 ^ k = 0 ∧ (s.dev.target (addr e)).isSome = true;
     let found (e k : Nat) := next e0 4096 ∧ next e1 4096 ∧ (k = 30 ∧ e = e2 ∧ leaf e2 30 ∨
       next e2 4096 ∧ (k = 21 ∧ e = e3 ∧ leaf e3 21 ∨ next e3 256 ∧ k = 16 ∧ e = e4 ∧ leaf e4 16));
     (canonical va = true → ∀ e k, s.walk vi va = some (e, k) ↔ found e k) ∧ (canonical va = false → s.walk vi va = none) ∧
     (s.walk vi va = none → ∀ need, s.translateHome vi va need = .error ⟨.translate, BitVec.ofNat 64 va⟩) ∧
     (∀ e k t pa need, s.walk vi va = some (e, k) → s.dev.target (addr e + va % 2 ^ k) = some (t, pa) →
       let x : Xlat := ⟨va - va % 2 ^ k, k, e, t, pa⟩;
       s.physFault vi t pa = none → s.otherHbm vi x = false →
       let permitted := (need = .rd ∨ need = .both → e / 8 % 2 = 1) ∧ (need = .wr ∨ need = .both → e / 16 % 2 = 1) ∧
         (need = .fetch → e / 32 % 2 = 1);
       (permitted → s.translateHome vi va need = .ok x) ∧
       (¬permitted → s.translateHome vi va need = .error ⟨.protect, BitVec.ofNat 64 va⟩)))

/-- R3, R157, R160, R162 to R169: the vector accesses to bytes of a stash, with nothing that orders them: relaxed, .nt, or of a scope within
the block.  A load completes with each lane's bytes, the lowest address in bits 7:0, extended as its size says, as its outstanding result, and
changes no byte; a consuming one (.cn) of live lines also takes one from the count of every distinct line that it reads, and makes spent a
line whose count was 1.  Where no two lanes share a byte, VST writes each lane's register, FPUT its value with the full word above it, and
VATOM and VRED what their operation gives of the old value, and no other byte of a stash and no byte of memory changes; VATOM also returns
the old values.  R162, R165, R168, R169, R227: the access of the only lane of EXM to a page whose translation is known does the same with the
bytes of memory at the physical address, where no cache but L2 and no window holds the line: a load whatever the region, the others at once where it
is RS. -/
def Obligations.VectorAccesses : Prop :=
  ∀ (m : Bool) (t a : VReg) (b : BitVec 5) (s : State) (cell : Nat → Nat × Nat),
    let value (n l : Nat) : Nat := Memory.read (s.block (cell l).1).stash (cell l).2 n
    let near (ord : Ordq) := ord = .rlx ∨ ord = .nt ∨ s.scopeOf = .wv ∨ s.scopeOf = .blk
    let issues (i : Instr) (static : List (Option Raise)) (op : MemOp) (ssq : Bool) :=
      s.Queues i (static ++ [s.cw.vrange a.toNat]) (pairRegs (2 * b.toNat) ++ s.xmodRegs) (s.addrFaults op)
        (s.entryOf i (.mem op) s.exm ssq) ∧ s.Unordered
    let word (v j : Nat) : Word := BitVec.ofNat 32 (v / 2 ^ (32 * j))
    let count (u : State) (k j : Nat) : Count := SMap.get .none (u.block k).counts j
    let load (i : Instr) (n : Nat) (sgn : Bool) (q : LdQ) (ext : Nat → Nat → Word) :=
      let words := max 1 (n / 4)
      let op := s.vecOp (.load n sgn t.toNat) (ldOrd q) a b (fun _ => 0) (fun _ => 0)
      issues i (s.vdest t.toNat words) op (q = .acq ∨ q = .sc) →
      (∀ l x, lanesOf s.exm = [l] → s.OnPage op (s.vaddr a b l) x → q ≠ .cn → near (ldOrd q) →
        ∃ u, exec i s = .next u ∧ s.WentBy u m ∧ s.Returned u t.toNat words (fun _ j => ext (Memory.read s.mem x.pa n) j) ∧
          ∀ k, (u.block k).stash = (s.block k).stash) ∧
      (s.StashCells a b n cell →
      let gives (u : State) := exec i s = .next u ∧ s.WentBy u m ∧ s.Returned u t.toNat words fun l j => ext (value n l) j
      (q ≠ .cn → near (ldOrd q) → ∃ u, gives u ∧ u.blocks = s.blocks) ∧
      (q = .cn → (s.block s.cw.blk).peer ≠ some s.cw.blk →
        (∀ l ∈ lanesOf s.exm, ∃ k, count s (cell l).1 ((cell l).2 / 128) = .live k) →
        ∃ u, gives u ∧ (∀ k, (u.block k).stash = (s.block k).stash) ∧
          (∀ l ∈ lanesOf s.exm, ∀ k, count s (cell l).1 ((cell l).2 / 128) = .live k →
            count u (cell l).1 ((cell l).2 / 128) = if k ≤ 1 then .spent else .live (k - 1)) ∧
          (∀ k j, (∀ l ∈ lanesOf s.exm, (cell l).1 = k → (cell l).2 / 128 ≠ j) → count u k j = count s k j)))
    let store (i : Instr) (kind : MemKind) (ord : Ordq) (static : List (Option Raise)) (n : Nat) (data : Nat → BitVec 128)
        (cmp : Nat → Word) (new : Nat → Nat → Nat) (ret : State → (Nat → Nat) → Prop) :=
      let op := s.vecOp kind ord a b data cmp
      issues i static op true → near ord →
      (s.StashCells a b n cell → s.Apart n cell →
        ∃ u, exec i s = .next u ∧ s.WentBy u m ∧ s.Stored u n cell (fun l => new (value n l) l) ∧ ret u (value n)) ∧
      (∀ l x, lanesOf s.exm = [l] → s.OnPage op (s.vaddr a b l) x → x.region = 1 →
        let old := Memory.read s.mem x.pa n
        ∃ u, exec i s = .next u ∧ u.cs = s.cs.past m (s.cycle s.cw.part) ∧ SameRegs s.cw u.cw ∧ ret u (fun _ => old) ∧
          (∀ j, j < n → (Memory.byte u.mem (x.pa + j)).toNat = new old l / 256 ^ j % 256) ∧
          (∀ c, c < x.pa ∨ x.pa + n ≤ c → Memory.byte u.mem c = Memory.byte s.mem c) ∧ ∀ k, (u.block k).stash = (s.block k).stash)
    let nothing (_ : State) (_ : Nat → Nat) : Prop := True
    let new (op : AtomOp) (cmp : Nat → Nat) (old l : Nat) : Nat :=
      atomNew op old ((s.vdata t (atomSize op) l).toNat % 2 ^ (8 * atomSize op)) (cmp l)
    (∀ q, load (.vldB32 m t a b q) 4 false q word ∧ load (.vldB64 m t a b q) 8 false q word ∧ load (.vldB128 m t a b q) 16 false q word ∧
      load (.vldS8 m t a b q) 1 true q (fun v _ => (BitVec.ofNat 8 v).signExtend 32) ∧ load (.vldN8 m t a b q) 1 false q word ∧
      load (.vldS16 m t a b q) 2 true q (fun v _ => (BitVec.ofNat 16 v).signExtend 32) ∧ load (.vldN16 m t a b q) 2 false q word) ∧
    (∀ q, let st (i : Instr) (n : Nat) := store i (.store n) (stOrd q) (s.cw.vranges t.toNat (max 1 (n / 4))) n (s.vdata t n) (fun _ => 0)
            (fun _ l => (s.vdata t n l).toNat) nothing
      st (.vstB32 m t a b q) 4 ∧ st (.vstB64 m t a b q) 8 ∧ st (.vstB128 m t a b q) 16 ∧ st (.vstB8 m t a b q) 1 ∧ st (.vstB16 m t a b q) 2) ∧
    (∀ rel, store (.fput m t a b rel) .fput (if rel then .rel else .rlx) [s.cw.vrange t.toNat] 8 (s.vdata t 4) (fun _ => 0)
      (fun _ l => (s.cw.vreg t.toNat l).toNat + 2 ^ 32) nothing) ∧
    (∀ op q, store (.vatom m op t a b q) (.atom op (some t.toNat)) (atOrd q)
      (s.cw.vranges t.toNat (atomRegs op) ++ s.cs.pubVs t.toNat (atomSize op / 4)) (atomSize op) (s.vdata t (atomSize op))
      (fun l => s.cw.vreg (t.toNat + 1) l) (new op fun l => (s.cw.vreg (t.toNat + 1) l).toNat)
      (fun u old => s.Returned u t.toNat (atomSize op / 4) fun l j => word (old l) j)) ∧
    (∀ op q, store (.vred m op t a b q) (.atom op none) (rdOrd q) (s.cw.vranges t.toNat (atomRegs op)) (atomSize op) (s.vdata t (atomSize op))
      (fun _ => 0) (new op fun _ => 0) nothing)

/-! ## Special registers -/

/-- R18 to R21, R116: SGET writes the value of the named special register, each of the 30, and at index 26 latches the high word of CYCLE in
CYCLEHI; the trap-mode registers, 16 to 25, need the trap strand, which reads TSTRAND as its STRANDID (R306): in another strand SGET and
SSET of them raise PRIV.  SSET writes FMODE with an RM of 5, 6 or 7 stored as 0, clears in FSTAT and MSTAT the bits that are set in the source,
but those that an event has set in the same cycle, writes the halves of TPC, which the return then knows for written (R308), and changes no
other register. -/
def Obligations.SpecialRegisters : Prop :=
  (∀ (m : Bool) (d : SReg) (x : BitVec 9) (s : State),
     let i : Instr := .sget m d x;
     s.Issues i (s.trapOnly i x.toNat ++ s.sdest d.toNat 1) [] [] →
     exec i s = .next (if x = 26 then
         (s.wroteS i m d (BitVec.ofNat 32 (s.cycle s.cw.part))).updCw fun w =>
           { w with cycHi := BitVec.ofNat 32 (s.cycle s.cw.part / 2 ^ 32) }
       else s.wroteS i m d (s.special x.toNat)) ∧
     s.special 0 = BitVec.ofNat 32 s.cur.2.1 ∧ s.special 1 = s.cw.blockX ∧ s.special 2 = s.cw.blockY ∧ s.special 3 = s.cw.blockZ ∧
     s.special 4 = BitVec.ofNat 32 s.cw.waveInBlk ∧ s.special 5 = s.cw.nblocks ∧
     s.special 6 = BitVec.ofNat 32 (if s.cur.2.2 = 8 then s.cw.tstrand else s.cur.2.2) ∧ s.special 7 = BitVec.ofNat 32 s.cw.role ∧
     s.special 8 = s.cw.fmode.setWidth 32 ∧ s.special 9 = s.cw.fstat.setWidth 32 ∧ s.special 10 = s.cw.mstat.setWidth 32 ∧
     s.special 11 = BitVec.ofNat 32 s.cw.vbudget ∧ s.special 12 = BitVec.ofNat 32 s.cur.1 ∧ s.special 13 = BitVec.ofNat 32 (s.cur.1 / 40) ∧
     s.special 14 = BitVec.ofNat 32 s.cw.part ∧ s.special 15 = BitVec.ofNat 32 s.cw.duetRole ∧
     s.special 16 = BitVec.ofNat 32 s.cw.tcause ∧ s.special 17 = s.cw.tval.extractLsb' 0 32 ∧ s.special 18 = s.cw.tval.extractLsb' 32 32 ∧
     s.special 19 = s.cw.tpc.extractLsb' 0 32 ∧ s.special 20 = s.cw.tpc.extractLsb' 32 32 ∧ s.special 21 = BitVec.ofNat 32 s.cw.tskid ∧
     s.special 22 = s.cw.tlane.extractLsb' 0 32 ∧ s.special 23 = s.cw.tlane.extractLsb' 32 32 ∧
     s.special 24 = s.cw.tlane.extractLsb' 64 32 ∧ s.special 25 = BitVec.ofNat 32 s.cw.tstrand ∧
     s.special 27 = s.cw.cycHi ∧ s.special 28 = s.cw.barphase ∧ s.special 29 = s.cw.taskHeap) ∧
  (∀ (m : Bool) (a : SReg) (x : BitVec 9) (s : State),
     let i : Instr := .sset m a x;
     let v := s.sa a;
     let now := s.cycle s.cw.part;
     let t := (s.past m).updCw fun w => w.special now x.toNat v;
     s.Issues i (s.trapOnly i x.toNat) [a.toNat] [] →
     exec i s = .next t ∧
     t.cw.fmode = (if x = 8 then (if v.extractLsb' 0 3 < 5#3 then v.extractLsb' 0 9 else v.extractLsb' 3 6 ++ 0#3) else s.cw.fmode) ∧
     t.cw.fstat = (if x = 9 then (s.cw.fstat &&& ~~~(v.extractLsb' 0 5)) ||| (if s.cw.setAt = now then s.cw.setF else 0) else s.cw.fstat) ∧
     t.cw.mstat = (if x = 10 then (s.cw.mstat &&& ~~~(v.extractLsb' 0 5)) ||| (if s.cw.setAt = now then s.cw.setM else 0) else s.cw.mstat) ∧
     t.cw.tpc = (if x = 19 then s.cw.tpc.extractLsb' 32 32 ++ v else if x = 20 then v ++ s.cw.tpc.extractLsb' 0 32 else s.cw.tpc) ∧
     t.cw.tpcWritten = (s.cw.tpcWritten || x = 19 || x = 20) ∧
     t.cw.v = s.cw.v ∧ t.cw.s = s.cw.s ∧ t.cw.tokens = s.cw.tokens ∧ t.cw.tcause = s.cw.tcause ∧ t.cw.tval = s.cw.tval ∧
     t.cw.tskid = s.cw.tskid ∧ t.cw.tlane = s.cw.tlane ∧ t.cw.tstrand = s.cw.tstrand ∧ t.cw.cycHi = s.cw.cycHi ∧
     t.cw.barphase = s.cw.barphase ∧ t.cw.role = s.cw.role ∧ t.cw.vbudget = s.cw.vbudget ∧
     t.cw.outs = s.cw.outs ∧ SameOutside s t) ∧
  (∀ (m : Bool) (d : SReg) (x : BitVec 9) (s : State), 16 ≤ x.toNat → x.toNat ≤ 25 → s.cs.trap = false →
     let privileged (i : Instr) (static : List (Option Raise)) (reads : List Nat) := s.Issues i static reads [] →
       exec i s = .next ((s.raised i ⟨.priv, (encode i).setWidth 64⟩).settle s.cur.1 s.cur.2.1);
     privileged (.sget m d x) (s.sdest d.toNat 1) [] ∧
     ((x = 19 ∨ x = 20) → privileged (.sset m d x) [] [d.toNat]))

/-! ## Control -/

/-- R61, R117: each branch completes: the strand goes on at the branch's address plus four times the offset when the test holds, and at the
next word when not; CALL also writes the address of the next word to its pair; JMPR goes to the address in its pair.  The offset of a field of
23, of 18 or of 17 bits is its sign extension, or, after a LIMM, the sign-extended payload with the field below it. -/
def Obligations.Branches : Prop :=
  ∀ (m : Bool) (s : State),
    let st := s.cs
    let val (k : KReg) : Lanes := s.cw.ktriple s.cur.2.2 k.toNat
    let gives (i : Instr) (reads : List Nat) (pc : DWord) (taken : Bool) :=
      s.Issues i [] reads [] → exec i s = .next (s.jumped m (if taken then pc else st.pc + 4))
    (∀ off : BitVec 23, gives (.br m off) [] (s.target off) true) ∧
    (∀ (k : KReg) (off : BitVec 18),
      gives (.brany m k off) (kregs k.toNat) (s.target off) (val k &&& st.am ≠ 0) ∧
      gives (.brall m k off) (kregs k.toNat) (s.target off) (val k &&& st.am = st.am) ∧
      gives (.brnone m k off) (kregs k.toNat) (s.target off) (val k &&& st.am = 0)) ∧
    (∀ (r : SReg) (off : BitVec 17),
      gives (.brnz m r off) [r.toNat] (s.target off) (s.sa r ≠ 0) ∧ gives (.brz m r off) [r.toNat] (s.target off) (s.sa r = 0)) ∧
    (∀ (p : SReg) (off : BitVec 17), s.Issues (.call m p off) (s.sdest p.toNat 2) [] [] →
      exec (.call m p off) s = .next ((s.wrotePair (.call m p off) m p (st.pc + 4)).updCs fun u => { u with pc := s.target off })) ∧
    (∀ p : SReg, (s.sa64 p).toNat % 4 = 0 → gives (.jmpr m p) (pairRegs p.toNat) (s.sa64 p) true) ∧
    (∀ p : SReg, (s.sa64 p).toNat % 4 ≠ 0 → s.Issues (.jmpr m p) [] (pairRegs p.toNat) [] →
      exec (.jmpr m p) s = .next ((s.raised (.jmpr m p) ⟨.align, s.sa64 p⟩).settle s.cur.1 s.cur.2.1)) ∧
    (let goes (n : Nat) := ∀ off : BitVec n, (s.cs.wideVal = none → s.target off = st.pc + 4 * off.signExtend 64) ∧
       ∀ p, s.cs.wideVal = some (.limm p) → s.target off = st.pc + 4 * (p.signExtend 64 * 2 ^ n + off.setWidth 64)
     goes 23 ∧ goes 18 ∧ goes 17)

/-- R118, R119, R120, R208: SPLIT completes.  With two free slots and lanes on both sides it runs concurrently: the lowest free slot becomes
the continuation, the next one the arm of the true side at the next word, the issuing slot the arm of the false side; each arm holds exactly
its lanes, and the continuation keeps those of the strand that split, and its parent, whose arm record names the continuation's slot in place
of the strand's; with one empty side one free slot is enough, and the issuing slot becomes the arm of the other side; with both empty it is
free; else it runs its sides one after the other in the strand, down to a depth of 15.  R29: what earlier words of the strand have yet to
write to AM does not land over it.  R61: a LIMM extends both offsets. -/
def Obligations.SplitWords : Prop :=
  (∀ (m : Bool) (k : KReg) (offA offC : BitVec 9) (s : State),
     let i : Instr := .split m k offA offC;
     let n := s.cur.2.2;
     let st := s.cs;
     let t := st.am &&& s.cw.ktriple n k.toNat;
     let f := st.am &&& ~~~s.cw.ktriple n k.toNat;
     let pcA := st.pc + (s.splitOffsets offA offC).1 <<< 2;
     let pcC := st.pc + (s.splitOffsets offA offC).2 <<< 2;
     let now := s.cycle s.cw.part;
     let slots := s.cw.freeSlots now;
     let conc := st.stack = [] ∧ st.trap = false ∧ (if t ≠ 0 ∧ f ≠ 0 then 2 else 1) ≤ slots.length;
     (s.cs.wideVal = none → s.splitOffsets offA offC = (offA.signExtend 64, offC.signExtend 64)) ∧
     (∀ p, s.cs.wideVal = some (.limm p) → s.splitOffsets offA offC =
       ((p.extractLsb' 11 11).signExtend 64 * 2 ^ 9 + offA.setWidth 64, (p.extractLsb' 0 11).signExtend 64 * 2 ^ 9 + offC.setWidth 64)) ∧
     (s.Issues i [] (kregs k.toNat) [] →
       (conc → exec i s = .next (s.did m fun u =>
         ((s.setsAm u).updCw fun w => w.splitConcurrent n t f (st.pc + 4) pcA pcC now).traceRec s.cur.1 s.cur.2.1 4 n
           (BitVec.ofNat 32 (slots.headD 0 + if t ≠ 0 ∧ f ≠ 0 then 16 * (slots.drop 1).headD 0 else 0)) st.pc)) ∧
       (¬conc → st.stack.length ≤ 14 →
         exec i s = .next (s.did m fun u => (s.setsAm u).updCs fun x => x.splitSerial t f (st.pc + 4) pcA pcC)) ∧
       (¬conc → 14 < st.stack.length →
         exec i s = .next ((s.raised i ⟨.stranddepth, (encode i).setWidth 64⟩).settle s.cur.1 s.cur.2.1)))) ∧
  (∀ (s u : State), let w := (s.setsAm u).cw
     s.setsAm u = u.updCw (fun x => { x with shadow := w.shadow }) ∧
     ∀ r ∈ u.cw.outs, r.strand = s.cur.2.2 → r.seq ≤ s.cs.issued → ∀ j, j < 3 → 20060 + j ∈ r.keys → w.shadowed r (20060 + j) = true) ∧
  (∀ (w : Wave) (n : Nat) (t f : Lanes) (pcT pcA pcC : DWord) (cycle c : Nat) (rest : List Nat),
     let both := t ≠ 0 ∧ f ≠ 0;
     let a := rest.headD 0;
     n < 8 → (w.strand n).state = .ready → w.freeSlots cycle = c :: rest → (both → rest ≠ []) →
     let u := w.splitConcurrent n t f pcT pcA pcC cycle;
     let x := w.strand n;
     let holds (k : Nat) (kind : SlotKind) (pc : DWord) (lanes : Lanes) := (u.strand k).state = .ready ∧ (u.strand k).kind = kind ∧
       (u.strand k).pc = pc ∧ (u.strand k).am = lanes ∧ (u.strand k).memb = lanes ∧ (u.strand k).parent = some c;
     (u.strand c).state = .ready ∧ (u.strand c).kind = .cont ∧ (u.strand c).pc = pcC ∧ (u.strand c).am = x.am ∧
       (u.strand c).memb = x.memb ∧ (u.strand c).parent = x.parent ∧
       (u.strand c).armT = (if t = 0 then ⟨0, false, false, 0⟩ else ⟨if both then a else n, true, false, t⟩) ∧
       (u.strand c).armF = (if f = 0 then ⟨0, false, false, 0⟩ else ⟨n, true, false, f⟩) ∧
     (both → holds a .armT pcT t) ∧ (f ≠ 0 → holds n .armF pcA f) ∧ (f = 0 → t ≠ 0 → holds n .armT pcT t) ∧
     (f = 0 → t = 0 → (u.strand n).live = false) ∧
     (∀ p, x.parent = some p → p ≠ n → p ≠ c → (both → p ≠ a) →
       let y := w.strand p
       let names (r : Arm) := r.live = true ∧ r.ended = false ∧ r.slot = n
       (names y.armT → (u.strand p).armT = { y.armT with slot := c } ∧ (u.strand p).armF = y.armF) ∧
       (¬names y.armT → names y.armF → (u.strand p).armT = y.armT ∧ (u.strand p).armF = { y.armF with slot := c })) ∧
     u.v = w.v ∧ u.s = w.s ∧ (t ≠ 0 ∨ f ≠ 0 → u.outs = w.outs))

/-- R121 to R125, R133: ENDS, EXIT, PUB, JOIN, JOINS and JOINM complete: each waits for its condition, and in serial execution ENDS goes on
with the next entry of the stack, PUB does nothing, and JOIN and JOINS take their values at once.  R209: where its condition holds when it
issues, each goes on at once: ENDS and EXIT end the strand, PUB sets its bits, JOIN and JOINS have their result, JOINM has no effect.  That
the PUB of any strand waits on the publication condition, which R209 names for a continuation alone, is the model's choice (log entry 72),
and so is that ENDS ends a trap strand (log entry 15).  EXIT in a trap strand raises PRIV; JOIN and JOINS outside a continuation raise JOINCTX,
with the word as TVAL.  The end of a strand leaves its trace record as its ENDS or EXIT issues (R349; log entry 89). -/
def Obligations.StrandWords : Prop :=
  ∀ (m : Bool) (s : State),
    let gives (i : Instr) (static : List (Option Raise)) (reads : List Nat) (eff : State → State) :=
      s.Issues i static reads [] → exec i s = .next (s.did m eff)
    (s.cs.stack = [] → gives (.ends m) [] [] fun t => (s.endRec t).parkUntil .arms (.ends m)) ∧
    (∀ u, s.cs.endsSerial s.cs.stack = some u → s.Issues (.ends m) [] [] [] →
      exec (.ends m) s = .next ((s.setsAm (s.past m)).updCs fun st => { st with am := u.am, pc := u.pc, stack := u.stack })) ∧
    (s.cs.stack ≠ [] → s.cs.endsSerial s.cs.stack = none →
      gives (.ends m) [] [] fun t => ((s.endRec t).updCs fun st => { st with stack := [] }).parkUntil .arms (.ends m)) ∧
    (s.cs.trap = false → gives (.exit m) [] [] fun t => ((s.endRec t).updCs fun st => { st with stack := [] }).parkUntil .arms (.exit m)) ∧
    (∀ t, s.endRec t = if s.cs.noted = [] then t.traceRec s.cur.1 s.cur.2.1 5 s.cur.2.2 0 s.cs.pc else t) ∧
    (let raises (i : Instr) (c : Cause) (static : List (Option Raise)) (reads : List Nat) := s.Issues i static reads [] →
       exec i s = .next ((s.raised i ⟨c, (encode i).setWidth 64⟩).settle s.cur.1 s.cur.2.1)
     (s.cs.trap = true → raises (.exit m) .priv [] []) ∧
     (s.cs.joinCtx = true → (∀ d a b, raises (.join m d a b) .joinctx (s.vdest d.toNat 1 ++ [s.cw.vrange a.toNat, s.cw.vrange b.toNat]) []) ∧
       ∀ d a armF, raises (.joins m d a armF) .joinctx (s.sdest d.toNat 1) [a.toNat])) ∧
    (s.cs.joinCtx = true ↔ (s.cs.stack = [] ∧ s.cs.kind ≠ .cont) ∨ ∃ e t, s.cs.stack = e :: t ∧ e.state ≠ .cRunning) ∧
    (∀ v vc r sc, s.cs.stack = [] → gives (.pub m v vc r sc) (s.cw.vranges v.toNat vc.toNat) []
      fun t => t.parkUntil .publication (.pub m v vc r sc)) ∧
    (∀ v vc r sc, s.cs.stack ≠ [] → s.Issues (.pub m v vc r sc) (s.cw.vranges v.toNat vc.toNat) [] [] →
      exec (.pub m v vc r sc) s = .next (s.past m)) ∧
    (∀ d a b, s.cs.stack = [] → s.cs.kind = .cont →
      gives (.join m d a b) (s.vdest d.toNat 1 ++ [s.cw.vrange a.toNat, s.cw.vrange b.toNat]) []
        fun t => t.parkUntil .publication (.join m d a b)) ∧
    (∀ d a b, s.cs.stack ≠ [] → s.cs.joinCtx = false →
      s.Issues (.join m d a b) (s.vdest d.toNat 1 ++ [s.cw.vrange a.toNat, s.cw.vrange b.toNat]) [] [] →
      exec (.join m d a b) s = .next (s.wrote (.join m d a b) m { strand := 0, vec := s.cw.joinOut s.cur.2.2 d a b })) ∧
    (∀ d a armF, s.cs.stack = [] → s.cs.kind = .cont → gives (.joins m d a armF) (s.sdest d.toNat 1) [a.toNat]
      fun t => t.parkUntil .publication (.joins m d a armF)) ∧
    (∀ d a armF, s.cs.stack ≠ [] → s.cs.joinCtx = false → s.Issues (.joins m d a armF) (s.sdest d.toNat 1) [a.toNat] [] →
      exec (.joins m d a armF) s = .next (s.wroteS (.joins m d a armF) m d (s.sa a))) ∧
    gives (.joinm m) [] [] (fun t => t.parkUntil .predecessors (.joinm m)) ∧
    (s.Awake →
      let (core, slot, n) := s.cur
      let st := s.cs
      let goes (i : Instr) (p : Park) (static : List (Option Raise)) (reads : List Nat) (eff : State → State) :=
        s.Issues i static reads [] → exec i s = .next (s.wentOn m p i 0 eff)
      let out (i : Instr) (vec sca : List (Nat × Word)) (t : State) : State := t.updCw fun w => w.addOut
        { strand := n, vec := vec, sca := sca, word := encode i, after := st.pc + 4, am := st.am, seq := st.issued + 1 }
      let ends (i : Instr) (isExit : Bool) := s.Issues i [] [] [] → (st.kind = .cont → st.armT.done = true ∧ st.armF.done = true) →
        s.endReady core slot n isExit = true → st.noted = [] → (s.cw.lastStrand n = true → s.cw.matNotes = []) →
        let t := s.did m fun t =>
          (((t.traceRec core slot 5 n 0 st.pc).updCs fun st => { st with stack := [] }).parkOn .arms i).endStrand core slot n
        exec i s = .next t ∧ (t.cw.strand n).state = .ended
      ((st.stack = [] ∨ st.endsSerial st.stack = none) → ends (.ends m) false) ∧
      (st.trap = false → ends (.exit m) true) ∧
      (∀ v vc r sc, st.stack = [] → s.advance.pubReady core slot n (pubMaskV v vc) (pubMaskS r sc) = true →
        goes (.pub m v vc r sc) .publication (s.cw.vranges v.toNat vc.toNat) [] fun t =>
          t.updCs fun st => { st with pubV := st.pubV ||| pubMaskV v vc, pubS := st.pubS ||| pubMaskS r sc }) ∧
      (∀ d a b, st.stack = [] → st.kind = .cont → s.cw.joinReady n a b = true →
        goes (.join m d a b) .publication (s.vdest d.toNat 1 ++ [s.cw.vrange a.toNat, s.cw.vrange b.toNat]) []
          (out (.join m d a b) (s.cw.joinOut n d a b) [])) ∧
      (∀ d a armF, st.stack = [] → st.kind = .cont →
        s.cw.armHas (if armF then st.armF else st.armT) 0 (1#64 <<< a.toNat) = true →
        goes (.joins m d a armF) .publication (s.sdest d.toNat 1) [a.toNat]
          (out (.joins m d a armF) [] (if d = 63 then [] else [(d.toNat, s.sa a)]))) ∧
      (s.cw.predecessorsDone n = true → goes (.joinm m) .predecessors [] [] id))

/-- R34, R126: each barrier word completes for a wave's only live strand at a barrier that the block has: an arrival of the wave, with the
adjustment of BAR.d and BAR.j; BAR.a writes the arrival phase; BAR.w and BARWP wait for a phase.  An arrival counts once and adds its
adjustment to the pending one; the arrival that reaches the expected count flips the barrier: the phase grows by one, the count restarts,
and the expected count takes the pending adjustment, kept within 0 and its bound; an arrival in the cycle of a flip adds its adjustment to
those of that flip, which are kept within the bound together.  BARWP goes on at once where the phase has passed (R209); BAR.w waits, also where
its own arrival flips the barrier: what arrives in the cycle of a flip belongs to the old phase, so that the new one shows from the next cycle
on (R34). -/
def Obligations.BarrierWords : Prop :=
  (∀ (m : Bool) (id : BitVec 5) (s : State),
     (s.block s.cw.blk).hasBarrier id.toNat = true → s.cs.trap = false → (∀ n ∈ s.cw.liveSlots, n = s.cur.2.2) →
     let gives (i : Instr) (static : List (Option Raise)) (reads : List Nat) (eff : State → State) :=
       s.Issues i static reads [] → exec i s = .next (s.did m eff);
     let arrives (i : Instr) (adj : Int) (d : Option Nat) (t : State) : State := s.arriveHere i id.toNat adj d t;
     gives (.barW m id) [] [] (fun t => (arrives (.barW m id) 0 none t).parkUntil .barrier (.barW m id)
       (arrives (.barW m id) 0 none t).cw.barphase) ∧
     (∀ d, gives (.barA m id d) (s.sdest d.toNat 1) [] (arrives (.barA m id d) 0 (some d.toNat))) ∧
     gives (.barD m id) [] [] (arrives (.barD m id) (-1) none) ∧
     gives (.barJ m id) [] [] (arrives (.barJ m id) 1 none) ∧
     (∀ r, gives (.barwp m id r) [] [r.toNat] fun t => t.parkUntil .barrier (.barwp m id r) (s.sa r)) ∧
     (s.Awake →
       (∀ r, s.phasePassed s.cw.blk id.toNat (s.sa r) = true → s.Issues (.barwp m id r) [] [r.toNat] [] →
         exec (.barwp m id r) s = .next (s.wentOn m .barrier (.barwp m id r) (s.sa r) fun t => t)) ∧
       (let b := s.barrier s.cw.blk id.toNat;
        let i : Instr := .barW m id;
        let u := arrives i 0 none s.advance;
        s.cw.queue = [] → s.ringWaits s.cur.1 s.cur.2.1 s.cur.2.2 = false → b.flipAt ≠ some (s.cycle s.cw.part) → b.e ≤ b.a + 1 →
        (s.block s.cw.blk).part = s.cw.part → s.Issues i [] [] [] →
        u.cw.barphase = b.p ∧ (u.barrier s.cw.blk id.toNat).p = b.p + 1 ∧
        exec i s = .next (s.did m fun _ => u.parkOn .barrier i b.p)))) ∧
  (∀ (b : Barrier) (emax adj : Int) (cycle bit : Nat), b.flipAt ≠ some cycle →
     (b.arrive emax adj cycle bit).2.1 = b.p ∧
     (b.a + 1 < b.e → (b.arrive emax adj cycle bit).2.2 = false ∧
       (b.arrive emax adj cycle bit).1 = { b with a := b.a + 1, pending := b.pending + adj, arrived := b.arrived ||| (1#32 <<< bit) }) ∧
     (b.e ≤ b.a + 1 → (b.arrive emax adj cycle bit).2.2 = true ∧
       (b.arrive emax adj cycle bit).1 =
         { b with p := b.p + 1, a := 0, e := (max 0 (min emax ((b.e : Int) + (b.pending + adj)))).toNat, pending := 0, arrived := 0,
                  flips := b.flips + 1, flipAt := some cycle, baseE := b.e, adjs := b.pending + adj })) ∧
  (∀ (b : Barrier) (emax adj : Int) (cycle bit : Nat), b.flipAt = some cycle →
     b.arrive emax adj cycle bit = ({ b with e := (max 0 (min emax ((b.baseE : Int) + (b.adjs + adj)))).toNat, adjs := b.adjs + adj },
       b.p - 1, false))

/-- R127 to R129, R17: FENCE and QFENCE enter the wave's queue with the strand's membership as their lanes; TWAIT waits for a token register,
MWAIT for a batch, an open one counting as the one before it; each goes on at once where the token is not pending or the batch has completed
with nothing noted (R209). -/
def Obligations.FencesAndWaits : Prop :=
  ∀ (m : Bool) (s : State),
    let enters (i : Instr) (op : QOp) :=
      s.Queues i [] [] [] (s.entryOf i op s.cs.memb true) → exec i s = .next (s.queued m (s.entryOf i op s.cs.memb true))
    (∀ scope, enters (.fence m scope) (.fence scope)) ∧ (∀ mask, enters (.qfence m mask) (.qfence mask)) ∧
    (∀ r, s.Issues (.twait m r) [] [] [] → exec (.twait m r) s = .next (s.did m fun t => t.parkUntil .token (.twait m r))) ∧
    (∀ r, let b := s.block s.cw.blk
      s.Issues (.mwait m r) [] [r.toNat] [] →
      exec (.mwait m r) s = .next (s.did m fun t => t.parkUntil .batch (.mwait m r)
        (if 0 < (s.sa r - (b.batch - 1)).toInt then b.batch - 1 else s.sa r))) ∧
    (s.Awake →
      (∀ r, s.cw.isPending r.toNat = false → s.Issues (.twait m r) [] [] [] →
        exec (.twait m r) s = .next (s.wentOn m .token (.twait m r) 0 id)) ∧
      (∀ r, let b := s.block s.cw.blk
        let x := if 0 < (s.sa r - (b.batch - 1)).toInt then b.batch - 1 else s.sa r
        0 ≤ (b.batchDone - x).toInt → s.cw.coveredNotes x = [] → s.Issues (.mwait m r) [] [r.toNat] [] →
        exec (.mwait m r) s = .next (s.wentOn m .batch (.mwait m r) x id)))

/-- R130 to R132: RPOLL reports the budget in groups of 8, the role and whether it changed, and applies a pending change whose registers can be
had; VGIVE gives registers to the block's pool; VCLAIM waits until the registers can be had, and takes them at once where they can; a VGIVE that
would leave fewer than 8, and a VCLAIM that would pass 128, raise VREGRANGE with the number of registers as TVAL. -/
def Obligations.RolesAndBudgets : Prop :=
  ∀ (m : Bool) (s : State),
    let word (w : Wave) (c : Nat) : Word := BitVec.ofNat 32 (16 * (w.vbudget / 8) + 2 * w.role + c)
    (∀ d, s.cw.pendRole = none → s.Issues (.rpoll m d) (s.sdest d.toNat 1) [] [] →
      exec (.rpoll m d) s = .next (s.wroteS (.rpoll m d) m d (word s.cw 0))) ∧
    (∀ d role budget, s.cw.pendRole = some (role, budget) → s.roleReady s.cur.1 s.cur.2.1 budget = false →
      s.Issues (.rpoll m d) (s.sdest d.toNat 1) [] [] → exec (.rpoll m d) s = .next (s.wroteS (.rpoll m d) m d (word s.cw 0))) ∧
    (∀ d role budget, s.cw.pendRole = some (role, budget) → s.roleReady s.cur.1 s.cur.2.1 budget = true →
      s.Issues (.rpoll m d) (s.sdest d.toNat 1) [] [] →
      exec (.rpoll m d) s = .next (s.did m fun t =>
        let u := t.applyRole s.cur.1 s.cur.2.1 role budget
        s.result (.rpoll m d) { strand := 0, sca := if d = 63 then [] else [(d.toNat, word u.cw 1)] } u)) ∧
    (∀ n : BitVec 4, 8 * n.toNat + 8 ≤ s.cw.vbudget → s.Issues (.vgive m n) [] [] [] →
      exec (.vgive m n) s = .next (s.did m fun t => t.giveRegs s.cur.1 s.cur.2.1 (8 * n.toNat))) ∧
    (∀ n : BitVec 4, s.cw.vbudget + 8 * n.toNat ≤ 128 → s.Issues (.vclaim m n) [] [] [] →
      exec (.vclaim m n) s = .next (s.did m fun t => t.parkUntil .pool (.vclaim m n))) ∧
    (∀ n : BitVec 4, s.cw.vbudget + 8 * n.toNat ≤ 128 → s.Awake → s.regsReady s.cur.1 s.cur.2.1 (8 * n.toNat) = true →
      s.Issues (.vclaim m n) [] [] [] →
      exec (.vclaim m n) s = .next (s.wentOn m .pool (.vclaim m n) 0 fun t => t.takeRegs s.cur.1 s.cur.2.1 (8 * n.toNat))) ∧
    (∀ n : BitVec 4,
      let raises (i : Instr) := s.Issues i [] [] [] →
        exec i s = .next ((s.raised i ⟨.vregrange, BitVec.ofNat 64 (8 * n.toNat)⟩).settle s.cur.1 s.cur.2.1)
      (s.cw.vbudget < 8 * n.toNat + 8 → raises (.vgive m n)) ∧ (128 < s.cw.vbudget + 8 * n.toNat → raises (.vclaim m n)))

/-! ## Traps -/

/-- R134, R206, R299, R308: TRAP and BRKPT complete and latch a cause of the kind after: TPC is the next word, TVAL the code of TRAP or 0, the
mask the AM.  NOP has no effect but the advance, and parks when it carries the marker.  TRET completes in the trap strand as the return
from the trap; in any other strand it raises PRIV with its own word. -/
def Obligations.TrapWords : Prop :=
  (∀ (m : Bool) (s : State),
     let gives (i : Instr) (c : Cause) (val : DWord) :=
       s.Issues i [] [] [] → exec i s = .next (s.did m fun t =>
         t.latch s.cur.1 s.cur.2.1 ⟨c, val, s.cur.2.2, s.cs.pc + 4, s.cs.am, encode i, s.cs.issued + 1, false⟩);
     (∀ code, gives (.trap m code) .usertrap (code.setWidth 64)) ∧ gives (.brkpt m) .break_ 0 ∧
     (s.Issues (.nop m) [] [] [] → exec (.nop m) s = .next (s.past m))) ∧
  decode 0x5C800000#32 = .tret false ∧ decode 0x5D000000#32 = .nop false ∧
  (∀ (m : Bool) (s : State),
     let i : Instr := .tret m;
     s.Issues i [] [] [] →
     exec i s = .next (if s.cs.trap then s.did m fun t => t.returnTrap s.cur.1 s.cur.2.1 (encode i)
       else (s.raised i ⟨.priv, (encode i).setWidth 64⟩).settle s.cur.1 s.cur.2.1))

/-- R76: a class 7 word with op 48 to 63 raises EMULATE, whatever its other bits hold and before every other check: TVAL holds the word, TPC
is the word's address or the first address of its prefix, and nothing else of it is done.  So does VIDIV.s32 (R77); a word that is no
instruction raises ILLEGAL in the same way (R55).  What a raised cause latches, in a wave that has latched none and is not halted. -/
def Obligations.UndefinedWords : Prop :=
  ∀ (s : State),
    let raises (i : Instr) (r : Raise) := exec i s = .next ((s.raised i r).settle s.cur.1 s.cur.2.1)
    (∀ w : Word, w.extractLsb' 28 3 = 7#3 → 48 ≤ (w.extractLsb' 22 6).toNat → raises (decode w) ⟨.emulate, w.setWidth 64⟩) ∧
    (∀ m d a b, raises (.vidivS32 m d a b) ⟨.emulate, (encode (.vidivS32 m d a b)).setWidth 64⟩) ∧
    (∀ m op x, raises (.emulation m op x) ⟨.emulate, (encode (.emulation m op x)).setWidth 64⟩) ∧
    (∀ w : Word, raises (.illegalWord w) ⟨.illegal, w.setWidth 64⟩) ∧
    (∀ i r, s.cw.latched = none → s.cw.halted = false → ∃ f : FaultRec, (s.raised i r).cw.latched = some f ∧ f.cause = r.cause ∧
      f.val = r.val ∧ f.tpc = (match s.cs.pfx with | some p => p.start | none => s.cs.pc) ∧ f.strand = s.cur.2.2 ∧
      (s.raised i r).cw.outs = s.cw.outs ∧ (s.raised i r).cw.v = s.cw.v ∧ (s.raised i r).cw.s = s.cw.s ∧ (s.raised i r).mem = s.mem)

/-- R301: of the causes of one word, the one with the lowest code is raised, and TPC is the first word of its prefix (R299): said of
SADD, whose causes are those of its prefix, a destination that is a pending token, and a published destination, and of every scalar and vector
access, whose causes are those and registers outside the budget, and, once its operands are read, ALIGN and STASHRANGE of its addresses.
R17: SADD that reads a pending token register, and raises none of the causes that need no operand, has not issued: its strand parks at it on
that register.  That these causes, TOKENWRITE among them, are raised before the wait for a pending source, and the others after it, is the
model's choice (log entry 70). -/
def Obligations.LowestCauseFirst : Prop :=
  (∀ (l : List (Option Raise)) (r : Raise), lowest l = some r → some r ∈ l ∧ ∀ x, some x ∈ l → r.cause.code ≤ x.cause.code) ∧
  (∀ (m : Bool) (s : State),
     let raises (i : Instr) (static : List (Option Raise)) (reads : List Nat) (dynamic : List (Option Raise)) :=
       let causes := pfxFaults i s.cs.pfx ++ static
       let raise (r : Raise) := exec i s = .next ((s.raised i r).settle s.cur.1 s.cur.2.1)
       (∀ r, lowest causes = some r → raise r) ∧
       (∀ r, NoCause causes → (∀ x ∈ reads, s.cw.isPending x = false) → lowest dynamic = some r → raise r);
     (∀ (d a : SReg) (b : SOp),
       let at_ := pairRegs a.toNat ++ sopRegs b
       let load (i : Instr) (n : Nat) := raises i (s.sdest d.toNat (n / 4)) at_ (s.addrFaults (scaOp (.sload n d.toNat) (s.saddr a b n) 0 0))
       let store (i : Instr) (n : Nat) (reads : List Nat) (v : BitVec 128) :=
         raises i [] (reads ++ at_) (s.addrFaults (scaOp (.sstore n) (s.saddr a b n) v 0))
       raises (.sadd m d a b) (s.sdest d.toNat 1) (a.toNat :: sopRegs b) [] ∧
       load (.sldB32 m d a b) 4 ∧ load (.sldB64 m d a b) 8 ∧ load (.sldB128 m d a b) 16 ∧
       store (.sstB32 m d a b) 4 [d.toNat] ((s.sa d).setWidth 128) ∧
       store (.sstB64 m d a b) 8 (pairRegs d.toNat) ((s.sa64 d).setWidth 128)) ∧
     (∀ (d a b : SReg),
       let atomic (i : Instr) (op : AtomOp) (reads : List Nat) (old : Word) :=
         raises i (s.sdest d.toNat 1) (reads ++ pairRegs a.toNat ++ [b.toNat])
           (s.addrFaults (scaOp (.satom op d.toNat) (s.sa64 a) ((s.sa b).setWidth 128) old))
       atomic (.satomAdd m d a b) .addI32 [] 0 ∧ atomic (.satomCas m d a b) .casB32 [d.toNat] (s.sa d) ∧
       atomic (.satomExch m d a b) .exchB32 [] 0) ∧
     (∀ (t a : VReg) (b : BitVec 5),
       let gives (i : Instr) (kind : MemKind) (ord : Ordq) (static : List (Option Raise)) (data : Nat → BitVec 128) (cmp : Nat → Word) :=
         raises i (static ++ [s.cw.vrange a.toNat]) (pairRegs (2 * b.toNat) ++ s.xmodRegs) (s.addrFaults (s.vecOp kind ord a b data cmp))
       let load (i : Instr) (n : Nat) (sgn : Bool) (q : LdQ) :=
         gives i (.load n sgn t.toNat) (ldOrd q) (s.vdest t.toNat (max 1 (n / 4))) (fun _ => 0) (fun _ => 0)
       let store (i : Instr) (n : Nat) (q : StQ) :=
         gives i (.store n) (stOrd q) (s.cw.vranges t.toNat (max 1 (n / 4))) (s.vdata t n) (fun _ => 0)
       (∀ q, load (.vldB32 m t a b q) 4 false q ∧ load (.vldB64 m t a b q) 8 false q ∧ load (.vldB128 m t a b q) 16 false q ∧
         load (.vldS8 m t a b q) 1 true q ∧ load (.vldN8 m t a b q) 1 false q ∧ load (.vldS16 m t a b q) 2 true q ∧
         load (.vldN16 m t a b q) 2 false q) ∧
       (∀ q, store (.vstB32 m t a b q) 4 q ∧ store (.vstB64 m t a b q) 8 q ∧ store (.vstB128 m t a b q) 16 q ∧
         store (.vstB8 m t a b q) 1 q ∧ store (.vstB16 m t a b q) 2 q) ∧
       (∀ acq, gives (.fget m t a b acq) (.fget t.toNat) (if acq then .acq else .rlx) (s.vdest t.toNat 1) (fun _ => 0) (fun _ => 0)) ∧
       (∀ rel, gives (.fput m t a b rel) .fput (if rel then .rel else .rlx) [s.cw.vrange t.toNat] (s.vdata t 4) (fun _ => 0)) ∧
       (∀ op q, gives (.vatom m op t a b q) (.atom op (some t.toNat)) (atOrd q)
         (s.cw.vranges t.toNat (atomRegs op) ++ s.cs.pubVs t.toNat (atomSize op / 4)) (s.vdata t (atomSize op))
         (fun l => s.cw.vreg (t.toNat + 1) l)) ∧
       (∀ op q, gives (.vred m op t a b q) (.atom op none) (rdOrd q) (s.cw.vranges t.toNat (atomRegs op)) (s.vdata t (atomSize op))
         (fun _ => 0)))) ∧
  (∀ (m : Bool) (d a : SReg) (s : State),
     let i : Instr := .sadd m d a (.imm 0);
     s.cs.pfx = none → NoCause (s.sdest d.toNat 1) → s.cw.isPending a.toNat = true →
     ∃ t, exec i s = .next t ∧ t.cs.state = .parked ∧ t.cs.park = .token ∧ t.cs.pc = s.cs.pc ∧ t.cs.parkArg = BitVec.ofNat 32 a.toNat ∧
       t.cs.issued = s.cs.issued ∧ SameRegs s.cw t.cw ∧ t.cw.outs = s.cw.outs ∧ SameOutside s t)

/-! ## Hints and system words -/

/-- R30, R59 to R62: each hint completes as a part of its strand's prefix: an XMOD when the prefix holds neither an XMOD nor a wide group, a
LIMM, LIMMF or LIMMH when it holds no wide group, a LIMML right after a LIMMH.  LIMM extends its payload by its sign, LIMMF shifts it left
by 10, LIMMH alone gives its half the high place, LIMMH and LIMML give all 32 bits. -/
def Obligations.Hints : Prop :=
  (∀ (s : State),
     let p := s.cs.pfxNow;
     let gives (i : Instr) (q : Pfx) := exec i s = .next (s.updCs fun st => { st with pc := st.pc + 4, pfx := some q, issued := st.issued + 1 });
     (∀ k z rnd v4 v4ok aux, p.xmod = none → p.wide = none →
       gives (.xmod k z rnd v4 v4ok aux) { p with xmod := some (⟨k, z, rnd, v4, v4ok, aux⟩, encode (.xmod k z rnd v4 v4ok aux)) }) ∧
     (∀ x, p.wide = none → gives (.limm x) { p with wide := some (.limm x, encode (.limm x)) }) ∧
     (∀ x, p.wide = none → gives (.limmf x) { p with wide := some (.limmf x, encode (.limmf x)) }) ∧
     (∀ h, p.wide = none → gives (.limmh h) { p with wide := some (.high h, encode (.limmh h)) }) ∧
     (∀ h u ww, p.wide = some (.high u, ww) → gives (.limml h) { p with wide := some (.full (u ++ h), ww) }) ∧
     (s.cs.pfx = none → p = { start := s.cs.pc })) ∧
  ((∀ p : BitVec 22, (Wide.limm p).value = p.signExtend 32) ∧ (∀ p : BitVec 22, (Wide.limmf p).value = p ++ (0#10)) ∧
   (∀ h : BitVec 16, (Wide.high h).value = h ++ (0#16)) ∧ (∀ w, (Wide.full w).value = w))

/-- R206, R343, R349: SCHED, TRACE and CNTRD complete in every mode: the strand's level, a trace record with the scalar as
its payload, the meter of the wave's VI in a pair. -/
def Obligations.OpenSystemWords : Prop :=
  ∀ (m : Bool) (s : State),
    (∀ lvl, s.Issues (.sched m lvl) [] [] [] → exec (.sched m lvl) s = .next ((s.past m).updCs fun st => { st with sched := lvl })) ∧
    (∀ a, s.Issues (.trace m a) [] [a.toNat] [] →
      exec (.trace m a) s = .next (s.did m fun t => t.traceRec s.cur.1 s.cur.2.1 1 s.cur.2.2 (s.sa a) s.cs.pc)) ∧
    (∀ d n, s.Issues (.cntrd m d n) (s.sdest d.toNat 2) [] [] →
      exec (.cntrd m d n) s = .next (s.wrotePair (.cntrd m d n) m d (BitVec.ofNat 64 (SMap.get 0 (s.vi s.cw.vi).meters n.toNat))))

/-- R206, R314: the words of firmware waves complete there: SYSLD and SYSST on the system space, TLBINV on the pages of a VI, WAITI, which
goes on at once where an interrupt is pending, METSNAP, whose token register names the VI; in any other wave each raises PRIV.  That SYSST
keeps one word for each 64-bit address with no other effect, and that SYSLD reads it back, is the model's choice (log entry 4), and so is that
WAITI takes the interrupt (log entry 86). -/
def Obligations.FirmwareWords : Prop :=
  ∀ (m : Bool) (s : State),
    let fw := s.cw.firmware = true
    let bars (i : Instr) := s.cw.firmware = false → NoCause (pfxFaults i s.cs.pfx) →
      exec i s = .next ((s.raised i ⟨.priv, (encode i).setWidth 64⟩).settle s.cur.1 s.cur.2.1)
    (∀ d a, fw → s.Issues (.sysld m d a) (s.sdest d.toNat 1) (pairRegs a.toNat) [] →
      exec (.sysld m d a) s = .next (s.wroteS (.sysld m d a) m d (s.sysWord (s.sa64 a).toNat))) ∧
    (∀ d a, fw → s.Issues (.sysst m d a) [] (d.toNat :: pairRegs a.toNat) [] →
      exec (.sysst m d a) s = .next { s.past m with sysmem := SMap.put s.sysmem (s.sa64 a).toNat (s.sa d) }) ∧
    (∀ a, fw → s.Issues (.tlbinv m a) [] (pairRegs a.toNat) [] →
      let x := (s.sa64 a).toNat
      let va := x / 65536 % 2 ^ 41 * 65536
      exec (.tlbinv m a) s = .next (s.did m fun t =>
        t.tlbInvalidate (x / 2 ^ 58) (x / 2 ^ 57 % 2 = 1) (if va / 2 ^ 56 = 1 then va + 0xFE00000000000000 else va))) ∧
    (fw → s.Issues (.waiti m) [] [] [] → exec (.waiti m) s = .next (s.did m fun t => t.parkUntil .interrupt (.waiti m))) ∧
    (fw → s.Awake → s.dev.irqs.contains s.cur.1 = true → s.Issues (.waiti m) [] [] [] →
      exec (.waiti m) s = .next (s.wentOn m .interrupt (.waiti m) 0 fun t =>
        { t with dev := { t.dev with irqs := t.dev.irqs.filter (· != s.cur.1) } })) ∧
    (∀ t, fw → s.Issues (.metsnap m t) (s.sdest t.toNat 1) [t.toNat] [] →
      exec (.metsnap m t) s = .next ((s.token t.toNat (s.past m)).updCw fun w =>
        { w with snaps := w.snaps ++ [⟨w.nextId, (s.sa t).toNat, t.toNat⟩], nextId := w.nextId + 1 })) ∧
    (∀ d a, bars (.sysld m d a) ∧ bars (.sysst m d a)) ∧ (∀ a, bars (.tlbinv m a)) ∧ bars (.waiti m) ∧ (∀ t, bars (.metsnap m t))

/-! ## Engines, matrix, tasks -/

/-- R172 to R176, R197: ACOPY, GATH, SCAT and COLL complete: the token becomes pending, and the entry with the operands read at issue goes
through the wave's queue to cq0 to cq3, gq or xq.  R16, R29: a register that becomes a token is pending, and what earlier words of the strand
have yet to write to it does not land over it. -/
def Obligations.EngineWords : Prop :=
  (∀ (r : Nat) (s u : State), let w := (s.token r u).cw
     s.token r u = u.updCw (fun x => { x with tokens := x.tokens ++ [r], shadow := w.shadow }) ∧
     ∀ o ∈ u.cw.outs, o.strand = s.cur.2.2 → o.seq ≤ s.cs.issued → 20000 + r ∈ o.keys → w.shadowed o (20000 + r) = true) ∧
  ∀ (m : Bool) (d a b : SReg) (s : State),
    let r := a.toNat
    let gives (i : Instr) (reads : List Nat) (n : Nat) (op : EngOp) :=
      let q := s.entryOf i (.engine n { op := op, token := d.toNat, core := s.cur.1, slot := s.cur.2.1, pc := s.cs.start,
                                        opcode := opcodeOf (encode i) }) s.cs.memb true
      s.Queues i (s.sdest d.toNat 1) reads [] q → exec i s = .next (s.queued m q (s.token d.toNat))
    let c := (s.sr (r + 6)).toNat
    let f := (s.sr (r + 7)).toNat
    (∀ q : BitVec 2, gives (.acopy m d a b q) (blockRegs r 4 ++ [b.toNat]) q.toNat
      (.acopy (s.sp r) (s.sp (r + 2)) ((s.sa b).toNat % 2 ^ 24) ((s.sa b).toNat / 2 ^ 24))) ∧
    gives (.gath m d a) (blockRegs r 8) 4
      (.gath (s.sp r) (s.sp (r + 2)) (s.sp (r + 4)) (c % 2 ^ 24) (f % 8) (f / 16 % 4) (gathFieldsOk c f false)) ∧
    gives (.scat m d a) (blockRegs r 8) 4
      (.scat (s.sp r) (s.sp (r + 2)) (s.sp (r + 4)) (c % 2 ^ 24) (f / 256 % 4) (f % 8) (f / 16 % 4) (gathFieldsOk c f true)) ∧
    let n := (s.sr (r + 4)).toNat
    let g := (s.sr (r + 5)).toNat
    gives (.coll m d a) (blockRegs r 8) 6
      (.coll (s.sp r) (s.sp (r + 2)) (n % 2 ^ 24) (g % 2 ^ 16) (c / 2 ^ 16) (c / 2 ^ 8 % 16) (c / 16 % 16) (c % 16) (collFieldsOk n g c f))

/-- R177, R180: SMAP completes with the lowest free window number and the window mapped, 0xFFFFFFFF when all 16 are in use, 0xFFFFFFFE when
its operands break a rule; CQRY completes as a load does: its access goes through the wave's queue, and gives the count of the line that
holds its address. -/
def Obligations.WindowAndCountWords : Prop :=
  ∀ (m : Bool) (d a : SReg) (s : State),
    let r := a.toNat
    let b := s.block s.cw.blk
    (∀ zero, let i : Instr := .smap m d a zero
      let off := (s.sr r).toNat
      let len := (s.sr (r + 1)).toNat
      s.Issues i (s.sdest d.toNat 1) (blockRegs r 4) [] →
      (b.smapOk off len (s.sp (r + 2)) = false → exec i s = .next (s.wroteS i m d 0xFFFFFFFE)) ∧
      (b.smapOk off len (s.sp (r + 2)) = true → b.freeWin = none → exec i s = .next (s.wroteS i m d 0xFFFFFFFF)) ∧
      (∀ n, b.smapOk off len (s.sp (r + 2)) = true → b.freeWin = some n →
        exec i s = .next ((s.wroteS i m d (BitVec.ofNat 32 n)).updBlock s.cw.blk fun b =>
          { b with wins := SMap.put b.wins n ⟨off, len, s.sp (r + 2), zero, [], []⟩ }))) ∧
    (let i : Instr := .cqry m d a
     let op := scaOp (.cqry d.toNat) (s.sa64 a) 0 0
     let q := s.entryOf i (.mem op) s.cs.memb false
     s.Queues i (s.sdest d.toNat 1) (pairRegs r) (s.addrFaults op) q →
     exec i s = .next (s.queued m q) ∧
     (∀ off owner o, s.Unordered → stashOff (s.sa64 a).toNat = some off → s.stashAt s.cw.blk off 1 = some (owner, o) →
       ∃ t, exec i s = .next t ∧ t.cs = s.cs.past m (s.cycle s.cw.part) ∧ SameRegs s.cw t.cw ∧ t.blocks = s.blocks ∧ t.mem = s.mem ∧
         t.cw.outs = insertOut { strand := s.cur.2.2, word := encode i, after := s.cs.pc + 4, seq := s.cs.issued + 1,
                                 sca := if d = 63 then [] else [(d.toNat, match SMap.get .none (s.block owner).counts (o / 128) with
                                   | .live n => BitVec.ofNat 32 n | .spent => 0 | .none => 0xFFFFFFFF)] } s.cw.outs))

/-- R178, R179, R183: SUNMAP, CDROP, CINV, CINV.i and CWB complete: the token becomes pending, and the operation goes through the wave's queue
to its quarter's memory port.  R181, R182: L2PIN and L2UNPIN complete: the definition of a retention slot, or its release, goes through the
wave's queue. -/
def Obligations.PortWords : Prop :=
  (∀ (m : Bool) (d a b : SReg) (s : State),
     let gives (i : Instr) (reads : List Nat) (kind : PortKind) (base : DWord) (len : Nat) :=
       let q := s.entryOf i (.port { kind := kind, base := base, len := len, token := d.toNat, pc := s.cs.start,
                                     opcode := opcodeOf (encode i) }) s.cs.memb true;
       s.Queues i (s.sdest d.toNat 1) reads [] q → exec i s = .next (s.queued m q (s.token d.toNat));
     let range (i : Instr) (kind : PortKind) := gives i (pairRegs a.toNat ++ [b.toNat]) kind (s.sa64 a) (s.sa b).toNat;
     (∀ wb, gives (.sunmap m d a wb) [a.toNat] (.sunmap wb) ((s.sa a).setWidth 64) 0) ∧
     range (.cdrop m d a b) .cdrop ∧ range (.cinv m d a b) .cinv ∧ range (.cinvI m d a b) .cinvI ∧ range (.cwb m d a b) .cwb) ∧
  (∀ (m : Bool) (s : State),
     (∀ ways a b slot, let i : Instr := .l2pin m ways a b slot
       let q := s.entryOf i (.pin (BitVec.toNat slot) (BitVec.toNat ways) (s.sa64 a) (s.sa b).toNat) s.cs.memb true;
       (s.sa64 a).toNat % 128 = 0 → (s.sa b).toNat % 128 = 0 → s.Queues i [] (pairRegs a.toNat ++ [b.toNat]) [] q →
       exec i s = .next (s.queued m q)) ∧
     (∀ slot, let i : Instr := .l2unpin m slot
       let q := s.entryOf i (.pin (BitVec.toNat slot) 0 0 0) s.cs.memb true;
       s.Queues i [] [] [] q → exec i s = .next (s.queued m q)))

/-- R185, R187 to R193: MZACC, MMA, MMASP, MSTACC and MLDACC complete when the block may use the accumulator, their operands obey their rules
and their pages can be translated: the operation enters the wave's queue for mq.  R194: MFENCE completes, closes the open batch and writes
its number. -/
def Obligations.MatrixWords : Prop :=
  ∀ (m : Bool) (sh : Shape) (acc : BitVec 3) (s : State),
    let blk := s.cw.blk
    let gives (i : Instr) (reads : List Nat) (early : List (Option Raise)) (need : Need) (ranges : List (Nat × Nat)) (lines : Bool)
        (kind : MatKind) :=
      let pins := (s.matCheck s.cur.1 blk need ranges).2.1
      let q := s.entryOf i (.matrix
        { kind := kind, shape := sh, acc := acc.toNat, core := s.cur.1, slot := s.cur.2.1, pc := s.cs.start, word := encode i, pins := pins,
          lines := if lines then s.operandLines s.cw.vi pins ranges else [] }) s.cs.memb true
      (s.matCheck s.cur.1 blk need ranges).1 = [] → NoCause early → s.Queues i [] reads (s.matFaults i sh acc) q →
      exec i s = .next (s.queued m q fun t => (t.matCheck s.cur.1 blk need ranges).2.2)
    gives (.mzacc m sh acc) [] [] .rd [] false .mzacc ∧
    (∀ (a b : BitVec 5) (f : BitVec 3), let fb := s.fmtBlock (8 * f.toNat)
      let pa := s.sp (2 * a.toNat)
      let pb := s.sp (2 * b.toNat)
      let align := firstUnaligned ([(pa.toNat, 32), (pb.toNat, 32), (fb.astr, 32), (fb.bstr, 32)] ++
        if fb.afmt ≤ 3 then [(fb.ascl.toNat, 2), (fb.bscl.toNat, 2)] else [])
      let reads := pairRegs (2 * a.toNat) ++ pairRegs (2 * b.toNat) ++ blockRegs (8 * f.toNat) 8
      let words := fb.kg * (256 / matWidth fb.afmt) / 16
      (s.fmtBad (8 * f.toNat) false = false →
        gives (.mma m sh acc a b f) reads [align] .rd (mmaRanges sh pa pb fb false) true (.mma pa pb fb)) ∧
      (∀ x, s.cs.xmod = some x → s.fmtBad (8 * f.toNat) true = false →
        gives (.mmasp m sh acc a b f) reads (s.cw.vranges x.v4.toNat (max 1 words) ++ [align]) .rd (mmaRanges sh pa pb fb true) true
          (.mmasp pa pb fb ((List.range sh.rows).map fun r => (List.range words).map fun k =>
            s.cw.vreg (x.v4.toNat + k) ((16 * x.aux.toNat + r) % 96))))) ∧
    (∀ (a b : BitVec 5) (fmt : AccFmt), let addr := s.sp (2 * a.toNat)
      let stride := (s.sr (2 * b.toNat)).toNat
      let reads := pairRegs (2 * a.toNat) ++ pairRegs (2 * b.toNat)
      let early := [firstUnaligned [(addr.toNat, fmt.bytes), (stride, fmt.bytes)]]
      let ranges := (List.range sh.rows).map fun r => ((addr.toNat + r * stride) % 2 ^ 64, sh.cols * fmt.bytes)
      s.sr (2 * b.toNat + 1) = 0 →
      gives (.mstacc m sh acc a b fmt) reads early .wr ranges false (.mstacc addr stride fmt) ∧
      gives (.mldacc m sh acc a b fmt) reads early .rd ranges false (.mldacc addr stride fmt)) ∧
    (∀ d, let n := (s.block blk).batch
      s.Issues (.mfence m d) (s.sdest d.toNat 1) [] [] →
      exec (.mfence m d) s = .next ((s.wroteS (.mfence m d) m d n).updBlock blk fun b => { b with batch := n + 1 }))

/-- R200, R201: each task-heap word completes: one operation for each lane of EXM, with the lane's handle and the operand, goes through the
wave's queue to the controllers.  R202: HRES arrives at the controller of its heap, or notes HEAPERR when the heap is not configured; that
the note carries the lanes of EXM is the model's reading (log entry 33). -/
def Obligations.HeapWords : Prop :=
  ∀ (m : Bool) (a : VReg) (b : Code) (s : State),
    let gives (i : Instr) (kind : HeapKind) (k : Kind) :=
      let q := s.entryOf i (.heap kind ((lanesOf s.exm).map fun l => (l, s.cw.vreg a.toNat l, BitVec.ofNat 32 (s.operand k b l)))) s.exm true
      s.Queues i (s.cw.vrange a.toNat :: s.cw.codeRange k b) (codeRegs k b) [] q → exec i s = .next (s.queued m q)
    let qd := s.entryOf (.tdone m a) (.heap .tdone ((lanesOf s.exm).map fun l => (l, s.cw.vreg a.toNat l, 0))) s.exm true
    gives (.tenq m a b) .tenq .f32 ∧ gives (.tgaina m a b) .gaina .f32 ∧ gives (.tgainm m a b) .gainm .f32 ∧
    gives (.tgains m a b) .gains .f32 ∧ gives (.tjset m a b) .tjset .i32 ∧
    (s.Queues (.tdone m a) [s.cw.vrange a.toNat] [] [] qd → exec (.tdone m a) s = .next (s.queued m qd)) ∧
    (∀ d heap, let i : Instr := .hres m d heap
      let h : Word := BitVec.setWidth 32 heap <<< 26
      s.Issues i (s.sdest d.toNat 2) [] [] →
      ((s.heap s.cw.part heap.toNat).isSome = true → exec i s = .next (s.did m fun t =>
        (t.updHeap t.cw.part heap.toNat fun x => { x with arrivals := x.arrivals ++
          [⟨s.cur.1, s.cur.2.1, s.cur.2.2, 0, .hres, h, 0, d.toNat, s.cs.pc + 4, encode i, s.cs.issued + 1⟩] }).updCw fun w =>
            { w with heapOut := w.heapOut ++ [s.cur.2.2] })) ∧
      ((s.heap s.cw.part heap.toNat).isSome = false → exec i s = .next (s.did m fun t =>
        t.note s.cur.1 s.cur.2.1 s.cur.2.2 ⟨.heaperr, h.setWidth 64, s.exm, encode i⟩)))

/-- R204, R205: RINGP and RINGC complete: the operation goes through the wave's queue, and the strand parks while it waits at the ring; RINGQ
writes the filled slots not yet claimed, or 0xFFFFFFFF for a ring that is not configured.  Where nothing orders the operation behind another
and no strand of the wave waits at a ring, it is performed at once: an operand beyond the ring gives 0xFFFFFFFF, 0 gives the filled slots not
yet claimed, a positive one that can proceed takes its slots, a negative one marks slots and serves the waiters. -/
def Obligations.RingWords : Prop :=
  ∀ (m : Bool) (d a : SReg) (ring : BitVec 2) (s : State),
    let gives (i : Instr) (prod : Bool) :=
      let q := s.entryOf i (.ring prod ring.toNat (s.sa a) d.toNat) s.cs.memb true
      s.Queues i (s.sdest d.toNat 1) [a.toNat] [] q →
      exec i s = .next (s.did m fun t =>
        let u := t.issueQ s.cur.1 s.cur.2.1 q
        if u.ringWaits s.cur.1 s.cur.2.1 s.cur.2.2 then u.parkUntil .ring i else u)
    let r : Ring := SMap.get {} (s.block s.cw.blk).rings ring.toNat
    gives (.ringp m d a ring) true ∧ gives (.ringc m d a ring) false ∧
    (s.Issues (.ringq m d ring) (s.sdest d.toNat 1) [] [] →
      exec (.ringq m d ring) s = .next (s.wroteS (.ringq m d ring) m d (if r.cnt = 0 then 0xFFFFFFFF else r.pf - r.cc))) ∧
    (∀ (prod : Bool), let i : Instr := if prod then .ringp m d a ring else .ringc m d a ring
      let n := (s.sa a).toInt
      let key := waveKey s.cur.1 s.cur.2.1
      let gives (x : Word) (after : Ring) := ∃ t, exec i s = .next t ∧ t.cs = s.cs.past m (s.cycle s.cw.part) ∧ SameRegs s.cw t.cw ∧ t.mem = s.mem ∧
        (SMap.get {} (t.block s.cw.blk).rings ring.toNat : Ring) = after ∧
        t.cw.outs = insertOut { strand := s.cur.2.2, sca := [(d.toNat, x)], seq := s.cs.issued + 1 } s.cw.outs
      s.Queues i (s.sdest d.toNat 1) [a.toNat] [] (s.entryOf i (.ring prod ring.toNat (s.sa a) d.toNat) s.cs.memb true) →
      s.Unordered → (∀ k, s.ringWaits s.cur.1 s.cur.2.1 k = false) →
      ((r.cnt = 0 ∨ (r.cnt : Int) < n) → gives 0xFFFFFFFF r) ∧
      (r.cnt ≠ 0 → n = 0 → gives (r.pf - r.cc) r) ∧
      (n ≤ r.cnt → 0 < n → (∀ w ∈ r.waiters, w.prod ≠ prod) → r.ready prod n.toNat = true →
        gives (r.take prod n.toNat key).2 (r.take prod n.toNat key).1) ∧
      (r.cnt ≠ 0 → n < 0 →
        let g := r.give prod n.natAbs key
        let x := g.serve false false r.waiters
        gives (g.pf - g.cc) { x.1 with waiters := x.2.1 }))

/-! ## Events of waves -/

/-- R29, R133, R209, R211, R216, R219, R221, R222, R312: each event of a wave completes where it can take place: a result lands, an entry of
the strand store queue is released, an access is performed after its page walk, a strand passed over 64 times is capped; a fetch fill puts
its line into the instruction cache of the core that missed and of every core of its chiplet whose code ranges cover it; a finished wave
drops from its barriers, sends the TDONE of its tasks, and frees its slot, and the last wave of a block ends it.  A parked strand whose
condition is met wakes: a word that has not issued is tried again; ENDS and EXIT end the strand, or wait on for its results; PUB sets its
bits, JOIN and JOINS have their result (JOINS raises TOKENWRITE where its destination has become a pending token), JOINM and a ring
operation go on, TWAIT, MWAIT, BAR.w and BARWP are acquires, MWAIT takes the notes of its batches, FGET takes its values, VCLAIM takes
its registers or raises VREGRANGE where the budget would exceed 128, JOIN raises it where the budget has fallen below its registers, WAITI takes
the interrupt.  Nothing of a stopped block takes place (R351).  That WAITI takes it is the model's choice (log entry 86), and that JOIN, JOINS
and VCLAIM are judged as they wake is its reading (log entry 87). -/
def Obligations.WaveEvents : Prop :=
  (∀ (core slot : Nat) (s : State), slot < 64 →
     let w := s.wave core slot;
     let now := s.cycle w.part;
     let wakes (n : Nat) (i : Instr) (u : State) := s.canWake core slot n = true → (w.strand n).retries = false →
       (w.strand n).parkI = some i → exec (.strandWake core slot n) s = .next ((u.afterWord core slot n [] false).settle core slot);
     let faults (n : Nat) (i : Instr) (c : Cause) (val : DWord) := s.canWake core slot n = true → (w.strand n).retries = false →
       (w.strand n).parkI = some i → let st := w.strand n
         exec (.strandWake core slot n) s = .next (((s.updStrand core slot n fun st => { st.wake now with pc := st.pc - 4 }).latch core slot
           ⟨c, val, n, st.pc - 4, st.am, encode i, st.issued, false⟩).settle core slot);
     let out (n : Nat) (i : Instr) (vec sca : List (Nat × Word)) : State := s.updWave core slot fun w => w.addOut
       { strand := n, vec := vec, sca := sca, word := encode i, after := (w.strand n).pc, am := (w.strand n).am, seq := (w.strand n).issued };
     let ends (n : Nat) (i : Instr) (isExit : Bool) := s.canWake core slot n = true → (w.strand n).retries = false →
       (w.strand n).parkI = some i →
       (s.endReady core slot n isExit = false → exec (.strandWake core slot n) s = .next ((s.updStrand core slot n fun st =>
         { st with state := .parked, park := .marker, parkI := some i }).settle core slot)) ∧
       (s.endReady core slot n isExit = true → (w.strand n).noted = [] → (w.lastStrand n = true → w.matNotes = []) →
         exec (.strandWake core slot n) s = .next ((s.endStrand core slot n).settle core slot));
     (∀ idx lanes, s.isStopped core slot = false → s.canLand core slot idx = true → exec (.resultWrite core slot idx lanes) s = .next ((s.land core slot idx lanes).settle core slot)) ∧
     (∀ n, s.canWake core slot n = true → (w.strand n).retries = true → w.latched = none →
       exec (.strandWake core slot n) s = .next (s.updStrand core slot n fun st => st.wake now)) ∧
     (∀ n, s.canWake core slot n = true → (w.strand n).retries = false → (w.strand n).parkI = none →
       exec (.strandWake core slot n) s = .next ((s.afterWord core slot n [] true).settle core slot)) ∧
     (∀ n m, ends n (.ends m) false ∧ ends n (.exit m) true ∧ wakes n (.joinm m) s ∧
       wakes n (.waiti m) { s with dev := { s.dev with irqs := s.dev.irqs.filter (· != core) } }) ∧
     (∀ n m v vc r sc, wakes n (.pub m v vc r sc)
       (s.updStrand core slot n fun st => { st with pubV := st.pubV ||| pubMaskV v vc, pubS := st.pubS ||| pubMaskS r sc })) ∧
     (∀ n m d a b, let i : Instr := .join m d a b
       let rs := w.vranges d.toNat 1 ++ [w.vrange a.toNat, w.vrange b.toNat]
       (NoCause rs → wakes n i (out n i (w.joinOut n d a b) [])) ∧
       (∀ v, lowest rs = some ⟨.vregrange, v⟩ → faults n i .vregrange v)) ∧
     (∀ n m d a armF, let i : Instr := .joins m d a armF
       ((d = 63 ∨ w.isPending d.toNat = false) → wakes n i (out n i [] (if d = 63 then [] else [(d.toNat, w.sreg n a.toNat)]))) ∧
       (d ≠ 63 → w.isPending d.toNat = true → faults n i .tokenwrite (BitVec.ofNat 64 d.toNat))) ∧
     (∀ n m d a ring, wakes n (.ringp m d a ring) s ∧ wakes n (.ringc m d a ring) s) ∧
     (∀ n m r, wakes n (.twait m r) (s.acquire core w.blk .blk)) ∧
     (∀ n m r, let st := w.strand n
       let u := (s.acquire core w.blk .blk).updWave core slot fun w =>
         { w.updStrand n (fun st => { st with noted := st.noted ++ w.coveredNotes st.parkArg }) with
           matNotes := w.matNotes.filter fun p => 0 < (p.1 - st.parkArg).toInt }
       s.canWake core slot n = true → st.retries = false → st.parkI = some (.mwait m r) →
       exec (.strandWake core slot n) s = .next ((u.afterWord core slot n (w.coveredNotes st.parkArg) false).settle core slot)) ∧
     (∀ n m id, wakes n (.barW m id) (s.acquire core w.blk (barScope id.toNat))) ∧
     (∀ n m id r, wakes n (.barwp m id r) (s.acquire core w.blk (barScope id.toNat))) ∧
     (∀ n m k, let need := 8 * BitVec.toNat k
       (w.vbudget + need ≤ 128 → wakes n (.vclaim m k) (s.takeRegs core slot need)) ∧
       (128 < w.vbudget + need → faults n (.vclaim m k) .vregrange (BitVec.ofNat 64 need))) ∧
     (∀ n m t a b acq q, w.fgetEntry n = some q → wakes n (.fget m t a b acq) (s.runEntry core slot q)) ∧
     (∀ n (u : State), let st := (u.wave core slot).strand n
       st.parkM = false → u.afterWord core slot n [] false = u.updStrand core slot n fun st => st.wake (u.cycle (u.wave core slot).part)) ∧
     (∀ (st : Strand) (c : Nat), (st.wake c).state = .ready ∧ (st.wake c).park = .none ∧ (st.wake c).pc = st.pc ∧ (st.wake c).am = st.am) ∧
     (∀ id q, s.isStopped core slot = false → w.entry id = some q → q.ssq = true → q.ripe now = true → s.releasable core slot q = true →
       s.tlbReady core w q.op = true → exec (.ssqEntryRelease core slot id) s = .next ((s.runEntry core slot q).settle core slot)) ∧
     (∀ id q, s.isStopped core slot = false → w.entry id = some q → q.ripe now = true → s.releasable core slot q = true →
       exec (.pageWalk core slot id) s = .next ((s.runEntry core slot q).settle core slot)) ∧
     (∀ n, (w.strand n).state = .ready → (w.strand n).cappedAt = none → 64 ≤ (w.strand n).waits →
       exec (.strandCapped core slot n) s = .next (s.updStrand core slot n fun st => { st with cappedAt := some now })) ∧
     (s.isStopped core slot = true → ∀ n idx id lanes, exec (.resultWrite core slot idx lanes) s = .next s ∧
       exec (.ssqEntryRelease core slot id) s = .next s ∧ exec (.pageWalk core slot id) s = .next s ∧ s.canWake core slot n = false)) ∧
  (∀ (core vi : Nat) (va : DWord) (s u : State) (x : Xlat),
     let line := va.toNat / 128 * 128;
     core < 176 → s.partOf core ≠ noPart → s.translate core vi line .fetch = .ok (x, u) → u.bad.contains x.line = false →
     let v := if x.region = 2 then u.recall x.line true none none else u;
     let t := v.l2Access (v.partOf core) vi x.line 15 false .normal;
     ∃ r, exec (.fetchFill core vi va) s = .next r ∧ SMap.get 0 (r.core core).icache (icacheKey vi line) = t.homeData x ∧
       (∀ c ∈ t.rangeCores (core / 40) vi line, SMap.get 0 (r.core c).icache (icacheKey vi line) = t.homeData x) ∧
       r.waves = t.waves ∧ r.mem = t.mem) ∧
  (∀ (core slot : Nat) (s : State),
     let w := s.wave core slot;
     let st := w.strand w.lastEnded;
     slot < 64 → w.finished = true → w.queue = [] → s.isStopped core slot = false →
     let d := s.dropBarriers core slot w.lastEnded st.pc;
     let u := d.taskDones core slot;
     let v := if (d.block w.blk).task = true then u.runWaveEnds w.part w.heapId false else u;
     let x := v.freeWave core slot;
     SMap.find? x.waves (waveKey core slot) = none ∧
     exec (.waveEnd core slot) s = .next (if (x.block w.blk).waves = [] then x.blockExit w.blk else x) ∧
     (w.tasks = [] → (s.block w.blk).task = false → (List.range 20).filter (s.block w.blk).hasBarrier = [] →
       x.waves = SMap.erase s.waves (waveKey core slot) ∧
       (x.block w.blk).waves = (s.block w.blk).waves.filter (fun k => k != waveKey core slot) ∧ x.mem = s.mem))

/-- R302, R311: a latched cause is taken when no strand of its block stands inside a prefix; that it is taken in a later cycle is the model's
inference (log entry 5).  TAKE_TRAP halts and
drains the block and sets the cause registers; it writes the frames and starts the handler, or, where a frame cannot be written, ends the
context with the cause that its access met.  CONTEXT_END ends the context at a terminal cause, a cause of a trap strand, and any cause of a
VI without a handler.  That each of the two leaves the state at the causes of the other is the model's choice (log entry 8). -/
def Obligations.TrapEvents : Prop :=
  ∀ (core slot : Nat) (s : State) (f : FaultRec),
    let w := s.wave core slot
    let skid := (w.strand f.strand).issued - f.seq
    let ends := f.cause.kind = .terminal ∨ f.strand = 8 ∨ (s.vi w.vi).tba = 0
    let t := s.haltForTrap core slot f skid
    slot < 64 → s.trapReady core slot = true → w.latched = some f →
    (¬ends → ∀ u, t.writeFrames core slot (s.block w.blk).waves = .ok u →
      let v := (u.traceRec core slot 2 f.strand (f.val.setWidth 32) f.tpc f.cause.code).startHandler core slot f
      exec (.takeTrap core slot) s = .next v ∧
      let x := v.wave core slot
      x.latched = none ∧ x.tcause = f.cause.code ∧ x.tval = f.val ∧ x.tpc = f.tpc ∧ x.tskid = skid ∧
      x.tlane = (if f.cause.kind = .halt then 0 else f.mask) ∧ x.tstrand = f.strand) ∧
    (¬ends → ∀ r, t.writeFrames core slot (s.block w.blk).waves = .error r →
      exec (.takeTrap core slot) s =
        .next ((t.walkedFor core w.vi r).endBlock core slot { f with cause := r.cause, val := r.val } skid)) ∧
    (¬ends → exec (.contextEnd core slot) s = .next s) ∧
    (ends → exec (.contextEnd core slot) s = .next (s.endBlock core slot f skid) ∧ exec (.takeTrap core slot) s = .next s)

/-- R303 to R305: the frame of the faulting wave lies at TFB + (64 * CORE + WAVEID) * 8,192 and holds, each at its offset, s0 to s15, the AM of
the faulting strand, FSTAT, the cause registers, the snapshot and the arm lane sets of each slot, the entries of the serial stacks, v0 to v7, and
zeros elsewhere; a sibling's frame receives CAUSE, STRAND, PC and SKID alone.  TRET restores s0 to s15, FSTAT and v0 to v7 from the frame and
leaves every other register as it was.  R306: the handler starts in the trap slot at TBA with the lanes of the faulting strand, s0 and s1 holding the address of the frame and s2
the cause; every other scalar register keeps its value.  R308, R309: after TRET the faulting strand is ready at TPC with its low two bits 0,
without a prefix; the lanes of TLANE alone run the word again when the cause is precise or restartable, TPC was not written, and the cause was
not one noted before its reporting point (R190, R299); at every other cause, OVERREAD and UNCOUNTED among them, the word is not replayed. -/
def Obligations.TrapEntryAndReturn : Prop :=
  (∀ (core slot : Nat) (s : State) (f : FaultRec), f.strand < 8 →
     let t := (s.startHandler core slot f).wave core slot;
     let w := s.wave core slot;
     let a := s.frameAddr core slot;
     (t.strand 8).state = .ready ∧ (t.strand 8).pc = (s.vi w.vi).tba ∧ (t.strand 8).trap = true ∧
     (t.strand 8).am = (w.strand f.strand).am ∧ (t.strand 8).memb = (w.strand f.strand).memb ∧ (t.strand 8).stack = [] ∧
     t.sreg 8 0 = BitVec.ofNat 32 a ∧ t.sreg 8 1 = BitVec.ofNat 32 (a / 2 ^ 32) ∧ t.sreg 8 2 = BitVec.ofNat 32 w.tcause ∧
     (∀ r, 3 ≤ r → r < 60 → t.sreg 8 r = w.sreg 8 r) ∧ (∀ n, n < 8 → t.strand n = w.strand n) ∧ t.v = w.v ∧ t.fstat = w.fstat ∧
     (s.startHandler core slot f).mem = s.mem) ∧
  (∀ (st : Strand) (w : Wave) (cycle : Nat) (c : Cause), w.tcause = c.code →
     let t := st.resumeAt w cycle;
     t.state = .ready ∧ t.park = .none ∧ t.pfx = none ∧ t.pc = w.tpc.extractLsb' 2 62 ++ (0#2) ∧ t.am = st.am ∧ t.memb = st.memb ∧
     (c ∈ [.illegal, .emulate, .priv, .xmoduse, .badop, .vregrange, .tokenwrite, .stranddepth, .pubwrite, .joinctx, .barstrand, .mmarole,
         .mfmt, .align, .translate, .protect, .region, .stashrange, .extentgone] →
       w.tpcWritten = false → w.tNoted = false → t.replay = some w.tlane) ∧
     (c ∈ [.overread, .uncounted, .heaperr, .fpexc, .usertrap, .break_, .dbghalt, .blockhalt, .mcheck] → t.replay = none) ∧
     ((w.tpcWritten = true ∨ w.tNoted = true) → t.replay = none)) ∧
  (∀ w : Wave, (∀ n, n < 8 → (w.strand n).stack.length ≤ 16) →
     let f := w.frame;
     let at' := fun off n => field f off n;
     f.length = 8192 ∧ (∀ n, n < 16 → at' (4 * n) 4 = (w.sreg 0 n).toNat) ∧
     at' 0x40 12 = (w.strand w.tstrand).am.toNat ∧ at' 0x4C 4 = w.fstat.toNat ∧ at' 0x50 4 = w.tcause % 2 ^ 32 ∧
     at' 0x54 4 = w.tstrand % 2 ^ 32 ∧ at' 0x58 8 = w.tval.toNat ∧ at' 0x60 8 = canonPc w.tpc ∧ at' 0x68 4 = w.tskid % 2 ^ 32 ∧
     at' 0x6C 4 = 0 ∧ at' 0x70 12 = w.tlane.toNat ∧ at' 0x7C 4 = 0 ∧ at' 0x340 192 = 0 ∧ at' 0x1C00 1024 = 0 ∧
     (∀ r l, r < 8 → l < 96 → at' (0x1000 + 384 * r + 4 * l) 4 = (w.vreg r l).toNat) ∧
     ∀ n, n < 8 → let q := w.strand n;
       let o := 0x80 + 64 * n;
       let arms := q.kind = .cont ∧ q.state ≠ .free;
       (q.state = .free → at' o 64 = 0) ∧
       (q.state ≠ .free → at' o 4 = q.snapHead ∧ at' (o + 4) 4 = q.age.toNat ∧ at' (o + 8) 8 = canonPc q.standPc ∧
         at' (o + 16) 12 = q.memb.toNat ∧ at' (o + 28) 12 = q.am.toNat ∧
         at' (o + 40) 16 = (if q.state = .ended then 2 ^ 128 - 1 else q.pubV.toNat) ∧
         at' (o + 56) 8 = (if q.state = .ended then 2 ^ 64 - 1 else q.pubS.toNat)) ∧
       (let bits := fun (lo k : Nat) => q.snapHead / 2 ^ lo % 2 ^ k;
        let one := fun (b : Bool) => if b = true then 1 else 0;
        q.snapHead < 2 ^ 28 ∧ bits 0 2 = (match q.state with | .free => 0 | .ready => 1 | .parked => 2 | .ended => 3) ∧
        bits 2 2 = (match q.kind with | .root => 0 | .armT => 1 | .armF => 2 | .cont => 3) ∧
        bits 4 3 = q.parent.getD 0 % 8 ∧ bits 7 1 = one q.parent.isSome ∧
        bits 8 3 = q.armT.slot % 8 ∧ bits 11 1 = one q.armT.live ∧ bits 12 1 = one q.armT.ended ∧
        bits 13 3 = q.armF.slot % 8 ∧ bits 16 1 = one q.armF.live ∧ bits 17 1 = one q.armF.ended ∧
        bits 18 5 = q.stack.length ∧ bits 23 1 = one q.trap ∧ bits 24 4 = (if q.state = .parked then q.park.code else 0)) ∧
       at' (0x280 + 24 * n) 12 = (if arms then q.armT.lanes.toNat else 0) ∧
       at' (0x28C + 24 * n) 12 = (if arms then q.armF.lanes.toNat else 0) ∧
       ∀ e x, q.stack.reverse[e]? = some x → let k := 0x400 + 384 * n + 24 * e;
         at' k 8 = canonPc x.pc ∧ at' (k + 8) 12 = x.lanes.toNat ∧
         at' (k + 20) 4 = (match x.state with | .fPending => 0 | .fRunning => 1 | .cPending => 2 | .cRunning => 3)) ∧
  (∀ (core slot : Nat) (s : State) (ks : List Nat),
     let w := s.wave core slot;
     let a := s.frameAddr core slot;
     let n := w.liveSlots.headD 0;
     w.frameAt = none → a = (s.vi w.vi).tfb.toNat + (64 * core + slot) * 8192 ∧
     s.writeFrames core slot ks = (s.storeBytes core slot 128 64 a w.frame).bind (fun t => ks.foldl (fun r k => r.bind fun u =>
       if k = waveKey core slot then .ok u else u.siblingHeader (k / 64) (k % 64)) (.ok t)) ∧
     s.siblingHeader core slot = ((s.storeBytes core slot 4 2 (a + 0x50) (leBytes 4 Cause.blockhalt.code ++ leBytes 4 n)).bind fun t =>
       t.storeBytes core slot 8 1 (a + 0x60) (leBytes 8 (if w.liveSlots = [] then 0 else canonPc (w.strand n).pc))).bind fun t =>
         t.storeBytes core slot 4 1 (a + 0x68) (leBytes 4 w.sinceHalt)) ∧
  (∀ (core slot : Nat) (s t : State) (word : Word) (f : List Byte),
     let u := s.drainWave core slot;
     (u.wave core slot).latched = none → u.loadBytes core slot 128 64 (u.frameAddr core slot) = .ok (f, t) →
     let y := t.traceRec core slot 3 8 0 (((s.wave core slot).strand 8).pc - 4);
     let w := y.wave core slot;
     let z := s.returnTrap core slot word;
     let x := z.wave core slot;
     let back := (w.strand w.tstrand).resumeAt w (t.cycle (s.wave core slot).part);
     z.mem = y.mem ∧ (∀ n, n < 16 → x.sreg 0 n = BitVec.ofNat 32 (field f (4 * n) 4)) ∧
     (∀ n, 16 ≤ n → n < 60 → x.sreg 0 n = w.sreg 0 n) ∧ x.fstat = (BitVec.ofNat 32 (field f 0x4C 4)).setWidth 5 ∧
     (∀ r l, r < 8 → l < 96 → x.vreg r l = BitVec.ofNat 32 (field f (0x1000 + 384 * r + 4 * l) 4)) ∧
     (∀ r l, 8 ≤ r → l < 96 → x.vreg r l = w.vreg r l) ∧
     (w.tstrand < 8 → (x.strand 8).state = .free ∧ (x.strand w.tstrand).state = .ready ∧ (x.strand w.tstrand).pc = back.pc ∧
       (x.strand w.tstrand).replay = back.replay ∧
       ∀ n, n < 8 → n ≠ w.tstrand → (x.strand n).state = (w.strand n).state ∧ (x.strand n).pc = (w.strand n).pc))

/-! ## Events of the host and of management -/

/-- R266, R267, R326, R327, R357: a host write and a host read complete where the window that they name holds them: the physical function's of
1 TiB, of which HBM takes the first 576 GiB, or one of the 64 VIs' of 256 TiB; a read answers the bytes, 0 beyond HBM, and a VI's access that
cannot be translated posts a record and reads all ones.  That an access which no window holds leaves the state as it is, is the model's
choice (log entry 8), and so is the VI that a response's payload counts for (log entry 45).  An access of a partition of another device comes by a port that is up and is performed at the home of its address, where the port's programming lets that partition
reach the partition that owns the address: a load answers the bytes, a store writes them, an atomic answers the old value; any other is
refused. -/
def Obligations.HostAndRemoteAccesses : Prop :=
  (∀ (s : State) (off n v : Nat) (data : List Byte),
     let answer (t : State) (l : List Byte) : State := { t with outbox := t.outbox ++ [.hostData l] };
     let left := hbmEnd - off;
     (off + data.length ≤ 2 ^ 40 → exec (.hostWrite .pf off data) s = .next (s.physWrite off (data.take left)).wakeFutures) ∧
     (off + n ≤ 2 ^ 40 → exec (.hostRead .pf off n) s = .next (answer (s.physTouch off (min n left) false)
       (s.physRead off (min n left) ++ List.replicate (n - left) 0))) ∧
     (2 ^ 40 < off + data.length → exec (.hostWrite .pf off data) s = .next s) ∧
     (2 ^ 40 < off + n → exec (.hostRead .pf off n) s = .next s) ∧
     ((64 ≤ v ∨ 2 ^ 48 < off + data.length) → exec (.hostWrite (.vi v) off data) s = .next s) ∧
     ((64 ≤ v ∨ 2 ^ 48 < off + n) → exec (.hostRead (.vi v) off n) s = .next s) ∧
     (v < 64 → off + data.length ≤ 2 ^ 48 →
       (∀ t, s.writeVirt v off data = .ok t → exec (.hostWrite (.vi v) off data) s =
         .next (t.countVirt (t.viPart v) v off data.length true).wakeFutures) ∧
       (∀ r, s.writeVirt v off data = .error r → exec (.hostWrite (.vi v) off data) s =
         .next ((s.walkVirt (s.viPart v) v off data.length).hostError v off r))) ∧
     (v < 64 → off + n ≤ 2 ^ 48 →
       (∀ l, s.readVirt v off n = .ok l → exec (.hostRead (.vi v) off n) s =
         .next (answer (s.countVirt (s.viPart v) v off n false) l)) ∧
       (∀ r, s.readVirt v off n = .error r →
         let t := if r.cause = .mcheck then s.countVirt (s.viPart v) v off n false else s.walkVirt (s.viPart v) v off n
         exec (.hostRead (.vi v) off n) s = .next (answer (t.hostError v off r) (List.replicate n 0xFF))))) ∧
  (∀ (s : State) (port dev part off n : Nat) (data : List Byte) (ao : AtomOp) (v c : DWord),
     let i := fun op => exec (.remoteAccess ⟨port, dev, part⟩ op) s;
     let answer (t : State) (l : List Byte) : State := { t with outbox := t.outbox ++ [.link dev l] };
     let may (off : Nat) := ∃ p, s.hbmOwner off = some p ∧ (dev, part, p) ∈ (SMap.get {} s.dev.ports port : Port).reach;
     let k := atomSize ao;
     let old := leNat (s.physRead off k);
     port < 16 → dev < 1024 → part < 8 → (SMap.get {} s.dev.ports port : Port).up = true →
     (∀ op, ¬may (remoteOff op) → i op = .next { s with outbox := s.outbox ++ [.refuse dev] }) ∧
     (may off →
       (off + n ≤ hbmEnd → i (.load off n) = .next (answer ((s.physTouch off n false).sendPayload off n) (s.physRead off n))) ∧
       (off + data.length ≤ hbmEnd → i (.store off data) = .next (answer (s.physWrite off data).wakeFutures [])) ∧
       (off + k ≤ hbmEnd → off % k = 0 → i (.atomic ao off v c) = .next (answer
         ((s.physWrite off (leBytes k (atomNew ao old (v.toNat % 2 ^ (8 * k)) (c.toNat % 2 ^ (8 * k))))).wakeFutures.sendPayload off k)
         (leBytes k old)))))

/-- R303, R329, R332: each request of the request ring completes: its status is written to its entry, REQCONS advances, and the interrupt is
sent; SETTRAP, SETROOT, GROUP, SCHEDP, ASSIGN, RESETVI and EXTDONE have their effect with status 0, and none but the reading of a member list when
they break a rule, status 1, or meet what is busy, status 2.  That the partition of ASSIGN is a field of 4 bytes, with status 1 for a number without a partition, is the model's choice (log entry 53), and so are
the limits of GROUP's index and entries (log entry 52). -/
def Obligations.Requests : Prop :=
  ∀ (s : State) (vi : Nat) (l : List Byte),
    let does (code : Nat) (e : Instr) (ok : Prop) (t : State) := s.asks code vi l → ok → exec e s = .next (s.answered t 0)
    let fails (code : Nat) (e : Instr) (bad : Prop) (status : Nat) := s.asks code vi l → bad → exec e s = .next (s.answered s status)
    let tfb := field l 16 8
    let root := field l 8 8
    let prio := field l 8 4
    let slice := field l 12 4
    let part := field l 8 4
    does 1 .settrap (tfb % 8192 = 0)
      (s.updVi vi fun v => { v with tba := BitVec.ofNat 64 (field l 8 8), tfb := BitVec.ofNat 64 tfb }) ∧
    fails 1 .settrap (tfb % 8192 ≠ 0) 1 ∧
    does 2 .setroot (root % 4096 = 0) ((s.tlbInvalidate vi true 0).updVi vi fun v => { v with root := BitVec.ofNat 64 root }) ∧
    fails 2 .setroot (root % 4096 ≠ 0) 1 ∧
    does 4 .schedp (prio ≤ 7 ∧ 100 ≤ slice ∧ slice ≤ 50000) (s.updVi vi fun v => { v with prio := prio, slice := slice }) ∧
    fails 4 .schedp (7 < prio ∨ slice < 100 ∨ 50000 < slice) 1 ∧
    does 5 .assign ((s.part part).size ≠ 0 ∧ s.idleVi vi = true) (s.assignVi vi part) ∧
    fails 5 .assign ((s.part part).size = 0) 1 ∧ fails 5 .assign ((s.part part).size ≠ 0 ∧ s.idleVi vi = false) 2 ∧
    does 6 .resetvi True (s.resetVi vi) ∧
    (let m := field l 10 2
     let list := field l 16 8
     let t := (s.fetchVirt (s.viPart vi) vi list (8 * m)).1
     let gives (ok : Prop) (status : Nat) (u : State) := s.asks 3 vi l → field l 12 2 < m → ok → exec .group s = .next (s.answered u status)
     fails 3 .group (m ≤ field l 12 2) 1 ∧
     (∀ r, gives (s.readVirt vi list (8 * m) = .error r) 1 t) ∧
     ∀ d, s.readVirt vi list (8 * m) = .ok d →
       let es := (List.range m).map fun i => field d (8 * i) 8
       gives (∃ e ∈ es, 2 ^ 32 ≤ e) 1 t ∧
       gives ((∀ e ∈ es, e < 2 ^ 32) ∧ t.groupBusy vi (field l 8 2) = true) 2 t ∧
       gives ((∀ e ∈ es, e < 2 ^ 32) ∧ t.groupBusy vi (field l 8 2) = false) 0
         (t.updVi vi fun v => { v with groups := SMap.put v.groups (field l 8 2) ⟨m, field l 12 2, es.map (BitVec.ofNat 64)⟩ })) ∧
    fails 7 .extdone ((s.dev.extents.find? fun e => e.base = field l 8 8 && e.vi = vi && e.pending) = none) 1 ∧
    (∀ e, (s.dev.extents.find? fun e => e.base = field l 8 8 && e.vi = vi && e.pending) = some e →
      does 7 .extdone True (s.fenceExtent e))

/-- R328, R337, R338: POWER_ON leaves the state of reset, but for memory outside the device (log entry 48) and the number of boots, and begins to
verify the image of the flash.  IMGGO begins to verify the host's image where the device waits for one or has failed; in any other stage the
result is noted and the stage stays (log entry 6).  A step of the boot: a good image of the flash is measured and goes on to the training; any
other lets the device wait for the host's; a good image of the host is measured by SHA-256 and goes on, any other fails with its code; after
the training the measurement is in the attestation log, the alias key signs the log, the epoch is one more, and the device is ready.  Which
images are good and signed, the first epoch and the code are free, and an IMGBASE that is no multiple of 4,096 or an image beyond 64 MiB
fails (log entry 6). -/
def Obligations.Boot : Prop :=
  (∀ (s : State), let d := s.dev
    exec .powerOn s = .next { State.reset with
      mem := s.mem.filter (fun x => hostBase ≤ x.1 && x.1 < 2 * hostBase), agenda := s.agenda, outbox := s.outbox
      dev := { stage := 1, boots := d.boots } } ∧
    ((d.stage = 2 ∨ d.stage = 15) →
      exec .imggo s = .next { s with dev := { d with stage := 1, failCode := 0, hostImage := true } }) ∧
    (d.stage ≠ 2 → d.stage ≠ 15 → exec .imggo s = .next { s with dev := { d with checked := some s.imageGood } })) ∧
  ∀ (s : State) (rest : List Choice), s.agenda = .boot :: rest →
    let t : State := { s with agenda := rest }
    let d := t.dev
    let bytes := t.physRead (hostBase + d.imgBase.toNat) d.imgLen
    let good := d.imgBase.toNat % 4096 = 0 ∧ d.imgLen ≤ 2 ^ 26 ∧ Config.imageOk bytes = true
    let goes (x : Device) := step s = .next { t with dev := x }
    (d.stage = 1 → d.hostImage = false → goes (if Config.flashImageOk = true then
        { d with stage := 3, measure := Config.flashMeasure, version := Config.flashVersion }
      else { d with stage := 2, checked := some false })) ∧
    (d.stage = 1 → d.hostImage = true → goes (if good then
        { d with stage := 3, measure := sha256 bytes, version := Config.imageVersion bytes }
      else { d with stage := 15, checked := some false, failCode := Config.failureCode.toNat })) ∧
    (d.stage = 3 → let log := d.attlog ++ [d.measure]
      goes { d with
        stage := 4, boots := d.boots + 1, epoch := Config.flashEpoch + d.boots + 1, attlog := log
        attsig := Config.signature d.measure d.version (sha256 (log.flatMap fun m => beBytes 32 m.toNat)) }) ∧
    (d.stage ≠ 1 → d.stage ≠ 3 → step s = .next t)

/-- R340 to R349, R354: each management message that names a VI completes with its answer: SETJOB forms a membership record, GETSNAP takes a
snapshot, and that it ends the cycle then is the model's choice (log entry 14); GETMEMB gives the latest record; GETBINS and SETBIN act on the bins
of the VI's partition; SETTRACE sets the trace.  While the VI's partition is being reset the answer is 2, and nothing changes.  DUMP_KEY
sets the key of an assigned VI.  Status 1 for a GETSNAP whose snapshot cannot be taken, for a VI of 64 or more, for a bin of 16 or more and
for the bins of a VI without a partition is the model's choice (log entry 51). -/
def Obligations.ManagementMessages : Prop :=
  ∀ (s : State) (vi : Nat),
    let reply (t : State) (status : Nat) (data : List Byte) : State := { t with outbox := t.outbox ++ [.reply status data] }
    let busy := (s.vi vi).part.any (fun p => (s.part p).resetting) = true
    (vi < 64 → ¬busy →
      (∀ job, exec (.setjob vi job) s = .next (reply ((s.updVi vi fun v => { v with job := job }).formMemb vi) 0 [])) ∧
      (∀ p t, (s.vi vi).part = some p → s.snapshot p vi 1 = some t →
        exec (.getsnap vi) s = .next (reply (t.tick 1) 0 (SMap.get [] ((t.tick 1).part p).snaps vi))) ∧
      (∀ p, (s.vi vi).part = some p → s.snapshot p vi 1 = none → exec (.getsnap vi) s = .next (reply s 1 [])) ∧
      ((s.vi vi).part = none → exec (.getsnap vi) s = .next (reply s 1 [])) ∧
      exec (.getmemb vi) s = .next (reply s 0 (s.vi vi).memb) ∧
      (∀ p, (s.vi vi).part = some p → exec (.getbins vi) s =
        .next (reply s 0 ((List.range 16).flatMap fun n => (SMap.get {} (s.part p).bins n : Bin).bytes))) ∧
      (∀ p bin base limit binVi, (s.vi vi).part = some p → bin < 16 → exec (.setbin vi bin base limit binVi) s =
        .next (reply (s.updPart p fun p => { p with bins := SMap.put p.bins bin { base := base, limit := limit, vi := binVi } }) 0 [])) ∧
      (∀ bin base limit binVi, ((s.vi vi).part = none ∨ 16 ≤ bin) → exec (.setbin vi bin base limit binVi) s = .next (reply s 1 [])) ∧
      ((s.vi vi).part = none → exec (.getbins vi) s = .next (reply s 1 [])) ∧
      (∀ base size kinds, exec (.settrace vi base size kinds) s =
        .next (reply (s.updVi vi fun v => { v with trace := { v.trace with base := base, size := size, kinds := kinds } }) 0 []))) ∧
    (∀ key, (s.vi vi).part.isSome = true → exec (.dumpKey vi key) s = .next (s.updVi vi fun v => { v with key := some key })) ∧
    (∀ job base limit size kinds bin binVi q idx x y z target, ∀ e ∈ [Instr.setjob vi job, .getsnap vi, .getmemb vi,
        .setbin vi bin base limit binVi, .getbins vi, .settrace vi base size kinds, .stop vi q idx x y z, .resume vi q idx x y z,
        .dump ⟨vi, target⟩],
      (64 ≤ vi → exec e s = .next (reply s 1 [])) ∧ (vi < 64 → busy → exec e s = .next (reply s 2 [])))

/-- R340, R347, R351 to R354: STOP stops the block that it names and RESUME lets it go on, each with status 1 when there is none (log entry 51);
traps that can be taken are taken before the stop, and a begun prefix is completed first: the block is stopping until then, and answers when it
has stopped (log entries 49 and 91).  DUMP sends its chunks, each sealed
by AES-256-GCM under the VI's key with the dump's number and the chunk's as its IV (log entry 50), to host memory or out by Ethernet, and is
refused with status 2 while the VI is resident and not stopped.  The lane-cycle record counts a quarter's slot once in a cycle; a core or a
quarter that does not exist has no record (log entry 8). -/
def Obligations.StopAndDump : Prop :=
  ∀ (s : State) (vi q idx x y z core quarter : Nat),
    let reply (t : State) (status : Nat) : State := { t with outbox := t.outbox ++ [.reply status []] }
    let bs := s.namedBlocks vi q idx x y z
    let halted (a : State) (bs : List Nat) : State :=
      let u := a.takeTraps (bs.flatMap a.blockWaves)
      let v := (bs.flatMap u.blockWaves).foldl (fun s k => s.stopWave k) u
      reply (bs.foldl (fun s b =>
        if (SMap.find? s.blocks b).isSome then s.updBlock b fun b => { b with stopped := true, stopping := false } else s) v) 0
    (∀ blk (b : Block), b.stopping = true → s.midPrefix ((blk :: b.peer.toList).flatMap s.blockWaves) = false →
      s.stopDue blk b = some (halted s (blk :: b.peer.toList))) ∧
    (vi < 64 → (s.vi vi).part.any (fun p => (s.part p).resetting) = false →
      (bs = [] → exec (.stop vi q idx x y z) s = .next (reply s 1)) ∧
      (bs ≠ [] → (∃ b ∈ bs, (s.block b).stopped = true) → exec (.stop vi q idx x y z) s = .next (reply s 0)) ∧
      (bs ≠ [] → (∀ b ∈ bs, (s.block b).stopped = false) →
        let marked := bs.foldl (fun s b => s.updBlock b fun b => { b with stopping := true })
          ((bs.flatMap s.blockWaves).foldl (fun s k => s.updWaveK k fun w => { w with stopSkid := 0 }) s)
        let gives (a : State) :=
          (a.midPrefix (bs.flatMap a.blockWaves) = true → exec (.stop vi q idx x y z) s = .next a) ∧
          (a.midPrefix (bs.flatMap a.blockWaves) = false → exec (.stop vi q idx x y z) s = .next (halted a bs))
        ((∀ b ∈ bs, (s.block b).stopping = false) → gives marked) ∧
        ((∃ b ∈ bs, (s.block b).stopping = true) → gives s)) ∧
      (bs.filter (fun b => (s.block b).stopped) = [] → exec (.resume vi q idx x y z) s = .next (reply s 1)) ∧
      (let cs := bs.filter fun b => (s.block b).stopped
       cs ≠ [] → exec (.resume vi q idx x y z) s =
        .next (reply (cs.foldl (fun s b => s.updBlock b fun b => { b with stopped := false })
          ((cs.flatMap s.blockWaves).foldl (fun s k => s.updWaveK k fun w => { w with stop := none }) s)) 0)) ∧
      (∀ p key, (s.vi vi).part = some p → (s.vi vi).key = some key →
        let n := s.dev.dumpSeq + 1
        let refused := (s.part p).resident = some vi ∧ (s.blocks.any fun b => b.2.vi = vi && !b.2.stopped) = true
        let u := reply { s with dev := { s.dev with dumpSeq := n } } 0
        let sealed := (dumpChunks (s.dumpParts vi)).zipIdx.map fun c => sealGcm key (BitVec.ofNat 96 (n * 2 ^ 32 + c.2)) c.1
        (¬refused → ∀ port, exec (.dump ⟨vi, .ethernet port⟩) s = .next { u with outbox := u.outbox ++ sealed.map fun c => Out.chunk port c }) ∧
        (¬refused → ∀ a, exec (.dump ⟨vi, .host a⟩) s =
          .next ((u.physPut (hostBase + a) (sealed.flatten.take (hostBase - a))).wakeFutures)) ∧
        (refused → ∀ target, exec (.dump ⟨vi, target⟩) s = .next (reply s 2))) ∧
      (((s.vi vi).part = none ∨ (s.vi vi).key = none) → ∀ target, exec (.dump ⟨vi, target⟩) s = .next (reply s 1))) ∧
    ((160 ≤ core ∨ 4 ≤ quarter) → exec (.laneCycleRecord core quarter) s = .next s) ∧
    (core < 160 → quarter < 4 → exec (.laneCycleRecord core quarter) s = .next (s.laneCycle core quarter) ∧
      (s.laneCycle core quarter).laneCycle core quarter = s.laneCycle core quarter)

/-! ## Events of the fabric -/

/-- R330, R332, R333, R339: an extent is added apart from every extent in use, and its VI reads what the device holds through a key of its own; it
is released with a record to its owner, once, and fenced after the grace period or at once when forced; a bank owes at most 8 refreshes, and
after an alert of its activations neither refreshes nor activations (log entry 46); the limiter withholds issue slots; OVER_TEMPERATURE
resets the partition and keeps its domains.  R334, R335: LINK_UP gives the port its partner and the device its number; LINK_FAILURE takes
the port down, and the partition loses the partner when none of its other ports reaches it (log entry 44).  An event that cannot take place
leaves the state as it is (log entry 8). -/
def Obligations.DeviceEvents : Prop :=
  (∀ (s : State) (base len vi stack chan bank : Nat) (e : Extent),
     (let clash (x : Extent) : Bool := x.base < base + len && base < x.base + x.len;
      let i : Instr := .extentAdd base len vi;
      (len ≠ 0 → base + len ≤ 2 ^ 44 → vi < 64 → (∀ x ∈ s.dev.extents, clash x = true → x.gone = true) →
        exec i s = .next (({ s with dev := { s.dev with
          extents := s.dev.extents.filter (fun x => !clash x) ++ [{ base := base, len := len, vi := vi }] } } : State).rekey vi base len)) ∧
      ((len = 0 ∨ 2 ^ 44 < base + len ∨ 64 ≤ vi ∨ ∃ x ∈ s.dev.extents, clash x = true ∧ x.gone = false) → exec i s = .next s)) ∧
     ((s.dev.extents.find? fun e => e.base = base && !e.gone) = some e →
       exec (.extentRelease base true) s =
         .next (((if e.pending then s else s.extentRecord e.vi e.base 3).extentRecord e.vi e.base 2).fenceExtent e)) ∧
     ((s.dev.extents.find? fun e => e.base = base && !e.gone && !e.pending) = some e →
       exec (.extentRelease base false) s = .next (let t := s.extentRecord e.vi e.base 3
         { t with dev := { t.dev with extents := t.dev.extents.map fun x => if x = e then { x with pending := true } else x } })) ∧
     ((s.dev.extents.find? fun e => e.base = base && e.pending) = some e →
       exec (.gracePeriodEnd base) s = .next ((s.extentRecord e.vi e.base 2).fenceExtent e)) ∧
     (stack < 12 → chan < 32 → ∃ t, exec (.refreshInterval stack chan bank) s = .next t ∧
       let owed (u : State) := SMap.get 0 (u.part (s.chanPart stack chan)).refresh (bankKey stack chan bank);
       owed t = min 8 (owed s + 1) ∧ t.mem = s.mem) ∧
     (let acts (u : State) := SMap.get 0 (u.part (s.chanPart stack chan)).acts (bankKey stack chan bank);
      stack < 12 → chan < 32 →
      (acts s ≠ 0 → ∃ t, exec (.activationAlert stack chan bank) s = .next t ∧ acts t = 0 ∧
        SMap.get 0 (t.part (s.chanPart stack chan)).refresh (bankKey stack chan bank) = 0 ∧ t.mem = s.mem) ∧
      (acts s = 0 → exec (.activationAlert stack chan bank) s = .next s)) ∧
     ((12 ≤ stack ∨ 32 ≤ chan) → exec (.refreshInterval stack chan bank) s = .next s ∧
       exec (.activationAlert stack chan bank) s = .next s) ∧
     exec .powerOverrun s = .next { s with dev := { s.dev with withhold := true } }) ∧
  (∀ (s : State) (port part partner partnerPort : Nat) (ident : BitVec 256),
     let p : Port := SMap.get {} s.dev.ports port;
     let mine (n : Nat) := part ≤ n / 2 ∧ n / 2 < part + (s.part part).size;
     (port < 16 → partner < 1024 → partnerPort < 16 → ∃ t, exec (.linkUp port partner partnerPort ident) s = .next t ∧
       SMap.get {} t.dev.ports port =
         ({ p with up := true, failed := false, dev := partner, port := partnerPort, ident := ident } : Port) ∧
       t.dev.devNum = Config.deviceNumber.toNat ∧ (mine port → t.lostTo part partner = false) ∧ t.mem = s.mem) ∧
     (port < 16 → p.up = true → ∃ t, exec (.linkFailure port) s = .next t ∧
       SMap.get {} t.dev.ports port = ({ p with up := false, failed := true } : Port) ∧
       (mine port → (∀ n, n < 16 → n ≠ port → mine n → let q : Port := SMap.get {} s.dev.ports n; q.up = true → q.dev ≠ p.dev) →
         t.lostTo part p.dev = true)) ∧
     ((16 ≤ port ∨ 1024 ≤ partner ∨ 16 ≤ partnerPort) → exec (.linkUp port partner partnerPort ident) s = .next s) ∧
     (p.up = false → exec (.linkFailure port) s = .next s) ∧
     ((s.part part).size ≠ 0 → ∃ t, exec (.overTemperature part) s = .next t ∧
       (t.part part).size = (s.part part).size ∧ (t.part part).lent = (s.part part).lent ∧ (t.part part).heaps = [] ∧
       (t.part part).resident = none))

/-! ## Completions of engines, ports and the matrix unit -/

/-- R172 to R176, R198, R238: the entry at the head of a queue completes once the accesses that its issue released towards it are performed.
ACOPY and GATH or SCAT end with status 4 when an operand breaks a rule, with the fault where one stops them, else with status 0 after all
their bytes or positions; a counted fill whose ways cannot be had ends with CFULL, status 1, and gives back what it had reserved; a copy of
one piece from stash to stash writes the source's bytes at the destination and nothing else, and a counted one gives the line its count.  A
copy of length 0 completes at the head of its queue (log entry 74).  COLL ends with status 4 when an operand breaks a rule or the members
disagree, as a machine check when one is lost, else with the output written, the bytes that it has sent metered and status 0; a barrier moves
no data.  The order in which members' data are combined comes with the event, and a broadcast root that is no member is a RANGE (log entry
37). -/
def Obligations.EngineCompletions : Prop :=
  ∀ (blk : Nat) (s : State) (e : EngEntry) (rest : List EngEntry), s.enginesRun blk = true →
    s.gateOpen e.core e.slot e.gate = true →
    let heads (q : Nat) := SMap.get [] (s.block blk).queues q = e :: rest
    let g := s.engAgent blk e
    (∀ q d r len cnt, q ≤ 3 → heads q → e.op = .acopy d r len cnt →
      let i : Instr := .acopyComplete blk q
      let bad := s.acopyRange blk d.toNat r.toNat len cnt
      (len = 0 → exec i s = .next (s.endEntry blk q 0)) ∧
      (len ≠ 0 → e.begun = false → bad = true → exec i s = .next (s.endEntry blk q 4)) ∧
      (∀ st, len ≠ 0 → s.startCopy blk q g e d.toNat r.toNat len cnt = .error st → exec i s = .next (s.endEntry blk q st)) ∧
      (∀ t, len ≠ 0 → s.startCopy blk q g e d.toNat r.toNat len cnt = .ok t →
        (t.reserveSome blk q g.part (2 ^ 17) = none → exec i s = .next ((t.stopFill blk q g.part).endEntry blk q 1)) ∧
        (∀ u pix v, t.reserveSome blk q g.part (2 ^ 17) = some (true, u) →
          u.copyFrom g d.toNat r.toNat len cnt (u.fillStop blk q) (len / 4 + 1) (2 ^ 24) e.pix = (pix, none, v) → len ≤ pix →
          exec i s = .next (((v.setPix blk q pix).stopFill blk q g.part).endEntry blk q 0)) ∧
        (∀ u pix x v, t.reserveSome blk q g.part (2 ^ 17) = some (true, u) →
          u.copyFrom g d.toNat r.toNat len cnt (u.fillStop blk q) (len / 4 + 1) (2 ^ 24) e.pix = (pix, some x, v) →
          exec i s = .next (((v.setPix blk q pix).stopFill blk q g.part).failEntry blk q x))) ∧
      (∀ x y w v o p, len ≠ 0 → e.begun = false → e.pix = 0 → e.held = [] → bad = false → (cnt ≠ 0 → s.stashLive blk d.toNat len = false) →
        len ≤ toLineEnd d.toNat → len ≤ toLineEnd r.toNat →
        stashOff d.toNat = some x → s.stashAt blk x len = some (w, o) → stashOff r.toNat = some y → s.stashAt blk y len = some (v, p) →
        (s.waves.any fun k => k.2.queue.any QEntry.atHome) = false → (s.block v).bad.contains (p / 128) = false →
        ∃ u : State, exec i s = .next (u.endEntry blk q 0) ∧ u.mem = s.mem ∧ u.waves = s.waves ∧
          (u.block w).stash = Memory.write (s.block w).stash o len (Memory.read (s.block v).stash p len) ∧
          (∀ k, k ≠ w → (u.block k).stash = (s.block k).stash) ∧
          (cnt = 0 → ∀ k, (u.block k).counts = (s.block k).counts) ∧
          (cnt ≠ 0 → SMap.get .none (u.block w).counts (o / 128) = .live cnt ∧
            SMap.find? (u.block w).countVa (o / 128) = some (BitVec.ofNat 64 (stashBase + o))))) ∧
    (∀ table index arr n es iw ok sc, heads 4 →
      (match sc with | none => e.op = .gath table index arr n es iw ok | some op => e.op = .scat table index arr n op es iw ok) →
      let i : Instr := .gathScatComplete blk
      let bad := s.gathRange blk table.toNat index.toNat arr.toNat n es iw (sc.getD 0) ok
      let t := s.updHead blk 4 fun e => { e with begun := true }
      (e.begun = false → bad = true → exec i s = .next (s.endEntry blk 4 4)) ∧
      (∀ pix u, (e.begun = false → bad = false) →
        t.gathFrom g table.toNat index.toNat arr.toNat n es iw sc (min (2 ^ 24) n) e.pix = (pix, none, u) → n ≤ pix →
        exec i s = .next ((u.setPix blk 4 pix).endEntry blk 4 0)) ∧
      (∀ pix x u, (e.begun = false → bad = false) →
        t.gathFrom g table.toNat index.toNat arr.toNat n es iw sc (min (2 ^ 24) n) e.pix = (pix, some x, u) →
        exec i s = .next ((u.setPix blk 4 pix).failEntry blk 4 x))) ∧
    (∀ sd rv n gid root redop ty op ok, heads 6 → e.op = .coll sd rv n gid root redop ty op ok →
      let grp := SMap.find? (s.vi g.vi).groups gid
      let bad := collRange grp sd.toNat rv.toNat n root ty op ok
      let sz := collSize ty
      let sent (x : Group) : Nat := if x.m < 2 then 0 else Config.collBytes op n sz x.m x.q
      (∀ inp, bad = true → exec (.collComplete blk inp) s = .next (s.endEntry blk 6 4)) ∧
      (bad = false → exec (.collComplete blk .disagree) s = .next (s.endEntry blk 6 4) ∧
        exec (.collComplete blk .lost) s = .next (s.failEntry blk 6 ⟨.mcheck, 0⟩ true)) ∧
      (∀ x data order own t u, grp = some x → bad = false → data.length = x.m → isOrder x.m order = true →
        let lens := collLens op n x.m sz
        (∀ l ∈ data, l.length = lens.1) →
        s.collRead g (lens.1 / 128 + 2) sd.toNat (if op = 3 ∧ x.q ≠ root then 0 else lens.1) = .ok (own, t) →
        t.collWrite g (lens.2 / 128 + 2) rv.toNat lens.2 (((List.range (lens.2 / sz)).map fun i =>
          2 ^ (8 * sz * i) * collElem (collData data x.q own) order n x.q root redop ty op i).foldl (· + ·) 0) = .ok u →
        exec (.collComplete blk (.sends data order)) s = .next ((u.addMeter g.vi 15 (sent x)).endEntry blk 6 0)) ∧
      (∀ x order, grp = some x → bad = false → op = 4 → isOrder x.m order = true →
        exec (.collComplete blk (.sends (List.replicate x.m []) order)) s = .next ((s.addMeter g.vi 15 (sent x)).endEntry blk 6 0)))

/-- R16, R173, R178, R179, R183, R345: an operation of the memory port completes line by line: its token receives 0, or the status of the fault
that stopped it, and is no longer pending; nothing of it happens twice, and nothing in a stopped block (R351).  SUNMAP writes its window's dirty
lines back in ascending order when it is to, and unmaps it.  CDROP of a line that counts makes it spent.  METSNAP completes with 0 when the
snapshot can be taken, and that it ends the cycle then is the model's choice (log entry 14); it completes with FAULT, status 2, when its buffer is
unusable, and that 2 is the status too where its VI has no partition is the model's inference (log entry 51). -/
def Obligations.PortCompletions : Prop :=
  ∀ (core slot id : Nat) (s : State), slot < 64 →
    let w := s.wave core slot
    (∀ x : SnapOp, (w.snaps.find? fun y => y.id = id) = some x →
      let ends (t : State) (status : Word) := t.updWave core slot fun w =>
        { w with tokens := w.tokens.filter (· != x.token), s := SMap.set 0 w.s x.token status, snaps := w.snaps.filter fun y => y.id != id }
      ((s.vi x.vi).part = none → exec (.metsnapComplete core slot id) s = .next (ends s 2)) ∧
      (∀ p, (s.vi x.vi).part = some p → s.snapshot p x.vi 0 = none → exec (.metsnapComplete core slot id) s = .next (ends s 2)) ∧
      (∀ p t, (s.vi x.vi).part = some p → s.snapshot p x.vi 0 = some t →
        exec (.metsnapComplete core slot id) s = .next (ends (t.tick 1) 0))) ∧
    ∀ op : PortOp, op ∈ w.port → op.id = id → (∀ x ∈ w.port, x.id = id → x = op) →
    (∀ x ∈ w.port.takeWhile (fun x => x.id != id), x.lanes &&& op.lanes = 0) →
    let g := s.agentOf core slot .normal
    let base := op.base.toNat
    let first := base - base % 128
    let ends (t : State) (op : PortOp) := t.endPort core slot { op with acted := true }
    let run := s.maintain g op.kind (if op.len = 0 then first else base + op.len) (op.len / 128 + 2) first
    let i : Instr := match op.kind with
      | .sunmap _ => .sunmapComplete core slot id
      | .cdrop => .cdropComplete core slot id
      | _ => .cinvCwbComplete core slot id
    (s.isStopped core slot = true → exec i s = .next s) ∧
    (s.isStopped core slot = false →
      (op.acted = true → exec i s = .next (s.endPort core slot op)) ∧
      (op.acted = false →
        (∀ wb, op.kind = .sunmap wb →
          (SMap.find? (s.block w.blk).wins base = none → exec i s = .next (ends s { op with status := 4 })) ∧
          ∀ x, SMap.find? (s.block w.blk).wins base = some x →
            let dirty := x.lines.filterMap fun p => if p.2 = .dirty then some p.1 else none
            let r := if wb = true then s.wbLines w.blk base op x.base dirty else (op, s)
            exec i s = .next (ends (r.2.updBlock w.blk fun b => { b with wins := SMap.erase b.wins base }) r.1)) ∧
        ((∀ wb, op.kind ≠ .sunmap wb) →
          (∀ u, run = (none, u) → exec i s = .next (ends u op)) ∧
          (∀ va r u, run = (some (va, r), u) → exec i s = .next (ends (u.walkedFor core g.vi r)
            { op with status := if r.cause = .extentgone then 3 else 2, va := r.val, cause := r.cause.code, pix := va - base }))) ∧
        (∀ off owner o n, op.kind = .cdrop → 0 < op.len → base % 128 + op.len ≤ 128 → stashOff first = some off →
          s.stashAt w.blk off 1 = some (owner, o) → SMap.get .none (s.block owner).counts (o / 128) = .live n →
          exec i s = .next (ends (s.updBlock owner fun b => { b with counts := SMap.put b.counts (o / 128) .spent }) op)))) ∧
    (op.status = 0 → s.endPort core slot op = s.updWave core slot fun w =>
      { w with tokens := w.tokens.filter (· != op.token), s := SMap.set 0 w.s op.token 0, port := w.port.filter fun x => x.id != op.id }) ∧
    (∀ (win j : Nat) (x : DWord) (l : List Nat),
      (∀ t, s.winWriteBack w.blk win j = .ok t → s.wbLines w.blk win op x (j :: l) = t.wakeFutures.wbLines w.blk win op x l) ∧
      (∀ r, s.winWriteBack w.blk win j = .error r → s.wbLines w.blk win op x (j :: l) =
        ({ op with status := if r.cause = .extentgone then 3 else 2, va := x + BitVec.ofNat 64 (128 * j), cause := r.cause.code, pix := 128 * j },
         s.walkedFor (s.block w.blk).core (s.block w.blk).vi r)))

/-- R185, R189 to R194, R240: the operation at the head of a block's mq completes when its lines can be pinned: it leaves mq with its effect on
the accumulators or on memory; a multiply pins the lines that no pin holds yet, and gives its pins back when it has read them.  MZACC makes
every cell of its accumulator 0 and leaves every other accumulator and memory as they are.  BATCH_COMPLETE counts a closed batch with none of
its operations left, and gives its flags to the waves that issued them.  That the scale arrays are pinned as operands, and that a set's quota is
kept by turns, is the model's reading (log entries 26 and 101). -/
def Obligations.MatrixCompletions : Prop :=
  ∀ (blk : Nat) (s : State), s.enginesRun blk = true →
    (∀ (e : MatEntry) (rest : List MatEntry), (s.block blk).mq = e :: rest → s.matReady blk = true →
      let i : Instr := .matrixOpComplete blk
      let part := (s.block blk).part
      let ends (t : State) : State := (t.updBlock blk fun b => { b with mq := rest }).clearJoins blk 128
      let multiply (a b : DWord) (f : FmtBlock) (ws : Option (List (List Word))) :=
        let p := if e.pix = 0 then s.pinAll part (s.block blk).vi e else (e, s)
        let r := p.2.performMma blk p.1 a b f ws (2 ^ 18)
        mmaGroups f ws.isSome ≤ 2 ^ 18 →
        exec i s = .next (ends ((r.2.unpinLines part r.1.pinned).endMma blk { r.1 with pinned := [], fetched := [] } f))
      (∀ a b f, e.kind = .mma a b f → multiply a b f none) ∧
      (∀ a b f ws, e.kind = .mmasp a b f ws → multiply a b f (some ws)) ∧
      (e.kind = .mzacc → exec i s = .next (ends (s.performZero blk e))) ∧
      (∀ a st fmt, e.kind = .mstacc a st fmt → exec i s = .next (ends (s.performAcc blk e a st fmt true))) ∧
      (∀ a st fmt, e.kind = .mldacc a st fmt → exec i s = .next (ends (s.performAcc blk e a st fmt false)))) ∧
    (∀ e : MatEntry, let t := s.performZero blk e
      let cell (u : State) (k sub acc r c : Nat) := SMap.get 0 (u.block k).accs (cellKey sub acc r c)
      t.mem = s.mem ∧ t.waves = s.waves ∧
      (∀ x ∈ e.shape.tiles, ∀ r c, r < 16 → c < 16 → cell t (s.tileBlock blk x) x.sub e.acc r c = 0) ∧
      (∀ k sub acc r c, acc < 8 → e.acc < 8 → acc ≠ e.acc → r < 16 → c < 16 → cell t k sub acc r c = cell s k sub acc r c)) ∧
    (let b := s.block blk
     b.batchReady = true →
     let n := b.batchDone + 1
     ∃ t, exec (.batchComplete blk) s = .next t ∧ (t.block blk).batchDone = n ∧ (t.block blk).mq = b.mq ∧ t.mem = s.mem ∧
       (∀ k fl, (n, k, fl) ∈ b.batchFlags → (SMap.find? s.waves k).isSome = true → (t.waveK k).mstat &&& fl = fl) ∧
       ∀ k, (t.waveK k).mstat &&& (s.waveK k).mstat = (s.waveK k).mstat)

/-! ## Task heaps -/

/-- R199 to R201, R294, R295: each event of a heap completes.  HEAP_OP_PERFORM performs the first arrival by the rule of its kind, or fails it;
TDONE_PARENT_UPDATE counts the parent's join down and queues the parent at 0; TURNSTILE_POP starts a task wave of the tasks gathered
behind one that no queued task ranks before; HEAP_RUN_END ends a run whose waves and operations are done. -/
def Obligations.HeapEvents : Prop :=
  ∀ (part id : Nat) (s : State) (h : Heap), s.heap part id = some h →
    (∀ (o : HeapOp) (rest : List HeapOp), h.arrivals = o :: rest →
      let u := s.updHeap part id fun h => { h with arrivals := rest }
      let idx := o.handle.toNat % 2 ^ 26
      let ends (v : State) := exec (.heapOpPerform part id) s = .next
        ((if v.opWave o then v.updWave o.core o.slot fun w => { w with heapOut := w.heapOut.erase o.strand } else v).updHeap part id Heap.latch)
      let fails := ends (u.failHeapOp o)
      (o.kind ≠ .hres → h.cap ≤ idx → fails) ∧ (o.kind ≠ .hres → u.taskRead h idx = none → fails) ∧
      (o.kind = .hres → u.opWave o = true → ends (u.updWave o.core o.slot fun w => w.addOut
        { strand := o.strand, sca := pairOut (BitVec.ofNat 6 o.d) h.srr, word := o.word, after := o.after, seq := o.seq })) ∧
      (∀ r, o.kind ≠ .hres → idx < h.cap → u.taskRead h idx = some r →
        let u := u.taskSeen part h idx
        let fails := ends (u.failHeapOp o)
        let writes (v old : Word) (x : TaskRec) := ends ((u.residual part id v old).taskWrite part id idx x)
        let v := BitVec.ofNat 32 (clampGain (gainAdd r.pending o.val))
        (o.kind = .tenq → badGain o.val = false → r.st = tIdle → writes v r.pending (r.queued v)) ∧
        (o.kind = .tenq → (badGain o.val = true ∨ r.st ≠ tIdle) → fails) ∧
        (∀ k, k = .gaina ∨ k = .gainm ∨ k = .gains → o.kind = k →
          let q := gainOp k r.gain o.val
          let p := gainOp k r.pending o.val
          (badGain o.val = true → fails) ∧
          (badGain o.val = false → r.st = tQueued → writes q r.gain { r with gain := q }) ∧
          (badGain o.val = false → r.st = tRunning → writes p r.pending { r with pending := p }) ∧
          (badGain o.val = false → r.st = tIdle → writes p r.pending (if reaches p h.thr then r.queued p else { r with pending := p })) ∧
          (badGain o.val = false → r.st = tDone → ends (u.updHeap part id fun h => { h with dropped := h.dropped + 1 }))) ∧
        (o.kind = .tdone → o.slot ≠ 64 → r.st = tRunning → ends (u.taskDone part id idx h r)) ∧
        (o.kind = .tdone → o.slot ≠ 64 → r.st ≠ tRunning → fails) ∧
        (o.kind = .tdone → o.slot = 64 → ends (if r.st = tRunning ∧ r.gen = o.val.toNat then u.taskDone part id idx h r else u)) ∧
        (o.kind = .tjset → r.st = tIdle → ends (u.taskWrite part id idx { r with join := o.val })) ∧
        (o.kind = .tjset → r.st ≠ tIdle → fails))) ∧
    (∀ (p : Word) (k : Nat) (rest : List (Word × Nat)) (r : TaskRec), h.parentUps = (p, k) :: rest → p.toNat / 2 ^ 26 = id →
      let idx := p.toNat % 2 ^ 26
      let u := (s.updHeap part id fun h => { h with parentUps := rest }).taskSeen part h idx
      let i : Instr := .tdoneParentUpdate part id
      let x := { r with join := r.join - 1 }
      idx < h.cap → (s.updHeap part id fun h => { h with parentUps := rest }).taskRead h idx = some r →
      (r.join = 0 → exec i s = .next u) ∧
      (r.join ≠ 0 → (r.join ≠ 1 ∨ r.st ≠ tIdle) → exec i s = .next (u.taskWrite part id idx x)) ∧
      (r.join = 1 → r.st = tIdle → exec i s = .next (((u.residual part id r.gain 0).taskWrite part id idx
        (x.queued (BitVec.ofNat 32 (clampGain (gainAdd r.gain r.pending))))).updHeap part id Heap.latch))) ∧
    (∀ (r : HeapRun) (t : Nat × TaskRec) (l : List (Nat × TaskRec)), h.run = some r → h.gather = t :: l →
      (∀ x core pl, r.latch = false → r.running < h.conc → (s.part part).resident = some h.vi →
        s.readVirt h.vi t.2.code.toNat 32 = .ok x →
        let u := s.homeVirt part h.vi t.2.code.toNat 32
        u.taskCore part (UnitDesc.ofBytes x).task = some (core, pl) →
        exec (.turnstilePop part id) s = .next (u.placeTasks part id h r (UnitDesc.ofBytes x).task core pl (t :: l))) ∧
      t ∈ h.recs ∧ t.2.st = tQueued ∧ (∀ p ∈ h.recs, p.2.st = tQueued → ranksBefore p t = false) ∧
      (∀ p ∈ l, p.2.code = t.2.code ∧ gainNear h.b t.2.gain p.2.gain = true) ∧ (0 < h.pop → l.length < min h.pop 96)) ∧
    (∀ (r : HeapRun), h.run = some r → r.running = 0 → h.arrivals = [] → h.parentUps = [] →
      let i : Instr := .heapRunEnd part id
      (r.failed = true → exec i s = .next (s.endRun part id 1)) ∧
      (r.failed = false → r.latch = true → exec i s = .next (s.endRun part id 0)) ∧
      (r.failed = false → r.latch = false → (∀ p ∈ h.recs, p.2.st ≠ tQueued) → exec i s = .next (s.endRun part id 4)))

/-! ## Launch -/

/-- R277, R278, R280, R328: a register write and a notify complete.  The registers of a launch queue and of the error queue take the value
without the bits that their alignment drops; those of the physical function take it whole, IMGBASE and REQBASE too (log entry 34).  A write at
0x0800 + 8q is the notify of queue q, and one of IMGGO the event IMGGO; a write of any other offset has no effect.  A notify writes the notify
word, of 4 bytes (log entry 30), or drops it where it cannot be written (log entry 29), and gives its index to the queue's slot, or sets
pending where the queue has none.  A VI or a queue that does not exist has none of this (log entry 8). -/
def Obligations.RegistersAndNotifies : Prop :=
  (∀ (s : State) (v q : Nat) (x : DWord), v < 64 → q < 16 →
    let vi (off : Nat) (t : State) := exec (.registerWrite (.vi v) off x) s = .next t
    let pf (off : Nat) (f : Device → Device) := exec (.registerWrite .pf off x) s = .next { s with dev := f s.dev }
    vi (64 * q) (s.updQueue v q fun l => { l with base := x &&& ~~~127#64 }) ∧
    vi (64 * q + 8) (s.updQueue v q fun l =>
      { l with size := x.toNat % 16, enable := x.getLsbD 31 && decide (4 ≤ x.toNat % 16 ∧ x.toNat % 16 ≤ 12) }) ∧
    vi (64 * q + 16) (s.updQueue v q fun l => { l with word := x &&& ~~~7#64 }) ∧
    vi 0x1000 (s.updVi v fun u => { u with eqbase := x &&& ~~~31#64 }) ∧
    vi 0x1008 (s.updVi v fun u => { u with eqsize := x.toNat % 2 ^ 32 }) ∧
    vi 0x1010 (s.updVi v fun u => { u with eqcons := x.setWidth 32 }) ∧
    exec (.registerWrite (.vi v) (0x800 + 8 * q) x) s = exec (.notify v q (x.setWidth 32)) s ∧
    (∀ off, off < 0x400 → off % 64 ≠ 0 → off % 64 ≠ 8 → off % 64 ≠ 16 → vi off s) ∧
    (∀ off, 0x400 ≤ off → (∀ k, k < 16 → off ≠ 0x800 + 8 * k) → off ≠ 0x1000 → off ≠ 0x1008 → off ≠ 0x1010 → vi off s) ∧
    pf 8 (fun d => { d with imgBase := x }) ∧ pf 0x10 (fun d => { d with imgLen := x.toNat % 2 ^ 32 }) ∧
    pf 0x100 (fun d => { d with reqBase := x }) ∧ pf 0x108 (fun d => { d with reqSize := x.toNat % 16 }) ∧
    pf 0x10C (fun d => { d with reqProd := x.setWidth 32 }) ∧
    exec (.registerWrite .pf 0x14 x) s = exec .imggo s ∧
    (∀ off, off ≠ 8 → off ≠ 0x10 → off ≠ 0x14 → off ≠ 0x100 → off ≠ 0x108 → off ≠ 0x10C → pf off id) ∧
    (∀ (idx : Word), let word := (SMap.get {} (s.vi v).queues q : LQueue).word.toNat
      let u := (match s.writeVirt v word (leBytes 4 idx.toNat) with
        | .ok t => t.homeVirt (s.viPart v) v word 4 true
        | .error _ => s.walkVirt (s.viPart v) v word 4).wakeFutures
      ((u.vi v).part = none → exec (.notify v q idx) s = .next (u.updQueue v q fun l => { l with pending := true })) ∧
      (∀ p, (u.vi v).part = some p → (u.part p).slotOf v q = none →
        exec (.notify v q idx) s = .next (u.updQueue v q fun l => { l with pending := true })) ∧
      (∀ p k, (u.vi v).part = some p → (u.part p).slotOf v q = some k →
        exec (.notify v q idx) s = .next (u.updPart p fun y => { y with slots := SMap.put y.slots k ⟨v, q, idx⟩ })))) ∧
  ∀ (s : State) (v q off : Nat) (x : DWord) (idx : Word), (64 ≤ v → exec (.registerWrite (.vi v) off x) s = .next s) ∧
    ((64 ≤ v ∨ 16 ≤ q) → exec (.notify v q idx) s = .next s)

/-- R279, R281, R283, R284, R289 to R291, R293: each event of a packet completes: it is accepted from its queue's ring in order, it starts, and
its kind takes effect; a packet that breaks a rule, or that cannot be read, or whose descriptor cannot be read, ends with status 2 and does
nothing, and its start is the cycle at which the packet started; a unit of the grid that started first goes to a core with room; a packet that
is done completes.  What the dispatcher reads, its ring, a descriptor, is met at the home first (R237); where a page refuses it the walks alone
are made (R314).  A run clears the dropped count (log entry 36); a release writes the entries and the image (log entry 27), and
fails the operations that wait (log entry 40). -/
def Obligations.PacketEvents : Prop :=
  ∀ (s : State) (id vi q : Nat),
    (∀ (p k : Nat) (l : List Byte), let lq : LQueue := SMap.get {} (s.vi vi).queues q
      let i : Instr := .packetAccept vi q
      let slot : QSlot := SMap.get ⟨vi, q, lq.cons⟩ (s.part p).slots k
      (s.vi vi).part = some p → (s.part p).slotOf vi q = some k → (s.part p).resident = some vi → lq.enable = true → slot.prod ≠ lq.cons →
      let va := lq.base.toNat + lq.cons.toNat % 2 ^ lq.size * 128
      let takes (u : State) (x : Packet) := ∃ t, exec i s = .next t ∧ t.pkt u.nextPkt = some x ∧ t.nextPkt = u.nextPkt + 1 ∧
        (let x : LQueue := SMap.get {} (u.vi vi).queues q;
         (SMap.get {} (t.vi vi).queues q : LQueue) = { x with cons := x.cons + 1 }) ∧ t.mem = u.mem ∧ t.waves = u.waves
      (s.readVirt vi va 128 = .ok l → takes (s.homeVirt p vi va 128) (Packet.ofBytes l vi p q lq.cons)) ∧
      (∀ r, s.readVirt vi va 128 = .error r →
        takes (s.fetchVirt p vi va 128).1 { vi := vi, part := p, q := q, idx := lq.cons, err := true })) ∧
    (∀ part vi va n, (∀ l, s.readVirt vi va n = .ok l → s.fetchVirt part vi va n = (s.homeVirt part vi va n, some l)) ∧
      ∀ r, s.readVirt vi va n = .error r →
        s.fetchVirt part vi va n = (if r.cause = .mcheck then s.homeVirt part vi va n else s.walkVirt part vi va n, none)) ∧
    (∀ p : Packet, s.pkt id = some p → s.mayStart id p = true →
      let began := 1 + s.packets.foldl (fun k x => max k x.2.began) 0
      (p.err = true → exec (.packetStart id) s =
        .next ((s.updPkt id fun p =>
          { p with state := .started, began := began, startedAt := s.cycle p.part, start := some (s.cycle p.part) }).endStart id 2)) ∧
      (p.err = false → exec (.packetStart id) s = .next (s.updPkt id fun p =>
        { p with state := .started, began := began, startedAt := s.cycle p.part, start := if p.kind = 1 then none else some (s.cycle p.part) }))) ∧
    (∀ p : Packet, s.fresh id 1 = some p →
      let u := s.homeVirt p.part p.vi p.unit.toNat 32
      let bad (t : State) := exec (.grid id) s = .next ((t.endStart id 2).updPkt id fun x => { x with start := some x.startedAt })
      (∀ r, s.readVirt p.vi p.unit.toNat 32 = .error r → bad (s.fetchVirt p.part p.vi p.unit.toNat 32).1) ∧
      (∀ l, s.readVirt p.vi p.unit.toNat 32 = .ok l →
        let d := UnitDesc.ofBytes l
        let cs := u.chipletsOf p.part
        let n := (if d.duet then p.x / 2 else p.x) * p.y * p.z
        let seq := 1 + u.packets.foldl (fun k x => max k x.2.seq) 0
        (p.gridBad d = true → bad u) ∧
        (p.gridBad d = false → exec (.grid id) s = .next (u.updPkt id fun x =>
          { x with desc := d, seq := seq, tickets := cs.zipIdx.map fun c => (c.1, n * c.2 / cs.length, n * (c.2 + 1) / cs.length) })))) ∧
    (∀ p : Packet, s.fresh id 2 = some p →
      let i : Instr := .heapConfigure id
      let u := s.countVirt p.part p.vi p.hdesc.toNat 64 false
      (∀ r, s.readVirt p.vi p.hdesc.toNat 64 = .error r →
        exec i s = .next ((if r.cause = .mcheck then u else s.walkVirt p.part p.vi p.hdesc.toNat 64).endStart id 2)) ∧
      (∀ l, s.readVirt p.vi p.hdesc.toNat 64 = .ok l →
        ((heapBad l = true ∨ (u.heap p.part p.heap).isSome = true) → exec i s = .next (u.endStart id 2)) ∧
        (heapBad l = false → u.heap p.part p.heap = none → exec i s = .next
          ((u.updPart p.part fun y => { y with heaps := SMap.put y.heaps p.heap (Heap.ofBytes l p.vi p.hdesc) }).endStart id 0)))) ∧
    (∀ p : Packet, s.fresh id 3 = some p → let i : Instr := .heapRun id
      (s.heap p.part p.heap = none → exec i s = .next (s.endStart id 2)) ∧
      (∀ h, s.heap p.part p.heap = some h → h.run.isSome = true → exec i s = .next (s.endStart id 2)) ∧
      (∀ h, s.heap p.part p.heap = some h → h.run = none →
        let u := s.countVirt p.part p.vi p.hdesc.toNat 64 false
        (∀ r, s.readVirt p.vi p.hdesc.toNat 64 = .error r →
          exec i s = .next ((if r.cause = .mcheck then u else s.walkVirt p.part p.vi p.hdesc.toNat 64).endStart id 2)) ∧
        (∀ l, s.readVirt p.vi p.hdesc.toNat 64 = .ok l →
          (heapBad l = true → exec i s = .next (u.endStart id 2)) ∧
          (heapBad l = false → exec i s = .next
            ((u.updHeap p.part p.heap fun h => { h with run := some { packet := id }, dropped := 0 }).updPkt id fun p =>
              { p with seq := 1 }))))) ∧
    (∀ (p : Packet) (h : Heap), s.fresh id 4 = some p → s.heap p.part p.heap = some h → let i : Instr := .heapRelease id
      (h.run.isSome = true → exec i s = .next (s.endStart id 2)) ∧
      (h.run = none → exec i s = .next (((((s.heapWriteBack p.part p.heap).imageWriteBack p.part p.heap).failArrivals p.part p.heap).updPart p.part fun y =>
        { y with heaps := SMap.erase y.heaps p.heap }).endStart id 0))) ∧
    (∀ p : Packet, s.fresh id 5 = some p → exec (.marker id) s = .next (s.endStart id 0)) ∧
    (∀ p : Packet, s.pkt id = some p → (p.state = .done ∨ p.state = .started ∧ p.kind = 1 ∧ p.seq ≠ 0 ∧ p.count = p.x * p.y * p.z) →
      exec (.packetComplete id) s = .next (s.completePkt id)) ∧
    (∀ (part core : Nat) (p : Packet) (pl : Place) (pl2 : Option Place), (s.part part).resident.bind s.oldestGrid = some (id, p) →
      20 * part ≤ core → core < 20 * (part + (s.part part).size) → s.unitRoom p core = some (pl, pl2) →
      s.inTurn part p core = true → s.stealWaits part p core = false →
      let x := p.take (core / 40)
      let u := (s.updCore core fun k => { k with tookAt := some (s.cycle part) }).updPkt id fun _ => x.2
      exec (.ticketDispatch part core) s = .next (u.placeUnit x.2 id core x.1 pl pl2) ∧
      (pl2.isSome = p.desc.duet ∧ (p.desc.duet = true → core % 2 = 0) ∧ s.room core p.desc false p.left = some pl ∧
        ∀ y, pl2 = some y → s.room (core + 1) p.desc false p.left = some y) ∧
      ((p.rangeOf (core / 40)).1 < (p.rangeOf (core / 40)).2 → x.1 = (p.rangeOf (core / 40)).1))

/-- R24, R25: a wave at its start.  A kernel wave has its place in the block in v0, the argument, the block's place and WAVEINBLK in s0 to s5,
the lanes below the block size in AM, its budget; a task wave has a lane for each task, with the frame in v0 and v1, the handle in v2, and
the heap descriptor in s0 and s1; every other register is 0.  That the root of a kernel wave holds all 96 lanes is the model's choice (log
entry 84). -/
def Obligations.WaveStart : Prop :=
  (∀ (p : Packet) (b : Block) (blk i cycle : Nat),
    let w := kernelWave p b blk i cycle;
    let st := w.strand 0;
    (∀ l, l < 96 → w.vreg 0 l = BitVec.ofNat 32 (96 * i + l)) ∧ (∀ r l, 0 < r → l < 96 → w.vreg r l = 0) ∧
    w.sreg 0 0 = p.args.setWidth 32 ∧ w.sreg 0 1 = (p.args >>> 32).setWidth 32 ∧ w.sreg 0 2 = b.x ∧ w.sreg 0 3 = b.y ∧ w.sreg 0 4 = b.z ∧
    w.sreg 0 5 = BitVec.ofNat 32 i ∧ (∀ r, 6 ≤ r → r < 60 → w.sreg 0 r = 0) ∧
    st.state = .ready ∧ st.pc = b.desc.entry ∧ st.memb = BitVec.allOnes 96 ∧
    (∀ l, l < 96 → st.am.getLsbD l = decide (l < p.bsize - 96 * i)) ∧ w.vbudget = 8 * b.desc.vregs ∧ w.fmode = 0 ∧ w.fstat = 0) ∧
  (∀ (h : Heap) (part heap blk cycle : Nat) (d : UnitDesc) (l : List (Nat × TaskRec)), l.length ≤ 96 →
    let w := taskWave h part heap blk cycle d l;
    let st := w.strand 0;
    (∀ k (t : Nat × TaskRec), l[k]? = some t → w.vreg 0 k = t.2.frame.setWidth 32 ∧ w.vreg 1 k = (t.2.frame >>> 32).setWidth 32 ∧
      w.vreg 2 k = BitVec.ofNat 32 (heap * 2 ^ 26 + t.1)) ∧
    (∀ r k, k < 96 → (3 ≤ r ∨ l.length ≤ k) → w.vreg r k = 0) ∧
    w.sreg 0 0 = h.hdesc.setWidth 32 ∧ w.sreg 0 1 = (h.hdesc >>> 32).setWidth 32 ∧ (∀ r, 2 ≤ r → r < 60 → w.sreg 0 r = 0) ∧
    st.state = .ready ∧ st.pc = d.entry ∧ (∀ k, k < 96 → st.am.getLsbD k = decide (k < l.length)) ∧ st.memb = st.am)

/-! ## Scheduling -/

/-- R275, R276, R280, R286, R287, R292: each scheduling event completes.  A slice that is over gives way to a ready VI of its priority or
above, or is renewed; a context switch saves the resident VI at its word boundaries and restores the incoming one, which ranks above it; a
scheduling pass unmaps the queues it does not keep and maps the others; a new layout gives each partition its domains and its VIs, whose
extents they read under new keys; a change of role is offered to a wave of a watched block.  A pass, a layout or a switch that cannot take
place leaves the state as it is (log entry 8); which VIs are ready is log entry 35, which of several equals comes in log entry 81, that the former
budget of a role is the one held when the change is raised log entry 83, that the counts start again there log entry 98, that a reset writes
nothing back and leaves memory as it was log entry 39, and that no pass takes place with more than 64 queues pending log entry 99. -/
def Obligations.SchedulingEvents : Prop :=
  ∀ (s : State) (part : Nat),
    (∀ r, let p := s.part part
      let i : Instr := .sliceEnd part
      let other := (s.readyVis part).any fun v => v ≠ r ∧ (s.vi r).prio ≤ (s.vi v).prio
      p.resident = some r → p.sliceOver = false → (s.vi r).slice * 3000 ≤ p.cycle - p.sliceStart →
      (other = true → exec i s = .next (s.updPart part fun p => { p with sliceOver := true })) ∧
      (other = false → exec i s = .next (s.updPart part fun p => { p with sliceStart := p.cycle }))) ∧
    (∀ v, s.incoming part = some v → let i : Instr := .contextSwitch part
      let ends (t : State) := exec i s = .next t ∧ (t.part part).resident = some v ∧ (t.part part).sliceStart = (t.part part).cycle ∧
        (t.vi v).saved = none
      v ∈ s.readyVis part ∧
      ((s.part part).resident = none → ends (s.restoreVi part v)) ∧
      (∀ r, (s.part part).resident = some r → s.noPrefix (s.viWaves part r) = true →
        ends (((s.takeTraps (s.viWaves part r)).saveVi part r).restoreVi part v)) ∧
      (∀ r, (s.part part).resident = some r → s.noPrefix (s.viWaves part r) = false → exec i s = .next s) ∧
      (∀ r, (s.part part).resident = some r → v ≠ r ∧ ((s.vi r).prio < (s.vi v).prio ∨ r ∉ s.readyVis part ∨ s.canRestore part r = false ∨
        (s.part part).sliceOver = true ∧ (s.vi r).prio = (s.vi v).prio))) ∧
    (∀ maps, s.mapsOk part maps = true → let i : Instr := .schedulingPass part maps
      let keeps (m : Nat × Nat × Nat) := (∃ z, SMap.find? (s.part part).slots m.1 = some z ∧ z.vi = m.2.1 ∧ z.q = m.2.2) ∧
        (SMap.get {} (s.vi m.2.1).queues m.2.2 : LQueue).pending = false
      ∃ t, exec i s = .next t ∧ ((∀ m ∈ maps, keeps m) → t.mem = s.mem ∧ t.waves = s.waves ∧ t.blocks = s.blocks) ∧
        (∀ k, k ∉ maps.map (·.1) → SMap.find? (t.part part).slots k = none) ∧
        ∀ k vi q, (k, vi, q) ∈ maps → let lq : LQueue := SMap.get {} (s.vi vi).queues q
          let y := SMap.find? (t.part part).slots k
          (SMap.get {} (t.vi vi).queues q : LQueue).pending = false ∧
          (keeps (k, vi, q) → y = SMap.find? (s.part part).slots k) ∧
          (¬keeps (k, vi, q) → ∃ z, y = some z ∧ z.vi = vi ∧ z.q = q ∧ ((∀ m ∈ maps, m.1 ≠ k → keeps m) →
            ∀ l, s.readVirt vi lq.word.toNat 4 = .ok l → z.prod = BitVec.ofNat 32 (leNat l)))) ∧
    (∀ maps, s.mapsOk part maps = false → exec (.schedulingPass part maps) s = .next s) ∧
    (∀ layout, let i : Instr := .partitionReconfigure layout
      (layoutOk layout = true → s.mayReconfigure layout = true → ∃ t, exec i s = .next t ∧
        ∀ x ∈ layout, (t.part x.low).size = x.size ∧ (t.part x.low).lent = x.lent ∧ (t.part x.low).resident = none ∧
          (t.part x.low).heaps = [] ∧ (∀ v ∈ x.vis, (t.vi v).part = some x.low) ∧
          ((∀ y ∈ layout, y.saves = []) → ∀ a, (∀ y ∈ layout, ∀ v ∈ y.vis, ∀ e ∈ s.dev.extents, e.vi = v → e.gone = false →
            e.holds (a / 128) = false) → Memory.byte t.mem a = Memory.byte s.mem a)) ∧
      ((layoutOk layout = false ∨ s.mayReconfigure layout = false) → exec i s = .next s)) ∧
    (∀ (blk k : Nat), let b := s.block blk
      let cs := b.waves.filter fun k => (s.waveK k).role = 0
      minBy (fun k => 16 - (s.waveK k).waveInBlk) cs = some k → b.watch = true → (s.part b.part).window ≤ b.below → 2 ≤ cs.length →
      (∀ x ∈ b.waves, (s.waveK x).pendRole = none) →
      exec (.roleToLoader blk) s = .next ((s.updWaveK k fun w =>
        { w with pendRole := some (1, 8 * b.desc.lbud), formerBudget := w.vbudget }).updBlock blk fun b =>
          { b with below := 0, above := 0, converted := k :: b.converted })) ∧
    (∀ (blk k : Nat) (rest : List Nat), let b := s.block blk
      b.converted.filter b.waves.contains = k :: rest → b.watch = true → (s.part b.part).window ≤ b.above →
      (∀ x ∈ b.waves, (s.waveK x).pendRole = none) →
      exec (.roleToCompute blk) s = .next ((s.updWaveK k fun w => { w with pendRole := some (0, w.formerBudget) }).updBlock blk fun b =>
        { b with below := 0, above := 0, converted := rest }))

/-! ## The machine as a whole -/

/-- R53 to R77: decode and encode agree.  The word of every well-formed instruction decodes to that instruction, with every operand; every
word is the word of what it decodes to; and what a word decodes to is a well-formed instruction of the word table, or ILLEGAL (R55). -/
def Obligations.DecodeInvertsEncode : Prop :=
  (∀ i : Instr, i.wf = true → i.isWord = true → decode (encode i) = i) ∧ (∀ w : Word, encode (decode w) = w) ∧
  (∀ w : Word, decode w = .illegalWord w ∨ (decode w).wf = true ∧ (decode w).isWord = true)

/-- R55 to R75: words written out from the encodings decode to the instructions they stand for, some of each class. -/
def Obligations.KnownWords : Prop :=
  decode 0x0001DA80 = .vadd false .f32 3 90 128 ∧
  decode 0x03C34610 = .vfma false .f64 6 70 16 ∧
  decode 0x10D40064 = .viadd false .i64 40 0 100 ∧
  decode 0x9310E108 = .vimad true .i32 33 97 8 ∧
  decode 0x23828401 = .vdq false 5 4 .d8 1 ∧
  decode 0x23C28410 = .vbscale false 5 4 .e4m3 ∧
  decode 0x2003EE14 = .vand false 7 110 20 ∧
  decode 0xB0193D89 = .vldB32 true 50 61 17 .cn ∧
  decode 0x32193E90 = .vstB32 false 50 62 18 .plain ∧
  decode 0xB6A245B4 = .vatom true .maxF32 68 69 22 .ar ∧
  decode 0x4083C020 = .smul false 3 48 (.reg 32) ∧
  decode 0xCA986B00 = .sldB128 true 24 26 (.imm 256) ∧
  decode 0x48832412 = .kxor false 3 9 18 ∧
  decode 0x54800000 = .ends false ∧
  decode 0x507FFFFF = .br false 0x7FFFFF ∧
  decode 0x541007FE = .split false 4 3 0x1FE ∧
  decode 0x640E0C00 = .hres false 14 3 ∧
  decode 0xE5CE6000 = .cqry true 14 24 ∧
  decode 0x66400002 = .l2unpin false 2 ∧
  decode 0x61408000 = .mzacc false .s1x4 1 ∧
  decode 0x706AAAAB = .limm 0x2AAAAB ∧
  decode 0xF2F0000D = .cntrd true 48 13 ∧
  decode 0xF1400006 = .sched true 6

/-- A step runs the decoded word: when the agenda lets the strand issue that its quarter picks, in a cycle in which the quarter has issued
no word yet, and the line at its PC is in the instruction cache, the step is exec of the instruction that the four bytes at the PC decode to, after
the counts of the issue, which change no register, no byte of memory and nothing of the strand but its wait count; that a word which only waits,
on a pending token or for space, takes no issue and is not counted is the model's inference (log entry 69).  Where the line is not in the instruction cache the step fetches it.  An
event of the agenda is exec of that event.  Every instruction and every step answers a next state.  How the agenda orders steps is the
model's choice (log entry 1). -/
def Obligations.StepRunsTheWord : Prop :=
  (∀ (s : State) (core slot n : Nat) (rest : List Choice) (line : LineData) (i : Instr) (v : State), s.agenda = .issue core slot n :: rest →
    let t := ({ s with agenda := rest } : State).issueCycle core slot;
    let u := { t with cur := (core, slot, n) };
    let pc := u.cs.pc.toNat;
    let byte (k : Nat) : Byte := line.extractLsb' (8 * (pc % 128 + k)) 8;
    (({ s with agenda := rest } : State).nextWord core slot n).isSome = true →
    t.pick core (quarterOf slot) = some (slot, n) → canonical pc = true →
    SMap.find? (u.core core).icache (icacheKey u.cw.vi pc) = some line → pc % 4 = 0 →
    i.wf = true → i.isWord = true → decodeBytes [byte 0, byte 1, byte 2, byte 3] = some i → exec i (u.account i) = .next v →
    step s = if v.cs.state = .parked ∧ v.cs.retries = true then exec i u else .next v) ∧
  (∀ (s u : State) (core slot n : Nat) (rest : List Choice) (x : Xlat), s.agenda = .issue core slot n :: rest →
    let t : State := { s with agenda := rest, cur := (core, slot, n) };
    core < 176 → t.nextWord core slot n = none → t.mayIssue core slot n = true →
    t.translate core t.cw.vi t.cs.pc.toNat .fetch = .ok (x, u) → t.bad.contains x.line = false →
    step s = exec (.fetchFill core t.cw.vi t.cs.pc) t) ∧
  (∀ (i : Instr) (u : State), let t := u.account i;
    t.cur = u.cur ∧ t.mem = u.mem ∧ t.blocks.map (·.1) = u.blocks.map (·.1) ∧ SameRegs u.cw t.cw ∧ t.cw.outs = u.cw.outs ∧
    t.cw.queue = u.cw.queue ∧ t.cs.pc = u.cs.pc ∧ t.cs.am = u.cs.am ∧ t.cs.memb = u.cs.memb ∧ t.cs.pfx = u.cs.pfx ∧
    t.cs.state = u.cs.state) ∧
  (∀ (s : State) (i : Instr) (rest : List Choice), s.agenda = .event i :: rest → i.isWord = false → (∀ w, i ≠ .illegalWord w) →
    step s = exec i { s with agenda := rest }) ∧
  (∀ (i : Instr) (s : State), ∃ t, exec i s = .next t) ∧ ∀ s : State, ∃ t, step s = .next t

/-- R277, R328, R275: what reset leaves: every register of a virtual interface reads 0 but SLICE, which reads 5,000; every register of the
physical function reads 0 but DEVNUM, which reads 0x3FF.  That there is no partition, no block, no wave and no packet is the model's choice
(log entry 1). -/
def Obligations.ResetState : Prop :=
  (∀ vi off : Nat, State.reset.viRead vi off = if off = 0x1104 then 5000 else 0) ∧
  (∀ off : Nat, State.reset.pfRead off = if off = 0x18 then 0x3FF else 0) ∧
  State.reset.parts = [] ∧ State.reset.blocks = [] ∧ State.reset.waves = [] ∧ State.reset.packets = []

/-- R6: lane L of mask triple k(n) is bit L mod 32 of the scalar register s(3n + L div 32): for what a word reads of a triple, for the three
words that a word writes to one, and for the place of k20 in s60 to s62. -/
def Obligations.MaskTriples : Prop :=
  (∀ (w : Wave) (n k l : Nat), k ≤ 20 → l < 96 → (w.ktriple n k).getLsbD l = (w.sreg n (3 * k + l / 32)).getLsbD (l % 32)) ∧
  (∀ (m : Lanes) (l : Nat), l < 96 → (maskWord m (l / 32)).getLsbD (l % 32) = m.getLsbD l) ∧
  (∀ (w : Wave) (n k : Nat) (x : Lanes), k < 20 →
    (w.setSregs n [(3 * k, maskWord x 0), (3 * k + 1, maskWord x 1), (3 * k + 2, maskWord x 2)]).ktriple n k = x) ∧
  ∀ (w : Wave) (n : Nat), w.ktriple n 20 = (w.strand n).am

/-- R29, R10, R15, R20, R107, R155: a result lands: each of its lanes that the write names takes its value, once; every other lane of every
vector register keeps its own; with the last of its lanes go the scalars, and the flags, which are ORed into FSTAT; a flag whose enable is set
raises FPEXC.  The scalars are those of the result, one, a pair, a triple or four, and the three words of the mask triple that a compare writes,
in the lanes that executed; s60 to s62 take theirs as AM within the membership, zr discards its own, every other scalar register keeps its
value.  What a later word of the strand has overtaken does not land.  That scalars and flags land with the last lanes is the model's
reading (log entry 12). -/
def Obligations.ResultsLand : Prop :=
  ∀ (core slot idx : Nat) (lanes : Lanes) (s : State) (r : Result),
    let w := s.wave core slot
    let t := s.land core slot idx lanes
    let u := t.wave core slot
    let named (k : Nat) := lanes.getLsbD (k % 96) = true
    let lands (k : Nat) := w.shadowed r k = false
    let bits : List (Nat × Word) := match r.bits with
      | some (k, m, v) =>
        let x := (w.ktriple r.strand k &&& ~~~m) ||| (v &&& m)
        [(3 * k, maskWord x 0), (3 * k + 1, maskWord x 1), (3 * k + 2, maskWord x 2)]
      | none => []
    let scalars := r.sca ++ bits
    let writes (n : Nat) (x : Word) := (n, x) ∈ scalars ∧ (∀ y, (n, y) ∈ scalars → y = x) ∧ lands (20000 + n)
    let leaves (n : Nat) := ∀ x, (n, x) ∈ scalars → ¬lands (20000 + n)
    w.outs[idx]? = some r →
    t.mem = s.mem ∧ t.blocks = s.blocks ∧ u.fmode = w.fmode ∧ u.mstat = w.mstat ∧
    (∀ p ∈ r.vec, named p.1 → lands p.1 → (∀ q ∈ r.vec, q.1 = p.1 → q = p) → SMap.get 0 u.v p.1 = p.2) ∧
    (∀ k, (∀ p ∈ r.vec, p.1 = k → ¬named k ∨ ¬lands k) → SMap.get 0 u.v k = SMap.get 0 w.v k) ∧
    ((∃ p ∈ r.vec, ¬named p.1) → u.s = w.s ∧ u.strands = w.strands ∧ u.fstat = w.fstat ∧ u.latched = w.latched ∧
      u.outs = w.outs.set idx { r with vec := r.vec.filter fun p => !lanes.getLsbD (p.1 % 96) }) ∧
    ((∀ p ∈ r.vec, named p.1) →
      u.outs = w.outs.eraseIdx idx ∧ u.fstat = w.fstat ||| r.flags ∧
      ((r.sca = [] ∨ r.bits = none) →
        (∀ n x, n < 60 → writes n x → SMap.get 0 u.s n = x) ∧
        (∀ n, (n < 60 → leaves n) → SMap.get 0 u.s n = SMap.get 0 w.s n) ∧
        ∀ l, l < 96 → let st := w.strand r.strand
          let am := (u.strand r.strand).am.getLsbD l
          (∀ x, writes (60 + l / 32) x → am = (x.getLsbD (l % 32) && st.memb.getLsbD l)) ∧
          ((∀ p ∈ scalars, p.1 ≤ 63) → leaves (60 + l / 32) → st.memb.getLsbD l = true → am = st.am.getLsbD l)) ∧
      (r.flags &&& r.enables = 0 → u.latched = w.latched) ∧
      (r.flags &&& r.enables ≠ 0 → w.latched = none → w.halted = false →
        ∃ f, u.latched = some f ∧ f.cause = .fpexc ∧ f.val = r.flags.setWidth 64 ∧ f.tpc = r.after ∧ f.strand = r.strand))

/-- The frame of the words of registers: whatever such a word does, a raised cause and a wait included, it writes no byte of memory, no
register, no flag, no other wave and nothing outside its wave: its results stand in the list of outstanding results until they land
(R29), and what changes now is its strand, that list, a latched cause, and the shadow of CYCLE; a strand whose fault was latched in this cycle
keeps it pending where the word's ranks before it (R301).  Said with traps taken by TAKE_TRAP (log entry 5). -/
def Obligations.RegisterWordsFrame : Prop :=
  ∀ (i : Instr) (s t : State), registerOnly i = true → s.deferTraps = true → exec i s = .next t →
    SameOutside s t ∧ SameMemory s t ∧ SameRegs s.cw t.cw ∧ t.cw.queue = s.cw.queue ∧ t.cur = s.cur ∧ t.agenda = s.agenda ∧
    (∀ k, k ≠ waveKey s.cur.1 s.cur.2.1 → t.waveK k = s.waveK k) ∧
    (∀ n, n ≠ s.cur.2.2 → (∀ g, s.cw.latched = some g → g.strand ≠ n) → t.cw.strand n = s.cw.strand n) ∧
    (t.cw.outs = s.cw.outs ∨ ∃ r, t.cw.outs = s.cw.outs ++ [r])

/-- Memory keeps its canonical form: rising addresses, and no entry equal to what an unlisted byte reads as (log entry 2); reset has it, and
every step keeps it, of physical memory and of the capacity devices. -/
def Obligations.MemoryStaysCanonical : Prop :=
  State.reset.Canonical ∧ ∀ s t : State, s.Canonical → step s = .next t → t.Canonical
end

