-- ==== Sys2Proof/Laws/Map.lean ====
section
/-! SUPPORT. Laws of the sparse maps and of memory: read after write, and the canonical form, which every memory operation keeps. -/

namespace Sys2Proof.Machine

/-! ## Reading after an update -/

theorem SMap.get_erase_self (d : α) (m : SMap α) (k : Nat) : SMap.get d (SMap.erase m k) k = d := by
  induction m with
  | nil => rfl
  | cons p t ih =>
    by_cases h : p.1 = k
    · simpa [SMap.erase, h] using ih
    · simpa [SMap.erase, h, SMap.get] using ih

theorem SMap.get_erase_of_ne (d : α) (m : SMap α) {k j : Nat} (h : j ≠ k) : SMap.get d (SMap.erase m k) j = SMap.get d m j := by
  induction m with
  | nil => rfl
  | cons p t ih =>
    by_cases hk : p.1 = k
    · have hj : p.1 ≠ j := fun e => h (e.symm.trans hk)
      simpa [SMap.erase, hk, SMap.get, hj, Ne.symm h] using ih
    · by_cases hj : p.1 = j
      · simp [SMap.erase, SMap.get, hj, h]
      · simpa [SMap.erase, hk, SMap.get, hj] using ih

theorem SMap.get_ins_of_ne (d : α) (m : SMap α) {k j : Nat} (v : α) (h : j ≠ k) :
    SMap.get d (SMap.ins k v m) j = SMap.get d m j := by
  induction m with
  | nil => simp [SMap.ins, SMap.get, Ne.symm h]
  | cons p t ih =>
    by_cases hk : k < p.1
    · simp [SMap.ins, hk, SMap.get, Ne.symm h]
    · simp [SMap.ins, hk, SMap.get, ih]

theorem SMap.get_ins_self (d : α) (m : SMap α) (k : Nat) (v : α) (h : ∀ p ∈ m, p.1 ≠ k) : SMap.get d (SMap.ins k v m) k = v := by
  induction m with
  | nil => simp [SMap.ins, SMap.get]
  | cons p t ih =>
    by_cases hk : k < p.1
    · simp [SMap.ins, hk, SMap.get]
    · have hp : p.1 ≠ k := h p (by simp)
      simpa [SMap.ins, hk, SMap.get, hp] using ih fun q hq => h q (by simp [hq])

theorem SMap.mem_erase {m : SMap α} {k : Nat} {p : Nat × α} : p ∈ SMap.erase m k ↔ p ∈ m ∧ p.1 ≠ k := by
  simp [SMap.erase]

@[simp] theorem SMap.get_put_self (d : α) (m : SMap α) (k : Nat) (v : α) : SMap.get d (SMap.put m k v) k = v :=
  SMap.get_ins_self d _ k v fun _ h => (SMap.mem_erase.mp h).2

theorem SMap.get_put_of_ne (d : α) (m : SMap α) {k j : Nat} (v : α) (h : j ≠ k) : SMap.get d (SMap.put m k v) j = SMap.get d m j := by
  rw [SMap.put, SMap.get_ins_of_ne d _ v h, SMap.get_erase_of_ne d m h]

@[simp] theorem SMap.get_set_self [DecidableEq α] (d : α) (m : SMap α) (k : Nat) (v : α) : SMap.get d (SMap.set d m k v) k = v := by
  by_cases h : v = d
  · simp [SMap.set, h, SMap.get_erase_self]
  · simp [SMap.set, h]

theorem SMap.get_set_of_ne [DecidableEq α] (d : α) (m : SMap α) {k j : Nat} (v : α) (h : j ≠ k) :
    SMap.get d (SMap.set d m k v) j = SMap.get d m j := by
  by_cases hv : v = d
  · simp [SMap.set, hv, SMap.get_erase_of_ne d m h]
  · simp [SMap.set, hv, SMap.get_put_of_ne d m v h]

@[simp] theorem SMap.get_upd_self (d : α) (m : SMap α) (k : Nat) (f : α → α) :
    SMap.get d (SMap.upd d m k f) k = f (SMap.get d m k) := by simp [SMap.upd]

theorem SMap.get_upd_of_ne (d : α) (m : SMap α) {k j : Nat} (f : α → α) (h : j ≠ k) :
    SMap.get d (SMap.upd d m k f) j = SMap.get d m j := by simp [SMap.upd, SMap.get_put_of_ne d m _ h]

/-- `find?` as a read of an optional entry. -/
theorem SMap.find?_put_self (m : SMap α) (k : Nat) (v : α) : SMap.find? (SMap.put m k v) k = some v := by
  have key : ∀ l : SMap α, (∀ p ∈ l, p.1 ≠ k) → SMap.find? (SMap.ins k v l) k = some v := by
    intro l
    induction l with
    | nil => simp [SMap.find?, SMap.ins, SMap.get]
    | cons p t ih =>
      intro h
      by_cases hk : k < p.1
      · simp [SMap.find?, SMap.ins, hk, SMap.get]
      · have hp : p.1 ≠ k := h p (by simp)
        simpa [SMap.find?, SMap.ins, hk, SMap.get, hp] using ih fun q hq => h q (by simp [hq])
  exact key _ fun _ h => (SMap.mem_erase.mp h).2

theorem SMap.find?_ins_of_ne (m : SMap α) {k j : Nat} (v : α) (h : j ≠ k) : SMap.find? (SMap.ins k v m) j = SMap.find? m j := by
  induction m with
  | nil => simp [SMap.find?, SMap.ins, SMap.get, Ne.symm h]
  | cons p t ih =>
    by_cases hk : k < p.1
    · simp [SMap.find?, SMap.ins, hk, SMap.get, Ne.symm h]
    · simp only [SMap.find?, SMap.ins, hk, if_false, List.map_cons, SMap.get] at ih ⊢
      rw [ih]

theorem SMap.find?_erase_of_ne (m : SMap α) {k j : Nat} (h : j ≠ k) : SMap.find? (SMap.erase m k) j = SMap.find? m j := by
  induction m with
  | nil => rfl
  | cons p t ih =>
    by_cases hk : p.1 = k
    · have hj : p.1 ≠ j := fun e => h (e.symm.trans hk)
      simpa [SMap.find?, SMap.erase, hk, SMap.get, hj, Ne.symm h] using ih
    · by_cases hj : p.1 = j
      · simp [SMap.find?, SMap.erase, SMap.get, hj, h]
      · simpa [SMap.find?, SMap.erase, hk, SMap.get, hj] using ih

theorem SMap.find?_erase_self (m : SMap α) (k : Nat) : SMap.find? (SMap.erase m k) k = none := by
  induction m with
  | nil => rfl
  | cons p t ih =>
    by_cases h : p.1 = k
    · simpa [SMap.find?, SMap.erase, h] using ih
    · simpa [SMap.find?, SMap.erase, h, SMap.get] using ih

theorem SMap.find?_put_of_ne (m : SMap α) {k j : Nat} (v : α) (h : j ≠ k) : SMap.find? (SMap.put m k v) j = SMap.find? m j := by
  rw [SMap.put, SMap.find?_ins_of_ne _ v h, SMap.find?_erase_of_ne m h]

/-! ## Writing twice -/

theorem SMap.erase_ins_self (m : SMap α) (k : Nat) (v : α) : SMap.erase (SMap.ins k v m) k = SMap.erase m k := by
  induction m with
  | nil => simp [SMap.erase, SMap.ins]
  | cons p t ih =>
    by_cases hk : k < p.1
    · simp [SMap.erase, SMap.ins, hk]
    · by_cases hp : p.1 = k
      · simpa [SMap.erase, SMap.ins, hk, hp] using ih
      · simpa [SMap.erase, SMap.ins, hk, hp] using ih

@[simp] theorem SMap.erase_erase_self (m : SMap α) (k : Nat) : SMap.erase (SMap.erase m k) k = SMap.erase m k := by
  simp [SMap.erase]

/-- The second of two writes to one key stands. -/
@[simp] theorem SMap.put_put_self (m : SMap α) (k : Nat) (v u : α) : SMap.put (SMap.put m k v) k u = SMap.put m k u := by
  simp [SMap.put, SMap.erase_ins_self]

/-! ## The canonical form -/

/-- Every key of a map is above a bound. -/
def SMap.above (n : Nat) (m : SMap α) : Prop := ∀ p ∈ m, n < p.1

theorem SMap.sorted_cons {p : Nat × α} {t : SMap α} : SMap.sorted (p :: t) = true ↔ SMap.above p.1 t ∧ SMap.sorted t = true := by
  induction t generalizing p with
  | nil => simp [SMap.sorted, SMap.above]
  | cons q t ih =>
    simp only [SMap.sorted, Bool.and_eq_true, decide_eq_true_eq]
    constructor
    · rintro ⟨h, hs⟩
      refine ⟨?_, hs⟩
      intro r hr
      rcases List.mem_cons.mp hr with rfl | hr
      · exact h
      · exact h.trans ((ih.mp hs).1 r hr)
    · rintro ⟨h, hs⟩
      exact ⟨h q (by simp), hs⟩

theorem SMap.sorted_erase {m : SMap α} (k : Nat) (h : SMap.sorted m = true) : SMap.sorted (SMap.erase m k) = true := by
  induction m with
  | nil => simp [SMap.erase, SMap.sorted]
  | cons p t ih =>
    obtain ⟨ha, hs⟩ := SMap.sorted_cons.mp h
    by_cases hk : p.1 = k
    · simpa [SMap.erase, hk] using ih hs
    · have e : SMap.erase (p :: t) k = p :: SMap.erase t k := by simp [SMap.erase, hk]
      rw [e, SMap.sorted_cons]
      exact ⟨fun q hq => ha q (SMap.mem_erase.mp hq).1, ih hs⟩

theorem SMap.mem_ins {m : SMap α} {k : Nat} {v : α} {p : Nat × α} : p ∈ SMap.ins k v m ↔ p = (k, v) ∨ p ∈ m := by
  induction m with
  | nil => simp [SMap.ins]
  | cons q t ih =>
    by_cases hk : k < q.1
    · simp [SMap.ins, hk]
    · simp [SMap.ins, hk, ih, or_left_comm]

theorem SMap.sorted_ins {m : SMap α} {k : Nat} (v : α) (h : SMap.sorted m = true) (hk : ∀ p ∈ m, p.1 ≠ k) :
    SMap.sorted (SMap.ins k v m) = true := by
  induction m with
  | nil => simp [SMap.ins, SMap.sorted]
  | cons q t ih =>
    obtain ⟨ha, hs⟩ := SMap.sorted_cons.mp h
    by_cases hlt : k < q.1
    · have e : SMap.ins k v (q :: t) = (k, v) :: q :: t := by simp [SMap.ins, hlt]
      rw [e, SMap.sorted_cons]
      refine ⟨fun p hp => ?_, h⟩
      rcases List.mem_cons.mp hp with rfl | hp
      · exact hlt
      · exact hlt.trans (ha p hp)
    · have e : SMap.ins k v (q :: t) = q :: SMap.ins k v t := by simp [SMap.ins, hlt]
      have hq : q.1 ≠ k := hk q (by simp)
      rw [e, SMap.sorted_cons]
      refine ⟨fun p hp => ?_, ih hs fun p hp => hk p (by simp [hp])⟩
      rcases SMap.mem_ins.mp hp with rfl | hp
      · have hle : q.1 ≤ k := Nat.le_of_not_lt hlt
        exact lt_of_le_of_ne hle hq
      · exact ha p hp

theorem SMap.sorted_put {m : SMap α} (k : Nat) (v : α) (h : SMap.sorted m = true) : SMap.sorted (SMap.put m k v) = true :=
  SMap.sorted_ins v (SMap.sorted_erase k h) fun _ hp => (SMap.mem_erase.mp hp).2

theorem SMap.wf_iff [DecidableEq α] {d : α} {m : SMap α} : SMap.wf d m = true ↔ SMap.sorted m = true ∧ ∀ p ∈ m, p.2 ≠ d := by
  simp [SMap.wf]

/-- A write keeps the canonical form. -/
theorem SMap.wf_set [DecidableEq α] {d : α} {m : SMap α} (k : Nat) (v : α) (h : SMap.wf d m = true) :
    SMap.wf d (SMap.set d m k v) = true := by
  obtain ⟨hs, hd⟩ := SMap.wf_iff.mp h
  by_cases hv : v = d
  · simp only [SMap.set, hv, if_true]
    exact SMap.wf_iff.mpr ⟨SMap.sorted_erase k hs, fun p hp => hd p (SMap.mem_erase.mp hp).1⟩
  · simp only [SMap.set, hv, if_false]
    refine SMap.wf_iff.mpr ⟨SMap.sorted_put k v hs, fun p hp => ?_⟩
    rcases SMap.mem_ins.mp hp with rfl | hp
    · exact hv
    · exact hd p (SMap.mem_erase.mp hp).1

/-! ## Memory -/

@[simp] theorem Memory.byte_setByte_self (m : List Host.Cell) (a : Nat) (b : Byte) : Memory.byte (Memory.setByte m a b) a = b := by
  simp [Memory.byte, Memory.setByte]

theorem Memory.byte_setByte_of_ne (m : List Host.Cell) {a c : Nat} (b : Byte) (h : c ≠ a) :
    Memory.byte (Memory.setByte m a b) c = Memory.byte m c := SMap.get_set_of_ne 0 m b h

theorem Memory.wf_setByte {m : List Host.Cell} (a : Nat) (b : Byte) (h : Memory.wf m = true) :
    Memory.wf (Memory.setByte m a b) = true := SMap.wf_set a b h

/-- Every write of bytes keeps the canonical form. -/
theorem Memory.wf_write {m : List Host.Cell} (a n v : Nat) (h : Memory.wf m = true) : Memory.wf (Memory.write m a n v) = true := by
  induction n generalizing m a v with
  | zero => exact h
  | succ n ih => exact ih (a + 1) (v / 256) (Memory.wf_setByte a _ h)

theorem Memory.wf_setLine {m : List Host.Cell} (l : Nat) (d : LineData) (h : Memory.wf m = true) :
    Memory.wf (Memory.setLine m l d) = true := Memory.wf_write _ _ _ h

theorem Memory.wf_writeBytes {m : List Host.Cell} (a : Nat) (l : List Byte) (h : Memory.wf m = true) :
    Memory.wf (Memory.writeBytes m a l) = true := by
  induction l generalizing m a with
  | nil => exact h
  | cons b t ih => exact ih (a + 1) (Memory.wf_setByte a b h)

/-- A write leaves every byte outside its own alone. -/
theorem Memory.byte_write_outside (m : List Host.Cell) (a n v : Nat) {c : Nat} (h : c < a ∨ a + n ≤ c) :
    Memory.byte (Memory.write m a n v) c = Memory.byte m c := by
  induction n generalizing m a v with
  | zero => rfl
  | succ n ih =>
    rw [Memory.write, ih _ _ _ (by omega), Memory.byte_setByte_of_ne _ _ (by omega)]

/-- A write's own bytes are the little-endian bytes of its value (R3). -/
theorem Memory.byte_write_inside (m : List Host.Cell) (a n v i : Nat) (h : i < n) :
    Memory.byte (Memory.write m a n v) (a + i) = BitVec.ofNat 8 (v / 256 ^ i) := by
  induction n generalizing m a v i with
  | zero => omega
  | succ n ih =>
    cases i with
    | zero => rw [Memory.write, Memory.byte_write_outside _ _ _ _ (by omega)]; simp
    | succ i =>
      have e : a + (i + 1) = a + 1 + i := by omega
      rw [Memory.write, e, ih _ _ _ _ (by omega), Nat.div_div_eq_div_mul, Nat.pow_succ']

/-- What is written is read back (R3). -/
theorem Memory.read_write (m : List Host.Cell) (a n v : Nat) : Memory.read (Memory.write m a n v) a n = v % 256 ^ n := by
  induction n generalizing m a v with
  | zero => simp [Memory.read, Nat.mod_one]
  | succ n ih =>
    have h0 : Memory.byte (Memory.write (Memory.setByte m a (BitVec.ofNat 8 v)) (a + 1) n (v / 256)) a = BitVec.ofNat 8 v := by
      rw [Memory.byte_write_outside _ _ _ _ (by omega)]; simp
    rw [Memory.read, Memory.write, h0, ih, Nat.pow_succ', Nat.mod_mul]
    simp

end Sys2Proof.Machine
end

