-- ==== Sys2Proof/Laws/State.lean ====
section
/-! SUPPORT. One lemma per field for every update of the state and of a wave, and what the accessors read after an update. -/

namespace Sys2Proof.Machine

/-! ## State.setWave -/

@[simp] theorem State.setWave_waves (s : State) (core slot : Nat) (w : Wave) : (s.setWave core slot w).waves = SMap.put s.waves (waveKey core slot) w := rfl
@[simp] theorem State.setWave_blocks (s : State) (core slot : Nat) (w : Wave) : (s.setWave core slot w).blocks = s.blocks := rfl
@[simp] theorem State.setWave_nextBlk (s : State) (core slot : Nat) (w : Wave) : (s.setWave core slot w).nextBlk = s.nextBlk := rfl
@[simp] theorem State.setWave_cores (s : State) (core slot : Nat) (w : Wave) : (s.setWave core slot w).cores = s.cores := rfl
@[simp] theorem State.setWave_ctlb (s : State) (core slot : Nat) (w : Wave) : (s.setWave core slot w).ctlb = s.ctlb := rfl
@[simp] theorem State.setWave_parts (s : State) (core slot : Nat) (w : Wave) : (s.setWave core slot w).parts = s.parts := rfl
@[simp] theorem State.setWave_vis (s : State) (core slot : Nat) (w : Wave) : (s.setWave core slot w).vis = s.vis := rfl
@[simp] theorem State.setWave_packets (s : State) (core slot : Nat) (w : Wave) : (s.setWave core slot w).packets = s.packets := rfl
@[simp] theorem State.setWave_nextPkt (s : State) (core slot : Nat) (w : Wave) : (s.setWave core slot w).nextPkt = s.nextPkt := rfl
@[simp] theorem State.setWave_mem (s : State) (core slot : Nat) (w : Wave) : (s.setWave core slot w).mem = s.mem := rfl
@[simp] theorem State.setWave_capDev (s : State) (core slot : Nat) (w : Wave) : (s.setWave core slot w).capDev = s.capDev := rfl
@[simp] theorem State.setWave_atRest (s : State) (core slot : Nat) (w : Wave) : (s.setWave core slot w).atRest = s.atRest := rfl
@[simp] theorem State.setWave_counted (s : State) (core slot : Nat) (w : Wave) : (s.setWave core slot w).counted = s.counted := rfl
@[simp] theorem State.setWave_l2 (s : State) (core slot : Nat) (w : Wave) : (s.setWave core slot w).l2 = s.l2 := rfl
@[simp] theorem State.setWave_spent (s : State) (core slot : Nat) (w : Wave) : (s.setWave core slot w).spent = s.spent := rfl
@[simp] theorem State.setWave_bad (s : State) (core slot : Nat) (w : Wave) : (s.setWave core slot w).bad = s.bad := rfl
@[simp] theorem State.setWave_asked (s : State) (core slot : Nat) (w : Wave) : (s.setWave core slot w).asked = s.asked := rfl
@[simp] theorem State.setWave_inFlight (s : State) (core slot : Nat) (w : Wave) : (s.setWave core slot w).inFlight = s.inFlight := rfl
@[simp] theorem State.setWave_sysmem (s : State) (core slot : Nat) (w : Wave) : (s.setWave core slot w).sysmem = s.sysmem := rfl
@[simp] theorem State.setWave_dev (s : State) (core slot : Nat) (w : Wave) : (s.setWave core slot w).dev = s.dev := rfl
@[simp] theorem State.setWave_agenda (s : State) (core slot : Nat) (w : Wave) : (s.setWave core slot w).agenda = s.agenda := rfl
@[simp] theorem State.setWave_cur (s : State) (core slot : Nat) (w : Wave) : (s.setWave core slot w).cur = s.cur := rfl
@[simp] theorem State.setWave_deferTraps (s : State) (core slot : Nat) (w : Wave) : (s.setWave core slot w).deferTraps = s.deferTraps := rfl
@[simp] theorem State.setWave_lag (s : State) (core slot : Nat) (w : Wave) : (s.setWave core slot w).lag = s.lag := rfl
@[simp] theorem State.setWave_outbox (s : State) (core slot : Nat) (w : Wave) : (s.setWave core slot w).outbox = s.outbox := rfl

/-! ## State.updWave -/

@[simp] theorem State.updWave_waves (s : State) (core slot : Nat) (f : Wave → Wave) : (s.updWave core slot f).waves = SMap.put s.waves (waveKey core slot) (f (s.wave core slot)) := rfl
@[simp] theorem State.updWave_blocks (s : State) (core slot : Nat) (f : Wave → Wave) : (s.updWave core slot f).blocks = s.blocks := rfl
@[simp] theorem State.updWave_nextBlk (s : State) (core slot : Nat) (f : Wave → Wave) : (s.updWave core slot f).nextBlk = s.nextBlk := rfl
@[simp] theorem State.updWave_cores (s : State) (core slot : Nat) (f : Wave → Wave) : (s.updWave core slot f).cores = s.cores := rfl
@[simp] theorem State.updWave_ctlb (s : State) (core slot : Nat) (f : Wave → Wave) : (s.updWave core slot f).ctlb = s.ctlb := rfl
@[simp] theorem State.updWave_parts (s : State) (core slot : Nat) (f : Wave → Wave) : (s.updWave core slot f).parts = s.parts := rfl
@[simp] theorem State.updWave_vis (s : State) (core slot : Nat) (f : Wave → Wave) : (s.updWave core slot f).vis = s.vis := rfl
@[simp] theorem State.updWave_packets (s : State) (core slot : Nat) (f : Wave → Wave) : (s.updWave core slot f).packets = s.packets := rfl
@[simp] theorem State.updWave_nextPkt (s : State) (core slot : Nat) (f : Wave → Wave) : (s.updWave core slot f).nextPkt = s.nextPkt := rfl
@[simp] theorem State.updWave_mem (s : State) (core slot : Nat) (f : Wave → Wave) : (s.updWave core slot f).mem = s.mem := rfl
@[simp] theorem State.updWave_capDev (s : State) (core slot : Nat) (f : Wave → Wave) : (s.updWave core slot f).capDev = s.capDev := rfl
@[simp] theorem State.updWave_atRest (s : State) (core slot : Nat) (f : Wave → Wave) : (s.updWave core slot f).atRest = s.atRest := rfl
@[simp] theorem State.updWave_counted (s : State) (core slot : Nat) (f : Wave → Wave) : (s.updWave core slot f).counted = s.counted := rfl
@[simp] theorem State.updWave_l2 (s : State) (core slot : Nat) (f : Wave → Wave) : (s.updWave core slot f).l2 = s.l2 := rfl
@[simp] theorem State.updWave_spent (s : State) (core slot : Nat) (f : Wave → Wave) : (s.updWave core slot f).spent = s.spent := rfl
@[simp] theorem State.updWave_bad (s : State) (core slot : Nat) (f : Wave → Wave) : (s.updWave core slot f).bad = s.bad := rfl
@[simp] theorem State.updWave_asked (s : State) (core slot : Nat) (f : Wave → Wave) : (s.updWave core slot f).asked = s.asked := rfl
@[simp] theorem State.updWave_inFlight (s : State) (core slot : Nat) (f : Wave → Wave) : (s.updWave core slot f).inFlight = s.inFlight := rfl
@[simp] theorem State.updWave_sysmem (s : State) (core slot : Nat) (f : Wave → Wave) : (s.updWave core slot f).sysmem = s.sysmem := rfl
@[simp] theorem State.updWave_dev (s : State) (core slot : Nat) (f : Wave → Wave) : (s.updWave core slot f).dev = s.dev := rfl
@[simp] theorem State.updWave_agenda (s : State) (core slot : Nat) (f : Wave → Wave) : (s.updWave core slot f).agenda = s.agenda := rfl
@[simp] theorem State.updWave_cur (s : State) (core slot : Nat) (f : Wave → Wave) : (s.updWave core slot f).cur = s.cur := rfl
@[simp] theorem State.updWave_deferTraps (s : State) (core slot : Nat) (f : Wave → Wave) : (s.updWave core slot f).deferTraps = s.deferTraps := rfl
@[simp] theorem State.updWave_lag (s : State) (core slot : Nat) (f : Wave → Wave) : (s.updWave core slot f).lag = s.lag := rfl
@[simp] theorem State.updWave_outbox (s : State) (core slot : Nat) (f : Wave → Wave) : (s.updWave core slot f).outbox = s.outbox := rfl

/-! ## State.updWaveK -/

@[simp] theorem State.updWaveK_waves (s : State) (k : Nat) (f : Wave → Wave) : (s.updWaveK k f).waves = SMap.put s.waves k (f (s.waveK k)) := rfl
@[simp] theorem State.updWaveK_blocks (s : State) (k : Nat) (f : Wave → Wave) : (s.updWaveK k f).blocks = s.blocks := rfl
@[simp] theorem State.updWaveK_nextBlk (s : State) (k : Nat) (f : Wave → Wave) : (s.updWaveK k f).nextBlk = s.nextBlk := rfl
@[simp] theorem State.updWaveK_cores (s : State) (k : Nat) (f : Wave → Wave) : (s.updWaveK k f).cores = s.cores := rfl
@[simp] theorem State.updWaveK_ctlb (s : State) (k : Nat) (f : Wave → Wave) : (s.updWaveK k f).ctlb = s.ctlb := rfl
@[simp] theorem State.updWaveK_parts (s : State) (k : Nat) (f : Wave → Wave) : (s.updWaveK k f).parts = s.parts := rfl
@[simp] theorem State.updWaveK_vis (s : State) (k : Nat) (f : Wave → Wave) : (s.updWaveK k f).vis = s.vis := rfl
@[simp] theorem State.updWaveK_packets (s : State) (k : Nat) (f : Wave → Wave) : (s.updWaveK k f).packets = s.packets := rfl
@[simp] theorem State.updWaveK_nextPkt (s : State) (k : Nat) (f : Wave → Wave) : (s.updWaveK k f).nextPkt = s.nextPkt := rfl
@[simp] theorem State.updWaveK_mem (s : State) (k : Nat) (f : Wave → Wave) : (s.updWaveK k f).mem = s.mem := rfl
@[simp] theorem State.updWaveK_capDev (s : State) (k : Nat) (f : Wave → Wave) : (s.updWaveK k f).capDev = s.capDev := rfl
@[simp] theorem State.updWaveK_atRest (s : State) (k : Nat) (f : Wave → Wave) : (s.updWaveK k f).atRest = s.atRest := rfl
@[simp] theorem State.updWaveK_counted (s : State) (k : Nat) (f : Wave → Wave) : (s.updWaveK k f).counted = s.counted := rfl
@[simp] theorem State.updWaveK_l2 (s : State) (k : Nat) (f : Wave → Wave) : (s.updWaveK k f).l2 = s.l2 := rfl
@[simp] theorem State.updWaveK_spent (s : State) (k : Nat) (f : Wave → Wave) : (s.updWaveK k f).spent = s.spent := rfl
@[simp] theorem State.updWaveK_bad (s : State) (k : Nat) (f : Wave → Wave) : (s.updWaveK k f).bad = s.bad := rfl
@[simp] theorem State.updWaveK_asked (s : State) (k : Nat) (f : Wave → Wave) : (s.updWaveK k f).asked = s.asked := rfl
@[simp] theorem State.updWaveK_inFlight (s : State) (k : Nat) (f : Wave → Wave) : (s.updWaveK k f).inFlight = s.inFlight := rfl
@[simp] theorem State.updWaveK_sysmem (s : State) (k : Nat) (f : Wave → Wave) : (s.updWaveK k f).sysmem = s.sysmem := rfl
@[simp] theorem State.updWaveK_dev (s : State) (k : Nat) (f : Wave → Wave) : (s.updWaveK k f).dev = s.dev := rfl
@[simp] theorem State.updWaveK_agenda (s : State) (k : Nat) (f : Wave → Wave) : (s.updWaveK k f).agenda = s.agenda := rfl
@[simp] theorem State.updWaveK_cur (s : State) (k : Nat) (f : Wave → Wave) : (s.updWaveK k f).cur = s.cur := rfl
@[simp] theorem State.updWaveK_deferTraps (s : State) (k : Nat) (f : Wave → Wave) : (s.updWaveK k f).deferTraps = s.deferTraps := rfl
@[simp] theorem State.updWaveK_lag (s : State) (k : Nat) (f : Wave → Wave) : (s.updWaveK k f).lag = s.lag := rfl
@[simp] theorem State.updWaveK_outbox (s : State) (k : Nat) (f : Wave → Wave) : (s.updWaveK k f).outbox = s.outbox := rfl

/-! ## State.updStrand -/

@[simp] theorem State.updStrand_waves (s : State) (core slot n : Nat) (f : Strand → Strand) : (s.updStrand core slot n f).waves = SMap.put s.waves (waveKey core slot) ((s.wave core slot).updStrand n f) := rfl
@[simp] theorem State.updStrand_blocks (s : State) (core slot n : Nat) (f : Strand → Strand) : (s.updStrand core slot n f).blocks = s.blocks := rfl
@[simp] theorem State.updStrand_nextBlk (s : State) (core slot n : Nat) (f : Strand → Strand) : (s.updStrand core slot n f).nextBlk = s.nextBlk := rfl
@[simp] theorem State.updStrand_cores (s : State) (core slot n : Nat) (f : Strand → Strand) : (s.updStrand core slot n f).cores = s.cores := rfl
@[simp] theorem State.updStrand_ctlb (s : State) (core slot n : Nat) (f : Strand → Strand) : (s.updStrand core slot n f).ctlb = s.ctlb := rfl
@[simp] theorem State.updStrand_parts (s : State) (core slot n : Nat) (f : Strand → Strand) : (s.updStrand core slot n f).parts = s.parts := rfl
@[simp] theorem State.updStrand_vis (s : State) (core slot n : Nat) (f : Strand → Strand) : (s.updStrand core slot n f).vis = s.vis := rfl
@[simp] theorem State.updStrand_packets (s : State) (core slot n : Nat) (f : Strand → Strand) : (s.updStrand core slot n f).packets = s.packets := rfl
@[simp] theorem State.updStrand_nextPkt (s : State) (core slot n : Nat) (f : Strand → Strand) : (s.updStrand core slot n f).nextPkt = s.nextPkt := rfl
@[simp] theorem State.updStrand_mem (s : State) (core slot n : Nat) (f : Strand → Strand) : (s.updStrand core slot n f).mem = s.mem := rfl
@[simp] theorem State.updStrand_capDev (s : State) (core slot n : Nat) (f : Strand → Strand) : (s.updStrand core slot n f).capDev = s.capDev := rfl
@[simp] theorem State.updStrand_atRest (s : State) (core slot n : Nat) (f : Strand → Strand) : (s.updStrand core slot n f).atRest = s.atRest := rfl
@[simp] theorem State.updStrand_counted (s : State) (core slot n : Nat) (f : Strand → Strand) : (s.updStrand core slot n f).counted = s.counted := rfl
@[simp] theorem State.updStrand_l2 (s : State) (core slot n : Nat) (f : Strand → Strand) : (s.updStrand core slot n f).l2 = s.l2 := rfl
@[simp] theorem State.updStrand_spent (s : State) (core slot n : Nat) (f : Strand → Strand) : (s.updStrand core slot n f).spent = s.spent := rfl
@[simp] theorem State.updStrand_bad (s : State) (core slot n : Nat) (f : Strand → Strand) : (s.updStrand core slot n f).bad = s.bad := rfl
@[simp] theorem State.updStrand_asked (s : State) (core slot n : Nat) (f : Strand → Strand) : (s.updStrand core slot n f).asked = s.asked := rfl
@[simp] theorem State.updStrand_inFlight (s : State) (core slot n : Nat) (f : Strand → Strand) : (s.updStrand core slot n f).inFlight = s.inFlight := rfl
@[simp] theorem State.updStrand_sysmem (s : State) (core slot n : Nat) (f : Strand → Strand) : (s.updStrand core slot n f).sysmem = s.sysmem := rfl
@[simp] theorem State.updStrand_dev (s : State) (core slot n : Nat) (f : Strand → Strand) : (s.updStrand core slot n f).dev = s.dev := rfl
@[simp] theorem State.updStrand_agenda (s : State) (core slot n : Nat) (f : Strand → Strand) : (s.updStrand core slot n f).agenda = s.agenda := rfl
@[simp] theorem State.updStrand_cur (s : State) (core slot n : Nat) (f : Strand → Strand) : (s.updStrand core slot n f).cur = s.cur := rfl
@[simp] theorem State.updStrand_deferTraps (s : State) (core slot n : Nat) (f : Strand → Strand) : (s.updStrand core slot n f).deferTraps = s.deferTraps := rfl
@[simp] theorem State.updStrand_lag (s : State) (core slot n : Nat) (f : Strand → Strand) : (s.updStrand core slot n f).lag = s.lag := rfl
@[simp] theorem State.updStrand_outbox (s : State) (core slot n : Nat) (f : Strand → Strand) : (s.updStrand core slot n f).outbox = s.outbox := rfl

/-! ## State.updCw -/

@[simp] theorem State.updCw_waves (s : State) (f : Wave → Wave) : (s.updCw f).waves = SMap.put s.waves (waveKey s.cur.1 s.cur.2.1) (f s.cw) := rfl
@[simp] theorem State.updCw_blocks (s : State) (f : Wave → Wave) : (s.updCw f).blocks = s.blocks := rfl
@[simp] theorem State.updCw_nextBlk (s : State) (f : Wave → Wave) : (s.updCw f).nextBlk = s.nextBlk := rfl
@[simp] theorem State.updCw_cores (s : State) (f : Wave → Wave) : (s.updCw f).cores = s.cores := rfl
@[simp] theorem State.updCw_ctlb (s : State) (f : Wave → Wave) : (s.updCw f).ctlb = s.ctlb := rfl
@[simp] theorem State.updCw_parts (s : State) (f : Wave → Wave) : (s.updCw f).parts = s.parts := rfl
@[simp] theorem State.updCw_vis (s : State) (f : Wave → Wave) : (s.updCw f).vis = s.vis := rfl
@[simp] theorem State.updCw_packets (s : State) (f : Wave → Wave) : (s.updCw f).packets = s.packets := rfl
@[simp] theorem State.updCw_nextPkt (s : State) (f : Wave → Wave) : (s.updCw f).nextPkt = s.nextPkt := rfl
@[simp] theorem State.updCw_mem (s : State) (f : Wave → Wave) : (s.updCw f).mem = s.mem := rfl
@[simp] theorem State.updCw_capDev (s : State) (f : Wave → Wave) : (s.updCw f).capDev = s.capDev := rfl
@[simp] theorem State.updCw_atRest (s : State) (f : Wave → Wave) : (s.updCw f).atRest = s.atRest := rfl
@[simp] theorem State.updCw_counted (s : State) (f : Wave → Wave) : (s.updCw f).counted = s.counted := rfl
@[simp] theorem State.updCw_l2 (s : State) (f : Wave → Wave) : (s.updCw f).l2 = s.l2 := rfl
@[simp] theorem State.updCw_spent (s : State) (f : Wave → Wave) : (s.updCw f).spent = s.spent := rfl
@[simp] theorem State.updCw_bad (s : State) (f : Wave → Wave) : (s.updCw f).bad = s.bad := rfl
@[simp] theorem State.updCw_asked (s : State) (f : Wave → Wave) : (s.updCw f).asked = s.asked := rfl
@[simp] theorem State.updCw_inFlight (s : State) (f : Wave → Wave) : (s.updCw f).inFlight = s.inFlight := rfl
@[simp] theorem State.updCw_sysmem (s : State) (f : Wave → Wave) : (s.updCw f).sysmem = s.sysmem := rfl
@[simp] theorem State.updCw_dev (s : State) (f : Wave → Wave) : (s.updCw f).dev = s.dev := rfl
@[simp] theorem State.updCw_agenda (s : State) (f : Wave → Wave) : (s.updCw f).agenda = s.agenda := rfl
@[simp] theorem State.updCw_cur (s : State) (f : Wave → Wave) : (s.updCw f).cur = s.cur := rfl
@[simp] theorem State.updCw_deferTraps (s : State) (f : Wave → Wave) : (s.updCw f).deferTraps = s.deferTraps := rfl
@[simp] theorem State.updCw_lag (s : State) (f : Wave → Wave) : (s.updCw f).lag = s.lag := rfl
@[simp] theorem State.updCw_outbox (s : State) (f : Wave → Wave) : (s.updCw f).outbox = s.outbox := rfl

/-! ## State.updCs -/

@[simp] theorem State.updCs_waves (s : State) (f : Strand → Strand) : (s.updCs f).waves = SMap.put s.waves (waveKey s.cur.1 s.cur.2.1) (s.cw.updStrand s.cur.2.2 f) := rfl
@[simp] theorem State.updCs_blocks (s : State) (f : Strand → Strand) : (s.updCs f).blocks = s.blocks := rfl
@[simp] theorem State.updCs_nextBlk (s : State) (f : Strand → Strand) : (s.updCs f).nextBlk = s.nextBlk := rfl
@[simp] theorem State.updCs_cores (s : State) (f : Strand → Strand) : (s.updCs f).cores = s.cores := rfl
@[simp] theorem State.updCs_ctlb (s : State) (f : Strand → Strand) : (s.updCs f).ctlb = s.ctlb := rfl
@[simp] theorem State.updCs_parts (s : State) (f : Strand → Strand) : (s.updCs f).parts = s.parts := rfl
@[simp] theorem State.updCs_vis (s : State) (f : Strand → Strand) : (s.updCs f).vis = s.vis := rfl
@[simp] theorem State.updCs_packets (s : State) (f : Strand → Strand) : (s.updCs f).packets = s.packets := rfl
@[simp] theorem State.updCs_nextPkt (s : State) (f : Strand → Strand) : (s.updCs f).nextPkt = s.nextPkt := rfl
@[simp] theorem State.updCs_mem (s : State) (f : Strand → Strand) : (s.updCs f).mem = s.mem := rfl
@[simp] theorem State.updCs_capDev (s : State) (f : Strand → Strand) : (s.updCs f).capDev = s.capDev := rfl
@[simp] theorem State.updCs_atRest (s : State) (f : Strand → Strand) : (s.updCs f).atRest = s.atRest := rfl
@[simp] theorem State.updCs_counted (s : State) (f : Strand → Strand) : (s.updCs f).counted = s.counted := rfl
@[simp] theorem State.updCs_l2 (s : State) (f : Strand → Strand) : (s.updCs f).l2 = s.l2 := rfl
@[simp] theorem State.updCs_spent (s : State) (f : Strand → Strand) : (s.updCs f).spent = s.spent := rfl
@[simp] theorem State.updCs_bad (s : State) (f : Strand → Strand) : (s.updCs f).bad = s.bad := rfl
@[simp] theorem State.updCs_asked (s : State) (f : Strand → Strand) : (s.updCs f).asked = s.asked := rfl
@[simp] theorem State.updCs_inFlight (s : State) (f : Strand → Strand) : (s.updCs f).inFlight = s.inFlight := rfl
@[simp] theorem State.updCs_sysmem (s : State) (f : Strand → Strand) : (s.updCs f).sysmem = s.sysmem := rfl
@[simp] theorem State.updCs_dev (s : State) (f : Strand → Strand) : (s.updCs f).dev = s.dev := rfl
@[simp] theorem State.updCs_agenda (s : State) (f : Strand → Strand) : (s.updCs f).agenda = s.agenda := rfl
@[simp] theorem State.updCs_cur (s : State) (f : Strand → Strand) : (s.updCs f).cur = s.cur := rfl
@[simp] theorem State.updCs_deferTraps (s : State) (f : Strand → Strand) : (s.updCs f).deferTraps = s.deferTraps := rfl
@[simp] theorem State.updCs_lag (s : State) (f : Strand → Strand) : (s.updCs f).lag = s.lag := rfl
@[simp] theorem State.updCs_outbox (s : State) (f : Strand → Strand) : (s.updCs f).outbox = s.outbox := rfl

/-! ## State.updBlock -/

@[simp] theorem State.updBlock_waves (s : State) (b : Nat) (f : Block → Block) : (s.updBlock b f).waves = s.waves := rfl
@[simp] theorem State.updBlock_blocks (s : State) (b : Nat) (f : Block → Block) : (s.updBlock b f).blocks = SMap.upd {} s.blocks b f := rfl
@[simp] theorem State.updBlock_nextBlk (s : State) (b : Nat) (f : Block → Block) : (s.updBlock b f).nextBlk = s.nextBlk := rfl
@[simp] theorem State.updBlock_cores (s : State) (b : Nat) (f : Block → Block) : (s.updBlock b f).cores = s.cores := rfl
@[simp] theorem State.updBlock_ctlb (s : State) (b : Nat) (f : Block → Block) : (s.updBlock b f).ctlb = s.ctlb := rfl
@[simp] theorem State.updBlock_parts (s : State) (b : Nat) (f : Block → Block) : (s.updBlock b f).parts = s.parts := rfl
@[simp] theorem State.updBlock_vis (s : State) (b : Nat) (f : Block → Block) : (s.updBlock b f).vis = s.vis := rfl
@[simp] theorem State.updBlock_packets (s : State) (b : Nat) (f : Block → Block) : (s.updBlock b f).packets = s.packets := rfl
@[simp] theorem State.updBlock_nextPkt (s : State) (b : Nat) (f : Block → Block) : (s.updBlock b f).nextPkt = s.nextPkt := rfl
@[simp] theorem State.updBlock_mem (s : State) (b : Nat) (f : Block → Block) : (s.updBlock b f).mem = s.mem := rfl
@[simp] theorem State.updBlock_capDev (s : State) (b : Nat) (f : Block → Block) : (s.updBlock b f).capDev = s.capDev := rfl
@[simp] theorem State.updBlock_atRest (s : State) (b : Nat) (f : Block → Block) : (s.updBlock b f).atRest = s.atRest := rfl
@[simp] theorem State.updBlock_counted (s : State) (b : Nat) (f : Block → Block) : (s.updBlock b f).counted = s.counted := rfl
@[simp] theorem State.updBlock_l2 (s : State) (b : Nat) (f : Block → Block) : (s.updBlock b f).l2 = s.l2 := rfl
@[simp] theorem State.updBlock_spent (s : State) (b : Nat) (f : Block → Block) : (s.updBlock b f).spent = s.spent := rfl
@[simp] theorem State.updBlock_bad (s : State) (b : Nat) (f : Block → Block) : (s.updBlock b f).bad = s.bad := rfl
@[simp] theorem State.updBlock_asked (s : State) (b : Nat) (f : Block → Block) : (s.updBlock b f).asked = s.asked := rfl
@[simp] theorem State.updBlock_inFlight (s : State) (b : Nat) (f : Block → Block) : (s.updBlock b f).inFlight = s.inFlight := rfl
@[simp] theorem State.updBlock_sysmem (s : State) (b : Nat) (f : Block → Block) : (s.updBlock b f).sysmem = s.sysmem := rfl
@[simp] theorem State.updBlock_dev (s : State) (b : Nat) (f : Block → Block) : (s.updBlock b f).dev = s.dev := rfl
@[simp] theorem State.updBlock_agenda (s : State) (b : Nat) (f : Block → Block) : (s.updBlock b f).agenda = s.agenda := rfl
@[simp] theorem State.updBlock_cur (s : State) (b : Nat) (f : Block → Block) : (s.updBlock b f).cur = s.cur := rfl
@[simp] theorem State.updBlock_deferTraps (s : State) (b : Nat) (f : Block → Block) : (s.updBlock b f).deferTraps = s.deferTraps := rfl
@[simp] theorem State.updBlock_lag (s : State) (b : Nat) (f : Block → Block) : (s.updBlock b f).lag = s.lag := rfl
@[simp] theorem State.updBlock_outbox (s : State) (b : Nat) (f : Block → Block) : (s.updBlock b f).outbox = s.outbox := rfl

/-! ## State.updCore -/

@[simp] theorem State.updCore_waves (s : State) (c : Nat) (f : Core → Core) : (s.updCore c f).waves = s.waves := rfl
@[simp] theorem State.updCore_blocks (s : State) (c : Nat) (f : Core → Core) : (s.updCore c f).blocks = s.blocks := rfl
@[simp] theorem State.updCore_nextBlk (s : State) (c : Nat) (f : Core → Core) : (s.updCore c f).nextBlk = s.nextBlk := rfl
@[simp] theorem State.updCore_cores (s : State) (c : Nat) (f : Core → Core) : (s.updCore c f).cores = SMap.upd {} s.cores c f := rfl
@[simp] theorem State.updCore_ctlb (s : State) (c : Nat) (f : Core → Core) : (s.updCore c f).ctlb = s.ctlb := rfl
@[simp] theorem State.updCore_parts (s : State) (c : Nat) (f : Core → Core) : (s.updCore c f).parts = s.parts := rfl
@[simp] theorem State.updCore_vis (s : State) (c : Nat) (f : Core → Core) : (s.updCore c f).vis = s.vis := rfl
@[simp] theorem State.updCore_packets (s : State) (c : Nat) (f : Core → Core) : (s.updCore c f).packets = s.packets := rfl
@[simp] theorem State.updCore_nextPkt (s : State) (c : Nat) (f : Core → Core) : (s.updCore c f).nextPkt = s.nextPkt := rfl
@[simp] theorem State.updCore_mem (s : State) (c : Nat) (f : Core → Core) : (s.updCore c f).mem = s.mem := rfl
@[simp] theorem State.updCore_capDev (s : State) (c : Nat) (f : Core → Core) : (s.updCore c f).capDev = s.capDev := rfl
@[simp] theorem State.updCore_atRest (s : State) (c : Nat) (f : Core → Core) : (s.updCore c f).atRest = s.atRest := rfl
@[simp] theorem State.updCore_counted (s : State) (c : Nat) (f : Core → Core) : (s.updCore c f).counted = s.counted := rfl
@[simp] theorem State.updCore_l2 (s : State) (c : Nat) (f : Core → Core) : (s.updCore c f).l2 = s.l2 := rfl
@[simp] theorem State.updCore_spent (s : State) (c : Nat) (f : Core → Core) : (s.updCore c f).spent = s.spent := rfl
@[simp] theorem State.updCore_bad (s : State) (c : Nat) (f : Core → Core) : (s.updCore c f).bad = s.bad := rfl
@[simp] theorem State.updCore_asked (s : State) (c : Nat) (f : Core → Core) : (s.updCore c f).asked = s.asked := rfl
@[simp] theorem State.updCore_inFlight (s : State) (c : Nat) (f : Core → Core) : (s.updCore c f).inFlight = s.inFlight := rfl
@[simp] theorem State.updCore_sysmem (s : State) (c : Nat) (f : Core → Core) : (s.updCore c f).sysmem = s.sysmem := rfl
@[simp] theorem State.updCore_dev (s : State) (c : Nat) (f : Core → Core) : (s.updCore c f).dev = s.dev := rfl
@[simp] theorem State.updCore_agenda (s : State) (c : Nat) (f : Core → Core) : (s.updCore c f).agenda = s.agenda := rfl
@[simp] theorem State.updCore_cur (s : State) (c : Nat) (f : Core → Core) : (s.updCore c f).cur = s.cur := rfl
@[simp] theorem State.updCore_deferTraps (s : State) (c : Nat) (f : Core → Core) : (s.updCore c f).deferTraps = s.deferTraps := rfl
@[simp] theorem State.updCore_lag (s : State) (c : Nat) (f : Core → Core) : (s.updCore c f).lag = s.lag := rfl
@[simp] theorem State.updCore_outbox (s : State) (c : Nat) (f : Core → Core) : (s.updCore c f).outbox = s.outbox := rfl

/-! ## State.updPart -/

@[simp] theorem State.updPart_waves (s : State) (p : Nat) (f : Part → Part) : (s.updPart p f).waves = s.waves := rfl
@[simp] theorem State.updPart_blocks (s : State) (p : Nat) (f : Part → Part) : (s.updPart p f).blocks = s.blocks := rfl
@[simp] theorem State.updPart_nextBlk (s : State) (p : Nat) (f : Part → Part) : (s.updPart p f).nextBlk = s.nextBlk := rfl
@[simp] theorem State.updPart_cores (s : State) (p : Nat) (f : Part → Part) : (s.updPart p f).cores = s.cores := rfl
@[simp] theorem State.updPart_ctlb (s : State) (p : Nat) (f : Part → Part) : (s.updPart p f).ctlb = s.ctlb := rfl
@[simp] theorem State.updPart_parts (s : State) (p : Nat) (f : Part → Part) : (s.updPart p f).parts = SMap.upd {} s.parts p f := rfl
@[simp] theorem State.updPart_vis (s : State) (p : Nat) (f : Part → Part) : (s.updPart p f).vis = s.vis := rfl
@[simp] theorem State.updPart_packets (s : State) (p : Nat) (f : Part → Part) : (s.updPart p f).packets = s.packets := rfl
@[simp] theorem State.updPart_nextPkt (s : State) (p : Nat) (f : Part → Part) : (s.updPart p f).nextPkt = s.nextPkt := rfl
@[simp] theorem State.updPart_mem (s : State) (p : Nat) (f : Part → Part) : (s.updPart p f).mem = s.mem := rfl
@[simp] theorem State.updPart_capDev (s : State) (p : Nat) (f : Part → Part) : (s.updPart p f).capDev = s.capDev := rfl
@[simp] theorem State.updPart_atRest (s : State) (p : Nat) (f : Part → Part) : (s.updPart p f).atRest = s.atRest := rfl
@[simp] theorem State.updPart_counted (s : State) (p : Nat) (f : Part → Part) : (s.updPart p f).counted = s.counted := rfl
@[simp] theorem State.updPart_l2 (s : State) (p : Nat) (f : Part → Part) : (s.updPart p f).l2 = s.l2 := rfl
@[simp] theorem State.updPart_spent (s : State) (p : Nat) (f : Part → Part) : (s.updPart p f).spent = s.spent := rfl
@[simp] theorem State.updPart_bad (s : State) (p : Nat) (f : Part → Part) : (s.updPart p f).bad = s.bad := rfl
@[simp] theorem State.updPart_asked (s : State) (p : Nat) (f : Part → Part) : (s.updPart p f).asked = s.asked := rfl
@[simp] theorem State.updPart_inFlight (s : State) (p : Nat) (f : Part → Part) : (s.updPart p f).inFlight = s.inFlight := rfl
@[simp] theorem State.updPart_sysmem (s : State) (p : Nat) (f : Part → Part) : (s.updPart p f).sysmem = s.sysmem := rfl
@[simp] theorem State.updPart_dev (s : State) (p : Nat) (f : Part → Part) : (s.updPart p f).dev = s.dev := rfl
@[simp] theorem State.updPart_agenda (s : State) (p : Nat) (f : Part → Part) : (s.updPart p f).agenda = s.agenda := rfl
@[simp] theorem State.updPart_cur (s : State) (p : Nat) (f : Part → Part) : (s.updPart p f).cur = s.cur := rfl
@[simp] theorem State.updPart_deferTraps (s : State) (p : Nat) (f : Part → Part) : (s.updPart p f).deferTraps = s.deferTraps := rfl
@[simp] theorem State.updPart_lag (s : State) (p : Nat) (f : Part → Part) : (s.updPart p f).lag = s.lag := rfl
@[simp] theorem State.updPart_outbox (s : State) (p : Nat) (f : Part → Part) : (s.updPart p f).outbox = s.outbox := rfl

/-! ## State.updVi -/

@[simp] theorem State.updVi_waves (s : State) (v : Nat) (f : Vi → Vi) : (s.updVi v f).waves = s.waves := rfl
@[simp] theorem State.updVi_blocks (s : State) (v : Nat) (f : Vi → Vi) : (s.updVi v f).blocks = s.blocks := rfl
@[simp] theorem State.updVi_nextBlk (s : State) (v : Nat) (f : Vi → Vi) : (s.updVi v f).nextBlk = s.nextBlk := rfl
@[simp] theorem State.updVi_cores (s : State) (v : Nat) (f : Vi → Vi) : (s.updVi v f).cores = s.cores := rfl
@[simp] theorem State.updVi_ctlb (s : State) (v : Nat) (f : Vi → Vi) : (s.updVi v f).ctlb = s.ctlb := rfl
@[simp] theorem State.updVi_parts (s : State) (v : Nat) (f : Vi → Vi) : (s.updVi v f).parts = s.parts := rfl
@[simp] theorem State.updVi_vis (s : State) (v : Nat) (f : Vi → Vi) : (s.updVi v f).vis = SMap.upd {} s.vis v f := rfl
@[simp] theorem State.updVi_packets (s : State) (v : Nat) (f : Vi → Vi) : (s.updVi v f).packets = s.packets := rfl
@[simp] theorem State.updVi_nextPkt (s : State) (v : Nat) (f : Vi → Vi) : (s.updVi v f).nextPkt = s.nextPkt := rfl
@[simp] theorem State.updVi_mem (s : State) (v : Nat) (f : Vi → Vi) : (s.updVi v f).mem = s.mem := rfl
@[simp] theorem State.updVi_capDev (s : State) (v : Nat) (f : Vi → Vi) : (s.updVi v f).capDev = s.capDev := rfl
@[simp] theorem State.updVi_atRest (s : State) (v : Nat) (f : Vi → Vi) : (s.updVi v f).atRest = s.atRest := rfl
@[simp] theorem State.updVi_counted (s : State) (v : Nat) (f : Vi → Vi) : (s.updVi v f).counted = s.counted := rfl
@[simp] theorem State.updVi_l2 (s : State) (v : Nat) (f : Vi → Vi) : (s.updVi v f).l2 = s.l2 := rfl
@[simp] theorem State.updVi_spent (s : State) (v : Nat) (f : Vi → Vi) : (s.updVi v f).spent = s.spent := rfl
@[simp] theorem State.updVi_bad (s : State) (v : Nat) (f : Vi → Vi) : (s.updVi v f).bad = s.bad := rfl
@[simp] theorem State.updVi_asked (s : State) (v : Nat) (f : Vi → Vi) : (s.updVi v f).asked = s.asked := rfl
@[simp] theorem State.updVi_inFlight (s : State) (v : Nat) (f : Vi → Vi) : (s.updVi v f).inFlight = s.inFlight := rfl
@[simp] theorem State.updVi_sysmem (s : State) (v : Nat) (f : Vi → Vi) : (s.updVi v f).sysmem = s.sysmem := rfl
@[simp] theorem State.updVi_dev (s : State) (v : Nat) (f : Vi → Vi) : (s.updVi v f).dev = s.dev := rfl
@[simp] theorem State.updVi_agenda (s : State) (v : Nat) (f : Vi → Vi) : (s.updVi v f).agenda = s.agenda := rfl
@[simp] theorem State.updVi_cur (s : State) (v : Nat) (f : Vi → Vi) : (s.updVi v f).cur = s.cur := rfl
@[simp] theorem State.updVi_deferTraps (s : State) (v : Nat) (f : Vi → Vi) : (s.updVi v f).deferTraps = s.deferTraps := rfl
@[simp] theorem State.updVi_lag (s : State) (v : Nat) (f : Vi → Vi) : (s.updVi v f).lag = s.lag := rfl
@[simp] theorem State.updVi_outbox (s : State) (v : Nat) (f : Vi → Vi) : (s.updVi v f).outbox = s.outbox := rfl

/-! ## Wave.setStrand -/

@[simp] theorem Wave.setStrand_live (w : Wave) (n : Nat) (st : Strand) : (w.setStrand n st).live = w.live := rfl
@[simp] theorem Wave.setStrand_vi (w : Wave) (n : Nat) (st : Strand) : (w.setStrand n st).vi = w.vi := rfl
@[simp] theorem Wave.setStrand_blk (w : Wave) (n : Nat) (st : Strand) : (w.setStrand n st).blk = w.blk := rfl
@[simp] theorem Wave.setStrand_part (w : Wave) (n : Nat) (st : Strand) : (w.setStrand n st).part = w.part := rfl
@[simp] theorem Wave.setStrand_firmware (w : Wave) (n : Nat) (st : Strand) : (w.setStrand n st).firmware = w.firmware := rfl
@[simp] theorem Wave.setStrand_pop (w : Wave) (n : Nat) (st : Strand) : (w.setStrand n st).pop = w.pop := rfl
@[simp] theorem Wave.setStrand_v (w : Wave) (n : Nat) (st : Strand) : (w.setStrand n st).v = w.v := rfl
@[simp] theorem Wave.setStrand_s (w : Wave) (n : Nat) (st : Strand) : (w.setStrand n st).s = w.s := rfl
@[simp] theorem Wave.setStrand_strands (w : Wave) (n : Nat) (st : Strand) : (w.setStrand n st).strands = SMap.put w.strands n st := rfl
@[simp] theorem Wave.setStrand_tokens (w : Wave) (n : Nat) (st : Strand) : (w.setStrand n st).tokens = w.tokens := rfl
@[simp] theorem Wave.setStrand_outs (w : Wave) (n : Nat) (st : Strand) : (w.setStrand n st).outs = w.outs := rfl
@[simp] theorem Wave.setStrand_queue (w : Wave) (n : Nat) (st : Strand) : (w.setStrand n st).queue = w.queue := rfl
@[simp] theorem Wave.setStrand_port (w : Wave) (n : Nat) (st : Strand) : (w.setStrand n st).port = w.port := rfl
@[simp] theorem Wave.setStrand_snaps (w : Wave) (n : Nat) (st : Strand) : (w.setStrand n st).snaps = w.snaps := rfl
@[simp] theorem Wave.setStrand_nextId (w : Wave) (n : Nat) (st : Strand) : (w.setStrand n st).nextId = w.nextId := rfl
@[simp] theorem Wave.setStrand_stopSkid (w : Wave) (n : Nat) (st : Strand) : (w.setStrand n st).stopSkid = w.stopSkid := rfl
@[simp] theorem Wave.setStrand_shadow (w : Wave) (n : Nat) (st : Strand) : (w.setStrand n st).shadow = w.shadow := rfl
@[simp] theorem Wave.setStrand_vbudget (w : Wave) (n : Nat) (st : Strand) : (w.setStrand n st).vbudget = w.vbudget := rfl
@[simp] theorem Wave.setStrand_fmode (w : Wave) (n : Nat) (st : Strand) : (w.setStrand n st).fmode = w.fmode := rfl
@[simp] theorem Wave.setStrand_fstat (w : Wave) (n : Nat) (st : Strand) : (w.setStrand n st).fstat = w.fstat := rfl
@[simp] theorem Wave.setStrand_mstat (w : Wave) (n : Nat) (st : Strand) : (w.setStrand n st).mstat = w.mstat := rfl
@[simp] theorem Wave.setStrand_setAt (w : Wave) (n : Nat) (st : Strand) : (w.setStrand n st).setAt = w.setAt := rfl
@[simp] theorem Wave.setStrand_setF (w : Wave) (n : Nat) (st : Strand) : (w.setStrand n st).setF = w.setF := rfl
@[simp] theorem Wave.setStrand_setM (w : Wave) (n : Nat) (st : Strand) : (w.setStrand n st).setM = w.setM := rfl
@[simp] theorem Wave.setStrand_role (w : Wave) (n : Nat) (st : Strand) : (w.setStrand n st).role = w.role := rfl
@[simp] theorem Wave.setStrand_pendRole (w : Wave) (n : Nat) (st : Strand) : (w.setStrand n st).pendRole = w.pendRole := rfl
@[simp] theorem Wave.setStrand_formerBudget (w : Wave) (n : Nat) (st : Strand) : (w.setStrand n st).formerBudget = w.formerBudget := rfl
@[simp] theorem Wave.setStrand_blockX (w : Wave) (n : Nat) (st : Strand) : (w.setStrand n st).blockX = w.blockX := rfl
@[simp] theorem Wave.setStrand_blockY (w : Wave) (n : Nat) (st : Strand) : (w.setStrand n st).blockY = w.blockY := rfl
@[simp] theorem Wave.setStrand_blockZ (w : Wave) (n : Nat) (st : Strand) : (w.setStrand n st).blockZ = w.blockZ := rfl
@[simp] theorem Wave.setStrand_waveInBlk (w : Wave) (n : Nat) (st : Strand) : (w.setStrand n st).waveInBlk = w.waveInBlk := rfl
@[simp] theorem Wave.setStrand_nblocks (w : Wave) (n : Nat) (st : Strand) : (w.setStrand n st).nblocks = w.nblocks := rfl
@[simp] theorem Wave.setStrand_duetRole (w : Wave) (n : Nat) (st : Strand) : (w.setStrand n st).duetRole = w.duetRole := rfl
@[simp] theorem Wave.setStrand_taskHeap (w : Wave) (n : Nat) (st : Strand) : (w.setStrand n st).taskHeap = w.taskHeap := rfl
@[simp] theorem Wave.setStrand_cycHi (w : Wave) (n : Nat) (st : Strand) : (w.setStrand n st).cycHi = w.cycHi := rfl
@[simp] theorem Wave.setStrand_barphase (w : Wave) (n : Nat) (st : Strand) : (w.setStrand n st).barphase = w.barphase := rfl
@[simp] theorem Wave.setStrand_tcause (w : Wave) (n : Nat) (st : Strand) : (w.setStrand n st).tcause = w.tcause := rfl
@[simp] theorem Wave.setStrand_tval (w : Wave) (n : Nat) (st : Strand) : (w.setStrand n st).tval = w.tval := rfl
@[simp] theorem Wave.setStrand_tpc (w : Wave) (n : Nat) (st : Strand) : (w.setStrand n st).tpc = w.tpc := rfl
@[simp] theorem Wave.setStrand_tskid (w : Wave) (n : Nat) (st : Strand) : (w.setStrand n st).tskid = w.tskid := rfl
@[simp] theorem Wave.setStrand_tlane (w : Wave) (n : Nat) (st : Strand) : (w.setStrand n st).tlane = w.tlane := rfl
@[simp] theorem Wave.setStrand_tstrand (w : Wave) (n : Nat) (st : Strand) : (w.setStrand n st).tstrand = w.tstrand := rfl
@[simp] theorem Wave.setStrand_tpcWritten (w : Wave) (n : Nat) (st : Strand) : (w.setStrand n st).tpcWritten = w.tpcWritten := rfl
@[simp] theorem Wave.setStrand_tNoted (w : Wave) (n : Nat) (st : Strand) : (w.setStrand n st).tNoted = w.tNoted := rfl
@[simp] theorem Wave.setStrand_created (w : Wave) (n : Nat) (st : Strand) : (w.setStrand n st).created = w.created := rfl
@[simp] theorem Wave.setStrand_frameAt (w : Wave) (n : Nat) (st : Strand) : (w.setStrand n st).frameAt = w.frameAt := rfl
@[simp] theorem Wave.setStrand_latched (w : Wave) (n : Nat) (st : Strand) : (w.setStrand n st).latched = w.latched := rfl
@[simp] theorem Wave.setStrand_latchedAt (w : Wave) (n : Nat) (st : Strand) : (w.setStrand n st).latchedAt = w.latchedAt := rfl
@[simp] theorem Wave.setStrand_halted (w : Wave) (n : Nat) (st : Strand) : (w.setStrand n st).halted = w.halted := rfl
@[simp] theorem Wave.setStrand_sinceHalt (w : Wave) (n : Nat) (st : Strand) : (w.setStrand n st).sinceHalt = w.sinceHalt := rfl
@[simp] theorem Wave.setStrand_tasks (w : Wave) (n : Nat) (st : Strand) : (w.setStrand n st).tasks = w.tasks := rfl
@[simp] theorem Wave.setStrand_heapId (w : Wave) (n : Nat) (st : Strand) : (w.setStrand n st).heapId = w.heapId := rfl
@[simp] theorem Wave.setStrand_heapOut (w : Wave) (n : Nat) (st : Strand) : (w.setStrand n st).heapOut = w.heapOut := rfl
@[simp] theorem Wave.setStrand_matNotes (w : Wave) (n : Nat) (st : Strand) : (w.setStrand n st).matNotes = w.matNotes := rfl
@[simp] theorem Wave.setStrand_stop (w : Wave) (n : Nat) (st : Strand) : (w.setStrand n st).stop = w.stop := rfl

/-! ## Wave.updStrand -/

@[simp] theorem Wave.updStrand_live (w : Wave) (n : Nat) (f : Strand → Strand) : (w.updStrand n f).live = w.live := rfl
@[simp] theorem Wave.updStrand_vi (w : Wave) (n : Nat) (f : Strand → Strand) : (w.updStrand n f).vi = w.vi := rfl
@[simp] theorem Wave.updStrand_blk (w : Wave) (n : Nat) (f : Strand → Strand) : (w.updStrand n f).blk = w.blk := rfl
@[simp] theorem Wave.updStrand_part (w : Wave) (n : Nat) (f : Strand → Strand) : (w.updStrand n f).part = w.part := rfl
@[simp] theorem Wave.updStrand_firmware (w : Wave) (n : Nat) (f : Strand → Strand) : (w.updStrand n f).firmware = w.firmware := rfl
@[simp] theorem Wave.updStrand_pop (w : Wave) (n : Nat) (f : Strand → Strand) : (w.updStrand n f).pop = w.pop := rfl
@[simp] theorem Wave.updStrand_v (w : Wave) (n : Nat) (f : Strand → Strand) : (w.updStrand n f).v = w.v := rfl
@[simp] theorem Wave.updStrand_s (w : Wave) (n : Nat) (f : Strand → Strand) : (w.updStrand n f).s = w.s := rfl
@[simp] theorem Wave.updStrand_strands (w : Wave) (n : Nat) (f : Strand → Strand) : (w.updStrand n f).strands = SMap.put w.strands n (f (w.strand n)) := rfl
@[simp] theorem Wave.updStrand_tokens (w : Wave) (n : Nat) (f : Strand → Strand) : (w.updStrand n f).tokens = w.tokens := rfl
@[simp] theorem Wave.updStrand_outs (w : Wave) (n : Nat) (f : Strand → Strand) : (w.updStrand n f).outs = w.outs := rfl
@[simp] theorem Wave.updStrand_queue (w : Wave) (n : Nat) (f : Strand → Strand) : (w.updStrand n f).queue = w.queue := rfl
@[simp] theorem Wave.updStrand_port (w : Wave) (n : Nat) (f : Strand → Strand) : (w.updStrand n f).port = w.port := rfl
@[simp] theorem Wave.updStrand_snaps (w : Wave) (n : Nat) (f : Strand → Strand) : (w.updStrand n f).snaps = w.snaps := rfl
@[simp] theorem Wave.updStrand_nextId (w : Wave) (n : Nat) (f : Strand → Strand) : (w.updStrand n f).nextId = w.nextId := rfl
@[simp] theorem Wave.updStrand_stopSkid (w : Wave) (n : Nat) (f : Strand → Strand) : (w.updStrand n f).stopSkid = w.stopSkid := rfl
@[simp] theorem Wave.updStrand_shadow (w : Wave) (n : Nat) (f : Strand → Strand) : (w.updStrand n f).shadow = w.shadow := rfl
@[simp] theorem Wave.updStrand_vbudget (w : Wave) (n : Nat) (f : Strand → Strand) : (w.updStrand n f).vbudget = w.vbudget := rfl
@[simp] theorem Wave.updStrand_fmode (w : Wave) (n : Nat) (f : Strand → Strand) : (w.updStrand n f).fmode = w.fmode := rfl
@[simp] theorem Wave.updStrand_fstat (w : Wave) (n : Nat) (f : Strand → Strand) : (w.updStrand n f).fstat = w.fstat := rfl
@[simp] theorem Wave.updStrand_mstat (w : Wave) (n : Nat) (f : Strand → Strand) : (w.updStrand n f).mstat = w.mstat := rfl
@[simp] theorem Wave.updStrand_setAt (w : Wave) (n : Nat) (f : Strand → Strand) : (w.updStrand n f).setAt = w.setAt := rfl
@[simp] theorem Wave.updStrand_setF (w : Wave) (n : Nat) (f : Strand → Strand) : (w.updStrand n f).setF = w.setF := rfl
@[simp] theorem Wave.updStrand_setM (w : Wave) (n : Nat) (f : Strand → Strand) : (w.updStrand n f).setM = w.setM := rfl
@[simp] theorem Wave.updStrand_role (w : Wave) (n : Nat) (f : Strand → Strand) : (w.updStrand n f).role = w.role := rfl
@[simp] theorem Wave.updStrand_pendRole (w : Wave) (n : Nat) (f : Strand → Strand) : (w.updStrand n f).pendRole = w.pendRole := rfl
@[simp] theorem Wave.updStrand_formerBudget (w : Wave) (n : Nat) (f : Strand → Strand) : (w.updStrand n f).formerBudget = w.formerBudget := rfl
@[simp] theorem Wave.updStrand_blockX (w : Wave) (n : Nat) (f : Strand → Strand) : (w.updStrand n f).blockX = w.blockX := rfl
@[simp] theorem Wave.updStrand_blockY (w : Wave) (n : Nat) (f : Strand → Strand) : (w.updStrand n f).blockY = w.blockY := rfl
@[simp] theorem Wave.updStrand_blockZ (w : Wave) (n : Nat) (f : Strand → Strand) : (w.updStrand n f).blockZ = w.blockZ := rfl
@[simp] theorem Wave.updStrand_waveInBlk (w : Wave) (n : Nat) (f : Strand → Strand) : (w.updStrand n f).waveInBlk = w.waveInBlk := rfl
@[simp] theorem Wave.updStrand_nblocks (w : Wave) (n : Nat) (f : Strand → Strand) : (w.updStrand n f).nblocks = w.nblocks := rfl
@[simp] theorem Wave.updStrand_duetRole (w : Wave) (n : Nat) (f : Strand → Strand) : (w.updStrand n f).duetRole = w.duetRole := rfl
@[simp] theorem Wave.updStrand_taskHeap (w : Wave) (n : Nat) (f : Strand → Strand) : (w.updStrand n f).taskHeap = w.taskHeap := rfl
@[simp] theorem Wave.updStrand_cycHi (w : Wave) (n : Nat) (f : Strand → Strand) : (w.updStrand n f).cycHi = w.cycHi := rfl
@[simp] theorem Wave.updStrand_barphase (w : Wave) (n : Nat) (f : Strand → Strand) : (w.updStrand n f).barphase = w.barphase := rfl
@[simp] theorem Wave.updStrand_tcause (w : Wave) (n : Nat) (f : Strand → Strand) : (w.updStrand n f).tcause = w.tcause := rfl
@[simp] theorem Wave.updStrand_tval (w : Wave) (n : Nat) (f : Strand → Strand) : (w.updStrand n f).tval = w.tval := rfl
@[simp] theorem Wave.updStrand_tpc (w : Wave) (n : Nat) (f : Strand → Strand) : (w.updStrand n f).tpc = w.tpc := rfl
@[simp] theorem Wave.updStrand_tskid (w : Wave) (n : Nat) (f : Strand → Strand) : (w.updStrand n f).tskid = w.tskid := rfl
@[simp] theorem Wave.updStrand_tlane (w : Wave) (n : Nat) (f : Strand → Strand) : (w.updStrand n f).tlane = w.tlane := rfl
@[simp] theorem Wave.updStrand_tstrand (w : Wave) (n : Nat) (f : Strand → Strand) : (w.updStrand n f).tstrand = w.tstrand := rfl
@[simp] theorem Wave.updStrand_tpcWritten (w : Wave) (n : Nat) (f : Strand → Strand) : (w.updStrand n f).tpcWritten = w.tpcWritten := rfl
@[simp] theorem Wave.updStrand_tNoted (w : Wave) (n : Nat) (f : Strand → Strand) : (w.updStrand n f).tNoted = w.tNoted := rfl
@[simp] theorem Wave.updStrand_created (w : Wave) (n : Nat) (f : Strand → Strand) : (w.updStrand n f).created = w.created := rfl
@[simp] theorem Wave.updStrand_frameAt (w : Wave) (n : Nat) (f : Strand → Strand) : (w.updStrand n f).frameAt = w.frameAt := rfl
@[simp] theorem Wave.updStrand_latched (w : Wave) (n : Nat) (f : Strand → Strand) : (w.updStrand n f).latched = w.latched := rfl
@[simp] theorem Wave.updStrand_latchedAt (w : Wave) (n : Nat) (f : Strand → Strand) : (w.updStrand n f).latchedAt = w.latchedAt := rfl
@[simp] theorem Wave.updStrand_halted (w : Wave) (n : Nat) (f : Strand → Strand) : (w.updStrand n f).halted = w.halted := rfl
@[simp] theorem Wave.updStrand_sinceHalt (w : Wave) (n : Nat) (f : Strand → Strand) : (w.updStrand n f).sinceHalt = w.sinceHalt := rfl
@[simp] theorem Wave.updStrand_tasks (w : Wave) (n : Nat) (f : Strand → Strand) : (w.updStrand n f).tasks = w.tasks := rfl
@[simp] theorem Wave.updStrand_heapId (w : Wave) (n : Nat) (f : Strand → Strand) : (w.updStrand n f).heapId = w.heapId := rfl
@[simp] theorem Wave.updStrand_heapOut (w : Wave) (n : Nat) (f : Strand → Strand) : (w.updStrand n f).heapOut = w.heapOut := rfl
@[simp] theorem Wave.updStrand_matNotes (w : Wave) (n : Nat) (f : Strand → Strand) : (w.updStrand n f).matNotes = w.matNotes := rfl
@[simp] theorem Wave.updStrand_stop (w : Wave) (n : Nat) (f : Strand → Strand) : (w.updStrand n f).stop = w.stop := rfl

/-! ## Wave.addToken -/

@[simp] theorem Wave.addToken_live (w : Wave) (r : Nat) : (w.addToken r).live = w.live := rfl
@[simp] theorem Wave.addToken_vi (w : Wave) (r : Nat) : (w.addToken r).vi = w.vi := rfl
@[simp] theorem Wave.addToken_blk (w : Wave) (r : Nat) : (w.addToken r).blk = w.blk := rfl
@[simp] theorem Wave.addToken_part (w : Wave) (r : Nat) : (w.addToken r).part = w.part := rfl
@[simp] theorem Wave.addToken_firmware (w : Wave) (r : Nat) : (w.addToken r).firmware = w.firmware := rfl
@[simp] theorem Wave.addToken_pop (w : Wave) (r : Nat) : (w.addToken r).pop = w.pop := rfl
@[simp] theorem Wave.addToken_v (w : Wave) (r : Nat) : (w.addToken r).v = w.v := rfl
@[simp] theorem Wave.addToken_s (w : Wave) (r : Nat) : (w.addToken r).s = w.s := rfl
@[simp] theorem Wave.addToken_strands (w : Wave) (r : Nat) : (w.addToken r).strands = w.strands := rfl
@[simp] theorem Wave.addToken_tokens (w : Wave) (r : Nat) : (w.addToken r).tokens = w.tokens ++ [r] := rfl
@[simp] theorem Wave.addToken_outs (w : Wave) (r : Nat) : (w.addToken r).outs = w.outs := rfl
@[simp] theorem Wave.addToken_queue (w : Wave) (r : Nat) : (w.addToken r).queue = w.queue := rfl
@[simp] theorem Wave.addToken_port (w : Wave) (r : Nat) : (w.addToken r).port = w.port := rfl
@[simp] theorem Wave.addToken_snaps (w : Wave) (r : Nat) : (w.addToken r).snaps = w.snaps := rfl
@[simp] theorem Wave.addToken_nextId (w : Wave) (r : Nat) : (w.addToken r).nextId = w.nextId := rfl
@[simp] theorem Wave.addToken_stopSkid (w : Wave) (r : Nat) : (w.addToken r).stopSkid = w.stopSkid := rfl
@[simp] theorem Wave.addToken_shadow (w : Wave) (r : Nat) : (w.addToken r).shadow = w.shadow := rfl
@[simp] theorem Wave.addToken_vbudget (w : Wave) (r : Nat) : (w.addToken r).vbudget = w.vbudget := rfl
@[simp] theorem Wave.addToken_fmode (w : Wave) (r : Nat) : (w.addToken r).fmode = w.fmode := rfl
@[simp] theorem Wave.addToken_fstat (w : Wave) (r : Nat) : (w.addToken r).fstat = w.fstat := rfl
@[simp] theorem Wave.addToken_mstat (w : Wave) (r : Nat) : (w.addToken r).mstat = w.mstat := rfl
@[simp] theorem Wave.addToken_setAt (w : Wave) (r : Nat) : (w.addToken r).setAt = w.setAt := rfl
@[simp] theorem Wave.addToken_setF (w : Wave) (r : Nat) : (w.addToken r).setF = w.setF := rfl
@[simp] theorem Wave.addToken_setM (w : Wave) (r : Nat) : (w.addToken r).setM = w.setM := rfl
@[simp] theorem Wave.addToken_role (w : Wave) (r : Nat) : (w.addToken r).role = w.role := rfl
@[simp] theorem Wave.addToken_pendRole (w : Wave) (r : Nat) : (w.addToken r).pendRole = w.pendRole := rfl
@[simp] theorem Wave.addToken_formerBudget (w : Wave) (r : Nat) : (w.addToken r).formerBudget = w.formerBudget := rfl
@[simp] theorem Wave.addToken_blockX (w : Wave) (r : Nat) : (w.addToken r).blockX = w.blockX := rfl
@[simp] theorem Wave.addToken_blockY (w : Wave) (r : Nat) : (w.addToken r).blockY = w.blockY := rfl
@[simp] theorem Wave.addToken_blockZ (w : Wave) (r : Nat) : (w.addToken r).blockZ = w.blockZ := rfl
@[simp] theorem Wave.addToken_waveInBlk (w : Wave) (r : Nat) : (w.addToken r).waveInBlk = w.waveInBlk := rfl
@[simp] theorem Wave.addToken_nblocks (w : Wave) (r : Nat) : (w.addToken r).nblocks = w.nblocks := rfl
@[simp] theorem Wave.addToken_duetRole (w : Wave) (r : Nat) : (w.addToken r).duetRole = w.duetRole := rfl
@[simp] theorem Wave.addToken_taskHeap (w : Wave) (r : Nat) : (w.addToken r).taskHeap = w.taskHeap := rfl
@[simp] theorem Wave.addToken_cycHi (w : Wave) (r : Nat) : (w.addToken r).cycHi = w.cycHi := rfl
@[simp] theorem Wave.addToken_barphase (w : Wave) (r : Nat) : (w.addToken r).barphase = w.barphase := rfl
@[simp] theorem Wave.addToken_tcause (w : Wave) (r : Nat) : (w.addToken r).tcause = w.tcause := rfl
@[simp] theorem Wave.addToken_tval (w : Wave) (r : Nat) : (w.addToken r).tval = w.tval := rfl
@[simp] theorem Wave.addToken_tpc (w : Wave) (r : Nat) : (w.addToken r).tpc = w.tpc := rfl
@[simp] theorem Wave.addToken_tskid (w : Wave) (r : Nat) : (w.addToken r).tskid = w.tskid := rfl
@[simp] theorem Wave.addToken_tlane (w : Wave) (r : Nat) : (w.addToken r).tlane = w.tlane := rfl
@[simp] theorem Wave.addToken_tstrand (w : Wave) (r : Nat) : (w.addToken r).tstrand = w.tstrand := rfl
@[simp] theorem Wave.addToken_tpcWritten (w : Wave) (r : Nat) : (w.addToken r).tpcWritten = w.tpcWritten := rfl
@[simp] theorem Wave.addToken_tNoted (w : Wave) (r : Nat) : (w.addToken r).tNoted = w.tNoted := rfl
@[simp] theorem Wave.addToken_created (w : Wave) (r : Nat) : (w.addToken r).created = w.created := rfl
@[simp] theorem Wave.addToken_frameAt (w : Wave) (r : Nat) : (w.addToken r).frameAt = w.frameAt := rfl
@[simp] theorem Wave.addToken_latched (w : Wave) (r : Nat) : (w.addToken r).latched = w.latched := rfl
@[simp] theorem Wave.addToken_latchedAt (w : Wave) (r : Nat) : (w.addToken r).latchedAt = w.latchedAt := rfl
@[simp] theorem Wave.addToken_halted (w : Wave) (r : Nat) : (w.addToken r).halted = w.halted := rfl
@[simp] theorem Wave.addToken_sinceHalt (w : Wave) (r : Nat) : (w.addToken r).sinceHalt = w.sinceHalt := rfl
@[simp] theorem Wave.addToken_tasks (w : Wave) (r : Nat) : (w.addToken r).tasks = w.tasks := rfl
@[simp] theorem Wave.addToken_heapId (w : Wave) (r : Nat) : (w.addToken r).heapId = w.heapId := rfl
@[simp] theorem Wave.addToken_heapOut (w : Wave) (r : Nat) : (w.addToken r).heapOut = w.heapOut := rfl
@[simp] theorem Wave.addToken_matNotes (w : Wave) (r : Nat) : (w.addToken r).matNotes = w.matNotes := rfl
@[simp] theorem Wave.addToken_stop (w : Wave) (r : Nat) : (w.addToken r).stop = w.stop := rfl

/-! ## What the accessors read after an update -/

@[simp] theorem Wave.strand_setStrand_self (w : Wave) (n : Nat) (st : Strand) : (w.setStrand n st).strand n = st := by
  simp [Wave.strand]

theorem Wave.strand_setStrand_of_ne (w : Wave) {n k : Nat} (st : Strand) (h : k ≠ n) : (w.setStrand n st).strand k = w.strand k := by
  simp [Wave.strand, SMap.get_put_of_ne _ _ _ h]

@[simp] theorem Wave.strand_updStrand_self (w : Wave) (n : Nat) (f : Strand → Strand) :
    (w.updStrand n f).strand n = f (w.strand n) := by simp [Wave.updStrand]

theorem Wave.strand_updStrand_of_ne (w : Wave) {n k : Nat} (f : Strand → Strand) (h : k ≠ n) :
    (w.updStrand n f).strand k = w.strand k := by simp [Wave.updStrand, Wave.strand_setStrand_of_ne _ _ h]

@[simp] theorem State.wave_setWave_self (s : State) (core slot : Nat) (w : Wave) : (s.setWave core slot w).wave core slot = w := by
  simp [State.wave]

theorem State.waveK_setWave_of_ne (s : State) {core slot k : Nat} (w : Wave) (h : k ≠ waveKey core slot) :
    (s.setWave core slot w).waveK k = s.waveK k := by simp [State.waveK, SMap.get_put_of_ne _ _ _ h]

@[simp] theorem State.wave_updWave_self (s : State) (core slot : Nat) (f : Wave → Wave) :
    (s.updWave core slot f).wave core slot = f (s.wave core slot) := by simp [State.updWave]

theorem State.waveK_updWave_of_ne (s : State) {core slot k : Nat} (f : Wave → Wave) (h : k ≠ waveKey core slot) :
    (s.updWave core slot f).waveK k = s.waveK k := s.waveK_setWave_of_ne _ h

@[simp] theorem State.waveK_updWaveK_self (s : State) (k : Nat) (f : Wave → Wave) : (s.updWaveK k f).waveK k = f (s.waveK k) := by
  simp [State.waveK]

@[simp] theorem State.cw_updCw (s : State) (f : Wave → Wave) : (s.updCw f).cw = f s.cw := by simp [State.cw, State.updCw]

@[simp] theorem State.cs_updCs (s : State) (f : Strand → Strand) : (s.updCs f).cs = f s.cs := by
  simp [State.cs, State.updCs]

theorem State.waveK_updCw_of_ne (s : State) {k : Nat} (f : Wave → Wave) (h : k ≠ waveKey s.cur.1 s.cur.2.1) :
    (s.updCw f).waveK k = s.waveK k := s.waveK_setWave_of_ne _ h

theorem State.waveK_updCs_of_ne (s : State) {k : Nat} (f : Strand → Strand) (h : k ≠ waveKey s.cur.1 s.cur.2.1) :
    (s.updCs f).waveK k = s.waveK k := s.waveK_setWave_of_ne _ h

@[simp] theorem State.block_updBlock_self (s : State) (b : Nat) (f : Block → Block) : (s.updBlock b f).block b = f (s.block b) := by
  simp [State.block]

theorem State.block_updBlock_of_ne (s : State) {b k : Nat} (f : Block → Block) (h : k ≠ b) :
    (s.updBlock b f).block k = s.block k := by simp [State.block, SMap.get_upd_of_ne _ _ _ h]

@[simp] theorem State.core_updCore_self (s : State) (c : Nat) (f : Core → Core) : (s.updCore c f).core c = f (s.core c) := by
  simp [State.core]

@[simp] theorem State.part_updPart_self (s : State) (p : Nat) (f : Part → Part) : (s.updPart p f).part p = f (s.part p) := by
  simp [State.part]

@[simp] theorem State.vi_updVi_self (s : State) (v : Nat) (f : Vi → Vi) : (s.updVi v f).vi v = f (s.vi v) := by
  simp [State.vi]

/-- A change of the issuing wave after another is one change. -/
theorem State.updCw_updCw (s : State) (f g : Wave → Wave) : (s.updCw f).updCw g = s.updCw fun w => g (f w) := by
  have h : (s.updCw f).cw = f s.cw := s.cw_updCw f
  simp only [State.updCw, State.updWave, State.setWave] at h ⊢
  simp [State.wave]

end Sys2Proof.Machine
end

