-- ==== Sys2Proof/Laws/Ops.lean ====
section
/-! SUPPORT. What the shared issue of a word can do, said once: its effect, the lowest cause, a wait. -/

namespace Sys2Proof.Machine

/-! ## The lowest cause -/

theorem minBy_eq_none {f : α → Nat} {l : List α} : minBy f l = none ↔ l = [] := by
  cases l with
  | nil => simp [minBy]
  | cons x t =>
    simp only [minBy, reduceCtorEq, iff_false]
    split
    · simp
    · split <;> simp

theorem minBy_mem {f : α → Nat} {l : List α} {x : α} (h : minBy f l = some x) : x ∈ l := by
  induction l generalizing x with
  | nil => simp [minBy] at h
  | cons a t ih =>
    simp only [minBy] at h
    split at h
    · simp_all
    · rename_i y hy
      split at h
      · simp_all
      · exact List.mem_cons_of_mem _ (ih (by simp_all))

theorem minBy_le {f : α → Nat} {l : List α} {x : α} (h : minBy f l = some x) : ∀ y ∈ l, f x ≤ f y := by
  induction l generalizing x with
  | nil => simp [minBy] at h
  | cons a t ih =>
    simp only [minBy] at h
    intro y hy
    split at h
    · rename_i hn
      rw [minBy_eq_none] at hn
      simp_all
    · rename_i z hz
      have hle := ih hz
      split at h <;> rename_i hc <;> cases h <;> rcases List.mem_cons.1 hy with rfl | hy
      · exact Nat.le_refl _
      · exact Nat.le_trans hc (hle y hy)
      · omega
      · exact hle y hy

theorem lowest_eq_none {l : List (Option Raise)} : lowest l = none ↔ NoCause l := by
  rw [lowest, minBy_eq_none, List.filterMap_eq_nil_iff]
  rfl

/-- The lowest cause is one of the list, and no cause of the list has a lower code (R301). -/
theorem lowest_spec {l : List (Option Raise)} {r : Raise} (h : lowest l = some r) :
    some r ∈ l ∧ ∀ x, some x ∈ l → r.cause.code ≤ x.cause.code := by
  have hm := minBy_mem h
  simp only [List.mem_filterMap, id_eq, exists_eq_right] at hm
  exact ⟨hm, fun x hx => minBy_le h x (by simpa using hx)⟩

theorem NoCause.append {l k : List (Option Raise)} (h : NoCause l) (g : NoCause k) : NoCause (l ++ k) := by
  intro x hx
  rcases List.mem_append.1 hx with hx | hx
  · exact h x hx
  · exact g x hx

/-! ## A trap in waiting -/

/-- Nothing is latched: nothing is taken. -/
theorem State.settle_calm {s : State} {core slot : Nat} (h : (s.wave core slot).latched = none) : s.settle core slot = s := by
  simp [State.settle, State.trapReady, State.trapFirst, h]

/-- Traps that the agenda takes as events of their own are not taken here. -/
theorem State.settle_deferred {s : State} {core slot : Nat} (h : s.deferTraps = true) : s.settle core slot = s := by
  simp [State.settle, h]

/-- The first cause of a wave that is not halted is latched, and nothing else changes (R301). -/
theorem State.latch_first {s : State} {core slot : Nat} {f : FaultRec} (h : (s.wave core slot).latched = none)
    (hh : (s.wave core slot).halted = false) : s.latch core slot f = s.updWave core slot fun w => { w with latched := some f, latchedAt := s.cycle w.part } := by
  simp only [State.latch, State.updWave]
  congr 1
  simp [Wave.latchFault, h, hh]

/-! ## The issue -/

/-- A word that issues has its effect. -/
theorem State.run_issues {s : State} {i : Instr} {m : Bool} {static dynamic : List (Option Raise)} {reads : List Nat}
    {eff : State → State} (h : s.Issues i static reads dynamic) :
    s.run i m static reads dynamic eff = .next (s.did m eff) := by
  have h1 : lowest (pfxFaults i s.cs.pfx ++ static) = none := lowest_eq_none.2 (h.group.append h.static)
  have h2 : reads.find? s.cw.isPending = none := by simpa using h.tokens
  have h3 : lowest dynamic = none := lowest_eq_none.2 h.dynamic
  simp [State.run, h1, h2, h3, State.did]

/-- A word that issues and has space has its effect. -/
theorem State.run_issues_space {s : State} {i : Instr} {m : Bool} {static dynamic : List (Option Raise)} {reads : List Nat}
    {eff : State → State} {busy : Option Park} (h : s.Issues i static reads dynamic) (hb : busy = none) :
    s.run i m static reads dynamic eff busy = .next (s.did m eff) := by
  subst hb; exact s.run_issues h

/-- A cause that needs no operand comes before everything else of the word: the lowest one is raised. -/
theorem State.run_raises {s : State} {i : Instr} {m : Bool} {static dynamic : List (Option Raise)} {reads : List Nat}
    {eff : State → State} {busy : Option Park} {r : Raise} (h : lowest (pfxFaults i s.cs.pfx ++ static) = some r) :
    s.run i m static reads dynamic eff busy = .next (s.raiseHere i r) := by
  simp [State.run, h]

/-- A word that reads a pending token waits for it (R17). -/
theorem State.run_token {s : State} {i : Instr} {m : Bool} {static dynamic : List (Option Raise)} {reads : List Nat}
    {eff : State → State} {busy : Option Park} {r : Nat} (h : lowest (pfxFaults i s.cs.pfx ++ static) = none)
    (hr : reads.find? s.cw.isPending = some r) :
    s.run i m static reads dynamic eff busy = .next (s.parkHere .token i r) := by
  simp [State.run, h, hr]

theorem State.raiseHere_eq (s : State) (i : Instr) (r : Raise) : s.raiseHere i r = (s.raised i r).settle s.cur.1 s.cur.2.1 := rfl

/-- What a raised precise cause does in a wave that has latched none and is not halted (R299). -/
theorem State.raised_latches {s : State} (i : Instr) (r : Raise) (h : s.cw.latched = none) (hh : s.cw.halted = false) :
    s.raised i r = (s.updCs fun st => { st with pc := st.start, pfx := none, replay := none }).updCw fun w =>
      { w with
        latched := some ⟨r.cause, r.val, s.cur.2.2, s.cs.start, s.maskFor i, encode i, s.cs.issued, false⟩
        latchedAt := s.cycle w.part } := by
  have hw (f : Strand → Strand) : ((s.updCs f).wave s.cur.1 s.cur.2.1) = s.cw.updStrand s.cur.2.2 f := by
    simp [State.updCs, State.updCw, State.cw]
  refine State.latch_first ?_ ?_
  · rw [hw]; exact h
  · rw [hw]; exact hh

/-! ## The strand goes on -/

theorem State.marker_false (s : State) : s.marker false = s := rfl

theorem State.updCs_eq_updCw (s : State) (f : Strand → Strand) : s.updCs f = s.updCw fun w => w.updStrand s.cur.2.2 f := rfl

theorem State.updCw_congr {s : State} {f g : Wave → Wave} (h : f s.cw = g s.cw) : s.updCw f = s.updCw g := by
  simp only [State.updCw, State.updWave]
  exact congrArg _ h

theorem Wave.updStrand_updStrand (w : Wave) (n : Nat) (f g : Strand → Strand) :
    (w.updStrand n f).updStrand n g = w.updStrand n fun st => g (f st) := by
  simp [Wave.updStrand, Wave.setStrand, Wave.strand]

theorem Wave.updStrand_congr {w : Wave} {n : Nat} {f g : Strand → Strand} (h : f (w.strand n) = g (w.strand n)) :
    w.updStrand n f = w.updStrand n g := by simp [Wave.updStrand, h]

/-- Changes of one strand after another are one change. -/
theorem State.updCs_updCs (s : State) (f g : Strand → Strand) : (s.updCs f).updCs g = s.updCs fun st => g (f st) := by
  rw [State.updCs_eq_updCw, State.updCs_eq_updCw, State.updCs_eq_updCw]
  show (s.updCw _).updCw (fun w => w.updStrand s.cur.2.2 g) = _
  rw [State.updCw_updCw]
  exact State.updCw_congr (Wave.updStrand_updStrand ..)

theorem State.updCs_congr {s : State} {f g : Strand → Strand} (h : f s.cs = g s.cs) : s.updCs f = s.updCs g := by
  rw [State.updCs_eq_updCw, State.updCs_eq_updCw]
  exact State.updCw_congr (Wave.updStrand_congr h)

/-- The advance and the park marker of a ready strand are its passage to the next word. -/
theorem State.marker_advance {s : State} (m : Bool) (h : s.cs.state = .ready) : s.advance.marker m = s.past m := by
  cases m with
  | false =>
    rw [State.marker_false]
    exact State.updCs_congr (by simp [Strand.past, ← h])
  | true =>
    show s.advance.updCs _ = _
    rw [State.advance, State.updCs_updCs]
    refine State.updCs_congr ?_
    simp [Strand.past, h]

theorem State.past_latched (s : State) (m : Bool) : (s.past m).cw.latched = s.cw.latched := by
  simp [State.past, State.updCs, State.cw_updCw, Wave.updStrand, Wave.setStrand]

/-- A word without an effect lets its strand go on. -/
theorem State.did_id {s : State} {i : Instr} {static dynamic : List (Option Raise)} {reads : List Nat} (m : Bool)
    (h : s.Issues i static reads dynamic) : s.did m id = s.past m := by
  rw [State.did, id, State.marker_advance m h.ready]
  exact State.settle_calm ((s.past_latched m).trans h.calm)

/-- A change of the wave that leaves the issuing strand alone commutes with the passage to the next word. -/
theorem State.marker_updCw {s : State} (m : Bool) (f : Wave → Wave) (h : s.cs.state = .ready)
    (hf : ∀ w g, f (w.updStrand s.cur.2.2 g) = (f w).updStrand s.cur.2.2 g) : (s.advance.updCw f).marker m = (s.past m).updCw f := by
  cases m with
  | false => rw [State.marker_false, ← State.marker_advance false h, State.marker_false]
  | true =>
    show (s.advance.updCw f).updCs _ = _
    rw [State.updCs_eq_updCw, State.advance, State.updCs_eq_updCw, State.past, State.updCs_eq_updCw]
    show ((s.updCw _).updCw f).updCw (fun w => w.updStrand s.cur.2.2 _) = (s.updCw _).updCw f
    rw [State.updCw_updCw, State.updCw_updCw, State.updCw_updCw]
    refine State.updCw_congr ?_
    rw [hf, hf, Wave.updStrand_updStrand]
    have hs : (f s.cw).strand s.cur.2.2 = s.cs := by
      have h0 : s.cw.updStrand s.cur.2.2 (fun st => st) = s.cw.updStrand s.cur.2.2 (fun _ => s.cs) := Wave.updStrand_congr rfl
      have h1 := congrArg (fun w => Wave.strand w s.cur.2.2) (hf s.cw (fun st => st))
      have h2 := congrArg (fun w => Wave.strand w s.cur.2.2) (hf s.cw (fun _ => s.cs))
      simp only [Wave.strand_updStrand_self] at h1 h2
      rw [← h1, h0, h2]
    refine Wave.updStrand_congr ?_
    simp [hs, Strand.past, h]

/-- A word whose effect is one result leaves it outstanding. -/
theorem State.did_result {s : State} {i j : Instr} {static dynamic : List (Option Raise)} {reads : List Nat} (m : Bool) (r : Result)
    (h : s.Issues j static reads dynamic) : s.did m (s.result i r) = s.wrote i m r := by
  have e : s.result i r s.advance = s.advance.updCw fun w => { w with outs := w.outs ++ [s.filled i r] } := rfl
  rw [State.did, e, State.marker_updCw m _ h.ready (fun _ _ => rfl)]
  refine State.settle_calm ?_
  show ((s.past m).updCw _).cw.latched = none
  rw [State.cw_updCw]
  exact (s.past_latched m).trans h.calm

/-- The issue of a word whose effect is one result. -/
theorem State.run_result {s : State} {i j : Instr} {m : Bool} {static dynamic : List (Option Raise)} {reads : List Nat} {r : Result}
    (h : s.Issues i static reads dynamic) : s.run i m static reads dynamic (s.result j r) = .next (s.wrote j m r) := by
  rw [State.run_issues h, State.did_result m r h]

/-- The issue of a word without an effect. -/
theorem State.run_id {s : State} {i : Instr} {m : Bool} {static dynamic : List (Option Raise)} {reads : List Nat}
    (h : s.Issues i static reads dynamic) : s.run i m static reads dynamic id = .next (s.past m) := by
  rw [State.run_issues h, State.did_id m h]

/-- The issue of a word that changes its wave, and neither its strand nor what is latched. -/
theorem State.run_updCw {s : State} {i : Instr} {m : Bool} {static dynamic : List (Option Raise)} {reads : List Nat} {f : Wave → Wave}
    (h : s.Issues i static reads dynamic) (hf : ∀ w g, f (w.updStrand s.cur.2.2 g) = (f w).updStrand s.cur.2.2 g)
    (hl : ∀ w, (f w).latched = w.latched) :
    s.run i m static reads dynamic (fun t => t.updCw f) = .next ((s.past m).updCw f) := by
  rw [State.run_issues h, State.did, State.marker_updCw m f h.ready hf]
  refine congrArg _ (State.settle_calm ?_)
  show ((s.past m).updCw f).cw.latched = none
  rw [State.cw_updCw, hl]
  exact (s.past_latched m).trans h.calm

end Sys2Proof.Machine
end

