-- ==== Sys2Proof/Laws/Arith.lean ====
section
/-! SUPPORT. What the arithmetic of class 4 gives, in terms of the operations on words: one lemma per operation. -/

namespace Sys2Proof.Machine

theorem mul_bounds (x y : Int) (hx : -2^31 ≤ x) (hx' : x < 2^31) (hy : -2^31 ≤ y) (hy' : y < 2^31) : -2^62 ≤ x*y ∧ x*y ≤ 2^62 := by
  have h1 : |x| ≤ 2^31 := abs_le.2 ⟨hx, hx'.le⟩
  have h2 : |y| ≤ 2^31 := abs_le.2 ⟨hy, hy'.le⟩
  have : |x*y| ≤ 2^31*2^31 := by rw [abs_mul]; exact mul_le_mul h1 h2 (abs_nonneg _) (by norm_num)
  have := abs_le.1 this
  norm_num at *; exact this

theorem smulhs_value (x y : Word) : (((x.signExtend 64 * y.signExtend 64 : DWord) >>> 32).setWidth 32 : Word) = BitVec.ofInt 32 (x.toInt * y.toInt / 2 ^ 32) := by
  apply BitVec.eq_of_toInt_eq
  have hx := x.toInt_lt; have hx' := x.le_toInt; have hy := y.toInt_lt; have hy' := y.le_toInt
  have hb := mul_bounds x.toInt y.toInt (by simpa using hx') (by simpa using hx) (by simpa using hy') (by simpa using hy)
  have hm : (x.signExtend 64 * y.signExtend 64 : DWord).toInt = x.toInt * y.toInt := by
    rw [BitVec.toInt_mul, BitVec.toInt_signExtend_of_le (by decide), BitVec.toInt_signExtend_of_le (by decide)]
    apply Int.bmod_eq_of_le <;> omega
  rw [BitVec.toInt_ofInt, BitVec.toInt_setWidth]
  have : ((x.signExtend 64 * y.signExtend 64 : DWord) >>> 32).toNat = ((x.signExtend 64 * y.signExtend 64 : DWord).toNat / 2^32) := by simp [Nat.shiftRight_eq_div_pow]
  rw [this]
  generalize (x.signExtend 64 * y.signExtend 64 : DWord) = p at *
  rw [BitVec.toInt_eq_toNat_cond] at hm
  rw [← hm]
  have := p.isLt
  rw [Int.bmod_def, Int.bmod_def]
  split <;> push_cast <;> split <;> split <;> omega

theorem smulhn_value (x y : Word) : (((x.setWidth 64 * y.setWidth 64 : DWord) >>> 32).setWidth 32 : Word) = BitVec.ofNat 32 (x.toNat * y.toNat / 2 ^ 32) := by
  have hx := x.isLt
  have hy := y.isLt
  have h : x.toNat * y.toNat < 2^64 := by
    calc x.toNat * y.toNat < 2^32 * 2^32 := Nat.mul_lt_mul'' hx hy
      _ = _ := by norm_num
  apply BitVec.eq_of_toNat_eq
  rw [BitVec.toNat_setWidth, BitVec.toNat_ushiftRight, BitVec.toNat_mul, BitVec.toNat_setWidth, BitVec.toNat_setWidth, BitVec.toNat_ofNat]
  rw [Nat.mod_eq_of_lt (a := x.toNat) (by omega), Nat.mod_eq_of_lt (a := y.toNat) (by omega), Nat.mod_eq_of_lt h, Nat.shiftRight_eq_div_pow]

theorem shlBits_value (x : BitVec w) (k : Nat) : BitVec.ofNat w (shlBits w x.toNat k) = x <<< k := by
  apply BitVec.eq_of_toNat_eq
  simp only [shlBits, BitVec.toNat_ofNat, BitVec.toNat_shiftLeft, Nat.shiftLeft_eq]
  split
  · rename_i h
    obtain ⟨j, rfl⟩ := Nat.exists_eq_add_of_le h
    rw [pow_add, mul_left_comm, Nat.mul_mod_right]; simp
  · simp

theorem shrBits_value (x : BitVec w) (k : Nat) : BitVec.ofNat w (shrBits w x.toNat k) = x >>> k := by
  apply BitVec.eq_of_toNat_eq
  have := x.isLt
  simp only [shrBits, BitVec.toNat_ofNat, BitVec.toNat_ushiftRight, Nat.shiftRight_eq_div_pow]
  split
  · rename_i h
    rw [Nat.div_eq_of_lt (lt_of_lt_of_le this (Nat.pow_le_pow_right (by decide) h))]; simp
  · rw [Nat.mod_eq_of_lt]
    exact lt_of_le_of_lt (Nat.div_le_self _ _) this

theorem sgnOf_toNat (x : Word) : sgnOf 32 x.toNat = x.toInt := by
  rw [sgnOf, BitVec.toInt_eq_toNat_cond]; have := x.isLt; split <;> split <;> omega

theorem sraBits_value (x : Word) (k : Nat) : BitVec.ofNat 32 (sraBits 32 x.toNat k) = x.sshiftRight k := by
  rw [sraBits, sgnOf_toNat, toBits]
  apply BitVec.eq_of_toInt_eq
  rw [BitVec.toInt_sshiftRight, Int.shiftRight_eq_div_pow]
  have h1 := x.toInt_lt; have h2 := x.le_toInt
  have hd : x.toInt / 2 ^ (min k 32) = x.toInt / ((2 ^ k : Nat) : Int) := by
    rcases Nat.le_total k 32 with h | h
    · rw [Nat.min_eq_left h]; push_cast; rfl
    · rw [Nat.min_eq_right h]
      have hk : (2:Int)^32 ≤ 2^k := pow_le_pow_right₀ (by decide) h
      push_cast
      by_cases hn : x.toInt < 0
      · rw [Int.ediv_eq_neg_one_of_neg_of_le, Int.ediv_eq_neg_one_of_neg_of_le] <;> first | exact hn | omega
      · rw [Int.ediv_eq_zero_of_lt (by omega) (by omega), Int.ediv_eq_zero_of_lt (by omega) (by omega)]
  rw [hd]
  have hb1 : -2^31 ≤ x.toInt / ((2 ^ k : Nat) : Int) := by
    have := Int.ediv_le_ediv (c := ((2 ^ k : Nat) : Int)) (by positivity) h2
    refine le_trans ?_ this
    have : (0:Int) < ((2 ^ k : Nat) : Int) := by positivity
    rw [Int.le_ediv_iff_mul_le this]
    have : (1:Int) ≤ ((2 ^ k : Nat) : Int) := by omega
    norm_num at *; omega
  have hb2 : x.toInt / ((2 ^ k : Nat) : Int) < 2^31 := by
    have : (0:Int) < ((2 ^ k : Nat) : Int) := by positivity
    rw [Int.ediv_lt_iff_lt_mul this]
    have h1 : x.toInt < 2^31 := h1
    nlinarith
  generalize x.toInt / ((2 ^ k : Nat) : Int) = q at *
  rw [BitVec.toInt_ofNat', Int.toNat_of_nonneg (by omega), Int.bmod_def]
  split <;> omega

theorem ofBit_slt (x y : Word) : ofBit (decide (x.toInt < y.toInt)) = if x.slt y then 1 else 0 := by
  simp [ofBit, BitVec.slt]

theorem ofBit_ult (x y : Word) : ofBit (decide (x.toNat < y.toNat)) = if x.ult y then 1 else 0 := by
  simp [ofBit, BitVec.ult]

theorem ofBit_eq (x y : Word) : ofBit (x == y) = if x = y then 1 else 0 := by
  simp [ofBit]

theorem ofBit_ne (x y : Word) : ofBit (x != y) = if x = y then 0 else 1 := by
  by_cases h : x = y <;> simp [ofBit, h]

theorem ofBit_sle (x y : Word) : ofBit (decide (x.toInt ≤ y.toInt)) = if x.sle y then 1 else 0 := by
  simp [ofBit, BitVec.sle]

theorem ofBit_ule (x y : Word) : ofBit (decide (x.toNat ≤ y.toNat)) = if x.ule y then 1 else 0 := by
  simp [ofBit, BitVec.ule]

theorem popCount_eq_countP (x : Nat) (n : Nat) : popCount x n = (List.range n).countP (x.testBit ·) := by
  induction n with
  | zero => rfl
  | succ n ih => 
    rw [popCount, ih, List.range_succ, List.countP_append]
    simp [Nat.testBit_eq_decide_div_mod_eq, List.countP_cons]
    have := Nat.mod_lt (x / 2^n) (show 0 < 2 by decide)
    split <;> omega

theorem popCount_value (x : Word) : popCount x.toNat 32 = (List.range 32).countP x.getLsbD := by
  rw [popCount_eq_countP]; rfl

theorem clz_value (x : Word) : BitVec.ofNat 32 (32 - bitLen x.toNat) = x.clz := by
  apply BitVec.eq_of_toNat_eq
  by_cases h : x = 0
  · subst h; decide
  · have h0 : x.toNat ≠ 0 := by simpa [BitVec.toNat_eq] using h
    have h1 := x.toNat_lt_two_pow_sub_clz
    have h2 := BitVec.two_pow_sub_clz_le_toNat_of_ne_zero (by decide) h
    have h3 := BitVec.clz_lt_iff_ne_zero.2 h
    have hc : x.clz.toNat < 32 := by simpa [BitVec.lt_def] using h3
    have hlog : Nat.log2 x.toNat = 32 - x.clz.toNat - 1 := by
      rw [Nat.log2_eq_iff h0]
      refine ⟨by rwa [show 32 - x.clz.toNat - 1 = 32 - 1 - x.clz.toNat by omega], ?_⟩
      have : 32 - x.clz.toNat - 1 + 1 = 32 - x.clz.toNat := by omega
      rw [this]; exact h1
    rw [bitLen, if_neg h0, hlog, BitVec.toNat_ofNat]
    omega

theorem smulw_value (x y : Word) : (x.setWidth 64 * y.setWidth 64 : DWord) = BitVec.ofNat 64 (x.toNat * y.toNat) := by
  apply BitVec.eq_of_toNat_eq
  have hx := x.isLt
  have hy := y.isLt
  rw [BitVec.toNat_mul, BitVec.toNat_setWidth, BitVec.toNat_setWidth, BitVec.toNat_ofNat]
  rw [Nat.mod_eq_of_lt (a := x.toNat) (by omega), Nat.mod_eq_of_lt (a := y.toNat) (by omega)]

theorem lowest_lane_value (x : Lanes) : BitVec.ofNat 32 ((lanesOf x).headD 0xFFFFFFFF) = (match (List.range 96).find? x.getLsbD with | some l => BitVec.ofNat 32 l | none => 0xFFFFFFFF) := by
  have : ∀ l : List Nat, BitVec.ofNat 32 ((l.filter x.getLsbD).headD 0xFFFFFFFF) = (match l.find? x.getLsbD with | some l => BitVec.ofNat 32 l | none => 0xFFFFFFFF) := by
    intro l
    induction l with
    | nil => rfl
    | cons a t ih => simp only [List.filter_cons, List.find?_cons]; split <;> simp_all
  exact this _

theorem getLsbD_foldl_lanes (ls : List Nat) (m0 : Lanes) (l : Nat) (hl : l < 96) : (ls.foldl (fun m l => m ||| (1#96 <<< l)) m0).getLsbD l = (m0.getLsbD l || decide (l ∈ ls)) := by
  induction ls generalizing m0 with
  | nil => simp
  | cons a t ih =>
    rw [List.foldl_cons, ih]
    simp [hl]
    by_cases h : l = a
    · subst h; simp
    · have : ¬ (¬ l < a ∧ l - a = 0) := by omega
      by_cases g : l < a
      · simp [h, g]
      · have : ¬ l - a = 0 := by omega
        simp [h, g, this]

theorem maskOf_range_value (x : Lanes) (lo hi : Nat) (h : ∀ l, l < 96 → x.getLsbD l = decide (lo ≤ l ∧ l < hi)) : maskOf ((List.range 96).filter fun l => lo ≤ l && l < hi) = x := by
  apply BitVec.eq_of_getLsbD_eq
  intro l hl
  rw [h l hl, maskOf, getLsbD_foldl_lanes _ _ _ hl]
  simp [hl]

end Sys2Proof.Machine
end

