-- ==== Sys2Proof/Laws/Exec.lean ====
section
/-! SUPPORT. The meaning of every constructor, so that no proof unfolds the dispatch. -/

namespace Sys2Proof.Machine

theorem exec_vadd (m : Bool) (ty : FTy) (d : VReg) (a : VReg) (b : Code) (s : State) : exec (.vadd m ty d a b) s = execVadd m ty d a b s := rfl
theorem exec_vsub (m : Bool) (ty : FTy) (d : VReg) (a : VReg) (b : Code) (s : State) : exec (.vsub m ty d a b) s = execVsub m ty d a b s := rfl
theorem exec_vmul (m : Bool) (ty : FTy) (d : VReg) (a : VReg) (b : Code) (s : State) : exec (.vmul m ty d a b) s = execVmul m ty d a b s := rfl
theorem exec_vfma (m : Bool) (ty : FTy) (d : VReg) (a : VReg) (b : Code) (s : State) : exec (.vfma m ty d a b) s = execVfma m ty d a b s := rfl
theorem exec_vfnma (m : Bool) (ty : FTy) (d : VReg) (a : VReg) (b : Code) (s : State) : exec (.vfnma m ty d a b) s = execVfnma m ty d a b s := rfl
theorem exec_vmin (m : Bool) (ty : FTy) (d : VReg) (a : VReg) (b : Code) (s : State) : exec (.vmin m ty d a b) s = execVmin m ty d a b s := rfl
theorem exec_vmax (m : Bool) (ty : FTy) (d : VReg) (a : VReg) (b : Code) (s : State) : exec (.vmax m ty d a b) s = execVmax m ty d a b s := rfl
theorem exec_vcpsgn (m : Bool) (ty : FTy) (d : VReg) (a : VReg) (b : Code) (s : State) : exec (.vcpsgn m ty d a b) s = execVcpsgn m ty d a b s := rfl
theorem exec_vscale (m : Bool) (ty : FTy) (d : VReg) (a : VReg) (b : Code) (s : State) : exec (.vscale m ty d a b) s = execVscale m ty d a b s := rfl
theorem exec_vabsd (m : Bool) (ty : FTy) (d : VReg) (a : VReg) (b : Code) (s : State) : exec (.vabsd m ty d a b) s = execVabsd m ty d a b s := rfl
theorem exec_viadd (m : Bool) (ty : ITy) (d : VReg) (a : VReg) (b : Code) (s : State) : exec (.viadd m ty d a b) s = execViadd m ty d a b s := rfl
theorem exec_visub (m : Bool) (ty : ITy) (d : VReg) (a : VReg) (b : Code) (s : State) : exec (.visub m ty d a b) s = execVisub m ty d a b s := rfl
theorem exec_vimul (m : Bool) (ty : ITy) (d : VReg) (a : VReg) (b : Code) (s : State) : exec (.vimul m ty d a b) s = execVimul m ty d a b s := rfl
theorem exec_vimad (m : Bool) (ty : ITy) (d : VReg) (a : VReg) (b : Code) (s : State) : exec (.vimad m ty d a b) s = execVimad m ty d a b s := rfl
theorem exec_vimulhs (m : Bool) (ty : ITy) (d : VReg) (a : VReg) (b : Code) (s : State) : exec (.vimulhs m ty d a b) s = execVimulhs m ty d a b s := rfl
theorem exec_vimulhn (m : Bool) (ty : ITy) (d : VReg) (a : VReg) (b : Code) (s : State) : exec (.vimulhn m ty d a b) s = execVimulhn m ty d a b s := rfl
theorem exec_vimins (m : Bool) (ty : ITy) (d : VReg) (a : VReg) (b : Code) (s : State) : exec (.vimins m ty d a b) s = execVimins m ty d a b s := rfl
theorem exec_viminn (m : Bool) (ty : ITy) (d : VReg) (a : VReg) (b : Code) (s : State) : exec (.viminn m ty d a b) s = execViminn m ty d a b s := rfl
theorem exec_vimaxs (m : Bool) (ty : ITy) (d : VReg) (a : VReg) (b : Code) (s : State) : exec (.vimaxs m ty d a b) s = execVimaxs m ty d a b s := rfl
theorem exec_vimaxn (m : Bool) (ty : ITy) (d : VReg) (a : VReg) (b : Code) (s : State) : exec (.vimaxn m ty d a b) s = execVimaxn m ty d a b s := rfl
theorem exec_viaddss (m : Bool) (ty : ITy) (d : VReg) (a : VReg) (b : Code) (s : State) : exec (.viaddss m ty d a b) s = execViaddss m ty d a b s := rfl
theorem exec_viaddsn (m : Bool) (ty : ITy) (d : VReg) (a : VReg) (b : Code) (s : State) : exec (.viaddsn m ty d a b) s = execViaddsn m ty d a b s := rfl
theorem exec_vshl (m : Bool) (ty : ITy) (d : VReg) (a : VReg) (b : Code) (s : State) : exec (.vshl m ty d a b) s = execVshl m ty d a b s := rfl
theorem exec_vshr (m : Bool) (ty : ITy) (d : VReg) (a : VReg) (b : Code) (s : State) : exec (.vshr m ty d a b) s = execVshr m ty d a b s := rfl
theorem exec_vsra (m : Bool) (ty : ITy) (d : VReg) (a : VReg) (b : Code) (s : State) : exec (.vsra m ty d a b) s = execVsra m ty d a b s := rfl
theorem exec_visubss (m : Bool) (ty : ITy) (d : VReg) (a : VReg) (b : Code) (s : State) : exec (.visubss m ty d a b) s = execVisubss m ty d a b s := rfl
theorem exec_vand (m : Bool) (d : VReg) (a : VReg) (b : Code) (s : State) : exec (.vand m d a b) s = execVand m d a b s := rfl
theorem exec_vor (m : Bool) (d : VReg) (a : VReg) (b : Code) (s : State) : exec (.vor m d a b) s = execVor m d a b s := rfl
theorem exec_vxor (m : Bool) (d : VReg) (a : VReg) (b : Code) (s : State) : exec (.vxor m d a b) s = execVxor m d a b s := rfl
theorem exec_vandn (m : Bool) (d : VReg) (a : VReg) (b : Code) (s : State) : exec (.vandn m d a b) s = execVandn m d a b s := rfl
theorem exec_vbfes (m : Bool) (d : VReg) (a : VReg) (b : Code) (s : State) : exec (.vbfes m d a b) s = execVbfes m d a b s := rfl
theorem exec_vbfen (m : Bool) (d : VReg) (a : VReg) (b : Code) (s : State) : exec (.vbfen m d a b) s = execVbfen m d a b s := rfl
theorem exec_vbfi (m : Bool) (d : VReg) (a : VReg) (b : Code) (s : State) : exec (.vbfi m d a b) s = execVbfi m d a b s := rfl
theorem exec_vpopc (m : Bool) (d : VReg) (b : Code) (s : State) : exec (.vpopc m d b) s = execVpopc m d b s := rfl
theorem exec_vclz (m : Bool) (d : VReg) (b : Code) (s : State) : exec (.vclz m d b) s = execVclz m d b s := rfl
theorem exec_vpermb (m : Bool) (d : VReg) (a : VReg) (b : Code) (s : State) : exec (.vpermb m d a b) s = execVpermb m d a b s := rfl
theorem exec_vmov (m : Bool) (d : VReg) (b : Code) (s : State) : exec (.vmov m d b) s = execVmov m d b s := rfl
theorem exec_vsel (m : Bool) (d : VReg) (a : VReg) (b : Code) (s : State) : exec (.vsel m d a b) s = execVsel m d a b s := rfl
theorem exec_vcvt (m : Bool) (d : VReg) (a : VReg) (pair : CvtPair) (rnd : BitVec 2) (sel : BitVec 2) (s : State) : exec (.vcvt m d a pair rnd sel) s = execVcvt m d a pair rnd sel s := rfl
theorem exec_vqnt (m : Bool) (d : VReg) (a : VReg) (fmt : NFmt) (sat : Bool) (slot : BitVec 3) (s : State) : exec (.vqnt m d a fmt sat slot) s = execVqnt m d a fmt sat slot s := rfl
theorem exec_vdq (m : Bool) (d : VReg) (a : VReg) (fmt : NFmt) (slot : BitVec 3) (s : State) : exec (.vdq m d a fmt slot) s = execVdq m d a fmt slot s := rfl
theorem exec_vbscale (m : Bool) (d : VReg) (a : VReg) (fmt : NFmt) (s : State) : exec (.vbscale m d a fmt) s = execVbscale m d a fmt s := rfl
theorem exec_vrcp (m : Bool) (d : VReg) (b : Code) (s : State) : exec (.vrcp m d b) s = execVrcp m d b s := rfl
theorem exec_vrsq (m : Bool) (d : VReg) (b : Code) (s : State) : exec (.vrsq m d b) s = execVrsq m d b s := rfl
theorem exec_vsqrt (m : Bool) (d : VReg) (b : Code) (s : State) : exec (.vsqrt m d b) s = execVsqrt m d b s := rfl
theorem exec_vex2 (m : Bool) (d : VReg) (b : Code) (s : State) : exec (.vex2 m d b) s = execVex2 m d b s := rfl
theorem exec_vlg2 (m : Bool) (d : VReg) (b : Code) (s : State) : exec (.vlg2 m d b) s = execVlg2 m d b s := rfl
theorem exec_vsin (m : Bool) (d : VReg) (b : Code) (s : State) : exec (.vsin m d b) s = execVsin m d b s := rfl
theorem exec_vcos (m : Bool) (d : VReg) (b : Code) (s : State) : exec (.vcos m d b) s = execVcos m d b s := rfl
theorem exec_vtanh (m : Bool) (d : VReg) (b : Code) (s : State) : exec (.vtanh m d b) s = execVtanh m d b s := rfl
theorem exec_vlane (m : Bool) (d : VReg) (s : State) : exec (.vlane m d) s = execVlane m d s := rfl
theorem exec_vshfl (m : Bool) (d : VReg) (a : VReg) (b : Code) (s : State) : exec (.vshfl m d a b) s = execVshfl m d a b s := rfl
theorem exec_vbcast (m : Bool) (d : VReg) (a : VReg) (b : Code) (s : State) : exec (.vbcast m d a b) s = execVbcast m d a b s := rfl
theorem exec_vscan (m : Bool) (d : VReg) (op : RedOp) (b : Code) (s : State) : exec (.vscan m d op b) s = execVscan m d op b s := rfl
theorem exec_vreds (m : Bool) (d : SReg) (op : RedOp) (b : Code) (s : State) : exec (.vreds m d op b) s = execVreds m d op b s := rfl
theorem exec_vrdl (m : Bool) (d : SReg) (a : VReg) (b : Code) (s : State) : exec (.vrdl m d a b) s = execVrdl m d a b s := rfl
theorem exec_vwrl (m : Bool) (d : VReg) (lane : BitVec 7) (b : Code) (s : State) : exec (.vwrl m d lane b) s = execVwrl m d lane b s := rfl
theorem exec_vrdi (m : Bool) (d : VReg) (n : SReg) (s : State) : exec (.vrdi m d n) s = execVrdi m d n s := rfl
theorem exec_vwri (m : Bool) (n : SReg) (a : VReg) (s : State) : exec (.vwri m n a) s = execVwri m n a s := rfl
theorem exec_vcmpEqF64 (m : Bool) (k : KReg) (a : VReg) (b : Code) (s : State) : exec (.vcmpEqF64 m k a b) s = execVcmpEqF64 m k a b s := rfl
theorem exec_vcmpNeF64 (m : Bool) (k : KReg) (a : VReg) (b : Code) (s : State) : exec (.vcmpNeF64 m k a b) s = execVcmpNeF64 m k a b s := rfl
theorem exec_vcmpLtF64 (m : Bool) (k : KReg) (a : VReg) (b : Code) (s : State) : exec (.vcmpLtF64 m k a b) s = execVcmpLtF64 m k a b s := rfl
theorem exec_vcmpLeF64 (m : Bool) (k : KReg) (a : VReg) (b : Code) (s : State) : exec (.vcmpLeF64 m k a b) s = execVcmpLeF64 m k a b s := rfl
theorem exec_vcmpGtF64 (m : Bool) (k : KReg) (a : VReg) (b : Code) (s : State) : exec (.vcmpGtF64 m k a b) s = execVcmpGtF64 m k a b s := rfl
theorem exec_vcmpGeF64 (m : Bool) (k : KReg) (a : VReg) (b : Code) (s : State) : exec (.vcmpGeF64 m k a b) s = execVcmpGeF64 m k a b s := rfl
theorem exec_vclassF32 (m : Bool) (k : KReg) (a : VReg) (b : Code) (s : State) : exec (.vclassF32 m k a b) s = execVclassF32 m k a b s := rfl
theorem exec_vcmpF32 (m : Bool) (c : FCond) (k : KReg) (a : VReg) (b : Code) (s : State) : exec (.vcmpF32 m c k a b) s = execVcmpF32 m c k a b s := rfl
theorem exec_vcmpS32 (m : Bool) (c : Cond) (k : KReg) (a : VReg) (b : Code) (s : State) : exec (.vcmpS32 m c k a b) s = execVcmpS32 m c k a b s := rfl
theorem exec_vcmpN32 (m : Bool) (c : Cond) (k : KReg) (a : VReg) (b : Code) (s : State) : exec (.vcmpN32 m c k a b) s = execVcmpN32 m c k a b s := rfl
theorem exec_vldB32 (m : Bool) (t : VReg) (a : VReg) (b : BitVec 5) (q : LdQ) (s : State) : exec (.vldB32 m t a b q) s = execVldB32 m t a b q s := rfl
theorem exec_vldB64 (m : Bool) (t : VReg) (a : VReg) (b : BitVec 5) (q : LdQ) (s : State) : exec (.vldB64 m t a b q) s = execVldB64 m t a b q s := rfl
theorem exec_vldB128 (m : Bool) (t : VReg) (a : VReg) (b : BitVec 5) (q : LdQ) (s : State) : exec (.vldB128 m t a b q) s = execVldB128 m t a b q s := rfl
theorem exec_vldS8 (m : Bool) (t : VReg) (a : VReg) (b : BitVec 5) (q : LdQ) (s : State) : exec (.vldS8 m t a b q) s = execVldS8 m t a b q s := rfl
theorem exec_vldN8 (m : Bool) (t : VReg) (a : VReg) (b : BitVec 5) (q : LdQ) (s : State) : exec (.vldN8 m t a b q) s = execVldN8 m t a b q s := rfl
theorem exec_vldS16 (m : Bool) (t : VReg) (a : VReg) (b : BitVec 5) (q : LdQ) (s : State) : exec (.vldS16 m t a b q) s = execVldS16 m t a b q s := rfl
theorem exec_vldN16 (m : Bool) (t : VReg) (a : VReg) (b : BitVec 5) (q : LdQ) (s : State) : exec (.vldN16 m t a b q) s = execVldN16 m t a b q s := rfl
theorem exec_vstB32 (m : Bool) (t : VReg) (a : VReg) (b : BitVec 5) (q : StQ) (s : State) : exec (.vstB32 m t a b q) s = execVstB32 m t a b q s := rfl
theorem exec_vstB64 (m : Bool) (t : VReg) (a : VReg) (b : BitVec 5) (q : StQ) (s : State) : exec (.vstB64 m t a b q) s = execVstB64 m t a b q s := rfl
theorem exec_vstB128 (m : Bool) (t : VReg) (a : VReg) (b : BitVec 5) (q : StQ) (s : State) : exec (.vstB128 m t a b q) s = execVstB128 m t a b q s := rfl
theorem exec_vstB8 (m : Bool) (t : VReg) (a : VReg) (b : BitVec 5) (q : StQ) (s : State) : exec (.vstB8 m t a b q) s = execVstB8 m t a b q s := rfl
theorem exec_vstB16 (m : Bool) (t : VReg) (a : VReg) (b : BitVec 5) (q : StQ) (s : State) : exec (.vstB16 m t a b q) s = execVstB16 m t a b q s := rfl
theorem exec_vpref (m : Bool) (l2 : Bool) (a : VReg) (b : BitVec 5) (s : State) : exec (.vpref m l2 a b) s = execVpref m l2 a b s := rfl
theorem exec_fget (m : Bool) (t : VReg) (a : VReg) (b : BitVec 5) (acq : Bool) (s : State) : exec (.fget m t a b acq) s = execFget m t a b acq s := rfl
theorem exec_fput (m : Bool) (t : VReg) (a : VReg) (b : BitVec 5) (rel : Bool) (s : State) : exec (.fput m t a b rel) s = execFput m t a b rel s := rfl
theorem exec_vatom (m : Bool) (op : AtomOp) (t : VReg) (a : VReg) (b : BitVec 5) (q : AtQ) (s : State) : exec (.vatom m op t a b q) s = execVatom m op t a b q s := rfl
theorem exec_vred (m : Bool) (op : AtomOp) (t : VReg) (a : VReg) (b : BitVec 5) (q : RdQ) (s : State) : exec (.vred m op t a b q) s = execVred m op t a b q s := rfl
theorem exec_sadd (m : Bool) (d : SReg) (a : SReg) (b : SOp) (s : State) : exec (.sadd m d a b) s = execSadd m d a b s := rfl
theorem exec_ssub (m : Bool) (d : SReg) (a : SReg) (b : SOp) (s : State) : exec (.ssub m d a b) s = execSsub m d a b s := rfl
theorem exec_smul (m : Bool) (d : SReg) (a : SReg) (b : SOp) (s : State) : exec (.smul m d a b) s = execSmul m d a b s := rfl
theorem exec_smulhs (m : Bool) (d : SReg) (a : SReg) (b : SOp) (s : State) : exec (.smulhs m d a b) s = execSmulhs m d a b s := rfl
theorem exec_smulhn (m : Bool) (d : SReg) (a : SReg) (b : SOp) (s : State) : exec (.smulhn m d a b) s = execSmulhn m d a b s := rfl
theorem exec_sand (m : Bool) (d : SReg) (a : SReg) (b : SOp) (s : State) : exec (.sand m d a b) s = execSand m d a b s := rfl
theorem exec_sor (m : Bool) (d : SReg) (a : SReg) (b : SOp) (s : State) : exec (.sor m d a b) s = execSor m d a b s := rfl
theorem exec_sxor (m : Bool) (d : SReg) (a : SReg) (b : SOp) (s : State) : exec (.sxor m d a b) s = execSxor m d a b s := rfl
theorem exec_sandn (m : Bool) (d : SReg) (a : SReg) (b : SOp) (s : State) : exec (.sandn m d a b) s = execSandn m d a b s := rfl
theorem exec_sshl (m : Bool) (d : SReg) (a : SReg) (b : SOp) (s : State) : exec (.sshl m d a b) s = execSshl m d a b s := rfl
theorem exec_sshr (m : Bool) (d : SReg) (a : SReg) (b : SOp) (s : State) : exec (.sshr m d a b) s = execSshr m d a b s := rfl
theorem exec_ssra (m : Bool) (d : SReg) (a : SReg) (b : SOp) (s : State) : exec (.ssra m d a b) s = execSsra m d a b s := rfl
theorem exec_smins (m : Bool) (d : SReg) (a : SReg) (b : SOp) (s : State) : exec (.smins m d a b) s = execSmins m d a b s := rfl
theorem exec_sminn (m : Bool) (d : SReg) (a : SReg) (b : SOp) (s : State) : exec (.sminn m d a b) s = execSminn m d a b s := rfl
theorem exec_smaxs (m : Bool) (d : SReg) (a : SReg) (b : SOp) (s : State) : exec (.smaxs m d a b) s = execSmaxs m d a b s := rfl
theorem exec_smaxn (m : Bool) (d : SReg) (a : SReg) (b : SOp) (s : State) : exec (.smaxn m d a b) s = execSmaxn m d a b s := rfl
theorem exec_sslt (m : Bool) (d : SReg) (a : SReg) (b : SOp) (s : State) : exec (.sslt m d a b) s = execSslt m d a b s := rfl
theorem exec_ssltn (m : Bool) (d : SReg) (a : SReg) (b : SOp) (s : State) : exec (.ssltn m d a b) s = execSsltn m d a b s := rfl
theorem exec_sseq (m : Bool) (d : SReg) (a : SReg) (b : SOp) (s : State) : exec (.sseq m d a b) s = execSseq m d a b s := rfl
theorem exec_ssne (m : Bool) (d : SReg) (a : SReg) (b : SOp) (s : State) : exec (.ssne m d a b) s = execSsne m d a b s := rfl
theorem exec_ssle (m : Bool) (d : SReg) (a : SReg) (b : SOp) (s : State) : exec (.ssle m d a b) s = execSsle m d a b s := rfl
theorem exec_sslen (m : Bool) (d : SReg) (a : SReg) (b : SOp) (s : State) : exec (.sslen m d a b) s = execSslen m d a b s := rfl
theorem exec_smov (m : Bool) (d : SReg) (b : SOp) (s : State) : exec (.smov m d b) s = execSmov m d b s := rfl
theorem exec_scmov (m : Bool) (d : SReg) (a : SReg) (b : SOp) (s : State) : exec (.scmov m d a b) s = execScmov m d a b s := rfl
theorem exec_sadd64 (m : Bool) (d : SReg) (a : SReg) (b : SOp) (s : State) : exec (.sadd64 m d a b) s = execSadd64 m d a b s := rfl
theorem exec_ssub64 (m : Bool) (d : SReg) (a : SReg) (b : SOp) (s : State) : exec (.ssub64 m d a b) s = execSsub64 m d a b s := rfl
theorem exec_sshl64 (m : Bool) (d : SReg) (a : SReg) (b : SOp) (s : State) : exec (.sshl64 m d a b) s = execSshl64 m d a b s := rfl
theorem exec_sshr64 (m : Bool) (d : SReg) (a : SReg) (b : SOp) (s : State) : exec (.sshr64 m d a b) s = execSshr64 m d a b s := rfl
theorem exec_spopc (m : Bool) (d : SReg) (a : SReg) (s : State) : exec (.spopc m d a) s = execSpopc m d a s := rfl
theorem exec_sclz (m : Bool) (d : SReg) (a : SReg) (s : State) : exec (.sclz m d a) s = execSclz m d a s := rfl
theorem exec_sbfen (m : Bool) (d : SReg) (a : SReg) (b : SOp) (s : State) : exec (.sbfen m d a b) s = execSbfen m d a b s := rfl
theorem exec_smulw (m : Bool) (d : SReg) (a : SReg) (b : SOp) (s : State) : exec (.smulw m d a b) s = execSmulw m d a b s := rfl
theorem exec_kand (m : Bool) (d : KReg) (a : KReg) (b : KReg) (s : State) : exec (.kand m d a b) s = execKand m d a b s := rfl
theorem exec_kor (m : Bool) (d : KReg) (a : KReg) (b : KReg) (s : State) : exec (.kor m d a b) s = execKor m d a b s := rfl
theorem exec_kxor (m : Bool) (d : KReg) (a : KReg) (b : KReg) (s : State) : exec (.kxor m d a b) s = execKxor m d a b s := rfl
theorem exec_kandn (m : Bool) (d : KReg) (a : KReg) (b : KReg) (s : State) : exec (.kandn m d a b) s = execKandn m d a b s := rfl
theorem exec_kmov (m : Bool) (d : KReg) (b : SOp) (s : State) : exec (.kmov m d b) s = execKmov m d b s := rfl
theorem exec_kpopc (m : Bool) (d : SReg) (a : KReg) (s : State) : exec (.kpopc m d a) s = execKpopc m d a s := rfl
theorem exec_kffs (m : Bool) (d : SReg) (a : KReg) (s : State) : exec (.kffs m d a) s = execKffs m d a s := rfl
theorem exec_klane (m : Bool) (d : KReg) (a : SReg) (b : SOp) (s : State) : exec (.klane m d a b) s = execKlane m d a b s := rfl
theorem exec_sldB32 (m : Bool) (d : SReg) (a : SReg) (b : SOp) (s : State) : exec (.sldB32 m d a b) s = execSldB32 m d a b s := rfl
theorem exec_sldB64 (m : Bool) (d : SReg) (a : SReg) (b : SOp) (s : State) : exec (.sldB64 m d a b) s = execSldB64 m d a b s := rfl
theorem exec_sldB128 (m : Bool) (d : SReg) (a : SReg) (b : SOp) (s : State) : exec (.sldB128 m d a b) s = execSldB128 m d a b s := rfl
theorem exec_sstB32 (m : Bool) (d : SReg) (a : SReg) (b : SOp) (s : State) : exec (.sstB32 m d a b) s = execSstB32 m d a b s := rfl
theorem exec_sstB64 (m : Bool) (d : SReg) (a : SReg) (b : SOp) (s : State) : exec (.sstB64 m d a b) s = execSstB64 m d a b s := rfl
theorem exec_satomAdd (m : Bool) (d : SReg) (a : SReg) (b : SReg) (s : State) : exec (.satomAdd m d a b) s = execSatomAdd m d a b s := rfl
theorem exec_satomCas (m : Bool) (d : SReg) (a : SReg) (b : SReg) (s : State) : exec (.satomCas m d a b) s = execSatomCas m d a b s := rfl
theorem exec_satomExch (m : Bool) (d : SReg) (a : SReg) (b : SReg) (s : State) : exec (.satomExch m d a b) s = execSatomExch m d a b s := rfl
theorem exec_sget (m : Bool) (d : SReg) (x : BitVec 9) (s : State) : exec (.sget m d x) s = execSget m d x s := rfl
theorem exec_sset (m : Bool) (a : SReg) (x : BitVec 9) (s : State) : exec (.sset m a x) s = execSset m a x s := rfl
theorem exec_br (m : Bool) (off : BitVec 23) (s : State) : exec (.br m off) s = execBr m off s := rfl
theorem exec_brany (m : Bool) (k : KReg) (off : BitVec 18) (s : State) : exec (.brany m k off) s = execBrany m k off s := rfl
theorem exec_brall (m : Bool) (k : KReg) (off : BitVec 18) (s : State) : exec (.brall m k off) s = execBrall m k off s := rfl
theorem exec_brnone (m : Bool) (k : KReg) (off : BitVec 18) (s : State) : exec (.brnone m k off) s = execBrnone m k off s := rfl
theorem exec_brnz (m : Bool) (r : SReg) (off : BitVec 17) (s : State) : exec (.brnz m r off) s = execBrnz m r off s := rfl
theorem exec_brz (m : Bool) (r : SReg) (off : BitVec 17) (s : State) : exec (.brz m r off) s = execBrz m r off s := rfl
theorem exec_call (m : Bool) (p : SReg) (off : BitVec 17) (s : State) : exec (.call m p off) s = execCall m p off s := rfl
theorem exec_jmpr (m : Bool) (p : SReg) (s : State) : exec (.jmpr m p) s = execJmpr m p s := rfl
theorem exec_split (m : Bool) (k : KReg) (offA : BitVec 9) (offC : BitVec 9) (s : State) : exec (.split m k offA offC) s = execSplit m k offA offC s := rfl
theorem exec_ends (m : Bool) (s : State) : exec (.ends m) s = execEnds m s := rfl
theorem exec_pub (m : Bool) (v : VReg) (vcnt : BitVec 5) (r : SReg) (scnt : BitVec 4) (s : State) : exec (.pub m v vcnt r scnt) s = execPub m v vcnt r scnt s := rfl
theorem exec_join (m : Bool) (d : VReg) (a : VReg) (b : VReg) (s : State) : exec (.join m d a b) s = execJoin m d a b s := rfl
theorem exec_joins (m : Bool) (d : SReg) (a : SReg) (armF : Bool) (s : State) : exec (.joins m d a armF) s = execJoins m d a armF s := rfl
theorem exec_joinm (m : Bool) (s : State) : exec (.joinm m) s = execJoinm m s := rfl
theorem exec_barW (m : Bool) (id : BitVec 5) (s : State) : exec (.barW m id) s = execBarW m id s := rfl
theorem exec_barA (m : Bool) (id : BitVec 5) (d : SReg) (s : State) : exec (.barA m id d) s = execBarA m id d s := rfl
theorem exec_barD (m : Bool) (id : BitVec 5) (s : State) : exec (.barD m id) s = execBarD m id s := rfl
theorem exec_barJ (m : Bool) (id : BitVec 5) (s : State) : exec (.barJ m id) s = execBarJ m id s := rfl
theorem exec_barwp (m : Bool) (id : BitVec 5) (r : SReg) (s : State) : exec (.barwp m id r) s = execBarwp m id r s := rfl
theorem exec_fence (m : Bool) (scope : Scope) (s : State) : exec (.fence m scope) s = execFence m scope s := rfl
theorem exec_qfence (m : Bool) (mask : BitVec 8) (s : State) : exec (.qfence m mask) s = execQfence m mask s := rfl
theorem exec_twait (m : Bool) (r : SReg) (s : State) : exec (.twait m r) s = execTwait m r s := rfl
theorem exec_mwait (m : Bool) (r : SReg) (s : State) : exec (.mwait m r) s = execMwait m r s := rfl
theorem exec_rpoll (m : Bool) (d : SReg) (s : State) : exec (.rpoll m d) s = execRpoll m d s := rfl
theorem exec_vgive (m : Bool) (n : BitVec 4) (s : State) : exec (.vgive m n) s = execVgive m n s := rfl
theorem exec_vclaim (m : Bool) (n : BitVec 4) (s : State) : exec (.vclaim m n) s = execVclaim m n s := rfl
theorem exec_exit (m : Bool) (s : State) : exec (.exit m) s = execExit m s := rfl
theorem exec_trap (m : Bool) (code : BitVec 8) (s : State) : exec (.trap m code) s = execTrap m code s := rfl
theorem exec_tret (m : Bool) (s : State) : exec (.tret m) s = execTret m s := rfl
theorem exec_nop (m : Bool) (s : State) : exec (.nop m) s = execNop m s := rfl
theorem exec_acopy (m : Bool) (d : SReg) (a : SReg) (b : SReg) (q : BitVec 2) (s : State) : exec (.acopy m d a b q) s = execAcopy m d a b q s := rfl
theorem exec_gath (m : Bool) (d : SReg) (a : SReg) (s : State) : exec (.gath m d a) s = execGath m d a s := rfl
theorem exec_scat (m : Bool) (d : SReg) (a : SReg) (s : State) : exec (.scat m d a) s = execScat m d a s := rfl
theorem exec_mma (m : Bool) (sh : Shape) (acc : BitVec 3) (a : BitVec 5) (b : BitVec 5) (f : BitVec 3) (s : State) : exec (.mma m sh acc a b f) s = execMma m sh acc a b f s := rfl
theorem exec_mmasp (m : Bool) (sh : Shape) (acc : BitVec 3) (a : BitVec 5) (b : BitVec 5) (f : BitVec 3) (s : State) : exec (.mmasp m sh acc a b f) s = execMmasp m sh acc a b f s := rfl
theorem exec_mzacc (m : Bool) (sh : Shape) (acc : BitVec 3) (s : State) : exec (.mzacc m sh acc) s = execMzacc m sh acc s := rfl
theorem exec_mstacc (m : Bool) (sh : Shape) (acc : BitVec 3) (a : BitVec 5) (b : BitVec 5) (fmt : AccFmt) (s : State) : exec (.mstacc m sh acc a b fmt) s = execMstacc m sh acc a b fmt s := rfl
theorem exec_mldacc (m : Bool) (sh : Shape) (acc : BitVec 3) (a : BitVec 5) (b : BitVec 5) (fmt : AccFmt) (s : State) : exec (.mldacc m sh acc a b fmt) s = execMldacc m sh acc a b fmt s := rfl
theorem exec_mfence (m : Bool) (d : SReg) (s : State) : exec (.mfence m d) s = execMfence m d s := rfl
theorem exec_coll (m : Bool) (d : SReg) (a : SReg) (s : State) : exec (.coll m d a) s = execColl m d a s := rfl
theorem exec_tenq (m : Bool) (a : VReg) (b : Code) (s : State) : exec (.tenq m a b) s = execTenq m a b s := rfl
theorem exec_tgaina (m : Bool) (a : VReg) (b : Code) (s : State) : exec (.tgaina m a b) s = execTgaina m a b s := rfl
theorem exec_tgainm (m : Bool) (a : VReg) (b : Code) (s : State) : exec (.tgainm m a b) s = execTgainm m a b s := rfl
theorem exec_tgains (m : Bool) (a : VReg) (b : Code) (s : State) : exec (.tgains m a b) s = execTgains m a b s := rfl
theorem exec_tdone (m : Bool) (a : VReg) (s : State) : exec (.tdone m a) s = execTdone m a s := rfl
theorem exec_tjset (m : Bool) (a : VReg) (b : Code) (s : State) : exec (.tjset m a b) s = execTjset m a b s := rfl
theorem exec_hres (m : Bool) (d : SReg) (heap : BitVec 6) (s : State) : exec (.hres m d heap) s = execHres m d heap s := rfl
theorem exec_ringp (m : Bool) (d : SReg) (a : SReg) (ring : BitVec 2) (s : State) : exec (.ringp m d a ring) s = execRingp m d a ring s := rfl
theorem exec_ringc (m : Bool) (d : SReg) (a : SReg) (ring : BitVec 2) (s : State) : exec (.ringc m d a ring) s = execRingc m d a ring s := rfl
theorem exec_ringq (m : Bool) (d : SReg) (ring : BitVec 2) (s : State) : exec (.ringq m d ring) s = execRingq m d ring s := rfl
theorem exec_smap (m : Bool) (d : SReg) (a : SReg) (zero : Bool) (s : State) : exec (.smap m d a zero) s = execSmap m d a zero s := rfl
theorem exec_sunmap (m : Bool) (d : SReg) (a : SReg) (wb : Bool) (s : State) : exec (.sunmap m d a wb) s = execSunmap m d a wb s := rfl
theorem exec_cdrop (m : Bool) (d : SReg) (a : SReg) (b : SReg) (s : State) : exec (.cdrop m d a b) s = execCdrop m d a b s := rfl
theorem exec_cqry (m : Bool) (d : SReg) (a : SReg) (s : State) : exec (.cqry m d a) s = execCqry m d a s := rfl
theorem exec_l2pin (m : Bool) (ways : SReg) (a : SReg) (b : SReg) (slot : BitVec 3) (s : State) : exec (.l2pin m ways a b slot) s = execL2pin m ways a b slot s := rfl
theorem exec_l2unpin (m : Bool) (slot : BitVec 3) (s : State) : exec (.l2unpin m slot) s = execL2unpin m slot s := rfl
theorem exec_cinv (m : Bool) (d : SReg) (a : SReg) (b : SReg) (s : State) : exec (.cinv m d a b) s = execCinv m d a b s := rfl
theorem exec_cinvI (m : Bool) (d : SReg) (a : SReg) (b : SReg) (s : State) : exec (.cinvI m d a b) s = execCinvI m d a b s := rfl
theorem exec_cwb (m : Bool) (d : SReg) (a : SReg) (b : SReg) (s : State) : exec (.cwb m d a b) s = execCwb m d a b s := rfl
theorem exec_xmod (k : BitVec 5) (z : Bool) (rnd : BitVec 3) (v4 : VReg) (v4ok : Bool) (aux : BitVec 5) (s : State) : exec (.xmod k z rnd v4 v4ok aux) s = execXmod k z rnd v4 v4ok aux s := rfl
theorem exec_limm (p : BitVec 22) (s : State) : exec (.limm p) s = execLimm p s := rfl
theorem exec_limmh (h : BitVec 16) (s : State) : exec (.limmh h) s = execLimmh h s := rfl
theorem exec_limml (h : BitVec 16) (s : State) : exec (.limml h) s = execLimml h s := rfl
theorem exec_limmf (p : BitVec 22) (s : State) : exec (.limmf p) s = execLimmf p s := rfl
theorem exec_sched (m : Bool) (lvl : BitVec 3) (s : State) : exec (.sched m lvl) s = execSched m lvl s := rfl
theorem exec_sysld (m : Bool) (d : SReg) (a : SReg) (s : State) : exec (.sysld m d a) s = execSysld m d a s := rfl
theorem exec_sysst (m : Bool) (d : SReg) (a : SReg) (s : State) : exec (.sysst m d a) s = execSysst m d a s := rfl
theorem exec_tlbinv (m : Bool) (a : SReg) (s : State) : exec (.tlbinv m a) s = execTlbinv m a s := rfl
theorem exec_cntrd (m : Bool) (d : SReg) (meter : BitVec 4) (s : State) : exec (.cntrd m d meter) s = execCntrd m d meter s := rfl
theorem exec_trace (m : Bool) (a : SReg) (s : State) : exec (.trace m a) s = execTrace m a s := rfl
theorem exec_brkpt (m : Bool) (s : State) : exec (.brkpt m) s = execBrkpt m s := rfl
theorem exec_waiti (m : Bool) (s : State) : exec (.waiti m) s = execWaiti m s := rfl
theorem exec_metsnap (m : Bool) (t : SReg) (s : State) : exec (.metsnap m t) s = execMetsnap m t s := rfl
theorem exec_vidivS32 (m : Bool) (d : VReg) (a : VReg) (b : Code) (s : State) : exec (.vidivS32 m d a b) s = execVidivS32 m d a b s := rfl
theorem exec_emulation (m : Bool) (op : BitVec 4) (x : BitVec 22) (s : State) : exec (.emulation m op x) s = execEmulation m op x s := rfl
theorem exec_strandWake (core : Nat) (slot : Nat) (strand : Nat) (s : State) : exec (.strandWake core slot strand) s = execStrandWake core slot strand s := rfl
theorem exec_resultWrite (core : Nat) (slot : Nat) (idx : Nat) (lanes : Lanes) (s : State) : exec (.resultWrite core slot idx lanes) s = execResultWrite core slot idx lanes s := rfl
theorem exec_ssqEntryRelease (core : Nat) (slot : Nat) (id : Nat) (s : State) : exec (.ssqEntryRelease core slot id) s = execSsqEntryRelease core slot id s := rfl
theorem exec_pageWalk (core : Nat) (slot : Nat) (id : Nat) (s : State) : exec (.pageWalk core slot id) s = execPageWalk core slot id s := rfl
theorem exec_takeTrap (core : Nat) (slot : Nat) (s : State) : exec (.takeTrap core slot) s = execTakeTrap core slot s := rfl
theorem exec_contextEnd (core : Nat) (slot : Nat) (s : State) : exec (.contextEnd core slot) s = execContextEnd core slot s := rfl
theorem exec_waveEnd (core : Nat) (slot : Nat) (s : State) : exec (.waveEnd core slot) s = execWaveEnd core slot s := rfl
theorem exec_acopyComplete (blk : Nat) (q : Nat) (s : State) : exec (.acopyComplete blk q) s = execAcopyComplete blk q s := rfl
theorem exec_gathScatComplete (blk : Nat) (s : State) : exec (.gathScatComplete blk) s = execGathScatComplete blk s := rfl
theorem exec_sunmapComplete (core : Nat) (slot : Nat) (id : Nat) (s : State) : exec (.sunmapComplete core slot id) s = execSunmapComplete core slot id s := rfl
theorem exec_cdropComplete (core : Nat) (slot : Nat) (id : Nat) (s : State) : exec (.cdropComplete core slot id) s = execCdropComplete core slot id s := rfl
theorem exec_cinvCwbComplete (core : Nat) (slot : Nat) (id : Nat) (s : State) : exec (.cinvCwbComplete core slot id) s = execCinvCwbComplete core slot id s := rfl
theorem exec_metsnapComplete (core : Nat) (slot : Nat) (id : Nat) (s : State) : exec (.metsnapComplete core slot id) s = execMetsnapComplete core slot id s := rfl
theorem exec_matrixOpComplete (blk : Nat) (s : State) : exec (.matrixOpComplete blk) s = execMatrixOpComplete blk s := rfl
theorem exec_batchComplete (blk : Nat) (s : State) : exec (.batchComplete blk) s = execBatchComplete blk s := rfl
theorem exec_heapOpPerform (part : Nat) (heap : Nat) (s : State) : exec (.heapOpPerform part heap) s = execHeapOpPerform part heap s := rfl
theorem exec_tdoneParentUpdate (part : Nat) (heap : Nat) (s : State) : exec (.tdoneParentUpdate part heap) s = execTdoneParentUpdate part heap s := rfl
theorem exec_turnstilePop (part : Nat) (heap : Nat) (s : State) : exec (.turnstilePop part heap) s = execTurnstilePop part heap s := rfl
theorem exec_heapRunEnd (part : Nat) (heap : Nat) (s : State) : exec (.heapRunEnd part heap) s = execHeapRunEnd part heap s := rfl
theorem exec_registerWrite (space : RegSpace) (off : Nat) (val : DWord) (s : State) : exec (.registerWrite space off val) s = execRegisterWrite space off val s := rfl
theorem exec_packetAccept (vi : Nat) (q : Nat) (s : State) : exec (.packetAccept vi q) s = execPacketAccept vi q s := rfl
theorem exec_packetStart (id : Nat) (s : State) : exec (.packetStart id) s = execPacketStart id s := rfl
theorem exec_grid (id : Nat) (s : State) : exec (.grid id) s = execGrid id s := rfl
theorem exec_heapConfigure (id : Nat) (s : State) : exec (.heapConfigure id) s = execHeapConfigure id s := rfl
theorem exec_heapRun (id : Nat) (s : State) : exec (.heapRun id) s = execHeapRun id s := rfl
theorem exec_heapRelease (id : Nat) (s : State) : exec (.heapRelease id) s = execHeapRelease id s := rfl
theorem exec_marker (id : Nat) (s : State) : exec (.marker id) s = execMarker id s := rfl
theorem exec_packetComplete (id : Nat) (s : State) : exec (.packetComplete id) s = execPacketComplete id s := rfl
theorem exec_ticketDispatch (part : Nat) (core : Nat) (s : State) : exec (.ticketDispatch part core) s = execTicketDispatch part core s := rfl
theorem exec_contextSwitch (part : Nat) (s : State) : exec (.contextSwitch part) s = execContextSwitch part s := rfl
theorem exec_schedulingPass (part : Nat) (maps : List (Nat × Nat × Nat)) (s : State) : exec (.schedulingPass part maps) s = execSchedulingPass part maps s := rfl
theorem exec_partitionReconfigure (layout : List PartSpec) (s : State) : exec (.partitionReconfigure layout) s = execPartitionReconfigure layout s := rfl
theorem exec_illegalWord (w : Word) (s : State) : exec (.illegalWord w) s = execIllegalWord w s := rfl
theorem exec_collComplete (blk : Nat) (inp : CollInput) (s : State) : exec (.collComplete blk inp) s = execCollComplete blk inp s := rfl
theorem exec_notify (vi : Nat) (q : Nat) (idx : Word) (s : State) : exec (.notify vi q idx) s = execNotify vi q idx s := rfl
theorem exec_hostWrite (w : Window) (off : Nat) (data : List Byte) (s : State) : exec (.hostWrite w off data) s = execHostWrite w off data s := rfl
theorem exec_hostRead (w : Window) (off : Nat) (n : Nat) (s : State) : exec (.hostRead w off n) s = execHostRead w off n s := rfl
theorem exec_dumpKey (vi : Nat) (key : BitVec 256) (s : State) : exec (.dumpKey vi key) s = execDumpKey vi key s := rfl
theorem exec_laneCycleRecord (core : Nat) (quarter : Nat) (s : State) : exec (.laneCycleRecord core quarter) s = execLaneCycleRecord core quarter s := rfl
theorem exec_remoteAccess (src : RemoteSource) (op : RemoteOp) (s : State) : exec (.remoteAccess src op) s = execRemoteAccess src op s := rfl
theorem exec_dump (req : DumpRequest) (s : State) : exec (.dump req) s = execDump req s := rfl
theorem exec_resume (vi : Nat) (q : Nat) (idx : Nat) (x : Nat) (y : Nat) (z : Nat) (s : State) : exec (.resume vi q idx x y z) s = execResume vi q idx x y z s := rfl
theorem exec_stop (vi : Nat) (q : Nat) (idx : Nat) (x : Nat) (y : Nat) (z : Nat) (s : State) : exec (.stop vi q idx x y z) s = execStop vi q idx x y z s := rfl
theorem exec_settrace (vi : Nat) (base : DWord) (size : Nat) (kinds : BitVec 8) (s : State) : exec (.settrace vi base size kinds) s = execSettrace vi base size kinds s := rfl
theorem exec_getbins (vi : Nat) (s : State) : exec (.getbins vi) s = execGetbins vi s := rfl
theorem exec_setbin (vi bin : Nat) (base limit : DWord) (binVi : Nat) (s : State) : exec (.setbin vi bin base limit binVi) s = execSetbin vi bin base limit binVi s := rfl
theorem exec_getmemb (vi : Nat) (s : State) : exec (.getmemb vi) s = execGetmemb vi s := rfl
theorem exec_getsnap (vi : Nat) (s : State) : exec (.getsnap vi) s = execGetsnap vi s := rfl
theorem exec_setjob (vi : Nat) (job : DWord) (s : State) : exec (.setjob vi job) s = execSetjob vi job s := rfl
theorem exec_overTemperature (part : Nat) (s : State) : exec (.overTemperature part) s = execOverTemperature part s := rfl
theorem exec_linkFailure (port : Nat) (s : State) : exec (.linkFailure port) s = execLinkFailure port s := rfl
theorem exec_linkUp (port : Nat) (partner : Nat) (partnerPort : Nat) (ident : BitVec 256) (s : State) : exec (.linkUp port partner partnerPort ident) s = execLinkUp port partner partnerPort ident s := rfl
theorem exec_activationAlert (stack : Nat) (chan : Nat) (bank : Nat) (s : State) : exec (.activationAlert stack chan bank) s = execActivationAlert stack chan bank s := rfl
theorem exec_refreshInterval (stack : Nat) (chan : Nat) (bank : Nat) (s : State) : exec (.refreshInterval stack chan bank) s = execRefreshInterval stack chan bank s := rfl
theorem exec_gracePeriodEnd (base : Nat) (s : State) : exec (.gracePeriodEnd base) s = execGracePeriodEnd base s := rfl
theorem exec_extentRelease (base : Nat) (forced : Bool) (s : State) : exec (.extentRelease base forced) s = execExtentRelease base forced s := rfl
theorem exec_extentAdd (base : Nat) (len : Nat) (vi : Nat) (s : State) : exec (.extentAdd base len vi) s = execExtentAdd base len vi s := rfl
theorem exec_sliceEnd (part : Nat) (s : State) : exec (.sliceEnd part) s = execSliceEnd part s := rfl
theorem exec_strandCapped (core : Nat) (slot : Nat) (strand : Nat) (s : State) : exec (.strandCapped core slot strand) s = execStrandCapped core slot strand s := rfl
theorem exec_fetchFill (core : Nat) (vi : Nat) (va : DWord) (s : State) : exec (.fetchFill core vi va) s = execFetchFill core vi va s := rfl
theorem exec_roleToLoader (blk : Nat) (s : State) : exec (.roleToLoader blk) s = execRoleToLoader blk s := rfl
theorem exec_roleToCompute (blk : Nat) (s : State) : exec (.roleToCompute blk) s = execRoleToCompute blk s := rfl
theorem exec_powerOverrun (s : State) : exec .powerOverrun s = execPowerOverrun s := rfl
theorem exec_settrap (s : State) : exec .settrap s = execSettrap s := rfl
theorem exec_setroot (s : State) : exec .setroot s = execSetroot s := rfl
theorem exec_group (s : State) : exec .group s = execGroup s := rfl
theorem exec_schedp (s : State) : exec .schedp s = execSchedp s := rfl
theorem exec_assign (s : State) : exec .assign s = execAssign s := rfl
theorem exec_resetvi (s : State) : exec .resetvi s = execResetvi s := rfl
theorem exec_extdone (s : State) : exec .extdone s = execExtdone s := rfl
theorem exec_imggo (s : State) : exec .imggo s = execImggo s := rfl
theorem exec_powerOn (s : State) : exec .powerOn s = execPowerOn s := rfl

end Sys2Proof.Machine
end

