-- ==== Sys2Proof/Laws/Fields.lean ====
section
/-! SUPPORT. The fields of every layout read back, and the inverse of every table of field codes: what decoding an encoding needs. -/

namespace Sys2Proof

/-! ## Fields of an append -/

theorem ext_hi (x : BitVec n) (y : BitVec m) (s k : Nat) (h : m ≤ s) : (x ++ y).extractLsb' s k = x.extractLsb' (s - m) k := by
  apply BitVec.eq_of_getLsbD_eq
  intro i hi
  have h1 : ¬ s + i < m := by omega
  have h2 : s + i - m = s - m + i := by omega
  simp [BitVec.getLsbD_append, hi, h1, h2]

theorem ext_lo (x : BitVec n) (y : BitVec m) (s k : Nat) (h : s + k ≤ m) : (x ++ y).extractLsb' s k = y.extractLsb' s k := by
  apply BitVec.eq_of_getLsbD_eq
  intro i hi
  have h1 : s + i < m := by omega
  simp [BitVec.getLsbD_append, hi, h1]

theorem ext_all (x : BitVec n) : x.extractLsb' 0 n = x := by
  apply BitVec.eq_of_getLsbD_eq
  intro i hi
  simp [hi]

/-- A one-bit field read as a Boolean. -/
theorem getLsbD_of_ext {x : BitVec n} {s : Nat} {y : BitVec 1} (h : x.extractLsb' s 1 = y) : x.getLsbD s = y.getLsbD 0 := by
  rw [← h]; simp

theorem bit_getLsbD (b : Bool) : (bit b).getLsbD 0 = b := by cases b <;> rfl

/-! ## The fields of the layouts -/

theorem layV_m (m : Bool) (cls : BitVec 3) (op : BitVec 4) (ty : BitVec 2) (d a : VReg) (b : Code) :
    (layV m cls op ty d a b).getLsbD 31 = m :=
  (getLsbD_of_ext ((ext_hi _ b 31 1 (by decide)).trans ((ext_hi _ a 23 1 (by decide)).trans ((ext_hi _ d 16 1 (by decide)).trans ((ext_hi _ ty 9 1 (by decide)).trans ((ext_hi _ op 7 1 (by decide)).trans ((ext_hi _ cls 3 1 (by decide)).trans (ext_all (bit m))))))))).trans (bit_getLsbD m)

theorem layV_cls (m : Bool) (cls : BitVec 3) (op : BitVec 4) (ty : BitVec 2) (d a : VReg) (b : Code) :
    (layV m cls op ty d a b).extractLsb' 28 3 = cls := (ext_hi _ b 28 3 (by decide)).trans ((ext_hi _ a 20 3 (by decide)).trans ((ext_hi _ d 13 3 (by decide)).trans ((ext_hi _ ty 6 3 (by decide)).trans ((ext_hi _ op 4 3 (by decide)).trans ((ext_lo _ cls 0 3 (by decide)).trans (ext_all cls))))))

theorem layV_op (m : Bool) (cls : BitVec 3) (op : BitVec 4) (ty : BitVec 2) (d a : VReg) (b : Code) :
    (layV m cls op ty d a b).extractLsb' 24 4 = op := (ext_hi _ b 24 4 (by decide)).trans ((ext_hi _ a 16 4 (by decide)).trans ((ext_hi _ d 9 4 (by decide)).trans ((ext_hi _ ty 2 4 (by decide)).trans ((ext_lo _ op 0 4 (by decide)).trans (ext_all op)))))

theorem layV_ty (m : Bool) (cls : BitVec 3) (op : BitVec 4) (ty : BitVec 2) (d a : VReg) (b : Code) :
    (layV m cls op ty d a b).extractLsb' 22 2 = ty := (ext_hi _ b 22 2 (by decide)).trans ((ext_hi _ a 14 2 (by decide)).trans ((ext_hi _ d 7 2 (by decide)).trans ((ext_lo _ ty 0 2 (by decide)).trans (ext_all ty))))

theorem layV_d (m : Bool) (cls : BitVec 3) (op : BitVec 4) (ty : BitVec 2) (d a : VReg) (b : Code) :
    (layV m cls op ty d a b).extractLsb' 15 7 = d := (ext_hi _ b 15 7 (by decide)).trans ((ext_hi _ a 7 7 (by decide)).trans ((ext_lo _ d 0 7 (by decide)).trans (ext_all d)))

theorem layV_a (m : Bool) (cls : BitVec 3) (op : BitVec 4) (ty : BitVec 2) (d a : VReg) (b : Code) :
    (layV m cls op ty d a b).extractLsb' 8 7 = a := (ext_hi _ b 8 7 (by decide)).trans ((ext_lo _ a 0 7 (by decide)).trans (ext_all a))

theorem layV_b (m : Bool) (cls : BitVec 3) (op : BitVec 4) (ty : BitVec 2) (d a : VReg) (b : Code) :
    (layV m cls op ty d a b).extractLsb' 0 8 = b := (ext_lo _ b 0 8 (by decide)).trans (ext_all b)

theorem layM_m (m : Bool) (cls : BitVec 3) (op : BitVec 6) (d a : BitVec 7) (b : Code) :
    (layM m cls op d a b).getLsbD 31 = m :=
  (getLsbD_of_ext ((ext_hi _ b 31 1 (by decide)).trans ((ext_hi _ a 23 1 (by decide)).trans ((ext_hi _ d 16 1 (by decide)).trans ((ext_hi _ op 9 1 (by decide)).trans ((ext_hi _ cls 3 1 (by decide)).trans (ext_all (bit m)))))))).trans (bit_getLsbD m)

theorem layM_cls (m : Bool) (cls : BitVec 3) (op : BitVec 6) (d a : BitVec 7) (b : Code) :
    (layM m cls op d a b).extractLsb' 28 3 = cls := (ext_hi _ b 28 3 (by decide)).trans ((ext_hi _ a 20 3 (by decide)).trans ((ext_hi _ d 13 3 (by decide)).trans ((ext_hi _ op 6 3 (by decide)).trans ((ext_lo _ cls 0 3 (by decide)).trans (ext_all cls)))))

theorem layM_op (m : Bool) (cls : BitVec 3) (op : BitVec 6) (d a : BitVec 7) (b : Code) :
    (layM m cls op d a b).extractLsb' 22 6 = op := (ext_hi _ b 22 6 (by decide)).trans ((ext_hi _ a 14 6 (by decide)).trans ((ext_hi _ d 7 6 (by decide)).trans ((ext_lo _ op 0 6 (by decide)).trans (ext_all op))))

theorem layM_d (m : Bool) (cls : BitVec 3) (op : BitVec 6) (d a : BitVec 7) (b : Code) :
    (layM m cls op d a b).extractLsb' 15 7 = d := (ext_hi _ b 15 7 (by decide)).trans ((ext_hi _ a 7 7 (by decide)).trans ((ext_lo _ d 0 7 (by decide)).trans (ext_all d)))

theorem layM_a (m : Bool) (cls : BitVec 3) (op : BitVec 6) (d a : BitVec 7) (b : Code) :
    (layM m cls op d a b).extractLsb' 8 7 = a := (ext_hi _ b 8 7 (by decide)).trans ((ext_lo _ a 0 7 (by decide)).trans (ext_all a))

theorem layM_b (m : Bool) (cls : BitVec 3) (op : BitVec 6) (d a : BitVec 7) (b : Code) :
    (layM m cls op d a b).extractLsb' 0 8 = b := (ext_lo _ b 0 8 (by decide)).trans (ext_all b)

theorem layVM_m (m : Bool) (op : BitVec 6) (t a : BitVec 7) (b : BitVec 5) (q : BitVec 3) :
    (layVM m op t a b q).getLsbD 31 = m :=
  (getLsbD_of_ext ((ext_hi _ q 31 1 (by decide)).trans ((ext_hi _ b 28 1 (by decide)).trans ((ext_hi _ a 23 1 (by decide)).trans ((ext_hi _ t 16 1 (by decide)).trans ((ext_hi _ op 9 1 (by decide)).trans ((ext_hi _ (3 : BitVec 3) 3 1 (by decide)).trans (ext_all (bit m))))))))).trans (bit_getLsbD m)

theorem layVM_cls (m : Bool) (op : BitVec 6) (t a : BitVec 7) (b : BitVec 5) (q : BitVec 3) :
    (layVM m op t a b q).extractLsb' 28 3 = (3 : BitVec 3) := (ext_hi _ q 28 3 (by decide)).trans ((ext_hi _ b 25 3 (by decide)).trans ((ext_hi _ a 20 3 (by decide)).trans ((ext_hi _ t 13 3 (by decide)).trans ((ext_hi _ op 6 3 (by decide)).trans ((ext_lo _ (3 : BitVec 3) 0 3 (by decide)).trans (ext_all (3 : BitVec 3)))))))

theorem layVM_op (m : Bool) (op : BitVec 6) (t a : BitVec 7) (b : BitVec 5) (q : BitVec 3) :
    (layVM m op t a b q).extractLsb' 22 6 = op := (ext_hi _ q 22 6 (by decide)).trans ((ext_hi _ b 19 6 (by decide)).trans ((ext_hi _ a 14 6 (by decide)).trans ((ext_hi _ t 7 6 (by decide)).trans ((ext_lo _ op 0 6 (by decide)).trans (ext_all op)))))

theorem layVM_t (m : Bool) (op : BitVec 6) (t a : BitVec 7) (b : BitVec 5) (q : BitVec 3) :
    (layVM m op t a b q).extractLsb' 15 7 = t := (ext_hi _ q 15 7 (by decide)).trans ((ext_hi _ b 12 7 (by decide)).trans ((ext_hi _ a 7 7 (by decide)).trans ((ext_lo _ t 0 7 (by decide)).trans (ext_all t))))

theorem layVM_a (m : Bool) (op : BitVec 6) (t a : BitVec 7) (b : BitVec 5) (q : BitVec 3) :
    (layVM m op t a b q).extractLsb' 8 7 = a := (ext_hi _ q 8 7 (by decide)).trans ((ext_hi _ b 5 7 (by decide)).trans ((ext_lo _ a 0 7 (by decide)).trans (ext_all a)))

theorem layVM_b (m : Bool) (op : BitVec 6) (t a : BitVec 7) (b : BitVec 5) (q : BitVec 3) :
    (layVM m op t a b q).extractLsb' 3 5 = b := (ext_hi _ q 3 5 (by decide)).trans ((ext_lo _ b 0 5 (by decide)).trans (ext_all b))

theorem layVM_q (m : Bool) (op : BitVec 6) (t a : BitVec 7) (b : BitVec 5) (q : BitVec 3) :
    (layVM m op t a b q).extractLsb' 0 3 = q := (ext_lo _ q 0 3 (by decide)).trans (ext_all q)

theorem layS_m (m : Bool) (op d a : BitVec 6) (i : BitVec 1) (b : BitVec 9) :
    (layS m op d a i b).getLsbD 31 = m :=
  (getLsbD_of_ext ((ext_hi _ b 31 1 (by decide)).trans ((ext_hi _ i 22 1 (by decide)).trans ((ext_hi _ a 21 1 (by decide)).trans ((ext_hi _ d 15 1 (by decide)).trans ((ext_hi _ op 9 1 (by decide)).trans ((ext_hi _ (4 : BitVec 3) 3 1 (by decide)).trans (ext_all (bit m))))))))).trans (bit_getLsbD m)

theorem layS_cls (m : Bool) (op d a : BitVec 6) (i : BitVec 1) (b : BitVec 9) :
    (layS m op d a i b).extractLsb' 28 3 = (4 : BitVec 3) := (ext_hi _ b 28 3 (by decide)).trans ((ext_hi _ i 19 3 (by decide)).trans ((ext_hi _ a 18 3 (by decide)).trans ((ext_hi _ d 12 3 (by decide)).trans ((ext_hi _ op 6 3 (by decide)).trans ((ext_lo _ (4 : BitVec 3) 0 3 (by decide)).trans (ext_all (4 : BitVec 3)))))))

theorem layS_op (m : Bool) (op d a : BitVec 6) (i : BitVec 1) (b : BitVec 9) :
    (layS m op d a i b).extractLsb' 22 6 = op := (ext_hi _ b 22 6 (by decide)).trans ((ext_hi _ i 13 6 (by decide)).trans ((ext_hi _ a 12 6 (by decide)).trans ((ext_hi _ d 6 6 (by decide)).trans ((ext_lo _ op 0 6 (by decide)).trans (ext_all op)))))

theorem layS_d (m : Bool) (op d a : BitVec 6) (i : BitVec 1) (b : BitVec 9) :
    (layS m op d a i b).extractLsb' 16 6 = d := (ext_hi _ b 16 6 (by decide)).trans ((ext_hi _ i 7 6 (by decide)).trans ((ext_hi _ a 6 6 (by decide)).trans ((ext_lo _ d 0 6 (by decide)).trans (ext_all d))))

theorem layS_a (m : Bool) (op d a : BitVec 6) (i : BitVec 1) (b : BitVec 9) :
    (layS m op d a i b).extractLsb' 10 6 = a := (ext_hi _ b 10 6 (by decide)).trans ((ext_hi _ i 1 6 (by decide)).trans ((ext_lo _ a 0 6 (by decide)).trans (ext_all a)))

theorem layS_i (m : Bool) (op d a : BitVec 6) (i : BitVec 1) (b : BitVec 9) :
    (layS m op d a i b).extractLsb' 9 1 = i := (ext_hi _ b 9 1 (by decide)).trans ((ext_lo _ i 0 1 (by decide)).trans (ext_all i))

theorem layS_ib (m : Bool) (op d a : BitVec 6) (i : BitVec 1) (b : BitVec 9) :
    (layS m op d a i b).getLsbD 9 = i.getLsbD 0 :=
  getLsbD_of_ext ((ext_hi _ b 9 1 (by decide)).trans ((ext_lo _ i 0 1 (by decide)).trans (ext_all i)))

theorem layS_b (m : Bool) (op d a : BitVec 6) (i : BitVec 1) (b : BitVec 9) :
    (layS m op d a i b).extractLsb' 0 9 = b := (ext_lo _ b 0 9 (by decide)).trans (ext_all b)

theorem layC_m (m : Bool) (op : BitVec 5) (x : BitVec 23) :
    (layC m op x).getLsbD 31 = m :=
  (getLsbD_of_ext ((ext_hi _ x 31 1 (by decide)).trans ((ext_hi _ op 8 1 (by decide)).trans ((ext_hi _ (5 : BitVec 3) 3 1 (by decide)).trans (ext_all (bit m)))))).trans (bit_getLsbD m)

theorem layC_cls (m : Bool) (op : BitVec 5) (x : BitVec 23) :
    (layC m op x).extractLsb' 28 3 = (5 : BitVec 3) := (ext_hi _ x 28 3 (by decide)).trans ((ext_hi _ op 5 3 (by decide)).trans ((ext_lo _ (5 : BitVec 3) 0 3 (by decide)).trans (ext_all (5 : BitVec 3))))

theorem layC_op (m : Bool) (op : BitVec 5) (x : BitVec 23) :
    (layC m op x).extractLsb' 23 5 = op := (ext_hi _ x 23 5 (by decide)).trans ((ext_lo _ op 0 5 (by decide)).trans (ext_all op))

theorem layC_x (m : Bool) (op : BitVec 5) (x : BitVec 23) :
    (layC m op x).extractLsb' 0 23 = x := (ext_lo _ x 0 23 (by decide)).trans (ext_all x)

theorem layE1_m (m : Bool) (cls : BitVec 3) (op d a b : BitVec 6) (f : BitVec 4) :
    (layE1 m cls op d a b f).getLsbD 31 = m :=
  (getLsbD_of_ext ((ext_hi _ f 31 1 (by decide)).trans ((ext_hi _ b 27 1 (by decide)).trans ((ext_hi _ a 21 1 (by decide)).trans ((ext_hi _ d 15 1 (by decide)).trans ((ext_hi _ op 9 1 (by decide)).trans ((ext_hi _ cls 3 1 (by decide)).trans (ext_all (bit m))))))))).trans (bit_getLsbD m)

theorem layE1_cls (m : Bool) (cls : BitVec 3) (op d a b : BitVec 6) (f : BitVec 4) :
    (layE1 m cls op d a b f).extractLsb' 28 3 = cls := (ext_hi _ f 28 3 (by decide)).trans ((ext_hi _ b 24 3 (by decide)).trans ((ext_hi _ a 18 3 (by decide)).trans ((ext_hi _ d 12 3 (by decide)).trans ((ext_hi _ op 6 3 (by decide)).trans ((ext_lo _ cls 0 3 (by decide)).trans (ext_all cls))))))

theorem layE1_op (m : Bool) (cls : BitVec 3) (op d a b : BitVec 6) (f : BitVec 4) :
    (layE1 m cls op d a b f).extractLsb' 22 6 = op := (ext_hi _ f 22 6 (by decide)).trans ((ext_hi _ b 18 6 (by decide)).trans ((ext_hi _ a 12 6 (by decide)).trans ((ext_hi _ d 6 6 (by decide)).trans ((ext_lo _ op 0 6 (by decide)).trans (ext_all op)))))

theorem layE1_d (m : Bool) (cls : BitVec 3) (op d a b : BitVec 6) (f : BitVec 4) :
    (layE1 m cls op d a b f).extractLsb' 16 6 = d := (ext_hi _ f 16 6 (by decide)).trans ((ext_hi _ b 12 6 (by decide)).trans ((ext_hi _ a 6 6 (by decide)).trans ((ext_lo _ d 0 6 (by decide)).trans (ext_all d))))

theorem layE1_a (m : Bool) (cls : BitVec 3) (op d a b : BitVec 6) (f : BitVec 4) :
    (layE1 m cls op d a b f).extractLsb' 10 6 = a := (ext_hi _ f 10 6 (by decide)).trans ((ext_hi _ b 6 6 (by decide)).trans ((ext_lo _ a 0 6 (by decide)).trans (ext_all a)))

theorem layE1_b (m : Bool) (cls : BitVec 3) (op d a b : BitVec 6) (f : BitVec 4) :
    (layE1 m cls op d a b f).extractLsb' 4 6 = b := (ext_hi _ f 4 6 (by decide)).trans ((ext_lo _ b 0 6 (by decide)).trans (ext_all b))

theorem layE1_f (m : Bool) (cls : BitVec 3) (op d a b : BitVec 6) (f : BitVec 4) :
    (layE1 m cls op d a b f).extractLsb' 0 4 = f := (ext_lo _ f 0 4 (by decide)).trans (ext_all f)

theorem layE2_m (m : Bool) (op : BitVec 6) (sh : BitVec 4) (acc : BitVec 3) (a b f : BitVec 5) :
    (layE2 m op sh acc a b f).getLsbD 31 = m :=
  (getLsbD_of_ext ((ext_hi _ f 31 1 (by decide)).trans ((ext_hi _ b 26 1 (by decide)).trans ((ext_hi _ a 21 1 (by decide)).trans ((ext_hi _ acc 16 1 (by decide)).trans ((ext_hi _ sh 13 1 (by decide)).trans ((ext_hi _ op 9 1 (by decide)).trans ((ext_hi _ (6 : BitVec 3) 3 1 (by decide)).trans (ext_all (bit m)))))))))).trans (bit_getLsbD m)

theorem layE2_cls (m : Bool) (op : BitVec 6) (sh : BitVec 4) (acc : BitVec 3) (a b f : BitVec 5) :
    (layE2 m op sh acc a b f).extractLsb' 28 3 = (6 : BitVec 3) := (ext_hi _ f 28 3 (by decide)).trans ((ext_hi _ b 23 3 (by decide)).trans ((ext_hi _ a 18 3 (by decide)).trans ((ext_hi _ acc 13 3 (by decide)).trans ((ext_hi _ sh 10 3 (by decide)).trans ((ext_hi _ op 6 3 (by decide)).trans ((ext_lo _ (6 : BitVec 3) 0 3 (by decide)).trans (ext_all (6 : BitVec 3))))))))

theorem layE2_op (m : Bool) (op : BitVec 6) (sh : BitVec 4) (acc : BitVec 3) (a b f : BitVec 5) :
    (layE2 m op sh acc a b f).extractLsb' 22 6 = op := (ext_hi _ f 22 6 (by decide)).trans ((ext_hi _ b 17 6 (by decide)).trans ((ext_hi _ a 12 6 (by decide)).trans ((ext_hi _ acc 7 6 (by decide)).trans ((ext_hi _ sh 4 6 (by decide)).trans ((ext_lo _ op 0 6 (by decide)).trans (ext_all op))))))

theorem layE2_sh (m : Bool) (op : BitVec 6) (sh : BitVec 4) (acc : BitVec 3) (a b f : BitVec 5) :
    (layE2 m op sh acc a b f).extractLsb' 18 4 = sh := (ext_hi _ f 18 4 (by decide)).trans ((ext_hi _ b 13 4 (by decide)).trans ((ext_hi _ a 8 4 (by decide)).trans ((ext_hi _ acc 3 4 (by decide)).trans ((ext_lo _ sh 0 4 (by decide)).trans (ext_all sh)))))

theorem layE2_acc (m : Bool) (op : BitVec 6) (sh : BitVec 4) (acc : BitVec 3) (a b f : BitVec 5) :
    (layE2 m op sh acc a b f).extractLsb' 15 3 = acc := (ext_hi _ f 15 3 (by decide)).trans ((ext_hi _ b 10 3 (by decide)).trans ((ext_hi _ a 5 3 (by decide)).trans ((ext_lo _ acc 0 3 (by decide)).trans (ext_all acc))))

theorem layE2_a (m : Bool) (op : BitVec 6) (sh : BitVec 4) (acc : BitVec 3) (a b f : BitVec 5) :
    (layE2 m op sh acc a b f).extractLsb' 10 5 = a := (ext_hi _ f 10 5 (by decide)).trans ((ext_hi _ b 5 5 (by decide)).trans ((ext_lo _ a 0 5 (by decide)).trans (ext_all a)))

theorem layE2_b (m : Bool) (op : BitVec 6) (sh : BitVec 4) (acc : BitVec 3) (a b f : BitVec 5) :
    (layE2 m op sh acc a b f).extractLsb' 5 5 = b := (ext_hi _ f 5 5 (by decide)).trans ((ext_lo _ b 0 5 (by decide)).trans (ext_all b))

theorem layE2_f (m : Bool) (op : BitVec 6) (sh : BitVec 4) (acc : BitVec 3) (a b f : BitVec 5) :
    (layE2 m op sh acc a b f).extractLsb' 0 5 = f := (ext_lo _ f 0 5 (by decide)).trans (ext_all f)

theorem layH_m (m : Bool) (op : BitVec 6) (x : BitVec 22) :
    (layH m op x).getLsbD 31 = m :=
  (getLsbD_of_ext ((ext_hi _ x 31 1 (by decide)).trans ((ext_hi _ op 9 1 (by decide)).trans ((ext_hi _ (7 : BitVec 3) 3 1 (by decide)).trans (ext_all (bit m)))))).trans (bit_getLsbD m)

theorem layH_cls (m : Bool) (op : BitVec 6) (x : BitVec 22) :
    (layH m op x).extractLsb' 28 3 = (7 : BitVec 3) := (ext_hi _ x 28 3 (by decide)).trans ((ext_hi _ op 6 3 (by decide)).trans ((ext_lo _ (7 : BitVec 3) 0 3 (by decide)).trans (ext_all (7 : BitVec 3))))

theorem layH_op (m : Bool) (op : BitVec 6) (x : BitVec 22) :
    (layH m op x).extractLsb' 22 6 = op := (ext_hi _ x 22 6 (by decide)).trans ((ext_lo _ op 0 6 (by decide)).trans (ext_all op))

theorem layH_x (m : Bool) (op : BitVec 6) (x : BitVec 22) :
    (layH m op x).extractLsb' 0 22 = x := (ext_lo _ x 0 22 (by decide)).trans (ext_all x)

/-! ## Fields within a field -/

theorem pad5in6_1 (k : BitVec 5) :
    BitVec.extractLsb' 0 5 ((0 : BitVec 1) ++ k : BitVec 6) = k := (ext_lo _ k 0 5 (by decide)).trans (ext_all k)

theorem pad5in7_1 (k : BitVec 5) :
    BitVec.extractLsb' 0 5 ((0 : BitVec 2) ++ k : BitVec 7) = k := (ext_lo _ k 0 5 (by decide)).trans (ext_all k)

theorem pad5in9_1 (k : BitVec 5) :
    BitVec.extractLsb' 0 5 ((0 : BitVec 4) ++ k : BitVec 9) = k := (ext_lo _ k 0 5 (by decide)).trans (ext_all k)

theorem pad6in9_1 (k : BitVec 6) :
    BitVec.extractLsb' 0 6 ((0 : BitVec 3) ++ k : BitVec 9) = k := (ext_lo _ k 0 6 (by decide)).trans (ext_all k)

theorem pad6in7_1 (k : BitVec 6) :
    BitVec.extractLsb' 0 6 ((0 : BitVec 1) ++ k : BitVec 7) = k := (ext_lo _ k 0 6 (by decide)).trans (ext_all k)

theorem pad2in4_1 (k : BitVec 2) :
    BitVec.extractLsb' 0 2 ((0 : BitVec 2) ++ k : BitVec 4) = k := (ext_lo _ k 0 2 (by decide)).trans (ext_all k)

theorem pad3in4_1 (k : BitVec 3) :
    BitVec.extractLsb' 0 3 ((0 : BitVec 1) ++ k : BitVec 4) = k := (ext_lo _ k 0 3 (by decide)).trans (ext_all k)

theorem pad3in5_1 (k : BitVec 3) :
    BitVec.extractLsb' 0 3 ((0 : BitVec 2) ++ k : BitVec 5) = k := (ext_lo _ k 0 3 (by decide)).trans (ext_all k)

theorem pad1in4_1 (k : Bool) :
    BitVec.getLsbD ((0 : BitVec 3) ++ bit k : BitVec 4) 0 = k :=
  (getLsbD_of_ext ((ext_lo _ (bit k) 0 1 (by decide)).trans (ext_all (bit k)))).trans (bit_getLsbD k)

theorem pad3in22_1 (k : BitVec 3) :
    BitVec.extractLsb' 0 3 ((0 : BitVec 19) ++ k : BitVec 22) = k := (ext_lo _ k 0 3 (by decide)).trans (ext_all k)

theorem pad16in22_1 (k : BitVec 16) :
    BitVec.extractLsb' 0 16 ((0 : BitVec 6) ++ k : BitVec 22) = k := (ext_lo _ k 0 16 (by decide)).trans (ext_all k)

theorem c5_18_0 (k : BitVec 5) (off : BitVec 18) :
    BitVec.extractLsb' 18 5 (k ++ off : BitVec 23) = k := (ext_hi _ off 18 5 (by decide)).trans (ext_all k)

theorem c5_18_1 (k : BitVec 5) (off : BitVec 18) :
    BitVec.extractLsb' 0 18 (k ++ off : BitVec 23) = off := (ext_lo _ off 0 18 (by decide)).trans (ext_all off)

theorem c6_17_0 (k : BitVec 6) (off : BitVec 17) :
    BitVec.extractLsb' 17 6 (k ++ off : BitVec 23) = k := (ext_hi _ off 17 6 (by decide)).trans (ext_all k)

theorem c6_17_1 (k : BitVec 6) (off : BitVec 17) :
    BitVec.extractLsb' 0 17 (k ++ off : BitVec 23) = off := (ext_lo _ off 0 17 (by decide)).trans (ext_all off)

theorem c6_z17_0 (k : BitVec 6) :
    BitVec.extractLsb' 17 6 (k ++ (0 : BitVec 17) : BitVec 23) = k := (ext_hi _ (0 : BitVec 17) 17 6 (by decide)).trans (ext_all k)

theorem c5_9_9_0 (k : BitVec 5) (x y : BitVec 9) :
    BitVec.extractLsb' 18 5 (k ++ x ++ y : BitVec 23) = k := (ext_hi _ y 18 5 (by decide)).trans ((ext_hi _ x 9 5 (by decide)).trans (ext_all k))

theorem c5_9_9_1 (k : BitVec 5) (x y : BitVec 9) :
    BitVec.extractLsb' 9 9 (k ++ x ++ y : BitVec 23) = x := (ext_hi _ y 9 9 (by decide)).trans ((ext_lo _ x 0 9 (by decide)).trans (ext_all x))

theorem c5_9_9_2 (k : BitVec 5) (x y : BitVec 9) :
    BitVec.extractLsb' 0 9 (k ++ x ++ y : BitVec 23) = y := (ext_lo _ y 0 9 (by decide)).trans (ext_all y)

theorem c_pub_0 (v : BitVec 7) (vc : BitVec 5) (r : BitVec 6) (sc : BitVec 4) :
    BitVec.extractLsb' 16 7 (v ++ vc ++ r ++ sc ++ (0 : BitVec 1) : BitVec 23) = v := (ext_hi _ (0 : BitVec 1) 16 7 (by decide)).trans ((ext_hi _ sc 15 7 (by decide)).trans ((ext_hi _ r 11 7 (by decide)).trans ((ext_hi _ vc 5 7 (by decide)).trans (ext_all v))))

theorem c_pub_1 (v : BitVec 7) (vc : BitVec 5) (r : BitVec 6) (sc : BitVec 4) :
    BitVec.extractLsb' 11 5 (v ++ vc ++ r ++ sc ++ (0 : BitVec 1) : BitVec 23) = vc := (ext_hi _ (0 : BitVec 1) 11 5 (by decide)).trans ((ext_hi _ sc 10 5 (by decide)).trans ((ext_hi _ r 6 5 (by decide)).trans ((ext_lo _ vc 0 5 (by decide)).trans (ext_all vc))))

theorem c_pub_2 (v : BitVec 7) (vc : BitVec 5) (r : BitVec 6) (sc : BitVec 4) :
    BitVec.extractLsb' 5 6 (v ++ vc ++ r ++ sc ++ (0 : BitVec 1) : BitVec 23) = r := (ext_hi _ (0 : BitVec 1) 5 6 (by decide)).trans ((ext_hi _ sc 4 6 (by decide)).trans ((ext_lo _ r 0 6 (by decide)).trans (ext_all r)))

theorem c_pub_3 (v : BitVec 7) (vc : BitVec 5) (r : BitVec 6) (sc : BitVec 4) :
    BitVec.extractLsb' 1 4 (v ++ vc ++ r ++ sc ++ (0 : BitVec 1) : BitVec 23) = sc := (ext_hi _ (0 : BitVec 1) 1 4 (by decide)).trans ((ext_lo _ sc 0 4 (by decide)).trans (ext_all sc))

theorem c_join_0 (d a b : BitVec 7) :
    BitVec.extractLsb' 16 7 (d ++ a ++ b ++ (0 : BitVec 2) : BitVec 23) = d := (ext_hi _ (0 : BitVec 2) 16 7 (by decide)).trans ((ext_hi _ b 14 7 (by decide)).trans ((ext_hi _ a 7 7 (by decide)).trans (ext_all d)))

theorem c_join_1 (d a b : BitVec 7) :
    BitVec.extractLsb' 9 7 (d ++ a ++ b ++ (0 : BitVec 2) : BitVec 23) = a := (ext_hi _ (0 : BitVec 2) 9 7 (by decide)).trans ((ext_hi _ b 7 7 (by decide)).trans ((ext_lo _ a 0 7 (by decide)).trans (ext_all a)))

theorem c_join_2 (d a b : BitVec 7) :
    BitVec.extractLsb' 2 7 (d ++ a ++ b ++ (0 : BitVec 2) : BitVec 23) = b := (ext_hi _ (0 : BitVec 2) 2 7 (by decide)).trans ((ext_lo _ b 0 7 (by decide)).trans (ext_all b))

theorem c_joins_0 (d a : BitVec 6) (f : Bool) :
    BitVec.extractLsb' 17 6 (d ++ a ++ bit f ++ (0 : BitVec 10) : BitVec 23) = d := (ext_hi _ (0 : BitVec 10) 17 6 (by decide)).trans ((ext_hi _ (bit f) 7 6 (by decide)).trans ((ext_hi _ a 6 6 (by decide)).trans (ext_all d)))

theorem c_joins_1 (d a : BitVec 6) (f : Bool) :
    BitVec.extractLsb' 11 6 (d ++ a ++ bit f ++ (0 : BitVec 10) : BitVec 23) = a := (ext_hi _ (0 : BitVec 10) 11 6 (by decide)).trans ((ext_hi _ (bit f) 1 6 (by decide)).trans ((ext_lo _ a 0 6 (by decide)).trans (ext_all a)))

theorem c_joins_2 (d a : BitVec 6) (f : Bool) :
    BitVec.getLsbD (d ++ a ++ bit f ++ (0 : BitVec 10) : BitVec 23) 10 = f :=
  (getLsbD_of_ext ((ext_hi _ (0 : BitVec 10) 10 1 (by decide)).trans ((ext_lo _ (bit f) 0 1 (by decide)).trans (ext_all (bit f))))).trans (bit_getLsbD f)

theorem c_bar0_0 (id : BitVec 5) :
    BitVec.extractLsb' 21 2 ((0 : BitVec 2) ++ id ++ (0 : BitVec 16) : BitVec 23) = (0 : BitVec 2) := (ext_hi _ (0 : BitVec 16) 21 2 (by decide)).trans ((ext_hi _ id 5 2 (by decide)).trans (ext_all (0 : BitVec 2)))

theorem c_bar0_1 (id : BitVec 5) :
    BitVec.extractLsb' 16 5 ((0 : BitVec 2) ++ id ++ (0 : BitVec 16) : BitVec 23) = id := (ext_hi _ (0 : BitVec 16) 16 5 (by decide)).trans ((ext_lo _ id 0 5 (by decide)).trans (ext_all id))

theorem c_bar0_2 (id : BitVec 5) :
    BitVec.extractLsb' 0 16 ((0 : BitVec 2) ++ id ++ (0 : BitVec 16) : BitVec 23) = (0 : BitVec 16) := (ext_lo _ (0 : BitVec 16) 0 16 (by decide)).trans (ext_all (0 : BitVec 16))

theorem c_bar1_0 (id : BitVec 5) (d : BitVec 6) :
    BitVec.extractLsb' 21 2 ((1 : BitVec 2) ++ id ++ d ++ (0 : BitVec 10) : BitVec 23) = (1 : BitVec 2) := (ext_hi _ (0 : BitVec 10) 21 2 (by decide)).trans ((ext_hi _ d 11 2 (by decide)).trans ((ext_hi _ id 5 2 (by decide)).trans (ext_all (1 : BitVec 2))))

theorem c_bar1_1 (id : BitVec 5) (d : BitVec 6) :
    BitVec.extractLsb' 16 5 ((1 : BitVec 2) ++ id ++ d ++ (0 : BitVec 10) : BitVec 23) = id := (ext_hi _ (0 : BitVec 10) 16 5 (by decide)).trans ((ext_hi _ d 6 5 (by decide)).trans ((ext_lo _ id 0 5 (by decide)).trans (ext_all id)))

theorem c_bar1_2 (id : BitVec 5) (d : BitVec 6) :
    BitVec.extractLsb' 10 6 ((1 : BitVec 2) ++ id ++ d ++ (0 : BitVec 10) : BitVec 23) = d := (ext_hi _ (0 : BitVec 10) 10 6 (by decide)).trans ((ext_lo _ d 0 6 (by decide)).trans (ext_all d))

theorem c_bar1_3 (id : BitVec 5) (d : BitVec 6) :
    BitVec.extractLsb' 0 10 ((1 : BitVec 2) ++ id ++ d ++ (0 : BitVec 10) : BitVec 23) = (0 : BitVec 10) := (ext_lo _ (0 : BitVec 10) 0 10 (by decide)).trans (ext_all (0 : BitVec 10))

theorem c_bar2_0 (id : BitVec 5) :
    BitVec.extractLsb' 21 2 ((2 : BitVec 2) ++ id ++ (0 : BitVec 16) : BitVec 23) = (2 : BitVec 2) := (ext_hi _ (0 : BitVec 16) 21 2 (by decide)).trans ((ext_hi _ id 5 2 (by decide)).trans (ext_all (2 : BitVec 2)))

theorem c_bar2_1 (id : BitVec 5) :
    BitVec.extractLsb' 16 5 ((2 : BitVec 2) ++ id ++ (0 : BitVec 16) : BitVec 23) = id := (ext_hi _ (0 : BitVec 16) 16 5 (by decide)).trans ((ext_lo _ id 0 5 (by decide)).trans (ext_all id))

theorem c_bar2_2 (id : BitVec 5) :
    BitVec.extractLsb' 0 16 ((2 : BitVec 2) ++ id ++ (0 : BitVec 16) : BitVec 23) = (0 : BitVec 16) := (ext_lo _ (0 : BitVec 16) 0 16 (by decide)).trans (ext_all (0 : BitVec 16))

theorem c_bar3_0 (id : BitVec 5) :
    BitVec.extractLsb' 21 2 ((3 : BitVec 2) ++ id ++ (0 : BitVec 16) : BitVec 23) = (3 : BitVec 2) := (ext_hi _ (0 : BitVec 16) 21 2 (by decide)).trans ((ext_hi _ id 5 2 (by decide)).trans (ext_all (3 : BitVec 2)))

theorem c_bar3_1 (id : BitVec 5) :
    BitVec.extractLsb' 16 5 ((3 : BitVec 2) ++ id ++ (0 : BitVec 16) : BitVec 23) = id := (ext_hi _ (0 : BitVec 16) 16 5 (by decide)).trans ((ext_lo _ id 0 5 (by decide)).trans (ext_all id))

theorem c_bar3_2 (id : BitVec 5) :
    BitVec.extractLsb' 0 16 ((3 : BitVec 2) ++ id ++ (0 : BitVec 16) : BitVec 23) = (0 : BitVec 16) := (ext_lo _ (0 : BitVec 16) 0 16 (by decide)).trans (ext_all (0 : BitVec 16))

theorem c_barwp_0 (id : BitVec 5) (d : BitVec 6) :
    BitVec.extractLsb' 21 2 ((0 : BitVec 2) ++ id ++ d ++ (0 : BitVec 10) : BitVec 23) = (0 : BitVec 2) := (ext_hi _ (0 : BitVec 10) 21 2 (by decide)).trans ((ext_hi _ d 11 2 (by decide)).trans ((ext_hi _ id 5 2 (by decide)).trans (ext_all (0 : BitVec 2))))

theorem c_barwp_1 (id : BitVec 5) (d : BitVec 6) :
    BitVec.extractLsb' 16 5 ((0 : BitVec 2) ++ id ++ d ++ (0 : BitVec 10) : BitVec 23) = id := (ext_hi _ (0 : BitVec 10) 16 5 (by decide)).trans ((ext_hi _ d 6 5 (by decide)).trans ((ext_lo _ id 0 5 (by decide)).trans (ext_all id)))

theorem c_barwp_2 (id : BitVec 5) (d : BitVec 6) :
    BitVec.extractLsb' 10 6 ((0 : BitVec 2) ++ id ++ d ++ (0 : BitVec 10) : BitVec 23) = d := (ext_hi _ (0 : BitVec 10) 10 6 (by decide)).trans ((ext_lo _ d 0 6 (by decide)).trans (ext_all d))

theorem c_barwp_3 (id : BitVec 5) (d : BitVec 6) :
    BitVec.extractLsb' 0 10 ((0 : BitVec 2) ++ id ++ d ++ (0 : BitVec 10) : BitVec 23) = (0 : BitVec 10) := (ext_lo _ (0 : BitVec 10) 0 10 (by decide)).trans (ext_all (0 : BitVec 10))

theorem c_fence_0 (sc : BitVec 3) :
    BitVec.extractLsb' 20 3 (sc ++ (0 : BitVec 20) : BitVec 23) = sc := (ext_hi _ (0 : BitVec 20) 20 3 (by decide)).trans (ext_all sc)

theorem c_8_15_0 (x : BitVec 8) :
    BitVec.extractLsb' 15 8 (x ++ (0 : BitVec 15) : BitVec 23) = x := (ext_hi _ (0 : BitVec 15) 15 8 (by decide)).trans (ext_all x)

theorem c_4_19_0 (x : BitVec 4) :
    BitVec.extractLsb' 19 4 (x ++ (0 : BitVec 19) : BitVec 23) = x := (ext_hi _ (0 : BitVec 19) 19 4 (by decide)).trans (ext_all x)

theorem h_xmod_0 (k : BitVec 5) (z : Bool) (rnd : BitVec 3) (v4 : BitVec 7) (ok : Bool) (aux : BitVec 5) :
    BitVec.extractLsb' 17 5 (k ++ bit z ++ rnd ++ v4 ++ bit ok ++ aux : BitVec 22) = k := (ext_hi _ aux 17 5 (by decide)).trans ((ext_hi _ (bit ok) 12 5 (by decide)).trans ((ext_hi _ v4 11 5 (by decide)).trans ((ext_hi _ rnd 4 5 (by decide)).trans ((ext_hi _ (bit z) 1 5 (by decide)).trans (ext_all k)))))

theorem h_xmod_1 (k : BitVec 5) (z : Bool) (rnd : BitVec 3) (v4 : BitVec 7) (ok : Bool) (aux : BitVec 5) :
    BitVec.getLsbD (k ++ bit z ++ rnd ++ v4 ++ bit ok ++ aux : BitVec 22) 16 = z :=
  (getLsbD_of_ext ((ext_hi _ aux 16 1 (by decide)).trans ((ext_hi _ (bit ok) 11 1 (by decide)).trans ((ext_hi _ v4 10 1 (by decide)).trans ((ext_hi _ rnd 3 1 (by decide)).trans ((ext_lo _ (bit z) 0 1 (by decide)).trans (ext_all (bit z)))))))).trans (bit_getLsbD z)

theorem h_xmod_2 (k : BitVec 5) (z : Bool) (rnd : BitVec 3) (v4 : BitVec 7) (ok : Bool) (aux : BitVec 5) :
    BitVec.extractLsb' 13 3 (k ++ bit z ++ rnd ++ v4 ++ bit ok ++ aux : BitVec 22) = rnd := (ext_hi _ aux 13 3 (by decide)).trans ((ext_hi _ (bit ok) 8 3 (by decide)).trans ((ext_hi _ v4 7 3 (by decide)).trans ((ext_lo _ rnd 0 3 (by decide)).trans (ext_all rnd))))

theorem h_xmod_3 (k : BitVec 5) (z : Bool) (rnd : BitVec 3) (v4 : BitVec 7) (ok : Bool) (aux : BitVec 5) :
    BitVec.extractLsb' 6 7 (k ++ bit z ++ rnd ++ v4 ++ bit ok ++ aux : BitVec 22) = v4 := (ext_hi _ aux 6 7 (by decide)).trans ((ext_hi _ (bit ok) 1 7 (by decide)).trans ((ext_lo _ v4 0 7 (by decide)).trans (ext_all v4)))

theorem h_xmod_4 (k : BitVec 5) (z : Bool) (rnd : BitVec 3) (v4 : BitVec 7) (ok : Bool) (aux : BitVec 5) :
    BitVec.getLsbD (k ++ bit z ++ rnd ++ v4 ++ bit ok ++ aux : BitVec 22) 5 = ok :=
  (getLsbD_of_ext ((ext_hi _ aux 5 1 (by decide)).trans ((ext_lo _ (bit ok) 0 1 (by decide)).trans (ext_all (bit ok))))).trans (bit_getLsbD ok)

theorem h_xmod_5 (k : BitVec 5) (z : Bool) (rnd : BitVec 3) (v4 : BitVec 7) (ok : Bool) (aux : BitVec 5) :
    BitVec.extractLsb' 0 5 (k ++ bit z ++ rnd ++ v4 ++ bit ok ++ aux : BitVec 22) = aux := (ext_lo _ aux 0 5 (by decide)).trans (ext_all aux)

theorem c_vcvt_0 (p : BitVec 4) (rnd sel : BitVec 2) :
    BitVec.extractLsb' 4 4 (p ++ rnd ++ sel : BitVec 8) = p := (ext_hi _ sel 4 4 (by decide)).trans ((ext_hi _ rnd 2 4 (by decide)).trans (ext_all p))

theorem c_vcvt_1 (p : BitVec 4) (rnd sel : BitVec 2) :
    BitVec.extractLsb' 2 2 (p ++ rnd ++ sel : BitVec 8) = rnd := (ext_hi _ sel 2 2 (by decide)).trans ((ext_lo _ rnd 0 2 (by decide)).trans (ext_all rnd))

theorem c_vcvt_2 (p : BitVec 4) (rnd sel : BitVec 2) :
    BitVec.extractLsb' 0 2 (p ++ rnd ++ sel : BitVec 8) = sel := (ext_lo _ sel 0 2 (by decide)).trans (ext_all sel)

theorem c_vqnt_0 (f : BitVec 4) (sat : Bool) (slot : BitVec 3) :
    BitVec.extractLsb' 4 4 (f ++ bit sat ++ slot : BitVec 8) = f := (ext_hi _ slot 4 4 (by decide)).trans ((ext_hi _ (bit sat) 1 4 (by decide)).trans (ext_all f))

theorem c_vqnt_1 (f : BitVec 4) (sat : Bool) (slot : BitVec 3) :
    BitVec.getLsbD (f ++ bit sat ++ slot : BitVec 8) 3 = sat :=
  (getLsbD_of_ext ((ext_hi _ slot 3 1 (by decide)).trans ((ext_lo _ (bit sat) 0 1 (by decide)).trans (ext_all (bit sat))))).trans (bit_getLsbD sat)

theorem c_vqnt_2 (f : BitVec 4) (sat : Bool) (slot : BitVec 3) :
    BitVec.extractLsb' 0 3 (f ++ bit sat ++ slot : BitVec 8) = slot := (ext_lo _ slot 0 3 (by decide)).trans (ext_all slot)

theorem c_vdq_0 (f : BitVec 4) (slot : BitVec 3) :
    BitVec.extractLsb' 4 4 (f ++ (0 : BitVec 1) ++ slot : BitVec 8) = f := (ext_hi _ slot 4 4 (by decide)).trans ((ext_hi _ (0 : BitVec 1) 1 4 (by decide)).trans (ext_all f))

theorem c_vdq_2 (f : BitVec 4) (slot : BitVec 3) :
    BitVec.extractLsb' 0 3 (f ++ (0 : BitVec 1) ++ slot : BitVec 8) = slot := (ext_lo _ slot 0 3 (by decide)).trans (ext_all slot)

theorem c_vbs_0 (f : BitVec 4) :
    BitVec.extractLsb' 4 4 (f ++ (0 : BitVec 4) : BitVec 8) = f := (ext_hi _ (0 : BitVec 4) 4 4 (by decide)).trans (ext_all f)

theorem c_vrdi_1 (n : BitVec 6) :
    BitVec.extractLsb' 0 6 ((2 : BitVec 2) ++ n : BitVec 8) = n := (ext_lo _ n 0 6 (by decide)).trans (ext_all n)

theorem c_acq_1 (acq : Bool) :
    BitVec.getLsbD ((0 : BitVec 1) ++ bit acq ++ (0 : BitVec 1) : BitVec 3) 1 = acq :=
  (getLsbD_of_ext ((ext_hi _ (0 : BitVec 1) 1 1 (by decide)).trans ((ext_lo _ (bit acq) 0 1 (by decide)).trans (ext_all (bit acq))))).trans (bit_getLsbD acq)

theorem c_rel_0 (rel : Bool) :
    BitVec.getLsbD (bit rel ++ (0 : BitVec 2) : BitVec 3) 2 = rel :=
  (getLsbD_of_ext ((ext_hi _ (0 : BitVec 2) 2 1 (by decide)).trans (ext_all (bit rel)))).trans (bit_getLsbD rel)

theorem c_pref_1 (l : Bool) :
    BitVec.getLsbD ((0 : BitVec 6) ++ bit l : BitVec 7) 0 = l :=
  (getLsbD_of_ext ((ext_lo _ (bit l) 0 1 (by decide)).trans (ext_all (bit l)))).trans (bit_getLsbD l)

/-! ## The tables of field codes -/

theorem FTy.ofCode_code (x : FTy) : FTy.ofCode x.code = some x := by cases x <;> rfl

theorem ITy.ofCode_code (x : ITy) : ITy.ofCode x.code = some x := by cases x <;> rfl

theorem NFmt.ofCode_code (x : NFmt) : NFmt.ofCode x.code = some x := by cases x <;> rfl

theorem CvtPair.ofCode_code (x : CvtPair) : CvtPair.ofCode x.code = some x := by cases x <;> rfl

theorem RedOp.ofCode_code (x : RedOp) : RedOp.ofCode x.code = some x := by cases x <;> rfl

theorem FCond.ofCode_code (x : FCond) : FCond.ofCode x.code = some x := by cases x <;> rfl

theorem Cond.ofCode_code (x : Cond) : Cond.ofCode x.code = some x := by cases x <;> rfl

theorem LdQ.ofCode_code (x : LdQ) : LdQ.ofCode x.code = some x := by cases x <;> rfl

theorem StQ.ofCode_code (x : StQ) : StQ.ofCode x.code = some x := by cases x <;> rfl

theorem AtQ.ofCode_code (x : AtQ) : AtQ.ofCode x.code = some x := by cases x <;> rfl

theorem RdQ.ofCode_code (x : RdQ) : RdQ.ofCode x.code = some x := by cases x <;> rfl

theorem AtomOp.ofCode_code (x : AtomOp) : AtomOp.ofCode x.code = some x := by cases x <;> rfl

theorem Scope.ofCode_code (x : Scope) : Scope.ofCode x.code = some x := by cases x <;> rfl

theorem Shape.ofCode_code (x : Shape) : Shape.ofCode x.code = some x := by cases x <;> rfl

theorem AccFmt.ofCode_code (x : AccFmt) : AccFmt.ofCode x.code = some x := by cases x <;> rfl

theorem parseB_bits (b : SOp) : parseB (b.i.getLsbD 0) b.bits = b := by
  cases b with
  | reg r => simp only [SOp.i, SOp.bits, parseB, pad6in9_1]; rfl
  | imm v => simp [SOp.i, SOp.bits, parseB]

/-! ## The classes -/

theorem parse_layV_0 (m : Bool) (op : BitVec 4) (ty : FTy) (d a : VReg) (b : Code) :
    parse (layV m 0 op ty.code d a b) = parse0 m op ty d a b := by
  simp only [parse, layV_m, layV_cls, layV_op, layV_ty, layV_d, layV_a, layV_b, FTy.ofCode_code]; rfl

theorem parse_layV_1 (m : Bool) (op : BitVec 4) (ty : ITy) (d a : VReg) (b : Code) :
    parse (layV m 1 op ty.code d a b) = parse1 m op ty d a b := by
  simp only [parse, layV_m, layV_cls, layV_op, layV_ty, layV_d, layV_a, layV_b, ITy.ofCode_code]; rfl

theorem parse_layM_2 (m : Bool) (op : BitVec 6) (d a : BitVec 7) (b : Code) :
    parse (layM m 2 op d a b) = parse2 m op d a b := by
  simp only [parse, layM_m, layM_cls, layM_op, layM_d, layM_a, layM_b]; rfl

theorem parse_layVM (m : Bool) (op : BitVec 6) (t a : BitVec 7) (b : BitVec 5) (q : BitVec 3) :
    parse (layVM m op t a b q) = parse3 m op t a b q := by
  simp only [parse, layVM_m, layVM_cls, layVM_op, layVM_t, layVM_a, layVM_b, layVM_q]; rfl

theorem parse_layS (m : Bool) (op d a : BitVec 6) (i : BitVec 1) (b : BitVec 9) :
    parse (layS m op d a i b) = parse4 m op d a (parseB (i.getLsbD 0) b) b := by
  simp only [parse, layS_m, layS_cls, layS_op, layS_d, layS_a, layS_ib, layS_b]; rfl

theorem parse_layC (m : Bool) (op : BitVec 5) (x : BitVec 23) :
    parse (layC m op x) = parse5 m op x := by
  simp only [parse, layC_m, layC_cls, layC_op, layC_x]; rfl

theorem parse_layE1_6 (m : Bool) (op d a b : BitVec 6) (f : BitVec 4) :
    parse (layE1 m 6 op d a b f) = parse6 m op d a b f ((layE1 m 6 op d a b f).extractLsb' 18 4) ((layE1 m 6 op d a b f).extractLsb' 15 3) ((layE1 m 6 op d a b f).extractLsb' 10 5) ((layE1 m 6 op d a b f).extractLsb' 5 5) ((layE1 m 6 op d a b f).extractLsb' 0 5) ((layE1 m 6 op d a b f).extractLsb' 8 7) ((layE1 m 6 op d a b f).extractLsb' 0 8) := by
  simp only [parse, layE1_m, layE1_cls, layE1_op, layE1_d, layE1_a, layE1_b, layE1_f]; rfl

theorem parse_layE2 (m : Bool) (op : BitVec 6) (sh : BitVec 4) (acc : BitVec 3) (a b f : BitVec 5) :
    parse (layE2 m op sh acc a b f) = parse6 m op ((layE2 m op sh acc a b f).extractLsb' 16 6) ((layE2 m op sh acc a b f).extractLsb' 10 6) ((layE2 m op sh acc a b f).extractLsb' 4 6) ((layE2 m op sh acc a b f).extractLsb' 0 4) sh acc a b f ((layE2 m op sh acc a b f).extractLsb' 8 7) ((layE2 m op sh acc a b f).extractLsb' 0 8) := by
  simp only [parse, layE2_m, layE2_cls, layE2_op, layE2_sh, layE2_acc, layE2_a, layE2_b, layE2_f]; rfl

theorem parse_layM_6 (m : Bool) (op : BitVec 6) (d a : BitVec 7) (b : BitVec 8) :
    parse (layM m 6 op d a b) = parse6 m op ((layM m 6 op d a b).extractLsb' 16 6) ((layM m 6 op d a b).extractLsb' 10 6) ((layM m 6 op d a b).extractLsb' 4 6) ((layM m 6 op d a b).extractLsb' 0 4) ((layM m 6 op d a b).extractLsb' 18 4) ((layM m 6 op d a b).extractLsb' 15 3) ((layM m 6 op d a b).extractLsb' 10 5) ((layM m 6 op d a b).extractLsb' 5 5) ((layM m 6 op d a b).extractLsb' 0 5) a b := by
  simp only [parse, layM_m, layM_cls, layM_op, layM_d, layM_a, layM_b]; rfl

theorem parse_layE1_7 (m : Bool) (op d a b : BitVec 6) (f : BitVec 4) :
    parse (layE1 m 7 op d a b f) = parse7 m op d a f ((layE1 m 7 op d a b f).extractLsb' 0 22) ((layE1 m 7 op d a b f).extractLsb' 15 7) ((layE1 m 7 op d a b f).extractLsb' 8 7) ((layE1 m 7 op d a b f).extractLsb' 0 8) := by
  simp only [parse, layE1_m, layE1_cls, layE1_op, layE1_d, layE1_a, layE1_b, layE1_f]; rfl

theorem parse_layH (m : Bool) (op : BitVec 6) (x : BitVec 22) :
    parse (layH m op x) = parse7 m op ((layH m op x).extractLsb' 16 6) ((layH m op x).extractLsb' 10 6) ((layH m op x).extractLsb' 0 4) x ((layH m op x).extractLsb' 15 7) ((layH m op x).extractLsb' 8 7) ((layH m op x).extractLsb' 0 8) := by
  simp only [parse, layH_m, layH_cls, layH_op, layH_x]; rfl

theorem parse_layM_7 (m : Bool) (op : BitVec 6) (d a : BitVec 7) (b : BitVec 8) :
    parse (layM m 7 op d a b) = parse7 m op ((layM m 7 op d a b).extractLsb' 16 6) ((layM m 7 op d a b).extractLsb' 10 6) ((layM m 7 op d a b).extractLsb' 0 4) ((layM m 7 op d a b).extractLsb' 0 22) d a b := by
  simp only [parse, layM_m, layM_cls, layM_op, layM_d, layM_a, layM_b]; rfl

/-- The emulation words other than VIDIV (R76). -/
theorem parse7_emulation (m : Bool) (op : BitVec 4) (d a : BitVec 6) (f : BitVec 4) (x : BitVec 22) (d7 a7 : BitVec 7) (b8 : BitVec 8)
    (h : op ≠ 0) : parse7 m ((3 : BitVec 2) ++ op) d a f x d7 a7 b8 = some (.emulation m op x) := by
  have hc : op = 1 ∨ op = 2 ∨ op = 3 ∨ op = 4 ∨ op = 5 ∨ op = 6 ∨ op = 7 ∨ op = 8 ∨ op = 9 ∨ op = 10 ∨ op = 11 ∨ op = 12 ∨ op = 13 ∨
      op = 14 ∨ op = 15 := by
    revert h; revert op; decide
  rcases hc with h | h | h | h | h | h | h | h | h | h | h | h | h | h | h <;> subst h <;> rfl

end Sys2Proof
end

