-- ==== Sys2Proof/Laws/Frames.lean ====
section
/-! SUPPORT. What the memory hierarchy leaves alone: no access of it, no recall, no error record and no trace record changes a wave, a
partition, the device, the agenda, or what the device has sent; and, from that, what taking a trap does. -/

namespace Sys2Proof.Machine

/-- Two states agree in everything that an access to memory leaves alone. -/
structure KeepsAll (s t : State) : Prop where
  waves : t.waves = s.waves
  parts : t.parts = s.parts
  dev : t.dev = s.dev
  sysmem : t.sysmem = s.sysmem
  agenda : t.agenda = s.agenda
  cur : t.cur = s.cur
  defer : t.deferTraps = s.deferTraps
  lag : t.lag = s.lag
  outbox : t.outbox = s.outbox

theorem KeepsAll.refl (s : State) : KeepsAll s s := ⟨rfl, rfl, rfl, rfl, rfl, rfl, rfl, rfl, rfl⟩

theorem KeepsAll.trans {s t u : State} (h : KeepsAll s t) (g : KeepsAll t u) : KeepsAll s u :=
  ⟨g.waves.trans h.waves, g.parts.trans h.parts, g.dev.trans h.dev, g.sysmem.trans h.sysmem, g.agenda.trans h.agenda, g.cur.trans h.cur,
    g.defer.trans h.defer, g.lag.trans h.lag, g.outbox.trans h.outbox⟩

theorem KeepsAll.foldl {f : State → β → State} (h : ∀ s x, KeepsAll s (f s x)) (l : List β) (s : State) : KeepsAll s (l.foldl f s) := by
  induction l generalizing s with
  | nil => exact .refl s
  | cons a t ih => exact (h s a).trans (ih _)

/-! ## Updates -/

theorem State.updCore_keeps (s : State) (c : Nat) (f : Core → Core) : KeepsAll s (s.updCore c f) := ⟨rfl, rfl, rfl, rfl, rfl, rfl, rfl, rfl, rfl⟩
theorem State.updVi_keeps (s : State) (v : Nat) (f : Vi → Vi) : KeepsAll s (s.updVi v f) := ⟨rfl, rfl, rfl, rfl, rfl, rfl, rfl, rfl, rfl⟩
theorem State.updBlock_keeps (s : State) (b : Nat) (f : Block → Block) : KeepsAll s (s.updBlock b f) := ⟨rfl, rfl, rfl, rfl, rfl, rfl, rfl, rfl, rfl⟩
theorem State.updPkt_keeps (s : State) (p : Nat) (f : Packet → Packet) : KeepsAll s (s.updPkt p f) := by
  unfold State.updPkt; split <;> exact ⟨rfl, rfl, rfl, rfl, rfl, rfl, rfl, rfl, rfl⟩

/-! ## Lines and tags -/

theorem State.addMeter_keeps (s : State) (vi m inc : Nat) : KeepsAll s (s.addMeter vi m inc) := by
  unfold State.addMeter; split
  · exact .refl s
  · exact s.updVi_keeps ..

theorem State.setHomeLine_keeps (s : State) (l : Nat) (d : LineData) : KeepsAll s (s.setHomeLine l d) := by
  unfold State.setHomeLine; split <;> exact ⟨rfl, rfl, rfl, rfl, rfl, rfl, rfl, rfl, rfl⟩

theorem State.setL1_keeps (s : State) (c l : Nat) (x : Option L1Line) : KeepsAll s (s.setL1 c l x) := s.updCore_keeps ..

theorem State.markBad_keeps (s : State) (l : Nat) : KeepsAll s (s.markBad l) := ⟨rfl, rfl, rfl, rfl, rfl, rfl, rfl, rfl, rfl⟩

theorem State.dropTile_keeps (s : State) (l : Nat) : KeepsAll s (s.dropTile l) := by
  unfold State.dropTile; split <;> exact ⟨rfl, rfl, rfl, rfl, rfl, rfl, rfl, rfl, rfl⟩

theorem State.handIn_keeps (s : State) (l : Nat) (y : L1Line) : KeepsAll s (s.handIn l y) := by
  have h : KeepsAll s (if y.bad && y.ahead != 0 then s.markBad l else s) := by
    split
    · exact s.markBad_keeps l
    · exact .refl s
  unfold State.handIn
  generalize (if y.bad && y.ahead != 0 then s.markBad l else s) = u at h ⊢
  simp only
  have g : KeepsAll s (if y.ahead = 0 then u else u.dropTile l) := by
    split
    · exact h
    · exact h.trans (u.dropTile_keeps l)
  generalize (if y.ahead = 0 then u else u.dropTile l) = v at g ⊢
  split
  · exact g.trans (v.setHomeLine_keeps ..)
  · split
    · exact g
    · exact g.trans (v.setHomeLine_keeps ..)

theorem State.recallOne_keeps (s : State) (l : Nat) (keep : Bool) (h : Nat × L1Line) : KeepsAll s (s.recallOne l keep h) := by
  unfold State.recallOne
  split
  · exact (s.handIn_keeps ..).trans (State.setL1_keeps ..)
  · exact (s.handIn_keeps ..).trans (State.setL1_keeps ..)
  · exact s.setL1_keeps ..
  · split
    · exact .refl s
    · exact s.setL1_keeps ..
  · exact .refl s

theorem State.tlbFill_keeps (s : State) (core : Nat) (e : TlbEntry) : KeepsAll s (s.tlbFill core e) := by
  unfold State.tlbFill
  simp only
  split <;> exact ⟨rfl, rfl, rfl, rfl, rfl, rfl, rfl, rfl, rfl⟩

theorem State.chargeBytes_keeps (s : State) (vi line n : Nat) : KeepsAll s (s.chargeBytes vi line n) := by
  unfold State.chargeBytes
  split
  · exact s.addMeter_keeps ..
  · exact s.addMeter_keeps ..
  · exact .refl s

theorem State.pushSpent_keeps (s : State) (key line : Nat) : KeepsAll s (s.pushSpent key line) := ⟨rfl, rfl, rfl, rfl, rfl, rfl, rfl, rfl, rfl⟩

theorem State.l2_keeps (s : State) (x : SMap (List Way)) : KeepsAll s { s with l2 := x } := ⟨rfl, rfl, rfl, rfl, rfl, rfl, rfl, rfl, rfl⟩

/-! ## Recalls and error records -/

theorem KeepsAll.wave {s t : State} (h : KeepsAll s t) (core slot : Nat) : t.wave core slot = s.wave core slot := by
  simp only [State.wave, h.waves]


theorem State.setWinLine_keeps (s : State) (blk win j : Nat) (st : WinLine) : KeepsAll s (s.setWinLine blk win j st) := s.updBlock_keeps ..

theorem State.winWriteHome_keeps (s : State) (blk win j line : Nat) : KeepsAll s (s.winWriteHome blk win j line) := s.setHomeLine_keeps ..

theorem State.recallWin_keeps (s : State) (l : Nat) (keep : Bool) (c : Nat × Nat × Nat × WinLine) : KeepsAll s (s.recallWin l keep c).1 := by
  unfold State.recallWin
  simp only
  split
  · split
    · exact (s.winWriteHome_keeps ..).trans (State.setWinLine_keeps ..)
    · exact s.setWinLine_keeps ..
  · split
    · exact .refl s
    · exact s.setWinLine_keeps ..

theorem State.recallCopies_keeps (s : State) (l : Nat) (keep : Bool) (c : Option Nat) (w : Option (Nat × Nat × Nat)) :
    KeepsAll s (s.recallCopies l keep c w).1 := by
  unfold State.recallCopies
  simp only
  have go (ls : List (Nat × Nat × Nat × WinLine)) (a : State × List LostLine) : KeepsAll a.1
      (ls.foldl (fun a c => ((a.1.recallWin l keep c).1, a.2 ++ (a.1.recallWin l keep c).2)) a).1 := by
    induction ls generalizing a with
    | nil => exact .refl _
    | cons x t ih =>
      refine (a.1.recallWin_keeps l keep x).trans ?_
      exact ih ((a.1.recallWin l keep x).1, a.2 ++ (a.1.recallWin l keep x).2)
  have h (ls : List (Nat × L1Line)) := KeepsAll.foldl (f := fun s h => s.recallOne l keep h) (fun t h => t.recallOne_keeps l keep h) ls
  have h0 : KeepsAll s (if keep then s else s.dropTile l) := by
    split
    · exact .refl s
    · exact s.dropTile_keeps l
  exact (h0.trans (h _ _)).trans (go _ (_, _))

theorem State.homeByte_keeps (s : State) (pa : Nat) (b : Byte) : KeepsAll s (s.homeByte pa b) := by
  unfold State.homeByte; split <;> exact ⟨rfl, rfl, rfl, rfl, rfl, rfl, rfl, rfl, rfl⟩

theorem State.writeRec_keeps (s : State) (vi va : Nat) (l : List Byte) {p : State × List LostLine} (h : s.writeRec vi va l = some p) :
    KeepsAll s p.1 := by
  induction l generalizing va p with
  | nil => simp only [State.writeRec, Option.some.injEq] at h; subst h; exact .refl s
  | cons b t ih =>
    simp only [State.writeRec] at h
    split at h
    · cases h
    · split at h
      · cases h
      · rename_i u f hu
        have hk : KeepsAll s u := ih _ hu
        cases h
        refine KeepsAll.trans ?_ (State.homeByte_keeps ..)
        split
        · exact hk.trans (State.recallCopies_keeps ..)
        · exact hk

theorem State.postRec_keeps (s : State) (vi : Nat) (r : ErrRec) : KeepsAll s (s.postRec vi r).1 := by
  unfold State.postRec
  simp only
  split
  · exact s.updVi_keeps ..
  · split
    · rename_i u f hu
      exact (s.writeRec_keeps _ _ _ hu).trans (State.updVi_keeps ..)
    · exact s.updVi_keeps ..

theorem State.postLost_keeps (s : State) (f : LostLine) : KeepsAll s (s.postLost f).1 :=
  (s.postRec_keeps ..).trans (State.updPkt_keeps ..)

theorem State.postLosts_keeps (n : Nat) (s : State) (l : List LostLine) : KeepsAll s (State.postLosts n s l) := by
  induction n generalizing s l with
  | zero => exact .refl s
  | succ n ih =>
    cases l with
    | nil => exact .refl s
    | cons f t => exact (s.postLost_keeps f).trans (ih _ _)

theorem State.takeBack_keeps (s : State) (l : Nat) (keep : Bool) (c : Option Nat) (w : Option (Nat × Nat × Nat)) :
    KeepsAll s (s.takeBack l keep c w) := (s.recallCopies_keeps l keep c w).trans (State.postLosts_keeps ..)

theorem State.putError_keeps (s : State) (vi : Nat) (r : ErrRec) : KeepsAll s (s.putError vi r) :=
  (s.postRec_keeps vi r).trans (State.postLosts_keeps ..)

/-! ## L2 tags -/

theorem State.request_keeps (s : State) (key limit n : Nat) : KeepsAll s (s.request key limit n) := by
  unfold State.request; split
  · exact .refl s
  · exact ⟨rfl, rfl, rfl, rfl, rfl, rfl, rfl, rfl, rfl⟩

theorem State.sliceRequest_keeps (s : State) (key : Nat) : KeepsAll s (s.sliceRequest key) := s.request_keeps ..

theorem State.toDevice_keeps (s : State) (line : Nat) : KeepsAll s (s.toDevice line) := by
  unfold State.toDevice; split
  · exact .refl s
  · split
    · split
      · exact .refl s
      · exact ⟨rfl, rfl, rfl, rfl, rfl, rfl, rfl, rfl, rfl⟩
    · exact .refl s

theorem State.sendMeter_keeps (s : State) (vi : Nat) (t : Target) (n : Nat) : KeepsAll s (s.sendMeter vi t n) := by
  unfold State.sendMeter; split
  · exact s.addMeter_keeps ..
  · exact .refl s

theorem State.evictWay_keeps (s : State) (key : Nat) (w : Way) : KeepsAll s (s.evictWay key w) := by
  have out (d : BitVec 4) : KeepsAll s
      (let t := (s.takeBack w.line false none none).chargeBytes w.vi w.line (popSectors d)
       if d = 0 then t else (t.sliceRequest key).toDevice w.line) := by
    have h := (s.takeBack_keeps w.line false none none).trans (State.chargeBytes_keeps _ w.vi w.line (popSectors d))
    simp only
    split
    · exact h
    · exact (h.trans (State.sliceRequest_keeps ..)).trans (State.toDevice_keeps ..)
  have h (x : State) (hx : KeepsAll s x) : KeepsAll s (match w.slot with
      | some (v, k) => x.updVi v fun x => { x with ret := SMap.upd {} x.ret k fun r => { r with ovf := (r.ovf + 1) % 2 ^ 48 } }
      | none => x) := by
    split
    · exact hx.trans (State.updVi_keeps ..)
    · exact hx
  unfold State.evictWay
  refine h _ ?_
  split
  · exact s.pushSpent_keeps ..
  · exact out _

theorem State.insertWay_keeps (s : State) (key : Nat) (w : Way) : KeepsAll s (s.insertWay key w) := by
  unfold State.insertWay
  simp only
  split
  · exact s.l2_keeps _
  · split
    · refine KeepsAll.trans ?_ (State.l2_keeps _ _)
      split
      · exact s.evictWay_keeps ..
      · exact .refl s
    · exact .refl s

theorem State.retCount_keeps (s : State) (vi : Nat) (slot : Option (Nat × Nat)) (f : Retention → Retention) :
    KeepsAll s (s.retCount vi slot f) := by
  unfold State.retCount
  split
  · exact s.updVi_keeps ..
  · exact .refl s

/-- A step that one of two conditions may leave out. -/
theorem KeepsAll.ite {s t : State} (c : Prop) [Decidable c] {f : State → State} (h : KeepsAll s t) (hf : ∀ u, KeepsAll u (f u)) :
    KeepsAll s (if c then t else f t) := by
  split
  · exact h
  · exact h.trans (hf t)

theorem State.l2Hit_keeps (s : State) (key vi line : Nat) (sec : BitVec 4) (write : Bool) (w : Way) :
    KeepsAll s (s.l2Hit key vi line sec write w) := by
  unfold State.l2Hit
  exact ((s.chargeBytes_keeps ..).ite _ fun u => u.sliceRequest_keeps key).trans (State.l2_keeps ..)

theorem State.dropSpent_keeps (s : State) (key line : Nat) : KeepsAll s (s.dropSpent key line) := by
  unfold State.dropSpent
  simp only
  split
  · exact (s.pushSpent_keeps ..).trans (State.l2_keeps ..)
  · exact .refl s

theorem State.l2Fill_keeps (s : State) (key vi line : Nat) (sec : BitVec 4) (write : Bool) (pol : Policy) (slot : Option (Nat × Nat)) :
    KeepsAll s (s.l2Fill key vi line sec write pol slot) := by
  unfold State.l2Fill
  simp only
  refine KeepsAll.trans ?_ (State.insertWay_keeps ..)
  split
  · split
    · exact .refl s
    · exact s.l2_keeps _
  · exact s.retCount_keeps ..

theorem State.ask_keeps (s : State) (line : Nat) (sec : BitVec 4) : KeepsAll s (s.ask line sec) := ⟨rfl, rfl, rfl, rfl, rfl, rfl, rfl, rfl, rfl⟩

theorem State.l2Touch_keeps (s : State) (counts : Bool) (part vi line : Nat) (sec : BitVec 4) (write : Bool) (pol : Policy) :
    KeepsAll s (s.l2Touch counts part vi line sec write pol) := by
  unfold State.l2Touch
  simp only
  generalize s.newSectors line sec = fresh
  generalize (s.hasAsked line || !counts) = again
  refine (s.ask_keeps line sec).trans ?_
  generalize s.ask line sec = s
  have count (t : State) (slot : Option (Nat × Nat)) (f : Retention → Retention) :
      KeepsAll t (if again then t else t.retCount vi slot f) := by
    split
    · exact .refl t
    · exact t.retCount_keeps ..
  split
  · split
    · exact (count ..).trans (State.l2Hit_keeps ..)
    · rename_i key _ _ _
      have h := (count s ((s.vi vi).retSlot line) fun r => { r with miss := (r.miss + 1) % 2 ^ 48 }).trans (State.dropSpent_keeps _ key line)
      split
      · exact h.trans (State.l2Hit_keeps ..)
      · have h := (h.trans (State.chargeBytes_keeps _ vi line (if write && pol != .none then 0 else popSectors fresh))).ite
          ((if write && pol != .none then 0 else popSectors fresh) = 0) fun u => u.sliceRequest_keeps key
        split
        · exact h
        · exact (h.trans (State.l2_keeps ..)).trans (State.l2Fill_keeps ..)
  · exact .refl s

theorem State.l2Access_keeps (s : State) (part vi line : Nat) (sec : BitVec 4) (write : Bool) (pol : Policy) :
    KeepsAll s (s.l2Access part vi line sec write pol) := s.l2Touch_keeps ..

theorem State.dirTag_keeps (s : State) (part vi line : Nat) : KeepsAll s (s.dirTag part vi line) := by
  unfold State.dirTag
  split
  · split
    · exact .refl s
    · exact (s.dropSpent_keeps ..).trans (State.insertWay_keeps ..)
  · exact .refl s

theorem State.countLine_keeps (s : State) (vi line : Nat) (here : Bool) : KeepsAll s (s.countLine vi line here) := by
  unfold State.countLine
  split
  · exact .refl s
  · exact s.retCount_keeps ..

theorem State.l2Write_keeps (s : State) (part vi line : Nat) (sec : BitVec 4) : KeepsAll s (s.l2Write part vi line sec) := by
  have go (key : Nat) : KeepsAll s
      (let t := s.dropSpent key line
       if (SMap.get [] t.l2 key).any fun w => w.line = line then
         { t with l2 := SMap.upd [] t.l2 key fun ws => ws.map fun w =>
             if w.line = line then { w with valid := w.valid ||| sec, dirty := w.dirty ||| sec } else w }
       else
         let u := t.l2Fill key vi line sec true .normal ((t.vi vi).retSlot line)
         if u.inL2 part line then u else u.toDevice line) := by
    simp only
    split
    · exact (s.dropSpent_keeps ..).trans (State.l2_keeps ..)
    · exact ((s.dropSpent_keeps ..).trans (State.l2Fill_keeps ..)).ite _ fun u => u.toDevice_keeps line
  unfold State.l2Write
  split
  · exact go _
  · exact .refl s

theorem State.recall_keeps (s : State) (l : Nat) (keep : Bool) (c : Option Nat) (w : Option (Nat × Nat × Nat)) :
    KeepsAll s (s.recall l keep c w) := by
  unfold State.recall
  split
  · exact (s.takeBack_keeps ..).trans (State.l2Write_keeps ..)
  · exact s.takeBack_keeps ..

/-! ## Translation -/

theorem State.ownPage_keeps (s : State) (core vi : Nat) (x : Xlat) : KeepsAll s (s.ownPage core vi x).2 := by
  unfold State.ownPage
  split
  · exact s.updVi_keeps ..
  · exact .refl s

theorem State.walkL2_keeps (s : State) (part vi va : Nat) : KeepsAll s (s.walkL2 part vi va) := by
  unfold State.walkL2
  split
  · exact KeepsAll.foldl (fun t _ => (t.recall_keeps ..).trans (State.l2Access_keeps ..)) _ s
  · exact .refl s

theorem State.walked_keeps (s : State) (core vi va : Nat) : KeepsAll s (s.walked core vi va) := by
  unfold State.walked
  split
  · exact .refl s
  · exact s.walkL2_keeps ..

theorem State.walkedFor_keeps (s : State) (core vi : Nat) (r : Raise) : KeepsAll s (s.walkedFor core vi r) := by
  have h : KeepsAll s (if r.val.toNat < 0xFFFFFF0000000000 then s.walked core vi r.val.toNat else s) := by
    split
    · exact s.walked_keeps ..
    · exact .refl s
  unfold State.walkedFor
  split
  all_goals first | exact h | exact .refl s

/-- A translation changes the TLBs, the tags of L2 and the owners of pages alone. -/
theorem State.translate_keeps {s u : State} {core vi va : Nat} {need : Need} {x : Xlat} (h : s.translate core vi va need = .ok (x, u)) :
    KeepsAll s u := by
  have own (t : State) (x : Xlat) : KeepsAll t
      (if x.region = 0 && need != .fetch && need != .any then t.ownPage core vi x else (true, t)).2 := by
    split
    · exact t.ownPage_keeps ..
    · exact .refl t
  have go (pte size : Nat) (t : State) (hk : KeepsAll s t)
      (h : (match t.xlatOf va pte size with
        | none => Except.error ⟨.translate, BitVec.ofNat 64 va⟩
        | some x =>
          let p := if x.region = 0 && need != .fetch && need != .any then t.ownPage core vi x else (true, t)
          match t.accessFault vi x (need.ok pte) p.1 with
          | some c => Except.error (x.fault va c)
          | none => Except.ok (x, p.2) : Except Raise (Xlat × State)) = .ok (x, u)) : KeepsAll s u := by
    split at h
    · cases h
    · rename_i y _
      simp only at h
      split at h
      · cases h
      · cases h
        exact hk.trans (own t _)
  unfold State.translate at h
  simp only at h
  split at h
  · exact go _ _ _ (s.tlbFill_keeps ..) h
  · split at h
    · cases h
    · exact go _ _ _ ((s.walked_keeps core vi va).trans (State.tlbFill_keeps _ core _)) h

/-! ## Reads and writes -/

theorem KeepsAll.setL1 {s t : State} (h : KeepsAll s t) (c l : Nat) (x : Option L1Line) : KeepsAll s (t.setL1 c l x) :=
  h.trans (t.setL1_keeps c l x)

theorem KeepsAll.l2Access {s t : State} (h : KeepsAll s t) (part vi line : Nat) (sec : BitVec 4) (write : Bool) (pol : Policy) :
    KeepsAll s (t.l2Access part vi line sec write pol) := h.trans (t.l2Access_keeps part vi line sec write pol)


theorem State.flushL1_keeps (s : State) (core l : Nat) : KeepsAll s (s.flushL1 core l) := by
  unfold State.flushL1
  split
  · split
    · exact ((s.handIn_keeps ..).setL1 ..).trans (State.l2Write_keeps ..)
    · exact ((s.handIn_keeps ..).setL1 ..).trans (State.l2Write_keeps ..)
    · exact ((s.handIn_keeps ..).setL1 ..).trans (State.l2Write_keeps ..)
    · exact s.setL1_keeps ..
  · exact .refl s

theorem State.putL1_keeps (s : State) (g : Agent) (l : Nat) (y : L1Line) : KeepsAll s (s.putL1 g l y) := by
  have go (u : State) (h : KeepsAll s u) (f : Core → Core) : KeepsAll s
      (if (SMap.find? (u.core g.core).l1 l).isSome then u.setL1 g.core l (some y) else u.updCore g.core f) := by
    split
    · exact h.trans (u.setL1_keeps ..)
    · exact h.trans (u.updCore_keeps ..)
  have h : KeepsAll s (match (s.core g.core).l1Victim l with | some v => s.flushL1 g.core v | none => s) := by
    split
    · exact s.flushL1_keeps ..
    · exact .refl s
  exact go _ h _

theorem KeepsAll.putL1 {s t : State} (h : KeepsAll s t) (g : Agent) (l : Nat) (y : L1Line) : KeepsAll s (t.putL1 g l y) :=
  h.trans (t.putL1_keeps g l y)

theorem State.fillSectors_keeps (s : State) (g : Agent) (l : Nat) (sec : BitVec 4) (y : L1Line) : KeepsAll s (s.fillSectors g l sec y).2 := by
  unfold State.fillSectors
  simp only
  split
  · exact .refl s
  · dsimp only
    split
    · exact (s.l2Access_keeps ..).trans (State.dirTag_keeps ..)
    · exact s.l2Access_keeps ..

theorem State.fillC_keeps (s : State) (g : Agent) (l : Nat) (sec : BitVec 4) : KeepsAll s (s.fillC g l sec).2 := by
  unfold State.fillC
  simp only
  split
  · dsimp only
    apply KeepsAll.putL1
    split
    · exact (s.recall_keeps l false none none).trans (State.fillSectors_keeps ..)
    · exact s.fillSectors_keeps ..
  · dsimp only
    apply KeepsAll.putL1
    exact (s.recall_keeps l true (some g.core) none).trans (State.fillSectors_keeps ..)

theorem State.ownC_keeps (s : State) (g : Agent) (l : Nat) (sec : BitVec 4) : KeepsAll s (s.ownC g l sec).2 := by
  have fresh : KeepsAll s ((s.recall l false none none).fillSectors g l sec (g.newLine .m)).2 :=
    (s.recall_keeps l false none none).trans (State.fillSectors_keeps ..)
  unfold State.ownC
  simp only
  split
  · split
    · exact s.fillSectors_keeps ..
    · exact s.fillSectors_keeps ..
    · refine KeepsAll.trans ?_ (State.fillSectors_keeps ..)
      split
      · exact (s.recall_keeps ..).trans (State.l2Access_keeps ..)
      · exact s.recall_keeps ..
    · exact fresh
  · exact fresh

theorem State.readGlobal_keeps (s : State) (g : Agent) (x : Xlat) (n : Nat) (home : Bool) : KeepsAll s (s.readGlobal g x n home).2 := by
  unfold State.readGlobal
  simp only
  split
  · exact s.l2Access_keeps ..
  · split
    · exact s.fillC_keeps ..
    · exact (s.fillSectors_keeps ..).putL1 ..

theorem State.writeHome_keeps (s : State) (g : Agent) (x : Xlat) (n v : Nat) : KeepsAll s (s.writeHome g x n v) := by
  have h : KeepsAll s (if x.region = 2 then s.recall x.line false none none else s.dropTile x.line) := by
    split
    · exact s.recall_keeps ..
    · exact s.dropTile_keeps ..
  have go (u : State) (h : KeepsAll s u) : KeepsAll s (match SMap.find? u.counted x.line with
      | some c => { u with counted := SMap.put u.counted x.line { c with data := lineSet c.data (x.pa % 128) n v } }
      | none =>
        let u := { u with mem := Memory.write u.mem x.pa n v }
        if x.target != .cap || u.inL2 g.part x.line then u else u.toDevice x.line) := by
    split
    · exact h.trans ⟨rfl, rfl, rfl, rfl, rfl, rfl, rfl, rfl, rfl⟩
    · have h2 : KeepsAll u { u with mem := Memory.write u.mem x.pa n v } := ⟨rfl, rfl, rfl, rfl, rfl, rfl, rfl, rfl, rfl⟩
      simp only
      split
      · exact h.trans h2
      · exact (h.trans h2).trans (State.toDevice_keeps ..)
  unfold State.writeHome
  exact go _ ((h.trans (State.l2Access_keeps ..)).trans (State.sendMeter_keeps ..))

theorem State.writeGlobal_keeps (s : State) (g : Agent) (x : Xlat) (n v : Nat) : KeepsAll s (s.writeGlobal g x n v) := by
  unfold State.writeGlobal
  simp only
  split
  · exact s.writeHome_keeps ..
  · split
    · exact (s.ownC_keeps ..).putL1 ..
    · split
      · split
        · exact (s.writeHome_keeps ..).trans (State.setL1_keeps ..)
        · exact s.writeHome_keeps ..
      · split
        · exact (s.readGlobal_keeps ..).trans (State.setL1_keeps ..)
        · exact s.readGlobal_keeps ..

theorem State.recallForU_keeps (s : State) (l : Nat) (op : AtomOp) : KeepsAll s (s.recallForU l op) := by
  have go (ls : List (Nat × Nat × Nat × WinLine)) (a : State × List LostLine) : KeepsAll a.1
      (ls.foldl (fun a c => ((a.1.recallWin l false c).1, a.2 ++ (a.1.recallWin l false c).2)) a).1 := by
    induction ls generalizing a with
    | nil => exact .refl _
    | cons x t ih =>
      refine (a.1.recallWin_keeps l false x).trans ?_
      exact ih ((a.1.recallWin l false x).1, a.2 ++ (a.1.recallWin l false x).2)
  have h0 := (s.dropTile_keeps l).trans (KeepsAll.foldl (f := fun s h => s.recallOne l false h) (fun t h => t.recallOne_keeps l false h)
    (((s.dropTile l).holders l).filter fun h => h.2.st.tracked && h.2.st != .u op) (s.dropTile l))
  have fin (p : State × List LostLine) (hp : KeepsAll s p.1) (who : Option (Nat × Nat × BitVec 4)) (d : Bool) : KeepsAll s
      (match who with
       | some w => if d then (State.postLosts maxWinLines p.1 p.2).l2Write w.1 w.2.1 l w.2.2 else State.postLosts maxWinLines p.1 p.2
       | none => State.postLosts maxWinLines p.1 p.2) := by
    have h := hp.trans (State.postLosts_keeps maxWinLines p.1 p.2)
    split
    · split
      · exact h.trans (State.l2Write_keeps ..)
      · exact h
    · exact h
  unfold State.recallForU
  exact fin _ (h0.trans (go _ (_, []))) _ _

theorem State.atomGlobal_keeps (s : State) (g : Agent) (x : Xlat) (op : AtomOp) (v e : Nat) (near red : Bool) :
    KeepsAll s (s.atomGlobal g x op v e near red).2 := by
  have far (t : State) (h : KeepsAll s t) (w : Nat) : KeepsAll s
      (if x.region = 1 then (t.writeHome g x (atomSize op) w).setL1 g.core x.line none else t.writeHome g x (atomSize op) w) := by
    split
    · exact (h.trans (State.writeHome_keeps ..)).trans (State.setL1_keeps ..)
    · exact h.trans (State.writeHome_keeps ..)
  have back : KeepsAll s (if x.region = 2 then s.recall x.line false none none else s) := by
    split
    · exact s.recall_keeps ..
    · exact .refl s
  have grant (y : L1Line) : KeepsAll s
      (((s.recallForU x.line op).l2Access g.part g.vi x.line 0 false (if g.pol = .none then .normal else g.pol)).putL1 g x.line y) :=
    ((s.recallForU_keeps ..).trans (State.l2Access_keeps ..)).putL1 ..
  unfold State.atomGlobal
  dsimp only
  by_cases hu : s.uncached x
  · rw [if_pos hu]
    exact far _ back _
  · rw [if_neg hu]
    by_cases h0 : x.region = 0
    · rw [if_pos h0]
      exact (s.readGlobal_keeps ..).trans (State.writeGlobal_keeps ..)
    · rw [if_neg h0]
      by_cases h2 : x.region = 2
      · rw [if_pos h2]
        cases SMap.find? (s.core g.core).l1 x.line with
        | none =>
          dsimp only
          by_cases hr : red = true
          · rw [if_pos hr]; exact grant _
          · rw [if_neg hr]; exact far _ back _
        | some y =>
          dsimp only
          by_cases hn : (near && (y.st = .e || y.st = .m)) = true
          · rw [if_pos hn]; dsimp only; exact (s.fillSectors_keeps ..).trans (State.setL1_keeps ..)
          · rw [if_neg hn]
            by_cases hy : (red && decide (y.st = .u op)) = true
            · rw [if_pos hy]; dsimp only; exact s.setL1_keeps ..
            · rw [if_neg hy]
              by_cases hz : (red && y.st.isU) = true
              · rw [if_pos hz]; exact grant _
              · rw [if_neg hz]; exact far _ back _
      · rw [if_neg h2]
        exact far _ back _

/-! ## Stash accesses -/

theorem State.fillWin_keeps (s : State) (owner wn j : Nat) (x : Option Xlat) (d : Nat) : KeepsAll s (s.fillWin owner wn j x d) :=
  ((s.updBlock_keeps ..).trans (State.setWinLine_keeps ..)).trans (State.updBlock_keeps ..)

theorem State.winOwned_keeps (s : State) (owner wn j va : Nat) : KeepsAll s (s.winOwned owner wn j va).2 := by
  unfold State.winOwned
  simp only
  split
  · split
    · split
      · exact s.ownPage_keeps ..
      · exact .refl s
    · exact .refl s
  · exact .refl s

/-- A translation followed by the rest of an access. -/
theorem map_ok {x : Except ε α} {f : α → β} {b : β} (h : x.map f = .ok b) : ∃ a, x = .ok a ∧ f a = b := by
  cases x with
  | error e => cases h
  | ok a => exact ⟨a, rfl, Except.ok.inj h⟩

theorem State.winTouch_keeps {s : State} {owner off : Nat} {write : Bool} {p : Option Xlat × State}
    (h : s.winTouch owner off write = .ok p) : KeepsAll s p.2 := by
  have dirty (wn j : Nat) (me : Option (Nat × Nat × Nat)) (t : State) (q : Option Xlat × State)
      (hq : (if write then
          let b := t.block owner
          let p := t.winPhys b.vi (SMap.get {} b.wins wn) j
          let u := if p.2 = 2 then t.recall p.1 false none me else t
          .ok (none, u.setWinLine owner wn j .dirty)
        else .ok (none, t) : Except Raise (Option Xlat × State)) = .ok q) : KeepsAll t q.2 := by
    simp only at hq
    split at hq
    · cases hq
      refine KeepsAll.trans ?_ (State.setWinLine_keeps ..)
      split
      · exact t.recall_keeps ..
      · exact .refl t
    · cases hq; exact .refl t
  have home (b : Block) (va : Nat) (t : State) (q : Option Xlat × State)
      (hq : (t.translate b.core b.vi va (if write then .wr else .rd)).map (fun p => (some p.1, p.2)) = .ok q) : KeepsAll t q.2 := by
    obtain ⟨a, ha, rfl⟩ := map_ok hq
    exact State.translate_keeps ha
  have own (c : Prop) [Decidable c] (t : State) (core vi : Nat) (x : Xlat) :
      KeepsAll t (if c then t.ownPage core vi x else (true, t)).2 := by
    split
    · exact t.ownPage_keeps ..
    · exact .refl t
  have back (c : Prop) [Decidable c] (t : State) (l : Nat) (me : Option (Nat × Nat × Nat)) :
      KeepsAll t (if c then t.recall l true none me else t) := by
    split
    · exact t.recall_keeps ..
    · exact .refl t
  have tagged (c : Prop) [Decidable c] (t : State) (l : Nat) (me : Option (Nat × Nat × Nat)) (part vi : Nat) :
      KeepsAll t (if c then (t.recall l true none me).dirTag part vi l else t) := by
    split
    · exact (t.recall_keeps ..).trans (State.dirTag_keeps ..)
    · exact .refl t
  unfold State.winTouch at h
  simp only at h
  split at h
  · cases h; exact .refl s
  · split at h
    · split at h
      · cases h
      · split at h
        · cases h; exact s.winOwned_keeps ..
        · exact (s.winOwned_keeps ..).trans (dirty _ _ _ _ _ h)
    · split at h
      · split at h
        · exact ((s.walked_keeps ..).trans (State.fillWin_keeps ..)).trans (dirty _ _ _ _ _ h)
        · split at h
          · exact (s.walked_keeps ..).trans (home _ _ _ _ h)
          · rename_i w _ _ _ _ x _ _
            have ho := own (x.region = 0) (s.walked (s.block owner).core (s.block owner).vi (w.base.toNat + 128 * ((off - w.off) / 128)))
              (s.block owner).core (s.block owner).vi x
            generalize (if x.region = 0 then (s.walked (s.block owner).core (s.block owner).vi
              (w.base.toNat + 128 * ((off - w.off) / 128))).ownPage (s.block owner).core (s.block owner).vi x
              else (true, s.walked (s.block owner).core (s.block owner).vi (w.base.toNat + 128 * ((off - w.off) / 128)))) = q at h ho
            split at h
            · cases h
            · exact ((((s.walked_keeps ..).trans ho).trans (tagged ..)).trans (State.fillWin_keeps ..)).trans (dirty _ _ _ _ _ h)
      · split at h
        · cases h
        · rename_i x t hx
          have hk := State.translate_keeps hx
          split at h
          · exact hk.trans (home _ _ _ _ h)
          · split at h
            · cases h
            · exact (((hk.trans (back ..)).trans (State.l2Access_keeps ..)).trans (State.fillWin_keeps ..)).trans (dirty _ _ _ _ _ h)

/-! ## One access -/

theorem State.accessGlobal_keeps {s : State} {g : Agent} {op : MemOp} {a : Acc} {x : Xlat} {p : Nat × State}
    (h : s.accessGlobal g op a x = .ok p) : KeepsAll s p.2 := by
  unfold State.accessGlobal at h
  simp only at h
  split at h
  · cases h
  · split at h
    · split at h
      · cases h; exact s.l2Access_keeps ..
      · cases h; exact s.readGlobal_keeps ..
    · cases h; exact s.readGlobal_keeps ..
    · cases h; exact s.readGlobal_keeps ..
    · cases h; exact s.readGlobal_keeps ..
    · cases h; exact s.writeGlobal_keeps ..
    · cases h; exact s.writeGlobal_keeps ..
    · cases h; exact s.writeGlobal_keeps ..
    · cases h; exact s.atomGlobal_keeps ..
    · cases h; exact s.atomGlobal_keeps ..
    · cases h; exact .refl s

theorem State.accessStash_keeps {s : State} {g : Agent} {op : MemOp} {a : Acc} {owner o : Nat} {p : Nat × State}
    (h : s.accessStash g op a owner o = .ok p) : KeepsAll s p.2 := by
  have touch (write : Bool) (f : State → Nat × State) (hf : ∀ t, KeepsAll t (f t).2)
      (ht : (match s.winTouch owner o write with
        | .error r => .error r
        | .ok (some x, s) => s.accessGlobal g op a { x with pa := x.pa + o % 128 }
        | .ok (none, s) =>
          if op.kind.takesData && (s.block owner).bad.contains (o / 128) then .error ⟨.mcheck, a.addr⟩ else .ok (f s) :
        Except Raise (Nat × State)) = .ok p) : KeepsAll s p.2 := by
    split at ht
    · cases ht
    · rename_i t hw
      exact (State.winTouch_keeps hw).trans (State.accessGlobal_keeps ht)
    · rename_i t hw
      split at ht
      · cases ht
      · cases ht
        exact (State.winTouch_keeps hw).trans (hf t)
  have put (t : State) (n v : Nat) : KeepsAll t (t.updBlock owner fun b => { b with stash := Memory.write b.stash o n v }) :=
    t.updBlock_keeps ..
  unfold State.accessStash at h
  simp only at h
  split at h
  · split at h
    · split at h
      · cases h; exact .refl s
      · obtain ⟨q, hq, rfl⟩ := map_ok h
        exact State.winTouch_keeps hq
    · cases h; exact .refl s
  · exact touch _ _ (fun t => .refl t) h
  · exact touch _ _ (fun t => .refl t) h
  · exact touch _ _ (fun t => .refl t) h
  · exact touch _ _ (fun t => put t _ _) h
  · exact touch _ _ (fun t => put t _ _) h
  · exact touch _ _ (fun t => put t _ _) h
  · exact touch _ _ (fun t => put t _ _) h
  · exact touch _ _ (fun t => put t _ _) h
  · cases h; exact .refl s

/-- One access of a memory operation, whatever its address. -/
theorem State.access1_keeps {s : State} {g : Agent} {op : MemOp} {a : Acc} {p : Nat × State} (h : s.access1 g op a = .ok p) :
    KeepsAll s p.2 := by
  unfold State.access1 at h
  split at h
  · split at h
    · cases h
    · exact State.accessStash_keeps h
  · split at h
    · cases h
    · rename_i x t hx
      exact (State.translate_keeps hx).trans (State.accessGlobal_keeps h)

/-! ## Futures -/

/-- Two states agree in everything that an access and the waiters that it wakes leave alone: of a wave, its queue alone may differ. -/
structure KeepsCauses (s t : State) : Prop where
  waves : ∀ k, ∃ q, t.waveK k = { s.waveK k with queue := q }
  parts : t.parts = s.parts
  dev : t.dev = s.dev
  sysmem : t.sysmem = s.sysmem
  agenda : t.agenda = s.agenda
  cur : t.cur = s.cur
  defer : t.deferTraps = s.deferTraps
  lag : t.lag = s.lag
  outbox : t.outbox = s.outbox

theorem KeepsAll.causes {s t : State} (h : KeepsAll s t) : KeepsCauses s t :=
  ⟨fun k => ⟨(s.waveK k).queue, by simp only [State.waveK, h.waves]⟩, h.parts, h.dev, h.sysmem, h.agenda, h.cur, h.defer, h.lag, h.outbox⟩

theorem KeepsCauses.refl (s : State) : KeepsCauses s s := (KeepsAll.refl s).causes

theorem KeepsCauses.trans {s t u : State} (h : KeepsCauses s t) (g : KeepsCauses t u) : KeepsCauses s u where
  waves k := by
    obtain ⟨q, hq⟩ := h.waves k
    obtain ⟨r, hr⟩ := g.waves k
    exact ⟨r, by rw [hr, hq]⟩
  parts := g.parts.trans h.parts
  dev := g.dev.trans h.dev
  sysmem := g.sysmem.trans h.sysmem
  agenda := g.agenda.trans h.agenda
  cur := g.cur.trans h.cur
  defer := g.defer.trans h.defer
  lag := g.lag.trans h.lag
  outbox := g.outbox.trans h.outbox

theorem KeepsCauses.foldl {f : State → β → State} (h : ∀ s x, KeepsCauses s (f s x)) (l : List β) (s : State) :
    KeepsCauses s (l.foldl f s) := by
  induction l generalizing s with
  | nil => exact .refl s
  | cons a t ih => exact (h s a).trans (ih _)

theorem State.updQueue_causes (s : State) (k : Nat) (f : Wave → List QEntry) :
    KeepsCauses s (s.updWaveK k fun w => { w with queue := f w }) := by
  refine ⟨fun j => ?_, rfl, rfl, rfl, rfl, rfl, rfl, rfl, rfl⟩
  by_cases h : j = k
  · subst h
    exact ⟨f (s.waveK j), by rw [State.waveK_updWaveK_self]⟩
  · exact ⟨(s.waveK j).queue, by simp [State.waveK, SMap.get_put_of_ne _ _ _ h]⟩

theorem State.tryCell_keeps (s : State) (g : Agent) (op : MemOp) (a : Acc) : KeepsAll s (s.tryCell g op a).2 := by
  unfold State.tryCell
  split
  · exact .refl s
  · split
    · rename_i v t h
      split
      · exact State.access1_keeps h
      · exact State.access1_keeps h
    · exact .refl s

theorem State.tryCells_keeps (s : State) (g : Agent) (op : MemOp) (l : List Acc) : KeepsAll s (s.tryCells g op l).2 := by
  induction l generalizing s with
  | nil => exact .refl s
  | cons a t ih => exact (s.tryCell_keeps g op a).trans (ih _)

theorem State.wakeCell_keeps (s : State) (g : Agent) (op : MemOp) (a : Acc) : KeepsAll s (s.wakeCell g op a).2 := by
  unfold State.wakeCell
  split
  · exact .refl s
  · split
    · rename_i v t h
      split
      · exact .refl s
      · dsimp only
        split
        · exact State.access1_keeps h
        · split
          · split
            · exact s.recall_keeps ..
            · exact .refl s
          · exact .refl s
    · exact .refl s

theorem State.wakeCells_keeps (s : State) (g : Agent) (op : MemOp) (l : List Acc) : KeepsAll s (s.wakeCells g op l).2 := by
  induction l generalizing s with
  | nil => exact .refl s
  | cons a t ih => exact (s.wakeCell_keeps g op a).trans (ih _)

/-- Waking the waiters of futures changes their queue entries, and what their loads move in the memory hierarchy. -/
theorem State.wakeFutures_causes (s : State) : KeepsCauses s s.wakeFutures := by
  unfold State.wakeFutures
  split
  · refine KeepsCauses.foldl (fun s p => KeepsCauses.foldl (fun s q => ?_) _ s) _ s
    split
    · split
      · exact (s.wakeCells_keeps ..).causes.trans (State.updQueue_causes ..)
      · exact .refl s
    · exact .refl s
  · exact .refl s

/-! ## Frames and trace records -/

theorem State.storeBytes_causes (s : State) (core slot n fuel va : Nat) (l : List Byte) {u : State}
    (h : s.storeBytes core slot n fuel va l = .ok u) : KeepsCauses s u := by
  induction fuel generalizing s va l with
  | zero => cases h; exact .refl _
  | succ k ih =>
    unfold State.storeBytes at h
    split at h
    · cases h; exact .refl _
    · simp only at h
      split at h
      · cases h
      · rename_i x t hx
        exact (((State.translate_keeps hx).trans (State.writeGlobal_keeps ..)).causes.trans (State.wakeFutures_causes _)).trans (ih _ _ _ h)

/-- A chain of two operations that can fail. -/
theorem except_bind_ok {x : Except ε α} {f : α → Except ε β} {b : β} (h : x.bind f = .ok b) : ∃ a, x = .ok a ∧ f a = .ok b := by
  cases x with
  | error e => cases h
  | ok a => exact ⟨a, rfl, h⟩

theorem State.siblingHeader_causes (s : State) (core slot : Nat) {u : State} (h : s.siblingHeader core slot = .ok u) : KeepsCauses s u := by
  unfold State.siblingHeader at h
  obtain ⟨a, ha, h⟩ := except_bind_ok h
  obtain ⟨b, hb, ha⟩ := except_bind_ok ha
  exact ((s.storeBytes_causes _ _ _ _ _ _ hb).trans (b.storeBytes_causes _ _ _ _ _ _ ha)).trans (a.storeBytes_causes _ _ _ _ _ _ h)

theorem State.writeVirt_keeps (s : State) (vi va : Nat) (l : List Byte) {u : State} (h : s.writeVirt vi va l = .ok u) : KeepsAll s u := by
  induction l generalizing va u with
  | nil => cases h; exact .refl s
  | cons b t ih =>
    simp only [State.writeVirt] at h
    split at h
    · cases h
    · split at h
      · cases h
      · rename_i v hv
        cases h
        refine KeepsAll.trans ?_ (State.homeByte_keeps ..)
        split
        · exact (ih _ hv).trans (State.recall_keeps ..)
        · exact ih _ hv

theorem State.homeVirt_keeps (s : State) (part vi va n : Nat) (write : Bool) : KeepsAll s (s.homeVirt part vi va n write) := by
  refine (KeepsAll.foldl (fun t _ => t.walkL2_keeps ..) _ s).trans (KeepsAll.foldl (fun t i => ?_) _ _)
  simp only
  split
  · refine (KeepsAll.trans ?_ (State.l2Touch_keeps ..)).trans (State.sendMeter_keeps ..)
    split
    · exact t.recall_keeps ..
    · exact .refl t
  · exact .refl t

/-- A list of operations that can fail. -/
theorem KeepsCauses.foldBind {f : β → State → Except Raise State} (hf : ∀ x s u, f x s = .ok u → KeepsCauses s u) (l : List β)
    {a : Except Raise State} {u : State} (h : l.foldl (fun a x => a.bind (f x)) a = .ok u) : ∃ s, a = .ok s ∧ KeepsCauses s u := by
  induction l generalizing a with
  | nil => exact ⟨u, h, .refl u⟩
  | cons x t ih =>
    obtain ⟨s, hs, hk⟩ := ih h
    obtain ⟨b, hb, hx⟩ := except_bind_ok hs
    exact ⟨b, hb, (hf _ _ _ hx).trans hk⟩

theorem State.ringWrite_causes (s : State) (vi : Nat) (recs : List (List Byte)) {u : State} (h : s.ringWrite vi recs = some u) :
    KeepsCauses s u := by
  unfold State.ringWrite at h
  simp only at h
  split at h
  · cases h
  · split at h
    · cases h
    · split at h
      · rename_i r hr
        cases h
        obtain ⟨a, ha, h⟩ := except_bind_ok hr
        obtain ⟨b, hb, hk⟩ := KeepsCauses.foldBind (fun x s u hx => (s.writeVirt_keeps _ _ _ hx).causes) _ ha
        cases hb
        refine (hk.trans ?_).trans (State.wakeFutures_causes _)
        exact (((((a.writeVirt_keeps _ _ _ h).trans (State.homeVirt_keeps ..)).trans (State.homeVirt_keeps ..)).trans
          (KeepsAll.foldl (fun t _ => t.homeVirt_keeps ..) _ _))).causes
      · cases h

theorem State.traceRec_causes (s : State) (core slot kind strand : Nat) (payload : Word) (pc : DWord) (aux : Nat) :
    KeepsCauses s (s.traceRec core slot kind strand payload pc aux) := by
  unfold State.traceRec
  simp only
  split
  · exact .refl s
  · split
    · rename_i u hu
      exact (s.ringWrite_causes _ _ hu).trans (State.updVi_keeps ..).causes
    · exact (s.updVi_keeps ..).causes

theorem State.writeFrames_causes {s u : State} {core slot : Nat} {ks : List Nat} (h : s.writeFrames core slot ks = .ok u) :
    KeepsCauses s u := by
  unfold State.writeFrames at h
  obtain ⟨a, ha, h⟩ := except_bind_ok h
  obtain ⟨b, hb, hk⟩ := KeepsCauses.foldBind (f := fun k s => if k = waveKey core slot then .ok s else s.siblingHeader (k / 64) (k % 64))
    (fun k s u hx => by
      split at hx
      · cases hx; exact .refl s
      · exact s.siblingHeader_causes _ _ hx) _ h
  cases hb
  exact (State.storeBytes_causes _ _ _ _ _ _ _ ha).trans hk

/-! ## Taking a trap -/

/-- The cause registers of a wave hold a fault (R18, R302 step 1). -/
structure Wave.Causes (w : Wave) (f : FaultRec) (skid : Nat) : Prop where
  latched : w.latched = none
  tcause : w.tcause = f.cause.code
  tval : w.tval = f.val
  tpc : w.tpc = f.tpc
  tskid : w.tskid = skid
  tlane : w.tlane = f.lanes
  tstrand : w.tstrand = f.strand

/-- The halt for a trap sets the cause registers, and what follows it up to the handler's start leaves them. -/
theorem State.causes_after {s u : State} {core slot : Nat} {f : FaultRec} {skid : Nat} (h : KeepsCauses (s.haltForTrap core slot f skid) u) :
    (u.wave core slot).Causes f skid := by
  obtain ⟨q, hq⟩ := h.waves (waveKey core slot)
  have e : u.wave core slot = { (s.haltForTrap core slot f skid).wave core slot with queue := q } := hq
  rw [e, State.haltForTrap, State.wave_updWave_self]
  exact ⟨rfl, rfl, rfl, rfl, rfl, rfl, rfl⟩

/-- Taking a trap with a handler, said once (R302, R306): after the halt the frames are written, and the handler starts with the cause
registers set; or a frame could not be written, and the context ends with the cause of that. -/
theorem State.takeTrap_starts {s : State} {core slot : Nat} {f : FaultRec} (h : (s.wave core slot).latched = some f)
    (hk : f.cause.kind ≠ .terminal) (hs : f.strand ≠ 8) (ht : (s.vi (s.wave core slot).vi).tba ≠ 0) :
    let skid := ((s.wave core slot).strand f.strand).issued - f.seq
    let t := s.haltForTrap core slot f skid
    match t.writeFrames core slot (s.block (s.wave core slot).blk).waves with
    | .ok u =>
      let r := u.traceRec core slot 2 f.strand (f.val.setWidth 32) f.tpc f.cause.code
      s.takeTrap core slot = r.startHandler core slot f ∧ (r.wave core slot).Causes f skid
    | .error r =>
      s.takeTrap core slot = (t.walkedFor core (s.wave core slot).vi r).endBlock core slot { f with cause := r.cause, val := r.val } skid := by
  intro skid t
  unfold State.takeTrap
  simp only [h, hk, hs, ht, decide_false, Bool.or_self, Bool.false_eq_true, if_false]
  split
  · rename_i u hu
    simp only [t, skid] at hu
    simp only [hu]
    exact ⟨trivial, State.causes_after ((State.writeFrames_causes hu).trans (State.traceRec_causes ..))⟩
  · rename_i r hu
    simp only [t, skid] at hu
    simp only [hu]
    rfl

end Sys2Proof.Machine
end

