-- ==== Sys2Proof/Laws/Memory.lean ====
section
/-! SUPPORT. What the home, a page walk and a host read see of memory while no core holds a line, no window is mapped
and no line counts. -/

namespace Sys2Proof.Machine

theorem Memory.read_lt (m : List Host.Cell) (a n : Nat) : Memory.read m a n < 256 ^ n := by
  induction n generalizing a with
  | zero => simp [Memory.read]
  | succ n ih =>
    have h := ih (a + 1)
    have hb := (Memory.byte m a).isLt
    rw [Memory.read, Nat.pow_succ']
    omega

/-- The bytes of a number that was read, one after another. -/
theorem Memory.read_split (m : List Host.Cell) (a i k : Nat) :
    Memory.read m a (i + k) = Memory.read m a i + 256 ^ i * Memory.read m (a + i) k := by
  induction i generalizing a with
  | zero => simp [Memory.read]
  | succ i ih =>
    have e : a + 1 + i = a + (i + 1) := by omega
    rw [Nat.add_right_comm, Memory.read, Memory.read, ih, e, Nat.pow_succ']
    ring

theorem Memory.read_mid (m : List Host.Cell) (a i n k : Nat) :
    Memory.read m a (i + (n + k)) / 256 ^ i % 256 ^ n = Memory.read m (a + i) n := by
  rw [Memory.read_split, Nat.add_mul_div_left _ _ (Nat.pow_pos (by omega)), Nat.div_eq_of_lt (Memory.read_lt ..), Nat.zero_add,
    Memory.read_split, Nat.add_mul_mod_self_left, Nat.mod_eq_of_lt (Memory.read_lt ..)]

set_option exponentiation.threshold 2000 in
/-- Bytes of a line as memory holds them. -/
theorem lineGet_line (m : List Host.Cell) (l off n : Nat) (h : off + n ≤ 128) :
    lineGet (Memory.line m l) off n = Memory.read m (l * 128 + off) n := by
  obtain ⟨k, hk⟩ := Nat.le.dest h
  have e : (2 : Nat) ^ 1024 = 256 ^ 128 := Nat.pow_mul 2 8 128
  have h8 (j : Nat) : (2 : Nat) ^ (8 * j) = 256 ^ j := by rw [Nat.pow_mul]
  rw [lineGet, Memory.line, BitVec.toNat_ofNat, e, Nat.mod_eq_of_lt (Memory.read_lt ..), h8, h8, ← hk, Nat.add_assoc]
  exact Memory.read_mid ..

/-- Nothing stands between memory and the home: no core holds a line, no stash window is mapped, no line counts, and none
has an uncorrectable error. -/
structure State.Bare (s : State) : Prop where
  l1 : ∀ p ∈ s.cores, p.2.l1 = []
  wins : ∀ p ∈ s.blocks, p.2.wins = []
  counted : s.counted = []
  bad : s.bad = []

theorem State.Bare.holders {s : State} (h : s.Bare) (l : Nat) : s.holders l = [] := by
  rw [State.holders, List.filterMap_eq_nil_iff]
  intro p hp
  simp [h.l1 p hp, SMap.find?, SMap.get]

theorem State.Bare.winCopies {s : State} (h : s.Bare) (l : Nat) : s.winCopies l = [] := by
  rw [State.winCopies, List.flatMap_eq_nil_iff]
  intro p hp
  rw [h.wins p hp]; rfl

theorem State.Bare.homeLine {s : State} (h : s.Bare) (l : Nat) : s.homeLine l = Memory.line s.mem l := by
  simp [State.homeLine, h.counted, SMap.find?, SMap.get]

theorem State.Bare.homeRead {s : State} (h : s.Bare) (a n : Nat) (hn : a % 128 + n ≤ 128) : s.homeRead a n = Memory.read s.mem a n := by
  have e : a / 128 * 128 + a % 128 = a := Nat.div_add_mod' a 128
  simp only [State.homeRead, State.homeView, h.winCopies, List.find?_nil, h.holders, List.filter_nil, List.foldl_nil, h.homeLine]
  rw [lineGet_line _ _ _ _ hn, e]

/-- A physical read of the host. -/
theorem State.Bare.physRead {s : State} (h : s.Bare) (a n : Nat) : s.physRead a n = (List.range n).map fun i => Memory.byte s.mem (a + i) := by
  rw [State.physRead]
  refine List.map_congr_left fun i _ => ?_
  rw [h.homeRead _ _ (by omega)]
  simp [Memory.read]

/-- A page walk that reads memory alone. -/
theorem walkGo_congr {rd rd' : Nat → Nat} (va : Nat) (h : ∀ a, a % 8 = 0 → rd a = rd' a) :
    ∀ (ls : List (Nat × Nat × Bool × Nat)) (tbl : Nat), (∀ x ∈ ls, x.2.2.2 % 8 = 0) → tbl % 8 = 0 → walkGo rd va ls tbl = walkGo rd' va ls tbl
  | [], _, _, _ => rfl
  | (sh, bits, leafOk, al) :: rest, tbl, hl, ht => by
    have hr : rd (tbl + 8 * (va / 2 ^ sh % 2 ^ bits)) = rd' (tbl + 8 * (va / 2 ^ sh % 2 ^ bits)) := h _ (by omega)
    have ih := walkGo_congr va h rest (entryAddr (rd' (tbl + 8 * (va / 2 ^ sh % 2 ^ bits))))
      (fun x hx => hl x (List.mem_cons_of_mem _ hx)) (by simp only [entryAddr]; omega)
    rw [walkGo, walkGo, hr, ih]

/-- A target has an address of the same place in its line. -/
theorem Device.target_mod {d : Device} {a pa : Nat} {t : Target} (h : d.target a = some (t, pa)) : pa % 8 = a % 8 := by
  simp only [Device.target] at h
  repeat' split at h
  all_goals first | (cases h; omega) | cases h

/-- The entry of a table as memory alone has it. -/
def State.bareEntry (s : State) (vi a : Nat) : Nat := (s.tableAt vi a).elim 0 fun pa => Memory.read s.mem pa 8

theorem State.Bare.tableEntry {s : State} (h : s.Bare) (vi a : Nat) (ha : a % 8 = 0) : s.tableEntry vi a = s.bareEntry vi a := by
  simp only [State.tableEntry, State.bareEntry]
  cases e : s.tableAt vi a with
  | none => rfl
  | some pa =>
    obtain ⟨⟨t, p⟩, ht, hp⟩ := Option.bind_eq_some_iff.1 e
    have hm := Device.target_mod ht
    split at hp
    · cases hp
    · cases hp
      exact h.homeRead _ _ (by omega)

/-- The walk of a VI over memory alone. -/
def State.bareWalk (s : State) (vi va : Nat) : Option (Nat × Nat) :=
  if canonical va then
    (walkGo (s.bareEntry vi) (va % 2 ^ 57) walkLevels (s.vi vi).root.toNat).filter fun p => (s.dev.target (entryAddr p.1)).isSome
  else none

theorem State.Bare.walk {s : State} (h : s.Bare) (vi va : Nat) (hr : (s.vi vi).root.toNat % 8 = 0) : s.walk vi va = s.bareWalk vi va := by
  rw [State.walk, State.bareWalk, walkGo_congr _ (fun a ha => h.tableEntry vi a ha) _ _ (by decide) hr]

/-- Bytes read through the pages of a VI from memory alone, of pages that are not of region C. -/
def State.bareRead (s : State) (vi : Nat) : Nat → Nat → Option (List Byte)
  | _, 0 => some []
  | va, n + 1 =>
    match s.bareWalk vi va with
    | none => none
    | some (pte, size) =>
      match s.xlatOf va pte size with
      | none => none
      | some x =>
        if (s.accessFault vi x (Need.rd.ok pte) true).isSome || x.region = 2 then none
        else (s.bareRead vi (va + 1) n).map fun t => Memory.byte s.mem x.pa :: t

/-- A read that memory alone answers is what the host or the dispatcher reads. -/
theorem State.Bare.readVirt {s : State} (h : s.Bare) (vi : Nat) (hr : (s.vi vi).root.toNat % 8 = 0) :
    ∀ (n va : Nat) (l : List Byte), s.bareRead vi va n = some l → s.readVirt vi va n = .ok l := by
  intro n
  induction n with
  | zero => intro va l e; simp only [State.bareRead, Option.some.injEq] at e; rw [← e]; rfl
  | succ n ih =>
    intro va l e
    rw [State.bareRead] at e
    split at e
    · cases e
    · rename_i pte size hw
      split at e
      · cases e
      · rename_i x hx
        split at e
        · cases e
        · rename_i hc
          simp only [Bool.or_eq_true, decide_eq_true_eq, not_or, Option.isSome_iff_ne_none, ne_eq, Decidable.not_not] at hc
          obtain ⟨t, ht, rfl⟩ := Option.map_eq_some_iff.1 e
          have hb : BitVec.ofNat 8 (lineGet (s.homeData x) (x.pa % 128) 1) = Memory.byte s.mem x.pa := by
            have ep : x.pa / 128 * 128 + x.pa % 128 = x.pa := Nat.div_add_mod' ..
            rw [State.homeData, if_neg hc.2, h.homeLine, lineGet_line _ _ _ _ (by omega), Xlat.line, ep]
            simp [Memory.read]
          rw [State.readVirt, State.translateHome, h.walk _ _ hr, hw]
          simp [hx, hc.1, State.badHome, h.bad, h.holders, ih _ _ ht, hb]

end Sys2Proof.Machine
end

