-- ==== Sys2Proof/Laws/PerInstr.lean ====
section
/-! SUPPORT. Decoding an encoding gives the instruction back, instruction by instruction (R53 to R77). -/

namespace Sys2Proof

/-- What `parse` reads from the word of a well-formed instruction is its decoding. -/
theorem decode_of_parse {i : Instr} (hw : i.wf = true) (hp : parse (encode i) = some i) : decode (encode i) = i := by
  simp [decode, hp, hw]

set_option Elab.async false
set_option linter.unusedSimpArgs false

namespace Laws.RoundTrip

/-- Decoding the word of a well-formed instruction gives the instruction. -/
def Statement (i : Instr) : Prop := i.wf = true → i.isWord = true → decode (encode i) = i

theorem vadd (m : Bool) (ty : FTy) (d a : VReg) (b : Code) : Statement (.vadd m ty d a b) :=
  fun hw _ => decode_of_parse hw ((parse_layV_0 _ _ _ _ _ _).trans rfl)

theorem vsub (m : Bool) (ty : FTy) (d a : VReg) (b : Code) : Statement (.vsub m ty d a b) :=
  fun hw _ => decode_of_parse hw ((parse_layV_0 _ _ _ _ _ _).trans rfl)

theorem vmul (m : Bool) (ty : FTy) (d a : VReg) (b : Code) : Statement (.vmul m ty d a b) :=
  fun hw _ => decode_of_parse hw ((parse_layV_0 _ _ _ _ _ _).trans rfl)

theorem vfma (m : Bool) (ty : FTy) (d a : VReg) (b : Code) : Statement (.vfma m ty d a b) :=
  fun hw _ => decode_of_parse hw ((parse_layV_0 _ _ _ _ _ _).trans rfl)

theorem vfnma (m : Bool) (ty : FTy) (d a : VReg) (b : Code) : Statement (.vfnma m ty d a b) :=
  fun hw _ => decode_of_parse hw ((parse_layV_0 _ _ _ _ _ _).trans rfl)

theorem vmin (m : Bool) (ty : FTy) (d a : VReg) (b : Code) : Statement (.vmin m ty d a b) :=
  fun hw _ => decode_of_parse hw ((parse_layV_0 _ _ _ _ _ _).trans rfl)

theorem vmax (m : Bool) (ty : FTy) (d a : VReg) (b : Code) : Statement (.vmax m ty d a b) :=
  fun hw _ => decode_of_parse hw ((parse_layV_0 _ _ _ _ _ _).trans rfl)

theorem vcpsgn (m : Bool) (ty : FTy) (d a : VReg) (b : Code) : Statement (.vcpsgn m ty d a b) :=
  fun hw _ => decode_of_parse hw ((parse_layV_0 _ _ _ _ _ _).trans rfl)

theorem vscale (m : Bool) (ty : FTy) (d a : VReg) (b : Code) : Statement (.vscale m ty d a b) :=
  fun hw _ => decode_of_parse hw ((parse_layV_0 _ _ _ _ _ _).trans rfl)

theorem vabsd (m : Bool) (ty : FTy) (d a : VReg) (b : Code) : Statement (.vabsd m ty d a b) :=
  fun hw _ => decode_of_parse hw ((parse_layV_0 _ _ _ _ _ _).trans rfl)

theorem viadd (m : Bool) (ty : ITy) (d a : VReg) (b : Code) : Statement (.viadd m ty d a b) :=
  fun hw _ => decode_of_parse hw ((parse_layV_1 _ _ _ _ _ _).trans rfl)

theorem visub (m : Bool) (ty : ITy) (d a : VReg) (b : Code) : Statement (.visub m ty d a b) :=
  fun hw _ => decode_of_parse hw ((parse_layV_1 _ _ _ _ _ _).trans rfl)

theorem vimul (m : Bool) (ty : ITy) (d a : VReg) (b : Code) : Statement (.vimul m ty d a b) :=
  fun hw _ => decode_of_parse hw ((parse_layV_1 _ _ _ _ _ _).trans rfl)

theorem vimad (m : Bool) (ty : ITy) (d a : VReg) (b : Code) : Statement (.vimad m ty d a b) :=
  fun hw _ => decode_of_parse hw ((parse_layV_1 _ _ _ _ _ _).trans rfl)

theorem vimulhs (m : Bool) (ty : ITy) (d a : VReg) (b : Code) : Statement (.vimulhs m ty d a b) :=
  fun hw _ => decode_of_parse hw ((parse_layV_1 _ _ _ _ _ _).trans rfl)

theorem vimulhn (m : Bool) (ty : ITy) (d a : VReg) (b : Code) : Statement (.vimulhn m ty d a b) :=
  fun hw _ => decode_of_parse hw ((parse_layV_1 _ _ _ _ _ _).trans rfl)

theorem vimins (m : Bool) (ty : ITy) (d a : VReg) (b : Code) : Statement (.vimins m ty d a b) :=
  fun hw _ => decode_of_parse hw ((parse_layV_1 _ _ _ _ _ _).trans rfl)

theorem viminn (m : Bool) (ty : ITy) (d a : VReg) (b : Code) : Statement (.viminn m ty d a b) :=
  fun hw _ => decode_of_parse hw ((parse_layV_1 _ _ _ _ _ _).trans rfl)

theorem vimaxs (m : Bool) (ty : ITy) (d a : VReg) (b : Code) : Statement (.vimaxs m ty d a b) :=
  fun hw _ => decode_of_parse hw ((parse_layV_1 _ _ _ _ _ _).trans rfl)

theorem vimaxn (m : Bool) (ty : ITy) (d a : VReg) (b : Code) : Statement (.vimaxn m ty d a b) :=
  fun hw _ => decode_of_parse hw ((parse_layV_1 _ _ _ _ _ _).trans rfl)

theorem viaddss (m : Bool) (ty : ITy) (d a : VReg) (b : Code) : Statement (.viaddss m ty d a b) :=
  fun hw _ => decode_of_parse hw ((parse_layV_1 _ _ _ _ _ _).trans rfl)

theorem viaddsn (m : Bool) (ty : ITy) (d a : VReg) (b : Code) : Statement (.viaddsn m ty d a b) :=
  fun hw _ => decode_of_parse hw ((parse_layV_1 _ _ _ _ _ _).trans rfl)

theorem vshl (m : Bool) (ty : ITy) (d a : VReg) (b : Code) : Statement (.vshl m ty d a b) :=
  fun hw _ => decode_of_parse hw ((parse_layV_1 _ _ _ _ _ _).trans rfl)

theorem vshr (m : Bool) (ty : ITy) (d a : VReg) (b : Code) : Statement (.vshr m ty d a b) :=
  fun hw _ => decode_of_parse hw ((parse_layV_1 _ _ _ _ _ _).trans rfl)

theorem vsra (m : Bool) (ty : ITy) (d a : VReg) (b : Code) : Statement (.vsra m ty d a b) :=
  fun hw _ => decode_of_parse hw ((parse_layV_1 _ _ _ _ _ _).trans rfl)

theorem visubss (m : Bool) (ty : ITy) (d a : VReg) (b : Code) : Statement (.visubss m ty d a b) :=
  fun hw _ => decode_of_parse hw ((parse_layV_1 _ _ _ _ _ _).trans rfl)

theorem vand (m : Bool) (d a : VReg) (b : Code) : Statement (.vand m d a b) :=
  fun hw _ => decode_of_parse hw ((parse_layM_2 _ _ _ _ _).trans rfl)

theorem vor (m : Bool) (d a : VReg) (b : Code) : Statement (.vor m d a b) :=
  fun hw _ => decode_of_parse hw ((parse_layM_2 _ _ _ _ _).trans rfl)

theorem vxor (m : Bool) (d a : VReg) (b : Code) : Statement (.vxor m d a b) :=
  fun hw _ => decode_of_parse hw ((parse_layM_2 _ _ _ _ _).trans rfl)

theorem vandn (m : Bool) (d a : VReg) (b : Code) : Statement (.vandn m d a b) :=
  fun hw _ => decode_of_parse hw ((parse_layM_2 _ _ _ _ _).trans rfl)

theorem vbfes (m : Bool) (d a : VReg) (b : Code) : Statement (.vbfes m d a b) :=
  fun hw _ => decode_of_parse hw ((parse_layM_2 _ _ _ _ _).trans rfl)

theorem vbfen (m : Bool) (d a : VReg) (b : Code) : Statement (.vbfen m d a b) :=
  fun hw _ => decode_of_parse hw ((parse_layM_2 _ _ _ _ _).trans rfl)

theorem vbfi (m : Bool) (d a : VReg) (b : Code) : Statement (.vbfi m d a b) :=
  fun hw _ => decode_of_parse hw ((parse_layM_2 _ _ _ _ _).trans rfl)

theorem vpopc (m : Bool) (d : VReg) (b : Code) : Statement (.vpopc m d b) :=
  fun hw _ => decode_of_parse hw ((parse_layM_2 _ _ _ _ _).trans rfl)

theorem vclz (m : Bool) (d : VReg) (b : Code) : Statement (.vclz m d b) :=
  fun hw _ => decode_of_parse hw ((parse_layM_2 _ _ _ _ _).trans rfl)

theorem vpermb (m : Bool) (d a : VReg) (b : Code) : Statement (.vpermb m d a b) :=
  fun hw _ => decode_of_parse hw ((parse_layM_2 _ _ _ _ _).trans rfl)

theorem vmov (m : Bool) (d : VReg) (b : Code) : Statement (.vmov m d b) :=
  fun hw _ => decode_of_parse hw ((parse_layM_2 _ _ _ _ _).trans rfl)

theorem vsel (m : Bool) (d a : VReg) (b : Code) : Statement (.vsel m d a b) :=
  fun hw _ => decode_of_parse hw ((parse_layM_2 _ _ _ _ _).trans rfl)

theorem vcvt (m : Bool) (d a : VReg) (pair : CvtPair) (rnd sel : BitVec 2) : Statement (.vcvt m d a pair rnd sel) :=
  fun hw _ => decode_of_parse hw (((parse_layM_2 _ _ _ _ _).trans
    ((show ∀ d a b, parse2 m 12 d a b = (CvtPair.ofCode (b.extractLsb' 4 4)).map fun p => .vcvt m d a p (b.extractLsb' 2 2) (b.extractLsb' 0 2) from fun _ _ _ => rfl) _ _ _)).trans (by simp only [pad5in7_1, pad6in7_1, c_vcvt_0, c_vcvt_1, c_vcvt_2, c_vqnt_0, c_vqnt_1, c_vqnt_2, c_vdq_0, c_vdq_2, c_vbs_0, c_vrdi_1, NFmt.ofCode_code, CvtPair.ofCode_code, RedOp.ofCode_code, FCond.ofCode_code, Cond.ofCode_code, bit_getLsbD]; rfl))

theorem vqnt (m : Bool) (d a : VReg) (fmt : NFmt) (sat : Bool) (slot : BitVec 3) : Statement (.vqnt m d a fmt sat slot) :=
  fun hw _ => decode_of_parse hw (((parse_layM_2 _ _ _ _ _).trans
    ((show ∀ d a b, parse2 m 13 d a b = (NFmt.ofCode (b.extractLsb' 4 4)).map fun f => .vqnt m d a f (b.getLsbD 3) (b.extractLsb' 0 3) from fun _ _ _ => rfl) _ _ _)).trans (by simp only [pad5in7_1, pad6in7_1, c_vcvt_0, c_vcvt_1, c_vcvt_2, c_vqnt_0, c_vqnt_1, c_vqnt_2, c_vdq_0, c_vdq_2, c_vbs_0, c_vrdi_1, NFmt.ofCode_code, CvtPair.ofCode_code, RedOp.ofCode_code, FCond.ofCode_code, Cond.ofCode_code, bit_getLsbD]; rfl))

theorem vdq (m : Bool) (d a : VReg) (fmt : NFmt) (slot : BitVec 3) : Statement (.vdq m d a fmt slot) :=
  fun hw _ => decode_of_parse hw (((parse_layM_2 _ _ _ _ _).trans
    ((show ∀ d a b, parse2 m 14 d a b = (NFmt.ofCode (b.extractLsb' 4 4)).map fun f => .vdq m d a f (b.extractLsb' 0 3) from fun _ _ _ => rfl) _ _ _)).trans (by simp only [pad5in7_1, pad6in7_1, c_vcvt_0, c_vcvt_1, c_vcvt_2, c_vqnt_0, c_vqnt_1, c_vqnt_2, c_vdq_0, c_vdq_2, c_vbs_0, c_vrdi_1, NFmt.ofCode_code, CvtPair.ofCode_code, RedOp.ofCode_code, FCond.ofCode_code, Cond.ofCode_code, bit_getLsbD]; rfl))

theorem vbscale (m : Bool) (d a : VReg) (fmt : NFmt) : Statement (.vbscale m d a fmt) :=
  fun hw _ => decode_of_parse hw (((parse_layM_2 _ _ _ _ _).trans
    ((show ∀ d a b, parse2 m 15 d a b = (NFmt.ofCode (b.extractLsb' 4 4)).map fun f => .vbscale m d a f from fun _ _ _ => rfl) _ _ _)).trans (by simp only [pad5in7_1, pad6in7_1, c_vcvt_0, c_vcvt_1, c_vcvt_2, c_vqnt_0, c_vqnt_1, c_vqnt_2, c_vdq_0, c_vdq_2, c_vbs_0, c_vrdi_1, NFmt.ofCode_code, CvtPair.ofCode_code, RedOp.ofCode_code, FCond.ofCode_code, Cond.ofCode_code, bit_getLsbD]; rfl))

theorem vrcp (m : Bool) (d : VReg) (b : Code) : Statement (.vrcp m d b) :=
  fun hw _ => decode_of_parse hw ((parse_layM_2 _ _ _ _ _).trans rfl)

theorem vrsq (m : Bool) (d : VReg) (b : Code) : Statement (.vrsq m d b) :=
  fun hw _ => decode_of_parse hw ((parse_layM_2 _ _ _ _ _).trans rfl)

theorem vsqrt (m : Bool) (d : VReg) (b : Code) : Statement (.vsqrt m d b) :=
  fun hw _ => decode_of_parse hw ((parse_layM_2 _ _ _ _ _).trans rfl)

theorem vex2 (m : Bool) (d : VReg) (b : Code) : Statement (.vex2 m d b) :=
  fun hw _ => decode_of_parse hw ((parse_layM_2 _ _ _ _ _).trans rfl)

theorem vlg2 (m : Bool) (d : VReg) (b : Code) : Statement (.vlg2 m d b) :=
  fun hw _ => decode_of_parse hw ((parse_layM_2 _ _ _ _ _).trans rfl)

theorem vsin (m : Bool) (d : VReg) (b : Code) : Statement (.vsin m d b) :=
  fun hw _ => decode_of_parse hw ((parse_layM_2 _ _ _ _ _).trans rfl)

theorem vcos (m : Bool) (d : VReg) (b : Code) : Statement (.vcos m d b) :=
  fun hw _ => decode_of_parse hw ((parse_layM_2 _ _ _ _ _).trans rfl)

theorem vtanh (m : Bool) (d : VReg) (b : Code) : Statement (.vtanh m d b) :=
  fun hw _ => decode_of_parse hw ((parse_layM_2 _ _ _ _ _).trans rfl)

theorem vlane (m : Bool) (d : VReg) : Statement (.vlane m d) :=
  fun hw _ => decode_of_parse hw ((parse_layM_2 _ _ _ _ _).trans rfl)

theorem vshfl (m : Bool) (d a : VReg) (b : Code) : Statement (.vshfl m d a b) :=
  fun hw _ => decode_of_parse hw ((parse_layM_2 _ _ _ _ _).trans rfl)

theorem vbcast (m : Bool) (d a : VReg) (b : Code) : Statement (.vbcast m d a b) :=
  fun hw _ => decode_of_parse hw ((parse_layM_2 _ _ _ _ _).trans rfl)

theorem vscan (m : Bool) (d : VReg) (op : RedOp) (b : Code) : Statement (.vscan m d op b) :=
  fun hw _ => decode_of_parse hw (((parse_layM_2 _ _ _ _ _).trans
    ((show ∀ d a b, parse2 m 27 d a b = (RedOp.ofCode a).map fun op => .vscan m d op b from fun _ _ _ => rfl) _ _ _)).trans (by simp only [pad5in7_1, pad6in7_1, c_vcvt_0, c_vcvt_1, c_vcvt_2, c_vqnt_0, c_vqnt_1, c_vqnt_2, c_vdq_0, c_vdq_2, c_vbs_0, c_vrdi_1, NFmt.ofCode_code, CvtPair.ofCode_code, RedOp.ofCode_code, FCond.ofCode_code, Cond.ofCode_code, bit_getLsbD]; rfl))

theorem vreds (m : Bool) (d : SReg) (op : RedOp) (b : Code) : Statement (.vreds m d op b) :=
  fun hw _ => decode_of_parse hw (((parse_layM_2 _ _ _ _ _).trans
    ((show ∀ d a b, parse2 m 28 d a b = (RedOp.ofCode a).map fun op => .vreds m (d.extractLsb' 0 6) op b from fun _ _ _ => rfl) _ _ _)).trans (by simp only [pad5in7_1, pad6in7_1, c_vcvt_0, c_vcvt_1, c_vcvt_2, c_vqnt_0, c_vqnt_1, c_vqnt_2, c_vdq_0, c_vdq_2, c_vbs_0, c_vrdi_1, NFmt.ofCode_code, CvtPair.ofCode_code, RedOp.ofCode_code, FCond.ofCode_code, Cond.ofCode_code, bit_getLsbD]; rfl))

theorem vrdl (m : Bool) (d : SReg) (a : VReg) (b : Code) : Statement (.vrdl m d a b) :=
  fun hw _ => decode_of_parse hw (((parse_layM_2 _ _ _ _ _).trans
    ((show ∀ d a b, parse2 m 29 d a b = some (.vrdl m (d.extractLsb' 0 6) a b) from fun _ _ _ => rfl) _ _ _)).trans (by simp only [pad5in7_1, pad6in7_1, c_vcvt_0, c_vcvt_1, c_vcvt_2, c_vqnt_0, c_vqnt_1, c_vqnt_2, c_vdq_0, c_vdq_2, c_vbs_0, c_vrdi_1, NFmt.ofCode_code, CvtPair.ofCode_code, RedOp.ofCode_code, FCond.ofCode_code, Cond.ofCode_code, bit_getLsbD]))

theorem vwrl (m : Bool) (d : VReg) (lane : BitVec 7) (b : Code) : Statement (.vwrl m d lane b) :=
  fun hw _ => decode_of_parse hw ((parse_layM_2 _ _ _ _ _).trans rfl)

theorem vrdi (m : Bool) (d : VReg) (n : SReg) : Statement (.vrdi m d n) :=
  fun hw _ => decode_of_parse hw (((parse_layM_2 _ _ _ _ _).trans
    ((show ∀ d a b, parse2 m 31 d a b = some (.vrdi m d (b.extractLsb' 0 6)) from fun _ _ _ => rfl) _ _ _)).trans (by simp only [pad5in7_1, pad6in7_1, c_vcvt_0, c_vcvt_1, c_vcvt_2, c_vqnt_0, c_vqnt_1, c_vqnt_2, c_vdq_0, c_vdq_2, c_vbs_0, c_vrdi_1, NFmt.ofCode_code, CvtPair.ofCode_code, RedOp.ofCode_code, FCond.ofCode_code, Cond.ofCode_code, bit_getLsbD]))

theorem vwri (m : Bool) (n : SReg) (a : VReg) : Statement (.vwri m n a) :=
  fun hw _ => decode_of_parse hw (((parse_layM_2 _ _ _ _ _).trans
    ((show ∀ d a b, parse2 m 32 d a b = some (.vwri m (b.extractLsb' 0 6) a) from fun _ _ _ => rfl) _ _ _)).trans (by simp only [pad5in7_1, pad6in7_1, c_vcvt_0, c_vcvt_1, c_vcvt_2, c_vqnt_0, c_vqnt_1, c_vqnt_2, c_vdq_0, c_vdq_2, c_vbs_0, c_vrdi_1, NFmt.ofCode_code, CvtPair.ofCode_code, RedOp.ofCode_code, FCond.ofCode_code, Cond.ofCode_code, bit_getLsbD]))

theorem vcmpEqF64 (m : Bool) (k : KReg) (a : VReg) (b : Code) : Statement (.vcmpEqF64 m k a b) :=
  fun hw _ => decode_of_parse hw (((parse_layM_2 _ _ _ _ _).trans
    ((show ∀ d a b, parse2 m 33 d a b = some (.vcmpEqF64 m (d.extractLsb' 0 5) a b) from fun _ _ _ => rfl) _ _ _)).trans (by simp only [pad5in7_1, pad6in7_1, c_vcvt_0, c_vcvt_1, c_vcvt_2, c_vqnt_0, c_vqnt_1, c_vqnt_2, c_vdq_0, c_vdq_2, c_vbs_0, c_vrdi_1, NFmt.ofCode_code, CvtPair.ofCode_code, RedOp.ofCode_code, FCond.ofCode_code, Cond.ofCode_code, bit_getLsbD]))

theorem vcmpNeF64 (m : Bool) (k : KReg) (a : VReg) (b : Code) : Statement (.vcmpNeF64 m k a b) :=
  fun hw _ => decode_of_parse hw (((parse_layM_2 _ _ _ _ _).trans
    ((show ∀ d a b, parse2 m 34 d a b = some (.vcmpNeF64 m (d.extractLsb' 0 5) a b) from fun _ _ _ => rfl) _ _ _)).trans (by simp only [pad5in7_1, pad6in7_1, c_vcvt_0, c_vcvt_1, c_vcvt_2, c_vqnt_0, c_vqnt_1, c_vqnt_2, c_vdq_0, c_vdq_2, c_vbs_0, c_vrdi_1, NFmt.ofCode_code, CvtPair.ofCode_code, RedOp.ofCode_code, FCond.ofCode_code, Cond.ofCode_code, bit_getLsbD]))

theorem vcmpLtF64 (m : Bool) (k : KReg) (a : VReg) (b : Code) : Statement (.vcmpLtF64 m k a b) :=
  fun hw _ => decode_of_parse hw (((parse_layM_2 _ _ _ _ _).trans
    ((show ∀ d a b, parse2 m 35 d a b = some (.vcmpLtF64 m (d.extractLsb' 0 5) a b) from fun _ _ _ => rfl) _ _ _)).trans (by simp only [pad5in7_1, pad6in7_1, c_vcvt_0, c_vcvt_1, c_vcvt_2, c_vqnt_0, c_vqnt_1, c_vqnt_2, c_vdq_0, c_vdq_2, c_vbs_0, c_vrdi_1, NFmt.ofCode_code, CvtPair.ofCode_code, RedOp.ofCode_code, FCond.ofCode_code, Cond.ofCode_code, bit_getLsbD]))

theorem vcmpLeF64 (m : Bool) (k : KReg) (a : VReg) (b : Code) : Statement (.vcmpLeF64 m k a b) :=
  fun hw _ => decode_of_parse hw (((parse_layM_2 _ _ _ _ _).trans
    ((show ∀ d a b, parse2 m 36 d a b = some (.vcmpLeF64 m (d.extractLsb' 0 5) a b) from fun _ _ _ => rfl) _ _ _)).trans (by simp only [pad5in7_1, pad6in7_1, c_vcvt_0, c_vcvt_1, c_vcvt_2, c_vqnt_0, c_vqnt_1, c_vqnt_2, c_vdq_0, c_vdq_2, c_vbs_0, c_vrdi_1, NFmt.ofCode_code, CvtPair.ofCode_code, RedOp.ofCode_code, FCond.ofCode_code, Cond.ofCode_code, bit_getLsbD]))

theorem vcmpGtF64 (m : Bool) (k : KReg) (a : VReg) (b : Code) : Statement (.vcmpGtF64 m k a b) :=
  fun hw _ => decode_of_parse hw (((parse_layM_2 _ _ _ _ _).trans
    ((show ∀ d a b, parse2 m 37 d a b = some (.vcmpGtF64 m (d.extractLsb' 0 5) a b) from fun _ _ _ => rfl) _ _ _)).trans (by simp only [pad5in7_1, pad6in7_1, c_vcvt_0, c_vcvt_1, c_vcvt_2, c_vqnt_0, c_vqnt_1, c_vqnt_2, c_vdq_0, c_vdq_2, c_vbs_0, c_vrdi_1, NFmt.ofCode_code, CvtPair.ofCode_code, RedOp.ofCode_code, FCond.ofCode_code, Cond.ofCode_code, bit_getLsbD]))

theorem vcmpGeF64 (m : Bool) (k : KReg) (a : VReg) (b : Code) : Statement (.vcmpGeF64 m k a b) :=
  fun hw _ => decode_of_parse hw (((parse_layM_2 _ _ _ _ _).trans
    ((show ∀ d a b, parse2 m 38 d a b = some (.vcmpGeF64 m (d.extractLsb' 0 5) a b) from fun _ _ _ => rfl) _ _ _)).trans (by simp only [pad5in7_1, pad6in7_1, c_vcvt_0, c_vcvt_1, c_vcvt_2, c_vqnt_0, c_vqnt_1, c_vqnt_2, c_vdq_0, c_vdq_2, c_vbs_0, c_vrdi_1, NFmt.ofCode_code, CvtPair.ofCode_code, RedOp.ofCode_code, FCond.ofCode_code, Cond.ofCode_code, bit_getLsbD]))

theorem vclassF32 (m : Bool) (k : KReg) (a : VReg) (b : Code) : Statement (.vclassF32 m k a b) :=
  fun hw _ => decode_of_parse hw (((parse_layM_2 _ _ _ _ _).trans
    ((show ∀ d a b, parse2 m 39 d a b = some (.vclassF32 m (d.extractLsb' 0 5) a b) from fun _ _ _ => rfl) _ _ _)).trans (by simp only [pad5in7_1, pad6in7_1, c_vcvt_0, c_vcvt_1, c_vcvt_2, c_vqnt_0, c_vqnt_1, c_vqnt_2, c_vdq_0, c_vdq_2, c_vbs_0, c_vrdi_1, NFmt.ofCode_code, CvtPair.ofCode_code, RedOp.ofCode_code, FCond.ofCode_code, Cond.ofCode_code, bit_getLsbD]))

theorem vcmpF32 (m : Bool) (c : FCond) (k : KReg) (a : VReg) (b : Code) : Statement (.vcmpF32 m c k a b) :=
  fun hw _ => decode_of_parse hw (by cases c <;> (simp only [encode, parse_layM_2, parse2, pad5in7_1, pad6in7_1, c_vcvt_0, c_vcvt_1, c_vcvt_2, c_vqnt_0, c_vqnt_1, c_vqnt_2, c_vdq_0, c_vdq_2, c_vbs_0, c_vrdi_1, NFmt.ofCode_code, CvtPair.ofCode_code, RedOp.ofCode_code, FCond.ofCode_code, Cond.ofCode_code]; rfl))

theorem vcmpS32 (m : Bool) (c : Cond) (k : KReg) (a : VReg) (b : Code) : Statement (.vcmpS32 m c k a b) :=
  fun hw _ => decode_of_parse hw (by cases c <;> (simp only [encode, parse_layM_2, parse2, pad5in7_1, pad6in7_1, c_vcvt_0, c_vcvt_1, c_vcvt_2, c_vqnt_0, c_vqnt_1, c_vqnt_2, c_vdq_0, c_vdq_2, c_vbs_0, c_vrdi_1, NFmt.ofCode_code, CvtPair.ofCode_code, RedOp.ofCode_code, FCond.ofCode_code, Cond.ofCode_code]; rfl))

theorem vcmpN32 (m : Bool) (c : Cond) (k : KReg) (a : VReg) (b : Code) : Statement (.vcmpN32 m c k a b) :=
  fun hw _ => decode_of_parse hw (by cases c <;> (simp only [encode, parse_layM_2, parse2, pad5in7_1, pad6in7_1, c_vcvt_0, c_vcvt_1, c_vcvt_2, c_vqnt_0, c_vqnt_1, c_vqnt_2, c_vdq_0, c_vdq_2, c_vbs_0, c_vrdi_1, NFmt.ofCode_code, CvtPair.ofCode_code, RedOp.ofCode_code, FCond.ofCode_code, Cond.ofCode_code]; rfl))

theorem vldB32 (m : Bool) (t a : VReg) (b : BitVec 5) (q : LdQ) : Statement (.vldB32 m t a b q) :=
  fun hw _ => decode_of_parse hw (((parse_layVM _ _ _ _ _ _).trans
    ((show ∀ t a b q, parse3 m 0 t a b q = (LdQ.ofCode q).map fun q => .vldB32 m t a b q from fun _ _ _ _ => rfl) _ _ _ _)).trans (by simp only [c_acq_1, c_rel_0, c_pref_1, LdQ.ofCode_code, StQ.ofCode_code, AtQ.ofCode_code, RdQ.ofCode_code, AtomOp.ofCode_code, bit_getLsbD]; rfl))

theorem vldB64 (m : Bool) (t a : VReg) (b : BitVec 5) (q : LdQ) : Statement (.vldB64 m t a b q) :=
  fun hw _ => decode_of_parse hw (((parse_layVM _ _ _ _ _ _).trans
    ((show ∀ t a b q, parse3 m 1 t a b q = (LdQ.ofCode q).map fun q => .vldB64 m t a b q from fun _ _ _ _ => rfl) _ _ _ _)).trans (by simp only [c_acq_1, c_rel_0, c_pref_1, LdQ.ofCode_code, StQ.ofCode_code, AtQ.ofCode_code, RdQ.ofCode_code, AtomOp.ofCode_code, bit_getLsbD]; rfl))

theorem vldB128 (m : Bool) (t a : VReg) (b : BitVec 5) (q : LdQ) : Statement (.vldB128 m t a b q) :=
  fun hw _ => decode_of_parse hw (((parse_layVM _ _ _ _ _ _).trans
    ((show ∀ t a b q, parse3 m 2 t a b q = (LdQ.ofCode q).map fun q => .vldB128 m t a b q from fun _ _ _ _ => rfl) _ _ _ _)).trans (by simp only [c_acq_1, c_rel_0, c_pref_1, LdQ.ofCode_code, StQ.ofCode_code, AtQ.ofCode_code, RdQ.ofCode_code, AtomOp.ofCode_code, bit_getLsbD]; rfl))

theorem vldS8 (m : Bool) (t a : VReg) (b : BitVec 5) (q : LdQ) : Statement (.vldS8 m t a b q) :=
  fun hw _ => decode_of_parse hw (((parse_layVM _ _ _ _ _ _).trans
    ((show ∀ t a b q, parse3 m 3 t a b q = (LdQ.ofCode q).map fun q => .vldS8 m t a b q from fun _ _ _ _ => rfl) _ _ _ _)).trans (by simp only [c_acq_1, c_rel_0, c_pref_1, LdQ.ofCode_code, StQ.ofCode_code, AtQ.ofCode_code, RdQ.ofCode_code, AtomOp.ofCode_code, bit_getLsbD]; rfl))

theorem vldN8 (m : Bool) (t a : VReg) (b : BitVec 5) (q : LdQ) : Statement (.vldN8 m t a b q) :=
  fun hw _ => decode_of_parse hw (((parse_layVM _ _ _ _ _ _).trans
    ((show ∀ t a b q, parse3 m 4 t a b q = (LdQ.ofCode q).map fun q => .vldN8 m t a b q from fun _ _ _ _ => rfl) _ _ _ _)).trans (by simp only [c_acq_1, c_rel_0, c_pref_1, LdQ.ofCode_code, StQ.ofCode_code, AtQ.ofCode_code, RdQ.ofCode_code, AtomOp.ofCode_code, bit_getLsbD]; rfl))

theorem vldS16 (m : Bool) (t a : VReg) (b : BitVec 5) (q : LdQ) : Statement (.vldS16 m t a b q) :=
  fun hw _ => decode_of_parse hw (((parse_layVM _ _ _ _ _ _).trans
    ((show ∀ t a b q, parse3 m 5 t a b q = (LdQ.ofCode q).map fun q => .vldS16 m t a b q from fun _ _ _ _ => rfl) _ _ _ _)).trans (by simp only [c_acq_1, c_rel_0, c_pref_1, LdQ.ofCode_code, StQ.ofCode_code, AtQ.ofCode_code, RdQ.ofCode_code, AtomOp.ofCode_code, bit_getLsbD]; rfl))

theorem vldN16 (m : Bool) (t a : VReg) (b : BitVec 5) (q : LdQ) : Statement (.vldN16 m t a b q) :=
  fun hw _ => decode_of_parse hw (((parse_layVM _ _ _ _ _ _).trans
    ((show ∀ t a b q, parse3 m 6 t a b q = (LdQ.ofCode q).map fun q => .vldN16 m t a b q from fun _ _ _ _ => rfl) _ _ _ _)).trans (by simp only [c_acq_1, c_rel_0, c_pref_1, LdQ.ofCode_code, StQ.ofCode_code, AtQ.ofCode_code, RdQ.ofCode_code, AtomOp.ofCode_code, bit_getLsbD]; rfl))

theorem vstB32 (m : Bool) (t a : VReg) (b : BitVec 5) (q : StQ) : Statement (.vstB32 m t a b q) :=
  fun hw _ => decode_of_parse hw (((parse_layVM _ _ _ _ _ _).trans
    ((show ∀ t a b q, parse3 m 8 t a b q = (StQ.ofCode q).map fun q => .vstB32 m t a b q from fun _ _ _ _ => rfl) _ _ _ _)).trans (by simp only [c_acq_1, c_rel_0, c_pref_1, LdQ.ofCode_code, StQ.ofCode_code, AtQ.ofCode_code, RdQ.ofCode_code, AtomOp.ofCode_code, bit_getLsbD]; rfl))

theorem vstB64 (m : Bool) (t a : VReg) (b : BitVec 5) (q : StQ) : Statement (.vstB64 m t a b q) :=
  fun hw _ => decode_of_parse hw (((parse_layVM _ _ _ _ _ _).trans
    ((show ∀ t a b q, parse3 m 9 t a b q = (StQ.ofCode q).map fun q => .vstB64 m t a b q from fun _ _ _ _ => rfl) _ _ _ _)).trans (by simp only [c_acq_1, c_rel_0, c_pref_1, LdQ.ofCode_code, StQ.ofCode_code, AtQ.ofCode_code, RdQ.ofCode_code, AtomOp.ofCode_code, bit_getLsbD]; rfl))

theorem vstB128 (m : Bool) (t a : VReg) (b : BitVec 5) (q : StQ) : Statement (.vstB128 m t a b q) :=
  fun hw _ => decode_of_parse hw (((parse_layVM _ _ _ _ _ _).trans
    ((show ∀ t a b q, parse3 m 10 t a b q = (StQ.ofCode q).map fun q => .vstB128 m t a b q from fun _ _ _ _ => rfl) _ _ _ _)).trans (by simp only [c_acq_1, c_rel_0, c_pref_1, LdQ.ofCode_code, StQ.ofCode_code, AtQ.ofCode_code, RdQ.ofCode_code, AtomOp.ofCode_code, bit_getLsbD]; rfl))

theorem vstB8 (m : Bool) (t a : VReg) (b : BitVec 5) (q : StQ) : Statement (.vstB8 m t a b q) :=
  fun hw _ => decode_of_parse hw (((parse_layVM _ _ _ _ _ _).trans
    ((show ∀ t a b q, parse3 m 11 t a b q = (StQ.ofCode q).map fun q => .vstB8 m t a b q from fun _ _ _ _ => rfl) _ _ _ _)).trans (by simp only [c_acq_1, c_rel_0, c_pref_1, LdQ.ofCode_code, StQ.ofCode_code, AtQ.ofCode_code, RdQ.ofCode_code, AtomOp.ofCode_code, bit_getLsbD]; rfl))

theorem vstB16 (m : Bool) (t a : VReg) (b : BitVec 5) (q : StQ) : Statement (.vstB16 m t a b q) :=
  fun hw _ => decode_of_parse hw (((parse_layVM _ _ _ _ _ _).trans
    ((show ∀ t a b q, parse3 m 12 t a b q = (StQ.ofCode q).map fun q => .vstB16 m t a b q from fun _ _ _ _ => rfl) _ _ _ _)).trans (by simp only [c_acq_1, c_rel_0, c_pref_1, LdQ.ofCode_code, StQ.ofCode_code, AtQ.ofCode_code, RdQ.ofCode_code, AtomOp.ofCode_code, bit_getLsbD]; rfl))

theorem vpref (m : Bool) (l2 : Bool) (a : VReg) (b : BitVec 5) : Statement (.vpref m l2 a b) :=
  fun hw _ => decode_of_parse hw (((parse_layVM _ _ _ _ _ _).trans
    ((show ∀ t a b q, parse3 m 13 t a b q = some (.vpref m (t.getLsbD 0) a b) from fun _ _ _ _ => rfl) _ _ _ _)).trans (by simp only [c_acq_1, c_rel_0, c_pref_1, LdQ.ofCode_code, StQ.ofCode_code, AtQ.ofCode_code, RdQ.ofCode_code, AtomOp.ofCode_code, bit_getLsbD]))

theorem fget (m : Bool) (t a : VReg) (b : BitVec 5) (acq : Bool) : Statement (.fget m t a b acq) :=
  fun hw _ => decode_of_parse hw (((parse_layVM _ _ _ _ _ _).trans
    ((show ∀ t a b q, parse3 m 14 t a b q = some (.fget m t a b (q.getLsbD 1)) from fun _ _ _ _ => rfl) _ _ _ _)).trans (by simp only [c_acq_1, c_rel_0, c_pref_1, LdQ.ofCode_code, StQ.ofCode_code, AtQ.ofCode_code, RdQ.ofCode_code, AtomOp.ofCode_code, bit_getLsbD]))

theorem fput (m : Bool) (t a : VReg) (b : BitVec 5) (rel : Bool) : Statement (.fput m t a b rel) :=
  fun hw _ => decode_of_parse hw (((parse_layVM _ _ _ _ _ _).trans
    ((show ∀ t a b q, parse3 m 15 t a b q = some (.fput m t a b (q.getLsbD 2)) from fun _ _ _ _ => rfl) _ _ _ _)).trans (by simp only [c_acq_1, c_rel_0, c_pref_1, LdQ.ofCode_code, StQ.ofCode_code, AtQ.ofCode_code, RdQ.ofCode_code, AtomOp.ofCode_code, bit_getLsbD]))

theorem vatom (m : Bool) (op : AtomOp) (t a : VReg) (b : BitVec 5) (q : AtQ) : Statement (.vatom m op t a b q) :=
  fun hw _ => decode_of_parse hw (by cases op <;> (simp only [encode, parse_layVM, parse3, c_acq_1, c_rel_0, c_pref_1, LdQ.ofCode_code, StQ.ofCode_code, AtQ.ofCode_code, RdQ.ofCode_code, AtomOp.ofCode_code]; rfl))

theorem vred (m : Bool) (op : AtomOp) (t a : VReg) (b : BitVec 5) (q : RdQ) : Statement (.vred m op t a b q) :=
  fun hw _ => decode_of_parse hw (by cases op <;> (simp only [encode, parse_layVM, parse3, c_acq_1, c_rel_0, c_pref_1, LdQ.ofCode_code, StQ.ofCode_code, AtQ.ofCode_code, RdQ.ofCode_code, AtomOp.ofCode_code]; rfl))

theorem sadd (m : Bool) (d a : SReg) (b : SOp) : Statement (.sadd m d a b) :=
  fun hw _ => decode_of_parse hw (((parse_layS _ _ _ _ _ _).trans
    ((show ∀ d a b x, parse4 m 0 d a b x = some (.sadd m d a b) from fun _ _ _ _ => rfl) _ _ _ _)).trans (by simp only [parseB_bits, pad5in6_1, pad5in9_1, pad6in9_1, bit_getLsbD]))

theorem ssub (m : Bool) (d a : SReg) (b : SOp) : Statement (.ssub m d a b) :=
  fun hw _ => decode_of_parse hw (((parse_layS _ _ _ _ _ _).trans
    ((show ∀ d a b x, parse4 m 1 d a b x = some (.ssub m d a b) from fun _ _ _ _ => rfl) _ _ _ _)).trans (by simp only [parseB_bits, pad5in6_1, pad5in9_1, pad6in9_1, bit_getLsbD]))

theorem smul (m : Bool) (d a : SReg) (b : SOp) : Statement (.smul m d a b) :=
  fun hw _ => decode_of_parse hw (((parse_layS _ _ _ _ _ _).trans
    ((show ∀ d a b x, parse4 m 2 d a b x = some (.smul m d a b) from fun _ _ _ _ => rfl) _ _ _ _)).trans (by simp only [parseB_bits, pad5in6_1, pad5in9_1, pad6in9_1, bit_getLsbD]))

theorem smulhs (m : Bool) (d a : SReg) (b : SOp) : Statement (.smulhs m d a b) :=
  fun hw _ => decode_of_parse hw (((parse_layS _ _ _ _ _ _).trans
    ((show ∀ d a b x, parse4 m 3 d a b x = some (.smulhs m d a b) from fun _ _ _ _ => rfl) _ _ _ _)).trans (by simp only [parseB_bits, pad5in6_1, pad5in9_1, pad6in9_1, bit_getLsbD]))

theorem smulhn (m : Bool) (d a : SReg) (b : SOp) : Statement (.smulhn m d a b) :=
  fun hw _ => decode_of_parse hw (((parse_layS _ _ _ _ _ _).trans
    ((show ∀ d a b x, parse4 m 4 d a b x = some (.smulhn m d a b) from fun _ _ _ _ => rfl) _ _ _ _)).trans (by simp only [parseB_bits, pad5in6_1, pad5in9_1, pad6in9_1, bit_getLsbD]))

theorem sand (m : Bool) (d a : SReg) (b : SOp) : Statement (.sand m d a b) :=
  fun hw _ => decode_of_parse hw (((parse_layS _ _ _ _ _ _).trans
    ((show ∀ d a b x, parse4 m 5 d a b x = some (.sand m d a b) from fun _ _ _ _ => rfl) _ _ _ _)).trans (by simp only [parseB_bits, pad5in6_1, pad5in9_1, pad6in9_1, bit_getLsbD]))

theorem sor (m : Bool) (d a : SReg) (b : SOp) : Statement (.sor m d a b) :=
  fun hw _ => decode_of_parse hw (((parse_layS _ _ _ _ _ _).trans
    ((show ∀ d a b x, parse4 m 6 d a b x = some (.sor m d a b) from fun _ _ _ _ => rfl) _ _ _ _)).trans (by simp only [parseB_bits, pad5in6_1, pad5in9_1, pad6in9_1, bit_getLsbD]))

theorem sxor (m : Bool) (d a : SReg) (b : SOp) : Statement (.sxor m d a b) :=
  fun hw _ => decode_of_parse hw (((parse_layS _ _ _ _ _ _).trans
    ((show ∀ d a b x, parse4 m 7 d a b x = some (.sxor m d a b) from fun _ _ _ _ => rfl) _ _ _ _)).trans (by simp only [parseB_bits, pad5in6_1, pad5in9_1, pad6in9_1, bit_getLsbD]))

theorem sandn (m : Bool) (d a : SReg) (b : SOp) : Statement (.sandn m d a b) :=
  fun hw _ => decode_of_parse hw (((parse_layS _ _ _ _ _ _).trans
    ((show ∀ d a b x, parse4 m 8 d a b x = some (.sandn m d a b) from fun _ _ _ _ => rfl) _ _ _ _)).trans (by simp only [parseB_bits, pad5in6_1, pad5in9_1, pad6in9_1, bit_getLsbD]))

theorem sshl (m : Bool) (d a : SReg) (b : SOp) : Statement (.sshl m d a b) :=
  fun hw _ => decode_of_parse hw (((parse_layS _ _ _ _ _ _).trans
    ((show ∀ d a b x, parse4 m 9 d a b x = some (.sshl m d a b) from fun _ _ _ _ => rfl) _ _ _ _)).trans (by simp only [parseB_bits, pad5in6_1, pad5in9_1, pad6in9_1, bit_getLsbD]))

theorem sshr (m : Bool) (d a : SReg) (b : SOp) : Statement (.sshr m d a b) :=
  fun hw _ => decode_of_parse hw (((parse_layS _ _ _ _ _ _).trans
    ((show ∀ d a b x, parse4 m 10 d a b x = some (.sshr m d a b) from fun _ _ _ _ => rfl) _ _ _ _)).trans (by simp only [parseB_bits, pad5in6_1, pad5in9_1, pad6in9_1, bit_getLsbD]))

theorem ssra (m : Bool) (d a : SReg) (b : SOp) : Statement (.ssra m d a b) :=
  fun hw _ => decode_of_parse hw (((parse_layS _ _ _ _ _ _).trans
    ((show ∀ d a b x, parse4 m 11 d a b x = some (.ssra m d a b) from fun _ _ _ _ => rfl) _ _ _ _)).trans (by simp only [parseB_bits, pad5in6_1, pad5in9_1, pad6in9_1, bit_getLsbD]))

theorem smins (m : Bool) (d a : SReg) (b : SOp) : Statement (.smins m d a b) :=
  fun hw _ => decode_of_parse hw (((parse_layS _ _ _ _ _ _).trans
    ((show ∀ d a b x, parse4 m 12 d a b x = some (.smins m d a b) from fun _ _ _ _ => rfl) _ _ _ _)).trans (by simp only [parseB_bits, pad5in6_1, pad5in9_1, pad6in9_1, bit_getLsbD]))

theorem sminn (m : Bool) (d a : SReg) (b : SOp) : Statement (.sminn m d a b) :=
  fun hw _ => decode_of_parse hw (((parse_layS _ _ _ _ _ _).trans
    ((show ∀ d a b x, parse4 m 13 d a b x = some (.sminn m d a b) from fun _ _ _ _ => rfl) _ _ _ _)).trans (by simp only [parseB_bits, pad5in6_1, pad5in9_1, pad6in9_1, bit_getLsbD]))

theorem smaxs (m : Bool) (d a : SReg) (b : SOp) : Statement (.smaxs m d a b) :=
  fun hw _ => decode_of_parse hw (((parse_layS _ _ _ _ _ _).trans
    ((show ∀ d a b x, parse4 m 14 d a b x = some (.smaxs m d a b) from fun _ _ _ _ => rfl) _ _ _ _)).trans (by simp only [parseB_bits, pad5in6_1, pad5in9_1, pad6in9_1, bit_getLsbD]))

theorem smaxn (m : Bool) (d a : SReg) (b : SOp) : Statement (.smaxn m d a b) :=
  fun hw _ => decode_of_parse hw (((parse_layS _ _ _ _ _ _).trans
    ((show ∀ d a b x, parse4 m 15 d a b x = some (.smaxn m d a b) from fun _ _ _ _ => rfl) _ _ _ _)).trans (by simp only [parseB_bits, pad5in6_1, pad5in9_1, pad6in9_1, bit_getLsbD]))

theorem sslt (m : Bool) (d a : SReg) (b : SOp) : Statement (.sslt m d a b) :=
  fun hw _ => decode_of_parse hw (((parse_layS _ _ _ _ _ _).trans
    ((show ∀ d a b x, parse4 m 16 d a b x = some (.sslt m d a b) from fun _ _ _ _ => rfl) _ _ _ _)).trans (by simp only [parseB_bits, pad5in6_1, pad5in9_1, pad6in9_1, bit_getLsbD]))

theorem ssltn (m : Bool) (d a : SReg) (b : SOp) : Statement (.ssltn m d a b) :=
  fun hw _ => decode_of_parse hw (((parse_layS _ _ _ _ _ _).trans
    ((show ∀ d a b x, parse4 m 17 d a b x = some (.ssltn m d a b) from fun _ _ _ _ => rfl) _ _ _ _)).trans (by simp only [parseB_bits, pad5in6_1, pad5in9_1, pad6in9_1, bit_getLsbD]))

theorem sseq (m : Bool) (d a : SReg) (b : SOp) : Statement (.sseq m d a b) :=
  fun hw _ => decode_of_parse hw (((parse_layS _ _ _ _ _ _).trans
    ((show ∀ d a b x, parse4 m 18 d a b x = some (.sseq m d a b) from fun _ _ _ _ => rfl) _ _ _ _)).trans (by simp only [parseB_bits, pad5in6_1, pad5in9_1, pad6in9_1, bit_getLsbD]))

theorem ssne (m : Bool) (d a : SReg) (b : SOp) : Statement (.ssne m d a b) :=
  fun hw _ => decode_of_parse hw (((parse_layS _ _ _ _ _ _).trans
    ((show ∀ d a b x, parse4 m 19 d a b x = some (.ssne m d a b) from fun _ _ _ _ => rfl) _ _ _ _)).trans (by simp only [parseB_bits, pad5in6_1, pad5in9_1, pad6in9_1, bit_getLsbD]))

theorem ssle (m : Bool) (d a : SReg) (b : SOp) : Statement (.ssle m d a b) :=
  fun hw _ => decode_of_parse hw (((parse_layS _ _ _ _ _ _).trans
    ((show ∀ d a b x, parse4 m 20 d a b x = some (.ssle m d a b) from fun _ _ _ _ => rfl) _ _ _ _)).trans (by simp only [parseB_bits, pad5in6_1, pad5in9_1, pad6in9_1, bit_getLsbD]))

theorem sslen (m : Bool) (d a : SReg) (b : SOp) : Statement (.sslen m d a b) :=
  fun hw _ => decode_of_parse hw (((parse_layS _ _ _ _ _ _).trans
    ((show ∀ d a b x, parse4 m 21 d a b x = some (.sslen m d a b) from fun _ _ _ _ => rfl) _ _ _ _)).trans (by simp only [parseB_bits, pad5in6_1, pad5in9_1, pad6in9_1, bit_getLsbD]))

theorem smov (m : Bool) (d : SReg) (b : SOp) : Statement (.smov m d b) :=
  fun hw _ => decode_of_parse hw (((parse_layS _ _ _ _ _ _).trans
    ((show ∀ d a b x, parse4 m 22 d a b x = some (.smov m d b) from fun _ _ _ _ => rfl) _ _ _ _)).trans (by simp only [parseB_bits, pad5in6_1, pad5in9_1, pad6in9_1, bit_getLsbD]))

theorem scmov (m : Bool) (d a : SReg) (b : SOp) : Statement (.scmov m d a b) :=
  fun hw _ => decode_of_parse hw (((parse_layS _ _ _ _ _ _).trans
    ((show ∀ d a b x, parse4 m 23 d a b x = some (.scmov m d a b) from fun _ _ _ _ => rfl) _ _ _ _)).trans (by simp only [parseB_bits, pad5in6_1, pad5in9_1, pad6in9_1, bit_getLsbD]))

theorem sadd64 (m : Bool) (d a : SReg) (b : SOp) : Statement (.sadd64 m d a b) :=
  fun hw _ => decode_of_parse hw (((parse_layS _ _ _ _ _ _).trans
    ((show ∀ d a b x, parse4 m 24 d a b x = some (.sadd64 m d a b) from fun _ _ _ _ => rfl) _ _ _ _)).trans (by simp only [parseB_bits, pad5in6_1, pad5in9_1, pad6in9_1, bit_getLsbD]))

theorem ssub64 (m : Bool) (d a : SReg) (b : SOp) : Statement (.ssub64 m d a b) :=
  fun hw _ => decode_of_parse hw (((parse_layS _ _ _ _ _ _).trans
    ((show ∀ d a b x, parse4 m 25 d a b x = some (.ssub64 m d a b) from fun _ _ _ _ => rfl) _ _ _ _)).trans (by simp only [parseB_bits, pad5in6_1, pad5in9_1, pad6in9_1, bit_getLsbD]))

theorem sshl64 (m : Bool) (d a : SReg) (b : SOp) : Statement (.sshl64 m d a b) :=
  fun hw _ => decode_of_parse hw (((parse_layS _ _ _ _ _ _).trans
    ((show ∀ d a b x, parse4 m 26 d a b x = some (.sshl64 m d a b) from fun _ _ _ _ => rfl) _ _ _ _)).trans (by simp only [parseB_bits, pad5in6_1, pad5in9_1, pad6in9_1, bit_getLsbD]))

theorem sshr64 (m : Bool) (d a : SReg) (b : SOp) : Statement (.sshr64 m d a b) :=
  fun hw _ => decode_of_parse hw (((parse_layS _ _ _ _ _ _).trans
    ((show ∀ d a b x, parse4 m 27 d a b x = some (.sshr64 m d a b) from fun _ _ _ _ => rfl) _ _ _ _)).trans (by simp only [parseB_bits, pad5in6_1, pad5in9_1, pad6in9_1, bit_getLsbD]))

theorem spopc (m : Bool) (d a : SReg) : Statement (.spopc m d a) :=
  fun hw _ => decode_of_parse hw (((parse_layS _ _ _ _ _ _).trans
    ((show ∀ d a b x, parse4 m 28 d a b x = some (.spopc m d a) from fun _ _ _ _ => rfl) _ _ _ _)).trans (by simp only [parseB_bits, pad5in6_1, pad5in9_1, pad6in9_1, bit_getLsbD]))

theorem sclz (m : Bool) (d a : SReg) : Statement (.sclz m d a) :=
  fun hw _ => decode_of_parse hw (((parse_layS _ _ _ _ _ _).trans
    ((show ∀ d a b x, parse4 m 29 d a b x = some (.sclz m d a) from fun _ _ _ _ => rfl) _ _ _ _)).trans (by simp only [parseB_bits, pad5in6_1, pad5in9_1, pad6in9_1, bit_getLsbD]))

theorem sbfen (m : Bool) (d a : SReg) (b : SOp) : Statement (.sbfen m d a b) :=
  fun hw _ => decode_of_parse hw (((parse_layS _ _ _ _ _ _).trans
    ((show ∀ d a b x, parse4 m 30 d a b x = some (.sbfen m d a b) from fun _ _ _ _ => rfl) _ _ _ _)).trans (by simp only [parseB_bits, pad5in6_1, pad5in9_1, pad6in9_1, bit_getLsbD]))

theorem smulw (m : Bool) (d a : SReg) (b : SOp) : Statement (.smulw m d a b) :=
  fun hw _ => decode_of_parse hw (((parse_layS _ _ _ _ _ _).trans
    ((show ∀ d a b x, parse4 m 31 d a b x = some (.smulw m d a b) from fun _ _ _ _ => rfl) _ _ _ _)).trans (by simp only [parseB_bits, pad5in6_1, pad5in9_1, pad6in9_1, bit_getLsbD]))

theorem kand (m : Bool) (d a b : KReg) : Statement (.kand m d a b) :=
  fun hw _ => decode_of_parse hw (((parse_layS _ _ _ _ _ _).trans
    ((show ∀ d a b x, parse4 m 32 d a b x = some (.kand m (d.extractLsb' 0 5) (a.extractLsb' 0 5) (x.extractLsb' 0 5)) from fun _ _ _ _ => rfl) _ _ _ _)).trans (by simp only [parseB_bits, pad5in6_1, pad5in9_1, pad6in9_1, bit_getLsbD]))

theorem kor (m : Bool) (d a b : KReg) : Statement (.kor m d a b) :=
  fun hw _ => decode_of_parse hw (((parse_layS _ _ _ _ _ _).trans
    ((show ∀ d a b x, parse4 m 33 d a b x = some (.kor m (d.extractLsb' 0 5) (a.extractLsb' 0 5) (x.extractLsb' 0 5)) from fun _ _ _ _ => rfl) _ _ _ _)).trans (by simp only [parseB_bits, pad5in6_1, pad5in9_1, pad6in9_1, bit_getLsbD]))

theorem kxor (m : Bool) (d a b : KReg) : Statement (.kxor m d a b) :=
  fun hw _ => decode_of_parse hw (((parse_layS _ _ _ _ _ _).trans
    ((show ∀ d a b x, parse4 m 34 d a b x = some (.kxor m (d.extractLsb' 0 5) (a.extractLsb' 0 5) (x.extractLsb' 0 5)) from fun _ _ _ _ => rfl) _ _ _ _)).trans (by simp only [parseB_bits, pad5in6_1, pad5in9_1, pad6in9_1, bit_getLsbD]))

theorem kandn (m : Bool) (d a b : KReg) : Statement (.kandn m d a b) :=
  fun hw _ => decode_of_parse hw (((parse_layS _ _ _ _ _ _).trans
    ((show ∀ d a b x, parse4 m 35 d a b x = some (.kandn m (d.extractLsb' 0 5) (a.extractLsb' 0 5) (x.extractLsb' 0 5)) from fun _ _ _ _ => rfl) _ _ _ _)).trans (by simp only [parseB_bits, pad5in6_1, pad5in9_1, pad6in9_1, bit_getLsbD]))

theorem kmov (m : Bool) (d : KReg) (b : SOp) : Statement (.kmov m d b) :=
  fun hw _ => decode_of_parse hw (((parse_layS _ _ _ _ _ _).trans
    ((show ∀ d a b x, parse4 m 36 d a b x = some (.kmov m (d.extractLsb' 0 5) b) from fun _ _ _ _ => rfl) _ _ _ _)).trans (by simp only [parseB_bits, pad5in6_1, pad5in9_1, pad6in9_1, bit_getLsbD]))

theorem kpopc (m : Bool) (d : SReg) (a : KReg) : Statement (.kpopc m d a) :=
  fun hw _ => decode_of_parse hw (((parse_layS _ _ _ _ _ _).trans
    ((show ∀ d a b x, parse4 m 37 d a b x = some (.kpopc m d (a.extractLsb' 0 5)) from fun _ _ _ _ => rfl) _ _ _ _)).trans (by simp only [parseB_bits, pad5in6_1, pad5in9_1, pad6in9_1, bit_getLsbD]))

theorem kffs (m : Bool) (d : SReg) (a : KReg) : Statement (.kffs m d a) :=
  fun hw _ => decode_of_parse hw (((parse_layS _ _ _ _ _ _).trans
    ((show ∀ d a b x, parse4 m 38 d a b x = some (.kffs m d (a.extractLsb' 0 5)) from fun _ _ _ _ => rfl) _ _ _ _)).trans (by simp only [parseB_bits, pad5in6_1, pad5in9_1, pad6in9_1, bit_getLsbD]))

theorem klane (m : Bool) (d : KReg) (a : SReg) (b : SOp) : Statement (.klane m d a b) :=
  fun hw _ => decode_of_parse hw (((parse_layS _ _ _ _ _ _).trans
    ((show ∀ d a b x, parse4 m 39 d a b x = some (.klane m (d.extractLsb' 0 5) a b) from fun _ _ _ _ => rfl) _ _ _ _)).trans (by simp only [parseB_bits, pad5in6_1, pad5in9_1, pad6in9_1, bit_getLsbD]))

theorem sldB32 (m : Bool) (d a : SReg) (b : SOp) : Statement (.sldB32 m d a b) :=
  fun hw _ => decode_of_parse hw (((parse_layS _ _ _ _ _ _).trans
    ((show ∀ d a b x, parse4 m 40 d a b x = some (.sldB32 m d a b) from fun _ _ _ _ => rfl) _ _ _ _)).trans (by simp only [parseB_bits, pad5in6_1, pad5in9_1, pad6in9_1, bit_getLsbD]))

theorem sldB64 (m : Bool) (d a : SReg) (b : SOp) : Statement (.sldB64 m d a b) :=
  fun hw _ => decode_of_parse hw (((parse_layS _ _ _ _ _ _).trans
    ((show ∀ d a b x, parse4 m 41 d a b x = some (.sldB64 m d a b) from fun _ _ _ _ => rfl) _ _ _ _)).trans (by simp only [parseB_bits, pad5in6_1, pad5in9_1, pad6in9_1, bit_getLsbD]))

theorem sldB128 (m : Bool) (d a : SReg) (b : SOp) : Statement (.sldB128 m d a b) :=
  fun hw _ => decode_of_parse hw (((parse_layS _ _ _ _ _ _).trans
    ((show ∀ d a b x, parse4 m 42 d a b x = some (.sldB128 m d a b) from fun _ _ _ _ => rfl) _ _ _ _)).trans (by simp only [parseB_bits, pad5in6_1, pad5in9_1, pad6in9_1, bit_getLsbD]))

theorem sstB32 (m : Bool) (d a : SReg) (b : SOp) : Statement (.sstB32 m d a b) :=
  fun hw _ => decode_of_parse hw (((parse_layS _ _ _ _ _ _).trans
    ((show ∀ d a b x, parse4 m 43 d a b x = some (.sstB32 m d a b) from fun _ _ _ _ => rfl) _ _ _ _)).trans (by simp only [parseB_bits, pad5in6_1, pad5in9_1, pad6in9_1, bit_getLsbD]))

theorem sstB64 (m : Bool) (d a : SReg) (b : SOp) : Statement (.sstB64 m d a b) :=
  fun hw _ => decode_of_parse hw (((parse_layS _ _ _ _ _ _).trans
    ((show ∀ d a b x, parse4 m 44 d a b x = some (.sstB64 m d a b) from fun _ _ _ _ => rfl) _ _ _ _)).trans (by simp only [parseB_bits, pad5in6_1, pad5in9_1, pad6in9_1, bit_getLsbD]))

theorem satomAdd (m : Bool) (d a b : SReg) : Statement (.satomAdd m d a b) :=
  fun hw _ => decode_of_parse hw (((parse_layS _ _ _ _ _ _).trans
    ((show ∀ d a b x, parse4 m 45 d a b x = some (.satomAdd m d a (x.extractLsb' 0 6)) from fun _ _ _ _ => rfl) _ _ _ _)).trans (by simp only [parseB_bits, pad5in6_1, pad5in9_1, pad6in9_1, bit_getLsbD]))

theorem satomCas (m : Bool) (d a b : SReg) : Statement (.satomCas m d a b) :=
  fun hw _ => decode_of_parse hw (((parse_layS _ _ _ _ _ _).trans
    ((show ∀ d a b x, parse4 m 46 d a b x = some (.satomCas m d a (x.extractLsb' 0 6)) from fun _ _ _ _ => rfl) _ _ _ _)).trans (by simp only [parseB_bits, pad5in6_1, pad5in9_1, pad6in9_1, bit_getLsbD]))

theorem satomExch (m : Bool) (d a b : SReg) : Statement (.satomExch m d a b) :=
  fun hw _ => decode_of_parse hw (((parse_layS _ _ _ _ _ _).trans
    ((show ∀ d a b x, parse4 m 47 d a b x = some (.satomExch m d a (x.extractLsb' 0 6)) from fun _ _ _ _ => rfl) _ _ _ _)).trans (by simp only [parseB_bits, pad5in6_1, pad5in9_1, pad6in9_1, bit_getLsbD]))

theorem sget (m : Bool) (d : SReg) (x : BitVec 9) : Statement (.sget m d x) :=
  fun hw _ => decode_of_parse hw (((parse_layS _ _ _ _ _ _).trans
    ((show ∀ d a b x, parse4 m 48 d a b x = some (.sget m d x) from fun _ _ _ _ => rfl) _ _ _ _)).trans (by simp only [parseB_bits, pad5in6_1, pad5in9_1, pad6in9_1, bit_getLsbD]))

theorem sset (m : Bool) (a : SReg) (x : BitVec 9) : Statement (.sset m a x) :=
  fun hw _ => decode_of_parse hw (((parse_layS _ _ _ _ _ _).trans
    ((show ∀ d a b x, parse4 m 49 d a b x = some (.sset m a x) from fun _ _ _ _ => rfl) _ _ _ _)).trans (by simp only [parseB_bits, pad5in6_1, pad5in9_1, pad6in9_1, bit_getLsbD]))

theorem br (m : Bool) (off : BitVec 23) : Statement (.br m off) :=
  fun hw _ => decode_of_parse hw ((parse_layC _ _ _).trans rfl)

theorem brany (m : Bool) (k : KReg) (off : BitVec 18) : Statement (.brany m k off) :=
  fun hw _ => decode_of_parse hw (((parse_layC _ _ _).trans
    ((show ∀ x, parse5 m 1 x = some (.brany m (x.extractLsb' 18 5) (x.extractLsb' 0 18)) from fun _ => rfl) _)).trans (by simp only [c5_18_0, c5_18_1, c6_17_0, c6_17_1, c6_z17_0, c5_9_9_0, c5_9_9_1, c5_9_9_2, c_pub_0, c_pub_1, c_pub_2, c_pub_3, c_join_0, c_join_1, c_join_2, c_joins_0, c_joins_1, c_joins_2, c_bar0_0, c_bar0_1, c_bar0_2, c_bar1_0, c_bar1_1, c_bar1_2, c_bar1_3, c_bar2_0, c_bar2_1, c_bar2_2, c_bar3_0, c_bar3_1, c_bar3_2, c_barwp_0, c_barwp_1, c_barwp_2, c_barwp_3, c_fence_0, c_8_15_0, c_4_19_0, c_vcvt_0, c_vcvt_1, c_vcvt_2, c_vqnt_0, c_vqnt_1, c_vqnt_2, c_vdq_0, c_vdq_2, c_vbs_0, c_vrdi_1, c_acq_1, c_rel_0, c_pref_1, Scope.ofCode_code, bit_getLsbD]))

theorem brall (m : Bool) (k : KReg) (off : BitVec 18) : Statement (.brall m k off) :=
  fun hw _ => decode_of_parse hw (((parse_layC _ _ _).trans
    ((show ∀ x, parse5 m 2 x = some (.brall m (x.extractLsb' 18 5) (x.extractLsb' 0 18)) from fun _ => rfl) _)).trans (by simp only [c5_18_0, c5_18_1, c6_17_0, c6_17_1, c6_z17_0, c5_9_9_0, c5_9_9_1, c5_9_9_2, c_pub_0, c_pub_1, c_pub_2, c_pub_3, c_join_0, c_join_1, c_join_2, c_joins_0, c_joins_1, c_joins_2, c_bar0_0, c_bar0_1, c_bar0_2, c_bar1_0, c_bar1_1, c_bar1_2, c_bar1_3, c_bar2_0, c_bar2_1, c_bar2_2, c_bar3_0, c_bar3_1, c_bar3_2, c_barwp_0, c_barwp_1, c_barwp_2, c_barwp_3, c_fence_0, c_8_15_0, c_4_19_0, c_vcvt_0, c_vcvt_1, c_vcvt_2, c_vqnt_0, c_vqnt_1, c_vqnt_2, c_vdq_0, c_vdq_2, c_vbs_0, c_vrdi_1, c_acq_1, c_rel_0, c_pref_1, Scope.ofCode_code, bit_getLsbD]))

theorem brnone (m : Bool) (k : KReg) (off : BitVec 18) : Statement (.brnone m k off) :=
  fun hw _ => decode_of_parse hw (((parse_layC _ _ _).trans
    ((show ∀ x, parse5 m 3 x = some (.brnone m (x.extractLsb' 18 5) (x.extractLsb' 0 18)) from fun _ => rfl) _)).trans (by simp only [c5_18_0, c5_18_1, c6_17_0, c6_17_1, c6_z17_0, c5_9_9_0, c5_9_9_1, c5_9_9_2, c_pub_0, c_pub_1, c_pub_2, c_pub_3, c_join_0, c_join_1, c_join_2, c_joins_0, c_joins_1, c_joins_2, c_bar0_0, c_bar0_1, c_bar0_2, c_bar1_0, c_bar1_1, c_bar1_2, c_bar1_3, c_bar2_0, c_bar2_1, c_bar2_2, c_bar3_0, c_bar3_1, c_bar3_2, c_barwp_0, c_barwp_1, c_barwp_2, c_barwp_3, c_fence_0, c_8_15_0, c_4_19_0, c_vcvt_0, c_vcvt_1, c_vcvt_2, c_vqnt_0, c_vqnt_1, c_vqnt_2, c_vdq_0, c_vdq_2, c_vbs_0, c_vrdi_1, c_acq_1, c_rel_0, c_pref_1, Scope.ofCode_code, bit_getLsbD]))

theorem brnz (m : Bool) (r : SReg) (off : BitVec 17) : Statement (.brnz m r off) :=
  fun hw _ => decode_of_parse hw (((parse_layC _ _ _).trans
    ((show ∀ x, parse5 m 4 x = some (.brnz m (x.extractLsb' 17 6) (x.extractLsb' 0 17)) from fun _ => rfl) _)).trans (by simp only [c5_18_0, c5_18_1, c6_17_0, c6_17_1, c6_z17_0, c5_9_9_0, c5_9_9_1, c5_9_9_2, c_pub_0, c_pub_1, c_pub_2, c_pub_3, c_join_0, c_join_1, c_join_2, c_joins_0, c_joins_1, c_joins_2, c_bar0_0, c_bar0_1, c_bar0_2, c_bar1_0, c_bar1_1, c_bar1_2, c_bar1_3, c_bar2_0, c_bar2_1, c_bar2_2, c_bar3_0, c_bar3_1, c_bar3_2, c_barwp_0, c_barwp_1, c_barwp_2, c_barwp_3, c_fence_0, c_8_15_0, c_4_19_0, c_vcvt_0, c_vcvt_1, c_vcvt_2, c_vqnt_0, c_vqnt_1, c_vqnt_2, c_vdq_0, c_vdq_2, c_vbs_0, c_vrdi_1, c_acq_1, c_rel_0, c_pref_1, Scope.ofCode_code, bit_getLsbD]))

theorem brz (m : Bool) (r : SReg) (off : BitVec 17) : Statement (.brz m r off) :=
  fun hw _ => decode_of_parse hw (((parse_layC _ _ _).trans
    ((show ∀ x, parse5 m 5 x = some (.brz m (x.extractLsb' 17 6) (x.extractLsb' 0 17)) from fun _ => rfl) _)).trans (by simp only [c5_18_0, c5_18_1, c6_17_0, c6_17_1, c6_z17_0, c5_9_9_0, c5_9_9_1, c5_9_9_2, c_pub_0, c_pub_1, c_pub_2, c_pub_3, c_join_0, c_join_1, c_join_2, c_joins_0, c_joins_1, c_joins_2, c_bar0_0, c_bar0_1, c_bar0_2, c_bar1_0, c_bar1_1, c_bar1_2, c_bar1_3, c_bar2_0, c_bar2_1, c_bar2_2, c_bar3_0, c_bar3_1, c_bar3_2, c_barwp_0, c_barwp_1, c_barwp_2, c_barwp_3, c_fence_0, c_8_15_0, c_4_19_0, c_vcvt_0, c_vcvt_1, c_vcvt_2, c_vqnt_0, c_vqnt_1, c_vqnt_2, c_vdq_0, c_vdq_2, c_vbs_0, c_vrdi_1, c_acq_1, c_rel_0, c_pref_1, Scope.ofCode_code, bit_getLsbD]))

theorem call (m : Bool) (p : SReg) (off : BitVec 17) : Statement (.call m p off) :=
  fun hw _ => decode_of_parse hw (((parse_layC _ _ _).trans
    ((show ∀ x, parse5 m 6 x = some (.call m (x.extractLsb' 17 6) (x.extractLsb' 0 17)) from fun _ => rfl) _)).trans (by simp only [c5_18_0, c5_18_1, c6_17_0, c6_17_1, c6_z17_0, c5_9_9_0, c5_9_9_1, c5_9_9_2, c_pub_0, c_pub_1, c_pub_2, c_pub_3, c_join_0, c_join_1, c_join_2, c_joins_0, c_joins_1, c_joins_2, c_bar0_0, c_bar0_1, c_bar0_2, c_bar1_0, c_bar1_1, c_bar1_2, c_bar1_3, c_bar2_0, c_bar2_1, c_bar2_2, c_bar3_0, c_bar3_1, c_bar3_2, c_barwp_0, c_barwp_1, c_barwp_2, c_barwp_3, c_fence_0, c_8_15_0, c_4_19_0, c_vcvt_0, c_vcvt_1, c_vcvt_2, c_vqnt_0, c_vqnt_1, c_vqnt_2, c_vdq_0, c_vdq_2, c_vbs_0, c_vrdi_1, c_acq_1, c_rel_0, c_pref_1, Scope.ofCode_code, bit_getLsbD]))

theorem jmpr (m : Bool) (p : SReg) : Statement (.jmpr m p) :=
  fun hw _ => decode_of_parse hw (((parse_layC _ _ _).trans
    ((show ∀ x, parse5 m 7 x = some (.jmpr m (x.extractLsb' 17 6)) from fun _ => rfl) _)).trans (by simp only [c5_18_0, c5_18_1, c6_17_0, c6_17_1, c6_z17_0, c5_9_9_0, c5_9_9_1, c5_9_9_2, c_pub_0, c_pub_1, c_pub_2, c_pub_3, c_join_0, c_join_1, c_join_2, c_joins_0, c_joins_1, c_joins_2, c_bar0_0, c_bar0_1, c_bar0_2, c_bar1_0, c_bar1_1, c_bar1_2, c_bar1_3, c_bar2_0, c_bar2_1, c_bar2_2, c_bar3_0, c_bar3_1, c_bar3_2, c_barwp_0, c_barwp_1, c_barwp_2, c_barwp_3, c_fence_0, c_8_15_0, c_4_19_0, c_vcvt_0, c_vcvt_1, c_vcvt_2, c_vqnt_0, c_vqnt_1, c_vqnt_2, c_vdq_0, c_vdq_2, c_vbs_0, c_vrdi_1, c_acq_1, c_rel_0, c_pref_1, Scope.ofCode_code, bit_getLsbD]))

theorem split (m : Bool) (k : KReg) (offA offC : BitVec 9) : Statement (.split m k offA offC) :=
  fun hw _ => decode_of_parse hw (((parse_layC _ _ _).trans
    ((show ∀ x, parse5 m 8 x = some (.split m (x.extractLsb' 18 5) (x.extractLsb' 9 9) (x.extractLsb' 0 9)) from fun _ => rfl) _)).trans (by simp only [c5_18_0, c5_18_1, c6_17_0, c6_17_1, c6_z17_0, c5_9_9_0, c5_9_9_1, c5_9_9_2, c_pub_0, c_pub_1, c_pub_2, c_pub_3, c_join_0, c_join_1, c_join_2, c_joins_0, c_joins_1, c_joins_2, c_bar0_0, c_bar0_1, c_bar0_2, c_bar1_0, c_bar1_1, c_bar1_2, c_bar1_3, c_bar2_0, c_bar2_1, c_bar2_2, c_bar3_0, c_bar3_1, c_bar3_2, c_barwp_0, c_barwp_1, c_barwp_2, c_barwp_3, c_fence_0, c_8_15_0, c_4_19_0, c_vcvt_0, c_vcvt_1, c_vcvt_2, c_vqnt_0, c_vqnt_1, c_vqnt_2, c_vdq_0, c_vdq_2, c_vbs_0, c_vrdi_1, c_acq_1, c_rel_0, c_pref_1, Scope.ofCode_code, bit_getLsbD]))

theorem ends (m : Bool) : Statement (.ends m) :=
  fun hw _ => decode_of_parse hw ((parse_layC _ _ _).trans rfl)

theorem pub (m : Bool) (v : VReg) (vcnt : BitVec 5) (r : SReg) (scnt : BitVec 4) : Statement (.pub m v vcnt r scnt) :=
  fun hw _ => decode_of_parse hw (((parse_layC _ _ _).trans
    ((show ∀ x, parse5 m 10 x = some (.pub m (x.extractLsb' 16 7) (x.extractLsb' 11 5) (x.extractLsb' 5 6) (x.extractLsb' 1 4)) from fun _ => rfl) _)).trans (by simp only [c5_18_0, c5_18_1, c6_17_0, c6_17_1, c6_z17_0, c5_9_9_0, c5_9_9_1, c5_9_9_2, c_pub_0, c_pub_1, c_pub_2, c_pub_3, c_join_0, c_join_1, c_join_2, c_joins_0, c_joins_1, c_joins_2, c_bar0_0, c_bar0_1, c_bar0_2, c_bar1_0, c_bar1_1, c_bar1_2, c_bar1_3, c_bar2_0, c_bar2_1, c_bar2_2, c_bar3_0, c_bar3_1, c_bar3_2, c_barwp_0, c_barwp_1, c_barwp_2, c_barwp_3, c_fence_0, c_8_15_0, c_4_19_0, c_vcvt_0, c_vcvt_1, c_vcvt_2, c_vqnt_0, c_vqnt_1, c_vqnt_2, c_vdq_0, c_vdq_2, c_vbs_0, c_vrdi_1, c_acq_1, c_rel_0, c_pref_1, Scope.ofCode_code, bit_getLsbD]))

theorem join (m : Bool) (d a b : VReg) : Statement (.join m d a b) :=
  fun hw _ => decode_of_parse hw (((parse_layC _ _ _).trans
    ((show ∀ x, parse5 m 11 x = some (.join m (x.extractLsb' 16 7) (x.extractLsb' 9 7) (x.extractLsb' 2 7)) from fun _ => rfl) _)).trans (by simp only [c5_18_0, c5_18_1, c6_17_0, c6_17_1, c6_z17_0, c5_9_9_0, c5_9_9_1, c5_9_9_2, c_pub_0, c_pub_1, c_pub_2, c_pub_3, c_join_0, c_join_1, c_join_2, c_joins_0, c_joins_1, c_joins_2, c_bar0_0, c_bar0_1, c_bar0_2, c_bar1_0, c_bar1_1, c_bar1_2, c_bar1_3, c_bar2_0, c_bar2_1, c_bar2_2, c_bar3_0, c_bar3_1, c_bar3_2, c_barwp_0, c_barwp_1, c_barwp_2, c_barwp_3, c_fence_0, c_8_15_0, c_4_19_0, c_vcvt_0, c_vcvt_1, c_vcvt_2, c_vqnt_0, c_vqnt_1, c_vqnt_2, c_vdq_0, c_vdq_2, c_vbs_0, c_vrdi_1, c_acq_1, c_rel_0, c_pref_1, Scope.ofCode_code, bit_getLsbD]))

theorem joins (m : Bool) (d a : SReg) (armF : Bool) : Statement (.joins m d a armF) :=
  fun hw _ => decode_of_parse hw (((parse_layC _ _ _).trans
    ((show ∀ x, parse5 m 12 x = some (.joins m (x.extractLsb' 17 6) (x.extractLsb' 11 6) (x.getLsbD 10)) from fun _ => rfl) _)).trans (by simp only [c5_18_0, c5_18_1, c6_17_0, c6_17_1, c6_z17_0, c5_9_9_0, c5_9_9_1, c5_9_9_2, c_pub_0, c_pub_1, c_pub_2, c_pub_3, c_join_0, c_join_1, c_join_2, c_joins_0, c_joins_1, c_joins_2, c_bar0_0, c_bar0_1, c_bar0_2, c_bar1_0, c_bar1_1, c_bar1_2, c_bar1_3, c_bar2_0, c_bar2_1, c_bar2_2, c_bar3_0, c_bar3_1, c_bar3_2, c_barwp_0, c_barwp_1, c_barwp_2, c_barwp_3, c_fence_0, c_8_15_0, c_4_19_0, c_vcvt_0, c_vcvt_1, c_vcvt_2, c_vqnt_0, c_vqnt_1, c_vqnt_2, c_vdq_0, c_vdq_2, c_vbs_0, c_vrdi_1, c_acq_1, c_rel_0, c_pref_1, Scope.ofCode_code, bit_getLsbD]))

theorem joinm (m : Bool) : Statement (.joinm m) :=
  fun hw _ => decode_of_parse hw ((parse_layC _ _ _).trans rfl)

theorem barW (m : Bool) (id : BitVec 5) : Statement (.barW m id) :=
  fun hw _ => decode_of_parse hw (((parse_layC _ _ _).trans
    ((show ∀ x, parse5 m 14 x = parseBar m (x.extractLsb' 21 2) (x.extractLsb' 16 5) (x.extractLsb' 10 6) from fun _ => rfl) _)).trans (by simp only [c5_18_0, c5_18_1, c6_17_0, c6_17_1, c6_z17_0, c5_9_9_0, c5_9_9_1, c5_9_9_2, c_pub_0, c_pub_1, c_pub_2, c_pub_3, c_join_0, c_join_1, c_join_2, c_joins_0, c_joins_1, c_joins_2, c_bar0_0, c_bar0_1, c_bar0_2, c_bar1_0, c_bar1_1, c_bar1_2, c_bar1_3, c_bar2_0, c_bar2_1, c_bar2_2, c_bar3_0, c_bar3_1, c_bar3_2, c_barwp_0, c_barwp_1, c_barwp_2, c_barwp_3, c_fence_0, c_8_15_0, c_4_19_0, c_vcvt_0, c_vcvt_1, c_vcvt_2, c_vqnt_0, c_vqnt_1, c_vqnt_2, c_vdq_0, c_vdq_2, c_vbs_0, c_vrdi_1, c_acq_1, c_rel_0, c_pref_1, Scope.ofCode_code, bit_getLsbD]; rfl))

theorem barA (m : Bool) (id : BitVec 5) (d : SReg) : Statement (.barA m id d) :=
  fun hw _ => decode_of_parse hw (((parse_layC _ _ _).trans
    ((show ∀ x, parse5 m 14 x = parseBar m (x.extractLsb' 21 2) (x.extractLsb' 16 5) (x.extractLsb' 10 6) from fun _ => rfl) _)).trans (by simp only [c5_18_0, c5_18_1, c6_17_0, c6_17_1, c6_z17_0, c5_9_9_0, c5_9_9_1, c5_9_9_2, c_pub_0, c_pub_1, c_pub_2, c_pub_3, c_join_0, c_join_1, c_join_2, c_joins_0, c_joins_1, c_joins_2, c_bar0_0, c_bar0_1, c_bar0_2, c_bar1_0, c_bar1_1, c_bar1_2, c_bar1_3, c_bar2_0, c_bar2_1, c_bar2_2, c_bar3_0, c_bar3_1, c_bar3_2, c_barwp_0, c_barwp_1, c_barwp_2, c_barwp_3, c_fence_0, c_8_15_0, c_4_19_0, c_vcvt_0, c_vcvt_1, c_vcvt_2, c_vqnt_0, c_vqnt_1, c_vqnt_2, c_vdq_0, c_vdq_2, c_vbs_0, c_vrdi_1, c_acq_1, c_rel_0, c_pref_1, Scope.ofCode_code, bit_getLsbD]; rfl))

theorem barD (m : Bool) (id : BitVec 5) : Statement (.barD m id) :=
  fun hw _ => decode_of_parse hw (((parse_layC _ _ _).trans
    ((show ∀ x, parse5 m 14 x = parseBar m (x.extractLsb' 21 2) (x.extractLsb' 16 5) (x.extractLsb' 10 6) from fun _ => rfl) _)).trans (by simp only [c5_18_0, c5_18_1, c6_17_0, c6_17_1, c6_z17_0, c5_9_9_0, c5_9_9_1, c5_9_9_2, c_pub_0, c_pub_1, c_pub_2, c_pub_3, c_join_0, c_join_1, c_join_2, c_joins_0, c_joins_1, c_joins_2, c_bar0_0, c_bar0_1, c_bar0_2, c_bar1_0, c_bar1_1, c_bar1_2, c_bar1_3, c_bar2_0, c_bar2_1, c_bar2_2, c_bar3_0, c_bar3_1, c_bar3_2, c_barwp_0, c_barwp_1, c_barwp_2, c_barwp_3, c_fence_0, c_8_15_0, c_4_19_0, c_vcvt_0, c_vcvt_1, c_vcvt_2, c_vqnt_0, c_vqnt_1, c_vqnt_2, c_vdq_0, c_vdq_2, c_vbs_0, c_vrdi_1, c_acq_1, c_rel_0, c_pref_1, Scope.ofCode_code, bit_getLsbD]; rfl))

theorem barJ (m : Bool) (id : BitVec 5) : Statement (.barJ m id) :=
  fun hw _ => decode_of_parse hw (((parse_layC _ _ _).trans
    ((show ∀ x, parse5 m 14 x = parseBar m (x.extractLsb' 21 2) (x.extractLsb' 16 5) (x.extractLsb' 10 6) from fun _ => rfl) _)).trans (by simp only [c5_18_0, c5_18_1, c6_17_0, c6_17_1, c6_z17_0, c5_9_9_0, c5_9_9_1, c5_9_9_2, c_pub_0, c_pub_1, c_pub_2, c_pub_3, c_join_0, c_join_1, c_join_2, c_joins_0, c_joins_1, c_joins_2, c_bar0_0, c_bar0_1, c_bar0_2, c_bar1_0, c_bar1_1, c_bar1_2, c_bar1_3, c_bar2_0, c_bar2_1, c_bar2_2, c_bar3_0, c_bar3_1, c_bar3_2, c_barwp_0, c_barwp_1, c_barwp_2, c_barwp_3, c_fence_0, c_8_15_0, c_4_19_0, c_vcvt_0, c_vcvt_1, c_vcvt_2, c_vqnt_0, c_vqnt_1, c_vqnt_2, c_vdq_0, c_vdq_2, c_vbs_0, c_vrdi_1, c_acq_1, c_rel_0, c_pref_1, Scope.ofCode_code, bit_getLsbD]; rfl))

theorem barwp (m : Bool) (id : BitVec 5) (r : SReg) : Statement (.barwp m id r) :=
  fun hw _ => decode_of_parse hw (((parse_layC _ _ _).trans
    ((show ∀ x, parse5 m 15 x = some (.barwp m (x.extractLsb' 16 5) (x.extractLsb' 10 6)) from fun _ => rfl) _)).trans (by simp only [c5_18_0, c5_18_1, c6_17_0, c6_17_1, c6_z17_0, c5_9_9_0, c5_9_9_1, c5_9_9_2, c_pub_0, c_pub_1, c_pub_2, c_pub_3, c_join_0, c_join_1, c_join_2, c_joins_0, c_joins_1, c_joins_2, c_bar0_0, c_bar0_1, c_bar0_2, c_bar1_0, c_bar1_1, c_bar1_2, c_bar1_3, c_bar2_0, c_bar2_1, c_bar2_2, c_bar3_0, c_bar3_1, c_bar3_2, c_barwp_0, c_barwp_1, c_barwp_2, c_barwp_3, c_fence_0, c_8_15_0, c_4_19_0, c_vcvt_0, c_vcvt_1, c_vcvt_2, c_vqnt_0, c_vqnt_1, c_vqnt_2, c_vdq_0, c_vdq_2, c_vbs_0, c_vrdi_1, c_acq_1, c_rel_0, c_pref_1, Scope.ofCode_code, bit_getLsbD]))

theorem fence (m : Bool) (scope : Scope) : Statement (.fence m scope) :=
  fun hw _ => decode_of_parse hw (((parse_layC _ _ _).trans
    ((show ∀ x, parse5 m 16 x = (Scope.ofCode (x.extractLsb' 20 3)).map fun sc => .fence m sc from fun _ => rfl) _)).trans (by simp only [c5_18_0, c5_18_1, c6_17_0, c6_17_1, c6_z17_0, c5_9_9_0, c5_9_9_1, c5_9_9_2, c_pub_0, c_pub_1, c_pub_2, c_pub_3, c_join_0, c_join_1, c_join_2, c_joins_0, c_joins_1, c_joins_2, c_bar0_0, c_bar0_1, c_bar0_2, c_bar1_0, c_bar1_1, c_bar1_2, c_bar1_3, c_bar2_0, c_bar2_1, c_bar2_2, c_bar3_0, c_bar3_1, c_bar3_2, c_barwp_0, c_barwp_1, c_barwp_2, c_barwp_3, c_fence_0, c_8_15_0, c_4_19_0, c_vcvt_0, c_vcvt_1, c_vcvt_2, c_vqnt_0, c_vqnt_1, c_vqnt_2, c_vdq_0, c_vdq_2, c_vbs_0, c_vrdi_1, c_acq_1, c_rel_0, c_pref_1, Scope.ofCode_code, bit_getLsbD]; rfl))

theorem qfence (m : Bool) (mask : BitVec 8) : Statement (.qfence m mask) :=
  fun hw _ => decode_of_parse hw (((parse_layC _ _ _).trans
    ((show ∀ x, parse5 m 17 x = some (.qfence m (x.extractLsb' 15 8)) from fun _ => rfl) _)).trans (by simp only [c5_18_0, c5_18_1, c6_17_0, c6_17_1, c6_z17_0, c5_9_9_0, c5_9_9_1, c5_9_9_2, c_pub_0, c_pub_1, c_pub_2, c_pub_3, c_join_0, c_join_1, c_join_2, c_joins_0, c_joins_1, c_joins_2, c_bar0_0, c_bar0_1, c_bar0_2, c_bar1_0, c_bar1_1, c_bar1_2, c_bar1_3, c_bar2_0, c_bar2_1, c_bar2_2, c_bar3_0, c_bar3_1, c_bar3_2, c_barwp_0, c_barwp_1, c_barwp_2, c_barwp_3, c_fence_0, c_8_15_0, c_4_19_0, c_vcvt_0, c_vcvt_1, c_vcvt_2, c_vqnt_0, c_vqnt_1, c_vqnt_2, c_vdq_0, c_vdq_2, c_vbs_0, c_vrdi_1, c_acq_1, c_rel_0, c_pref_1, Scope.ofCode_code, bit_getLsbD]))

theorem twait (m : Bool) (r : SReg) : Statement (.twait m r) :=
  fun hw _ => decode_of_parse hw (((parse_layC _ _ _).trans
    ((show ∀ x, parse5 m 18 x = some (.twait m (x.extractLsb' 17 6)) from fun _ => rfl) _)).trans (by simp only [c5_18_0, c5_18_1, c6_17_0, c6_17_1, c6_z17_0, c5_9_9_0, c5_9_9_1, c5_9_9_2, c_pub_0, c_pub_1, c_pub_2, c_pub_3, c_join_0, c_join_1, c_join_2, c_joins_0, c_joins_1, c_joins_2, c_bar0_0, c_bar0_1, c_bar0_2, c_bar1_0, c_bar1_1, c_bar1_2, c_bar1_3, c_bar2_0, c_bar2_1, c_bar2_2, c_bar3_0, c_bar3_1, c_bar3_2, c_barwp_0, c_barwp_1, c_barwp_2, c_barwp_3, c_fence_0, c_8_15_0, c_4_19_0, c_vcvt_0, c_vcvt_1, c_vcvt_2, c_vqnt_0, c_vqnt_1, c_vqnt_2, c_vdq_0, c_vdq_2, c_vbs_0, c_vrdi_1, c_acq_1, c_rel_0, c_pref_1, Scope.ofCode_code, bit_getLsbD]))

theorem mwait (m : Bool) (r : SReg) : Statement (.mwait m r) :=
  fun hw _ => decode_of_parse hw (((parse_layC _ _ _).trans
    ((show ∀ x, parse5 m 19 x = some (.mwait m (x.extractLsb' 17 6)) from fun _ => rfl) _)).trans (by simp only [c5_18_0, c5_18_1, c6_17_0, c6_17_1, c6_z17_0, c5_9_9_0, c5_9_9_1, c5_9_9_2, c_pub_0, c_pub_1, c_pub_2, c_pub_3, c_join_0, c_join_1, c_join_2, c_joins_0, c_joins_1, c_joins_2, c_bar0_0, c_bar0_1, c_bar0_2, c_bar1_0, c_bar1_1, c_bar1_2, c_bar1_3, c_bar2_0, c_bar2_1, c_bar2_2, c_bar3_0, c_bar3_1, c_bar3_2, c_barwp_0, c_barwp_1, c_barwp_2, c_barwp_3, c_fence_0, c_8_15_0, c_4_19_0, c_vcvt_0, c_vcvt_1, c_vcvt_2, c_vqnt_0, c_vqnt_1, c_vqnt_2, c_vdq_0, c_vdq_2, c_vbs_0, c_vrdi_1, c_acq_1, c_rel_0, c_pref_1, Scope.ofCode_code, bit_getLsbD]))

theorem rpoll (m : Bool) (d : SReg) : Statement (.rpoll m d) :=
  fun hw _ => decode_of_parse hw (((parse_layC _ _ _).trans
    ((show ∀ x, parse5 m 20 x = some (.rpoll m (x.extractLsb' 17 6)) from fun _ => rfl) _)).trans (by simp only [c5_18_0, c5_18_1, c6_17_0, c6_17_1, c6_z17_0, c5_9_9_0, c5_9_9_1, c5_9_9_2, c_pub_0, c_pub_1, c_pub_2, c_pub_3, c_join_0, c_join_1, c_join_2, c_joins_0, c_joins_1, c_joins_2, c_bar0_0, c_bar0_1, c_bar0_2, c_bar1_0, c_bar1_1, c_bar1_2, c_bar1_3, c_bar2_0, c_bar2_1, c_bar2_2, c_bar3_0, c_bar3_1, c_bar3_2, c_barwp_0, c_barwp_1, c_barwp_2, c_barwp_3, c_fence_0, c_8_15_0, c_4_19_0, c_vcvt_0, c_vcvt_1, c_vcvt_2, c_vqnt_0, c_vqnt_1, c_vqnt_2, c_vdq_0, c_vdq_2, c_vbs_0, c_vrdi_1, c_acq_1, c_rel_0, c_pref_1, Scope.ofCode_code, bit_getLsbD]))

theorem vgive (m : Bool) (n : BitVec 4) : Statement (.vgive m n) :=
  fun hw _ => decode_of_parse hw (((parse_layC _ _ _).trans
    ((show ∀ x, parse5 m 21 x = some (.vgive m (x.extractLsb' 19 4)) from fun _ => rfl) _)).trans (by simp only [c5_18_0, c5_18_1, c6_17_0, c6_17_1, c6_z17_0, c5_9_9_0, c5_9_9_1, c5_9_9_2, c_pub_0, c_pub_1, c_pub_2, c_pub_3, c_join_0, c_join_1, c_join_2, c_joins_0, c_joins_1, c_joins_2, c_bar0_0, c_bar0_1, c_bar0_2, c_bar1_0, c_bar1_1, c_bar1_2, c_bar1_3, c_bar2_0, c_bar2_1, c_bar2_2, c_bar3_0, c_bar3_1, c_bar3_2, c_barwp_0, c_barwp_1, c_barwp_2, c_barwp_3, c_fence_0, c_8_15_0, c_4_19_0, c_vcvt_0, c_vcvt_1, c_vcvt_2, c_vqnt_0, c_vqnt_1, c_vqnt_2, c_vdq_0, c_vdq_2, c_vbs_0, c_vrdi_1, c_acq_1, c_rel_0, c_pref_1, Scope.ofCode_code, bit_getLsbD]))

theorem vclaim (m : Bool) (n : BitVec 4) : Statement (.vclaim m n) :=
  fun hw _ => decode_of_parse hw (((parse_layC _ _ _).trans
    ((show ∀ x, parse5 m 22 x = some (.vclaim m (x.extractLsb' 19 4)) from fun _ => rfl) _)).trans (by simp only [c5_18_0, c5_18_1, c6_17_0, c6_17_1, c6_z17_0, c5_9_9_0, c5_9_9_1, c5_9_9_2, c_pub_0, c_pub_1, c_pub_2, c_pub_3, c_join_0, c_join_1, c_join_2, c_joins_0, c_joins_1, c_joins_2, c_bar0_0, c_bar0_1, c_bar0_2, c_bar1_0, c_bar1_1, c_bar1_2, c_bar1_3, c_bar2_0, c_bar2_1, c_bar2_2, c_bar3_0, c_bar3_1, c_bar3_2, c_barwp_0, c_barwp_1, c_barwp_2, c_barwp_3, c_fence_0, c_8_15_0, c_4_19_0, c_vcvt_0, c_vcvt_1, c_vcvt_2, c_vqnt_0, c_vqnt_1, c_vqnt_2, c_vdq_0, c_vdq_2, c_vbs_0, c_vrdi_1, c_acq_1, c_rel_0, c_pref_1, Scope.ofCode_code, bit_getLsbD]))

theorem exit (m : Bool) : Statement (.exit m) :=
  fun hw _ => decode_of_parse hw ((parse_layC _ _ _).trans rfl)

theorem trap (m : Bool) (code : BitVec 8) : Statement (.trap m code) :=
  fun hw _ => decode_of_parse hw (((parse_layC _ _ _).trans
    ((show ∀ x, parse5 m 24 x = some (.trap m (x.extractLsb' 15 8)) from fun _ => rfl) _)).trans (by simp only [c5_18_0, c5_18_1, c6_17_0, c6_17_1, c6_z17_0, c5_9_9_0, c5_9_9_1, c5_9_9_2, c_pub_0, c_pub_1, c_pub_2, c_pub_3, c_join_0, c_join_1, c_join_2, c_joins_0, c_joins_1, c_joins_2, c_bar0_0, c_bar0_1, c_bar0_2, c_bar1_0, c_bar1_1, c_bar1_2, c_bar1_3, c_bar2_0, c_bar2_1, c_bar2_2, c_bar3_0, c_bar3_1, c_bar3_2, c_barwp_0, c_barwp_1, c_barwp_2, c_barwp_3, c_fence_0, c_8_15_0, c_4_19_0, c_vcvt_0, c_vcvt_1, c_vcvt_2, c_vqnt_0, c_vqnt_1, c_vqnt_2, c_vdq_0, c_vdq_2, c_vbs_0, c_vrdi_1, c_acq_1, c_rel_0, c_pref_1, Scope.ofCode_code, bit_getLsbD]))

theorem tret (m : Bool) : Statement (.tret m) :=
  fun hw _ => decode_of_parse hw ((parse_layC _ _ _).trans rfl)

theorem nop (m : Bool) : Statement (.nop m) :=
  fun hw _ => decode_of_parse hw ((parse_layC _ _ _).trans rfl)

theorem acopy (m : Bool) (d a b : SReg) (q : BitVec 2) : Statement (.acopy m d a b q) :=
  fun hw _ => decode_of_parse hw (((parse_layE1_6 _ _ _ _ _ _).trans
    ((show ∀ d a b f sh acc a5 b5 f5 a7 b8, parse6 m 0 d a b f sh acc a5 b5 f5 a7 b8 = some (.acopy m d a b (f.extractLsb' 0 2)) from fun _ _ _ _ _ _ _ _ _ _ _ => rfl) _ _ _ _ _ _ _ _ _ _ _)).trans (by simp only [pad2in4_1, pad3in4_1, pad3in5_1, pad1in4_1, bit_getLsbD]))

theorem gath (m : Bool) (d a : SReg) : Statement (.gath m d a) :=
  fun hw _ => decode_of_parse hw ((parse_layE1_6 _ _ _ _ _ _).trans rfl)

theorem scat (m : Bool) (d a : SReg) : Statement (.scat m d a) :=
  fun hw _ => decode_of_parse hw ((parse_layE1_6 _ _ _ _ _ _).trans rfl)

theorem mma (m : Bool) (sh : Shape) (acc : BitVec 3) (a b : BitVec 5) (f : BitVec 3) : Statement (.mma m sh acc a b f) :=
  fun hw _ => decode_of_parse hw (((parse_layE2 _ _ _ _ _ _ _).trans
    ((show ∀ d a b f sh acc a5 b5 f5 a7 b8, parse6 m 3 d a b f sh acc a5 b5 f5 a7 b8 = (Shape.ofCode sh).map fun sh => .mma m sh acc a5 b5 (f5.extractLsb' 0 3) from fun _ _ _ _ _ _ _ _ _ _ _ => rfl) _ _ _ _ _ _ _ _ _ _ _)).trans (by simp only [pad3in5_1, Shape.ofCode_code, AccFmt.ofCode_code, bit_getLsbD]; rfl))

theorem mmasp (m : Bool) (sh : Shape) (acc : BitVec 3) (a b : BitVec 5) (f : BitVec 3) : Statement (.mmasp m sh acc a b f) :=
  fun hw _ => decode_of_parse hw (((parse_layE2 _ _ _ _ _ _ _).trans
    ((show ∀ d a b f sh acc a5 b5 f5 a7 b8, parse6 m 4 d a b f sh acc a5 b5 f5 a7 b8 = (Shape.ofCode sh).map fun sh => .mmasp m sh acc a5 b5 (f5.extractLsb' 0 3) from fun _ _ _ _ _ _ _ _ _ _ _ => rfl) _ _ _ _ _ _ _ _ _ _ _)).trans (by simp only [pad3in5_1, Shape.ofCode_code, AccFmt.ofCode_code, bit_getLsbD]; rfl))

theorem mzacc (m : Bool) (sh : Shape) (acc : BitVec 3) : Statement (.mzacc m sh acc) :=
  fun hw _ => decode_of_parse hw (((parse_layE2 _ _ _ _ _ _ _).trans
    ((show ∀ d a b f sh acc a5 b5 f5 a7 b8, parse6 m 5 d a b f sh acc a5 b5 f5 a7 b8 = (Shape.ofCode sh).map fun sh => .mzacc m sh acc from fun _ _ _ _ _ _ _ _ _ _ _ => rfl) _ _ _ _ _ _ _ _ _ _ _)).trans (by simp only [pad3in5_1, Shape.ofCode_code, AccFmt.ofCode_code, bit_getLsbD]; rfl))

theorem mstacc (m : Bool) (sh : Shape) (acc : BitVec 3) (a b : BitVec 5) (fmt : AccFmt) : Statement (.mstacc m sh acc a b fmt) :=
  fun hw _ => decode_of_parse hw (((parse_layE2 _ _ _ _ _ _ _).trans
    ((show ∀ d a b f sh acc a5 b5 f5 a7 b8, parse6 m 6 d a b f sh acc a5 b5 f5 a7 b8 = (Shape.ofCode sh).bind fun sh => (AccFmt.ofCode f5).map fun fmt => .mstacc m sh acc a5 b5 fmt from fun _ _ _ _ _ _ _ _ _ _ _ => rfl) _ _ _ _ _ _ _ _ _ _ _)).trans (by simp only [pad3in5_1, Shape.ofCode_code, AccFmt.ofCode_code, bit_getLsbD]; rfl))

theorem mldacc (m : Bool) (sh : Shape) (acc : BitVec 3) (a b : BitVec 5) (fmt : AccFmt) : Statement (.mldacc m sh acc a b fmt) :=
  fun hw _ => decode_of_parse hw (((parse_layE2 _ _ _ _ _ _ _).trans
    ((show ∀ d a b f sh acc a5 b5 f5 a7 b8, parse6 m 7 d a b f sh acc a5 b5 f5 a7 b8 = (Shape.ofCode sh).bind fun sh => (AccFmt.ofCode f5).map fun fmt => .mldacc m sh acc a5 b5 fmt from fun _ _ _ _ _ _ _ _ _ _ _ => rfl) _ _ _ _ _ _ _ _ _ _ _)).trans (by simp only [pad3in5_1, Shape.ofCode_code, AccFmt.ofCode_code, bit_getLsbD]; rfl))

theorem mfence (m : Bool) (d : SReg) : Statement (.mfence m d) :=
  fun hw _ => decode_of_parse hw ((parse_layE1_6 _ _ _ _ _ _).trans rfl)

theorem coll (m : Bool) (d a : SReg) : Statement (.coll m d a) :=
  fun hw _ => decode_of_parse hw ((parse_layE1_6 _ _ _ _ _ _).trans rfl)

theorem tenq (m : Bool) (a : VReg) (b : Code) : Statement (.tenq m a b) :=
  fun hw _ => decode_of_parse hw ((parse_layM_6 _ _ _ _ _).trans rfl)

theorem tgaina (m : Bool) (a : VReg) (b : Code) : Statement (.tgaina m a b) :=
  fun hw _ => decode_of_parse hw ((parse_layM_6 _ _ _ _ _).trans rfl)

theorem tgainm (m : Bool) (a : VReg) (b : Code) : Statement (.tgainm m a b) :=
  fun hw _ => decode_of_parse hw ((parse_layM_6 _ _ _ _ _).trans rfl)

theorem tgains (m : Bool) (a : VReg) (b : Code) : Statement (.tgains m a b) :=
  fun hw _ => decode_of_parse hw ((parse_layM_6 _ _ _ _ _).trans rfl)

theorem tdone (m : Bool) (a : VReg) : Statement (.tdone m a) :=
  fun hw _ => decode_of_parse hw ((parse_layM_6 _ _ _ _ _).trans rfl)

theorem tjset (m : Bool) (a : VReg) (b : Code) : Statement (.tjset m a b) :=
  fun hw _ => decode_of_parse hw ((parse_layM_6 _ _ _ _ _).trans rfl)

theorem hres (m : Bool) (d : SReg) (heap : BitVec 6) : Statement (.hres m d heap) :=
  fun hw _ => decode_of_parse hw ((parse_layE1_6 _ _ _ _ _ _).trans rfl)

theorem ringp (m : Bool) (d a : SReg) (ring : BitVec 2) : Statement (.ringp m d a ring) :=
  fun hw _ => decode_of_parse hw (((parse_layE1_6 _ _ _ _ _ _).trans
    ((show ∀ d a b f sh acc a5 b5 f5 a7 b8, parse6 m 17 d a b f sh acc a5 b5 f5 a7 b8 = some (.ringp m d a (f.extractLsb' 0 2)) from fun _ _ _ _ _ _ _ _ _ _ _ => rfl) _ _ _ _ _ _ _ _ _ _ _)).trans (by simp only [pad2in4_1, pad3in4_1, pad3in5_1, pad1in4_1, bit_getLsbD]))

theorem ringc (m : Bool) (d a : SReg) (ring : BitVec 2) : Statement (.ringc m d a ring) :=
  fun hw _ => decode_of_parse hw (((parse_layE1_6 _ _ _ _ _ _).trans
    ((show ∀ d a b f sh acc a5 b5 f5 a7 b8, parse6 m 18 d a b f sh acc a5 b5 f5 a7 b8 = some (.ringc m d a (f.extractLsb' 0 2)) from fun _ _ _ _ _ _ _ _ _ _ _ => rfl) _ _ _ _ _ _ _ _ _ _ _)).trans (by simp only [pad2in4_1, pad3in4_1, pad3in5_1, pad1in4_1, bit_getLsbD]))

theorem ringq (m : Bool) (d : SReg) (ring : BitVec 2) : Statement (.ringq m d ring) :=
  fun hw _ => decode_of_parse hw (((parse_layE1_6 _ _ _ _ _ _).trans
    ((show ∀ d a b f sh acc a5 b5 f5 a7 b8, parse6 m 19 d a b f sh acc a5 b5 f5 a7 b8 = some (.ringq m d (f.extractLsb' 0 2)) from fun _ _ _ _ _ _ _ _ _ _ _ => rfl) _ _ _ _ _ _ _ _ _ _ _)).trans (by simp only [pad2in4_1, pad3in4_1, pad3in5_1, pad1in4_1, bit_getLsbD]))

theorem smap (m : Bool) (d a : SReg) (zero : Bool) : Statement (.smap m d a zero) :=
  fun hw _ => decode_of_parse hw (((parse_layE1_6 _ _ _ _ _ _).trans
    ((show ∀ d a b f sh acc a5 b5 f5 a7 b8, parse6 m 20 d a b f sh acc a5 b5 f5 a7 b8 = some (.smap m d a (f.getLsbD 0)) from fun _ _ _ _ _ _ _ _ _ _ _ => rfl) _ _ _ _ _ _ _ _ _ _ _)).trans (by simp only [pad2in4_1, pad3in4_1, pad3in5_1, pad1in4_1, bit_getLsbD]))

theorem sunmap (m : Bool) (d a : SReg) (wb : Bool) : Statement (.sunmap m d a wb) :=
  fun hw _ => decode_of_parse hw (((parse_layE1_6 _ _ _ _ _ _).trans
    ((show ∀ d a b f sh acc a5 b5 f5 a7 b8, parse6 m 21 d a b f sh acc a5 b5 f5 a7 b8 = some (.sunmap m d a (f.getLsbD 0)) from fun _ _ _ _ _ _ _ _ _ _ _ => rfl) _ _ _ _ _ _ _ _ _ _ _)).trans (by simp only [pad2in4_1, pad3in4_1, pad3in5_1, pad1in4_1, bit_getLsbD]))

theorem cdrop (m : Bool) (d a b : SReg) : Statement (.cdrop m d a b) :=
  fun hw _ => decode_of_parse hw ((parse_layE1_6 _ _ _ _ _ _).trans rfl)

theorem cqry (m : Bool) (d a : SReg) : Statement (.cqry m d a) :=
  fun hw _ => decode_of_parse hw ((parse_layE1_6 _ _ _ _ _ _).trans rfl)

theorem l2pin (m : Bool) (ways a b : SReg) (slot : BitVec 3) : Statement (.l2pin m ways a b slot) :=
  fun hw _ => decode_of_parse hw (((parse_layE1_6 _ _ _ _ _ _).trans
    ((show ∀ d a b f sh acc a5 b5 f5 a7 b8, parse6 m 24 d a b f sh acc a5 b5 f5 a7 b8 = some (.l2pin m d a b (f.extractLsb' 0 3)) from fun _ _ _ _ _ _ _ _ _ _ _ => rfl) _ _ _ _ _ _ _ _ _ _ _)).trans (by simp only [pad2in4_1, pad3in4_1, pad3in5_1, pad1in4_1, bit_getLsbD]))

theorem l2unpin (m : Bool) (slot : BitVec 3) : Statement (.l2unpin m slot) :=
  fun hw _ => decode_of_parse hw (((parse_layE1_6 _ _ _ _ _ _).trans
    ((show ∀ d a b f sh acc a5 b5 f5 a7 b8, parse6 m 25 d a b f sh acc a5 b5 f5 a7 b8 = some (.l2unpin m (f.extractLsb' 0 3)) from fun _ _ _ _ _ _ _ _ _ _ _ => rfl) _ _ _ _ _ _ _ _ _ _ _)).trans (by simp only [pad2in4_1, pad3in4_1, pad3in5_1, pad1in4_1, bit_getLsbD]))

theorem cinv (m : Bool) (d a b : SReg) : Statement (.cinv m d a b) :=
  fun hw _ => decode_of_parse hw (((parse_layE1_6 _ _ _ _ _ _).trans
    ((show ∀ d a b f sh acc a5 b5 f5 a7 b8, parse6 m 26 d a b f sh acc a5 b5 f5 a7 b8 = some (if f.getLsbD 0 then .cinvI m d a b else .cinv m d a b) from fun _ _ _ _ _ _ _ _ _ _ _ => rfl) _ _ _ _ _ _ _ _ _ _ _)).trans rfl)

theorem cinvI (m : Bool) (d a b : SReg) : Statement (.cinvI m d a b) :=
  fun hw _ => decode_of_parse hw (((parse_layE1_6 _ _ _ _ _ _).trans
    ((show ∀ d a b f sh acc a5 b5 f5 a7 b8, parse6 m 26 d a b f sh acc a5 b5 f5 a7 b8 = some (if f.getLsbD 0 then .cinvI m d a b else .cinv m d a b) from fun _ _ _ _ _ _ _ _ _ _ _ => rfl) _ _ _ _ _ _ _ _ _ _ _)).trans rfl)

theorem cwb (m : Bool) (d a b : SReg) : Statement (.cwb m d a b) :=
  fun hw _ => decode_of_parse hw ((parse_layE1_6 _ _ _ _ _ _).trans rfl)

theorem xmod (k : BitVec 5) (z : Bool) (rnd : BitVec 3) (v4 : VReg) (v4ok : Bool) (aux : BitVec 5) : Statement (.xmod k z rnd v4 v4ok aux) :=
  fun hw _ => decode_of_parse hw (((parse_layH _ _ _).trans
    ((show ∀ d a f x d7 a7 b8, parse7 false 0 d a f x d7 a7 b8 = some (.xmod (x.extractLsb' 17 5) (x.getLsbD 16) (x.extractLsb' 13 3) (x.extractLsb' 6 7) (x.getLsbD 5) (x.extractLsb' 0 5)) from fun _ _ _ _ _ _ _ => rfl) _ _ _ _ _ _ _)).trans (by simp only [pad3in22_1, pad16in22_1, h_xmod_0, h_xmod_1, h_xmod_2, h_xmod_3, h_xmod_4, h_xmod_5, bit_getLsbD]))

theorem limm (p : BitVec 22) : Statement (.limm p) :=
  fun hw _ => decode_of_parse hw ((parse_layH _ _ _).trans rfl)

theorem limmh (h : BitVec 16) : Statement (.limmh h) :=
  fun hw _ => decode_of_parse hw (((parse_layH _ _ _).trans
    ((show ∀ d a f x d7 a7 b8, parse7 false 2 d a f x d7 a7 b8 = some (.limmh (x.extractLsb' 0 16)) from fun _ _ _ _ _ _ _ => rfl) _ _ _ _ _ _ _)).trans (by simp only [pad3in22_1, pad16in22_1, h_xmod_0, h_xmod_1, h_xmod_2, h_xmod_3, h_xmod_4, h_xmod_5, bit_getLsbD]))

theorem limml (h : BitVec 16) : Statement (.limml h) :=
  fun hw _ => decode_of_parse hw (((parse_layH _ _ _).trans
    ((show ∀ d a f x d7 a7 b8, parse7 false 3 d a f x d7 a7 b8 = some (.limml (x.extractLsb' 0 16)) from fun _ _ _ _ _ _ _ => rfl) _ _ _ _ _ _ _)).trans (by simp only [pad3in22_1, pad16in22_1, h_xmod_0, h_xmod_1, h_xmod_2, h_xmod_3, h_xmod_4, h_xmod_5, bit_getLsbD]))

theorem limmf (p : BitVec 22) : Statement (.limmf p) :=
  fun hw _ => decode_of_parse hw ((parse_layH _ _ _).trans rfl)

theorem sched (m : Bool) (lvl : BitVec 3) : Statement (.sched m lvl) :=
  fun hw _ => decode_of_parse hw (((parse_layH _ _ _).trans
    ((show ∀ d a f x d7 a7 b8, parse7 m 5 d a f x d7 a7 b8 = some (.sched m (x.extractLsb' 0 3)) from fun _ _ _ _ _ _ _ => rfl) _ _ _ _ _ _ _)).trans (by simp only [pad3in22_1, pad16in22_1, h_xmod_0, h_xmod_1, h_xmod_2, h_xmod_3, h_xmod_4, h_xmod_5, bit_getLsbD]))

theorem sysld (m : Bool) (d a : SReg) : Statement (.sysld m d a) :=
  fun hw _ => decode_of_parse hw ((parse_layE1_7 _ _ _ _ _ _).trans rfl)

theorem sysst (m : Bool) (d a : SReg) : Statement (.sysst m d a) :=
  fun hw _ => decode_of_parse hw ((parse_layE1_7 _ _ _ _ _ _).trans rfl)

theorem tlbinv (m : Bool) (a : SReg) : Statement (.tlbinv m a) :=
  fun hw _ => decode_of_parse hw ((parse_layE1_7 _ _ _ _ _ _).trans rfl)

theorem cntrd (m : Bool) (d : SReg) (meter : BitVec 4) : Statement (.cntrd m d meter) :=
  fun hw _ => decode_of_parse hw ((parse_layE1_7 _ _ _ _ _ _).trans rfl)

theorem trace (m : Bool) (a : SReg) : Statement (.trace m a) :=
  fun hw _ => decode_of_parse hw ((parse_layE1_7 _ _ _ _ _ _).trans rfl)

theorem brkpt (m : Bool) : Statement (.brkpt m) :=
  fun hw _ => decode_of_parse hw ((parse_layE1_7 _ _ _ _ _ _).trans rfl)

theorem waiti (m : Bool) : Statement (.waiti m) :=
  fun hw _ => decode_of_parse hw ((parse_layE1_7 _ _ _ _ _ _).trans rfl)

theorem metsnap (m : Bool) (t : SReg) : Statement (.metsnap m t) :=
  fun hw _ => decode_of_parse hw ((parse_layE1_7 _ _ _ _ _ _).trans rfl)

theorem vidivS32 (m : Bool) (d a : VReg) (b : Code) : Statement (.vidivS32 m d a b) :=
  fun hw _ => decode_of_parse hw ((parse_layM_7 _ _ _ _ _).trans rfl)

theorem emulation (m : Bool) (op : BitVec 4) (x : BitVec 22) : Statement (.emulation m op x) :=
  fun hw _ => decode_of_parse hw (by
    have h : op ≠ 0 := by simpa [Instr.wf] using hw
    simp only [encode, parse, layH_m, layH_cls, layH_op, layH_x]
    exact parse7_emulation _ _ _ _ _ _ _ _ _ h)

theorem strandWake (core slot strand : Nat) : Statement (.strandWake core slot strand) :=
  fun _ h => absurd h (by simp [Instr.isWord])

theorem resultWrite (core slot idx : Nat) (lanes : Lanes) : Statement (.resultWrite core slot idx lanes) :=
  fun _ h => absurd h (by simp [Instr.isWord])

theorem ssqEntryRelease (core slot id : Nat) : Statement (.ssqEntryRelease core slot id) :=
  fun _ h => absurd h (by simp [Instr.isWord])

theorem pageWalk (core slot id : Nat) : Statement (.pageWalk core slot id) :=
  fun _ h => absurd h (by simp [Instr.isWord])

theorem takeTrap (core slot : Nat) : Statement (.takeTrap core slot) :=
  fun _ h => absurd h (by simp [Instr.isWord])

theorem contextEnd (core slot : Nat) : Statement (.contextEnd core slot) :=
  fun _ h => absurd h (by simp [Instr.isWord])

theorem waveEnd (core slot : Nat) : Statement (.waveEnd core slot) :=
  fun _ h => absurd h (by simp [Instr.isWord])

theorem acopyComplete (blk q : Nat) : Statement (.acopyComplete blk q) :=
  fun _ h => absurd h (by simp [Instr.isWord])

theorem gathScatComplete (blk : Nat) : Statement (.gathScatComplete blk) :=
  fun _ h => absurd h (by simp [Instr.isWord])

theorem sunmapComplete (core slot id : Nat) : Statement (.sunmapComplete core slot id) :=
  fun _ h => absurd h (by simp [Instr.isWord])

theorem cdropComplete (core slot id : Nat) : Statement (.cdropComplete core slot id) :=
  fun _ h => absurd h (by simp [Instr.isWord])

theorem cinvCwbComplete (core slot id : Nat) : Statement (.cinvCwbComplete core slot id) :=
  fun _ h => absurd h (by simp [Instr.isWord])

theorem metsnapComplete (core slot id : Nat) : Statement (.metsnapComplete core slot id) :=
  fun _ h => absurd h (by simp [Instr.isWord])

theorem matrixOpComplete (blk : Nat) : Statement (.matrixOpComplete blk) :=
  fun _ h => absurd h (by simp [Instr.isWord])

theorem batchComplete (blk : Nat) : Statement (.batchComplete blk) :=
  fun _ h => absurd h (by simp [Instr.isWord])

theorem heapOpPerform (part heap : Nat) : Statement (.heapOpPerform part heap) :=
  fun _ h => absurd h (by simp [Instr.isWord])

theorem tdoneParentUpdate (part heap : Nat) : Statement (.tdoneParentUpdate part heap) :=
  fun _ h => absurd h (by simp [Instr.isWord])

theorem turnstilePop (part heap : Nat) : Statement (.turnstilePop part heap) :=
  fun _ h => absurd h (by simp [Instr.isWord])

theorem heapRunEnd (part heap : Nat) : Statement (.heapRunEnd part heap) :=
  fun _ h => absurd h (by simp [Instr.isWord])

theorem registerWrite (space : RegSpace) (off : Nat) (val : DWord) : Statement (.registerWrite space off val) :=
  fun _ h => absurd h (by simp [Instr.isWord])

theorem packetAccept (vi q : Nat) : Statement (.packetAccept vi q) :=
  fun _ h => absurd h (by simp [Instr.isWord])

theorem packetStart (id : Nat) : Statement (.packetStart id) :=
  fun _ h => absurd h (by simp [Instr.isWord])

theorem grid (id : Nat) : Statement (.grid id) :=
  fun _ h => absurd h (by simp [Instr.isWord])

theorem heapConfigure (id : Nat) : Statement (.heapConfigure id) :=
  fun _ h => absurd h (by simp [Instr.isWord])

theorem heapRun (id : Nat) : Statement (.heapRun id) :=
  fun _ h => absurd h (by simp [Instr.isWord])

theorem heapRelease (id : Nat) : Statement (.heapRelease id) :=
  fun _ h => absurd h (by simp [Instr.isWord])

theorem marker (id : Nat) : Statement (.marker id) :=
  fun _ h => absurd h (by simp [Instr.isWord])

theorem packetComplete (id : Nat) : Statement (.packetComplete id) :=
  fun _ h => absurd h (by simp [Instr.isWord])

theorem ticketDispatch (part core : Nat) : Statement (.ticketDispatch part core) :=
  fun _ h => absurd h (by simp [Instr.isWord])

theorem contextSwitch (part : Nat) : Statement (.contextSwitch part) :=
  fun _ h => absurd h (by simp [Instr.isWord])

theorem schedulingPass (part : Nat) (maps : List (Nat × Nat × Nat)) : Statement (.schedulingPass part maps) :=
  fun _ h => absurd h (by simp [Instr.isWord])

theorem partitionReconfigure (layout : List PartSpec) : Statement (.partitionReconfigure layout) :=
  fun _ h => absurd h (by simp [Instr.isWord])

theorem illegalWord (w : Word) : Statement (.illegalWord w) :=
  fun _ h => absurd h (by simp [Instr.isWord])

theorem collComplete (blk : Nat) (inp : CollInput) : Statement (.collComplete blk inp) :=
  fun _ h => absurd h (by simp [Instr.isWord])

theorem notify (vi q : Nat) (idx : Word) : Statement (.notify vi q idx) :=
  fun _ h => absurd h (by simp [Instr.isWord])

theorem hostWrite (w : Window) (off : Nat) (data : List Byte) : Statement (.hostWrite w off data) :=
  fun _ h => absurd h (by simp [Instr.isWord])

theorem hostRead (w : Window) (off n : Nat) : Statement (.hostRead w off n) :=
  fun _ h => absurd h (by simp [Instr.isWord])

theorem dumpKey (vi : Nat) (key : BitVec 256) : Statement (.dumpKey vi key) :=
  fun _ h => absurd h (by simp [Instr.isWord])

theorem laneCycleRecord (core quarter : Nat) : Statement (.laneCycleRecord core quarter) :=
  fun _ h => absurd h (by simp [Instr.isWord])

theorem remoteAccess (src : RemoteSource) (op : RemoteOp) : Statement (.remoteAccess src op) :=
  fun _ h => absurd h (by simp [Instr.isWord])

theorem dump (req : DumpRequest) : Statement (.dump req) :=
  fun _ h => absurd h (by simp [Instr.isWord])

theorem resume (vi q idx : Nat) (x y z : Nat) : Statement (.resume vi q idx x y z) :=
  fun _ h => absurd h (by simp [Instr.isWord])

theorem stop (vi q idx : Nat) (x y z : Nat) : Statement (.stop vi q idx x y z) :=
  fun _ h => absurd h (by simp [Instr.isWord])

theorem settrace (vi : Nat) (base : DWord) (size : Nat) (kinds : BitVec 8) : Statement (.settrace vi base size kinds) :=
  fun _ h => absurd h (by simp [Instr.isWord])

theorem getbins (vi : Nat) : Statement (.getbins vi) :=
  fun _ h => absurd h (by simp [Instr.isWord])

theorem setbin (vi bin : Nat) (base limit : DWord) (binVi : Nat) : Statement (.setbin vi bin base limit binVi) :=
  fun _ h => absurd h (by simp [Instr.isWord])

theorem getmemb (vi : Nat) : Statement (.getmemb vi) :=
  fun _ h => absurd h (by simp [Instr.isWord])

theorem getsnap (vi : Nat) : Statement (.getsnap vi) :=
  fun _ h => absurd h (by simp [Instr.isWord])

theorem setjob (vi : Nat) (job : DWord) : Statement (.setjob vi job) :=
  fun _ h => absurd h (by simp [Instr.isWord])

theorem overTemperature (part : Nat) : Statement (.overTemperature part) :=
  fun _ h => absurd h (by simp [Instr.isWord])

theorem linkFailure (port : Nat) : Statement (.linkFailure port) :=
  fun _ h => absurd h (by simp [Instr.isWord])

theorem linkUp (port partner partnerPort : Nat) (ident : BitVec 256) : Statement (.linkUp port partner partnerPort ident) :=
  fun _ h => absurd h (by simp [Instr.isWord])

theorem activationAlert (stack chan bank : Nat) : Statement (.activationAlert stack chan bank) :=
  fun _ h => absurd h (by simp [Instr.isWord])

theorem refreshInterval (stack chan bank : Nat) : Statement (.refreshInterval stack chan bank) :=
  fun _ h => absurd h (by simp [Instr.isWord])

theorem gracePeriodEnd (base : Nat) : Statement (.gracePeriodEnd base) :=
  fun _ h => absurd h (by simp [Instr.isWord])

theorem extentRelease (base : Nat) (forced : Bool) : Statement (.extentRelease base forced) :=
  fun _ h => absurd h (by simp [Instr.isWord])

theorem extentAdd (base len vi : Nat) : Statement (.extentAdd base len vi) :=
  fun _ h => absurd h (by simp [Instr.isWord])

theorem sliceEnd (part : Nat) : Statement (.sliceEnd part) :=
  fun _ h => absurd h (by simp [Instr.isWord])

theorem strandCapped (core slot strand : Nat) : Statement (.strandCapped core slot strand) :=
  fun _ h => absurd h (by simp [Instr.isWord])

theorem fetchFill (core vi : Nat) (va : DWord) : Statement (.fetchFill core vi va) :=
  fun _ h => absurd h (by simp [Instr.isWord])

theorem roleToLoader (blk : Nat) : Statement (.roleToLoader blk) :=
  fun _ h => absurd h (by simp [Instr.isWord])

theorem roleToCompute (blk : Nat) : Statement (.roleToCompute blk) :=
  fun _ h => absurd h (by simp [Instr.isWord])

theorem powerOverrun : Statement .powerOverrun :=
  fun _ h => absurd h (by simp [Instr.isWord])

theorem settrap : Statement .settrap :=
  fun _ h => absurd h (by simp [Instr.isWord])

theorem setroot : Statement .setroot :=
  fun _ h => absurd h (by simp [Instr.isWord])

theorem group : Statement .group :=
  fun _ h => absurd h (by simp [Instr.isWord])

theorem schedp : Statement .schedp :=
  fun _ h => absurd h (by simp [Instr.isWord])

theorem assign : Statement .assign :=
  fun _ h => absurd h (by simp [Instr.isWord])

theorem resetvi : Statement .resetvi :=
  fun _ h => absurd h (by simp [Instr.isWord])

theorem extdone : Statement .extdone :=
  fun _ h => absurd h (by simp [Instr.isWord])

theorem imggo : Statement .imggo :=
  fun _ h => absurd h (by simp [Instr.isWord])

theorem powerOn : Statement .powerOn :=
  fun _ h => absurd h (by simp [Instr.isWord])

end Laws.RoundTrip

end Sys2Proof
end

