-- ==== Sys2Proof/Laws/Words.lean ====
section
/-! SUPPORT. One lemma for each shared meaning of a family of words: what it answers when the word issues. -/

namespace Sys2Proof.Machine

theorem flatMap_single {f : α → β} {l : List α} : l.flatMap (fun a => [f a]) = l.map f := (List.map_eq_flatMap ..).symm

/-- Pairs filtered by a test and projected to their first parts. -/
theorem map_fst_filter (l : List Nat) (g : Nat → β) (p : Nat × β → Bool) :
    ((l.map fun x => (x, g x)).filter p).map (·.1) = l.filter fun x => p (x, g x) := by
  induction l with
  | nil => rfl
  | cons a t ih => simp only [List.map_cons, List.filter_cons]; split <;> simp_all

theorem State.floatOp_issues {s : State} {i : Instr} {m : Bool} {ty : FTy} {d a : VReg} {b : Code} {fused : Bool} {f : FloatFn}
    (h : s.FloatIssues i ty d a b) : s.floatOp i m ty d a b fused f = .next (s.wrote i m (s.floatResult ty d a b fused f)) := by
  refine (State.run_result h).trans ?_
  simp only [State.floatResult, State.floatLanes, List.map_map]

theorem State.intOp_issues {s : State} {i : Instr} {m : Bool} {ty : ITy} {d a : VReg} {b : Code} {fused : Bool} {f : IntFn}
    (h : s.IntIssues i ty d a b) : s.intOp i m ty d a b fused f = .next (s.wrote i m (s.intResult ty d a b fused f)) :=
  State.run_result h

theorem State.shiftOp_issues {s : State} {i : Instr} {m : Bool} {ty : ITy} {d a : VReg} {b : Code} {f : Nat → Nat → Nat → Nat}
    (h : s.ShiftIssues i ty d a b) : s.shiftOp i m ty d a b f = .next (s.wrote i m (s.shiftResult ty d a b f)) :=
  State.run_result h

theorem State.miscOp_issues {s : State} {i : Instr} {m : Bool} {d : VReg} {srcs : List VReg} {k : Kind} {b : Option Code} {f : Nat → Nat}
    (h : s.MiscIssues i d srcs k b) : s.miscOp i m d srcs k b f = .next (s.wrote i m (s.laneResult d f)) :=
  State.run_result h

theorem State.convOp_issues {s : State} {i : Instr} {m : Bool} {d a : VReg} {sw dw : Bool} {f : Nat → Nat → FRes}
    (h : s.CvtIssues i d a sw dw) : s.convOp i m d a sw dw f = .next (s.wrote i m (s.cvtResult d a sw dw f)) := by
  refine (State.run_result h).trans ?_
  simp only [State.cvtResult, List.map_map]
  rfl

theorem State.sfuOp_issues {s : State} {i : Instr} {m : Bool} {d : VReg} {b : Code} {f : FVal → FRes}
    (h : s.SfuIssues i d b) : s.sfuOp i m d b f = .next (s.wrote i m (s.sfuResult d b f)) := by
  refine (State.run_result h).trans ?_
  simp only [State.sfuResult, List.map_map]
  rfl

theorem State.cmpOp_issues {s : State} {i : Instr} {m : Bool} {k : KReg} {a : VReg} {b : Code} {kd : Kind}
    {f : Nat → Nat → Bool × BitVec 5} (h : s.CmpIssues i k a b kd) :
    s.cmpOp i m k a b kd f = .next (s.wrote i m (s.cmpResult k a b kd f)) := by
  refine (State.run_result h).trans ?_
  simp only [State.cmpResult, map_fst_filter, List.map_map]
  rfl

theorem scalarOut_word (d : SReg) (x : Word) : scalarOut d x.toNat = if d = 63 then [] else [(d.toNat, x)] := by simp [scalarOut]

theorem State.scal_issues {s : State} {i : Instr} {m : Bool} {d a : SReg} {b : SOp} {f : Word → Word → Word}
    (h : s.ScalIssues i d a b) : s.scal i m d a b f = .next (s.wroteS i m d (f (s.sa a) (s.sop b))) := by
  refine (State.run_result h).trans ?_
  rw [scalarOut_word]; rfl

theorem State.scalUn_issues {s : State} {i : Instr} {m : Bool} {d a : SReg} {f : Word → Nat}
    (h : s.Issues i (s.sdest d.toNat 1) [a.toNat] []) :
    s.scalUn i m d a f = .next (s.wroteS i m d (BitVec.ofNat 32 (f (s.sa a)))) := State.run_result h

theorem pairOut_words (d : SReg) (x : DWord) :
    pairOut d x = if d = 63 then [] else [(d.toNat, x.extractLsb' 0 32), (d.toNat + 1, x.extractLsb' 32 32)] := by
  have h0 : (x.setWidth 32 : Word) = x.extractLsb' 0 32 := by ext i; simp
  have h1 : ((x >>> 32).setWidth 32 : Word) = x.extractLsb' 32 32 := by ext i; simp
  rw [pairOut, h0, h1]

theorem State.scal64_issues {s : State} {i : Instr} {m : Bool} {d : SReg} {reads : List Nat} {x : DWord}
    (h : s.Issues i (s.sdest d.toNat 2) reads []) : s.scal64 i m d reads x = .next (s.wrotePair i m d x) := by
  refine (State.run_result h).trans ?_
  rw [pairOut_words]; rfl

theorem State.kop_issues {s : State} {i : Instr} {m : Bool} {d : KReg} {reads : List Nat} {x : Lanes}
    (h : s.Issues i (s.kdest d.toNat) reads []) : s.kop i m d reads x = .next (s.wroteK i m d x) := State.run_result h

/-- A word that goes through the queue, and has room, enters it. -/
theorem State.runQ_queues {s : State} {i : Instr} {m : Bool} {static dynamic : List (Option Raise)} {reads : List Nat} {q : QEntry}
    {before : State → State} (h : s.Queues i static reads dynamic q) :
    s.runQ i m static reads dynamic q before = .next (s.queued m q before) := by
  unfold State.runQ
  rw [State.run_issues_space h.toIssues h.room]
  rfl

/-- A class 3 word. -/
theorem State.vecMem_queues {s : State} {i : Instr} {m : Bool} {kind : MemKind} {ord : Ordq} {ssq : Bool} {a : VReg} {b : BitVec 5}
    {static : List (Option Raise)} {data : Nat → BitVec 128} {cmp : Nat → Word}
    (h : s.Queues i (static ++ [s.cw.vrange a.toNat]) (pairRegs (2 * b.toNat) ++ s.xmodRegs) (s.addrFaults (s.vecOp kind ord a b data cmp))
      (s.entryOf i (.mem (s.vecOp kind ord a b data cmp)) s.exm ssq)) :
    s.vecMem i m kind ord ssq a b static data cmp = .next (s.did m fun u =>
      s.parkFget i (s.entryOf i (.mem (s.vecOp kind ord a b data cmp)) s.exm ssq)
        (u.issueQ s.cur.1 s.cur.2.1 (s.entryOf i (.mem (s.vecOp kind ord a b data cmp)) s.exm ssq))) := by
  unfold State.vecMem
  simp only []
  rw [show ({ kind := kind, accs := (lanesOf s.exm).map fun l => ⟨l, s.vaddr a b l, data l, cmp l⟩, ord := ord, scope := s.scopeOf, pol := s.polOf, zero := s.zeroLanes } : MemOp) = s.vecOp kind ord a b data cmp from rfl]
  rw [State.run_issues_space h.toIssues h.room]

/-- A scalar access. -/
theorem State.scaMem_queues {s : State} {i : Instr} {m : Bool} {kind : MemKind} {ssq : Bool} {addr : DWord} {static : List (Option Raise)}
    {reads : List Nat} {data : BitVec 128} {cmp : Word}
    (h : s.Queues i static reads (s.addrFaults (scaOp kind addr data cmp)) (s.entryOf i (.mem (scaOp kind addr data cmp)) s.cs.memb ssq)) :
    s.scaMem i m kind ssq addr static reads data cmp =
      .next (s.queued m (s.entryOf i (.mem (scaOp kind addr data cmp)) s.cs.memb ssq)) := by
  unfold State.scaMem
  simp only []
  rw [show ({ kind := kind, accs := [⟨0, addr, data, cmp⟩] } : MemOp) = scaOp kind addr data cmp from rfl]
  exact State.runQ_queues h

end Sys2Proof.Machine
end

