-- ==== Sys2Proof/Tests/Slice0.lean ====
section
/-! SUPPORT. Tests: the decoder against words written out from the encodings, the field rules, one step on small states with values from the
rules and tables of the spec, and states that meet the hypotheses of the statements. -/

open Sys2Proof Sys2Proof.Machine

set_option Elab.async false
set_option maxRecDepth 100000
set_option exponentiation.threshold 4096

/-! ## Words and the instructions they stand for -/

/-- Words of class 0, written out from the layouts of R65 with the instructions they stand for. -/
def words0a : List (Word × Instr) := [
  (0x0001DA80, .vadd false .f32 3 90 128),
  (0x81425981, .vsub true .f16x2 4 89 129),
  (0x0282D882, .vmul false .bf16x2 5 88 130),
  (0x03C34610, .vfma false .f64 6 70 16),
  (0x0403D684, .vfnma false .f32 7 86 132),
  (0x85445585, .vmin true .f16x2 8 85 133),
  (0x0684D486, .vmax false .bf16x2 9 84 134),
  (0x07C74E18, .vcpsgn false .f64 14 78 24),
  (0x0805D288, .vscale false .f32 11 82 136),
  (0x89465189, .vabsd true .f16x2 12 81 137)]

theorem test_decode_class0a : words0a.all (fun p => decode p.1 == p.2) = true := by decide

/-- Words of class 1, written out from the layouts of R65 with the instructions they stand for. -/
def words1a : List (Word × Instr) := [
  (0x10D40064, .viadd false .i64 40 0 100),
  (0x914FE306, .visub true .i16x2 31 99 6),
  (0x12906207, .vimul false .i8x4 32 98 7),
  (0x9310E108, .vimad true .i32 33 97 8),
  (0x14516009, .vimulhs false .i16x2 34 96 9),
  (0x9591DF0A, .vimulhn true .i8x4 35 95 10),
  (0x16125E0B, .vimins false .i32 36 94 11),
  (0x9752DD0C, .viminn true .i16x2 37 93 12),
  (0x18935C0D, .vimaxs false .i8x4 38 92 13),
  (0x9913DB0E, .vimaxn true .i32 39 91 14),
  (0x1A545A0F, .viaddss false .i16x2 40 90 15),
  (0x9B94D910, .viaddsn true .i8x4 41 89 16),
  (0x1CE01846, .vshl false .i64 64 24 70),
  (0x9D55D712, .vshr true .i16x2 43 87 18),
  (0x1E965613, .vsra false .i8x4 44 86 19),
  (0x9F16D514, .visubss true .i32 45 85 20)]

theorem test_decode_class1a : words1a.all (fun p => decode p.1 == p.2) = true := by decide

/-- Words of class 2, written out from the layouts of R66 with the instructions they stand for. -/
def words2a : List (Word × Instr) := [
  (0x2003EE14, .vand false 7 110 20),
  (0xA0446D15, .vor true 8 109 21),
  (0x2084EC16, .vxor false 9 108 22),
  (0xA0C56B17, .vandn true 10 107 23),
  (0x2105EA18, .vbfes false 11 106 24),
  (0xA1466919, .vbfen true 12 105 25),
  (0x2186E81A, .vbfi false 13 104 26),
  (0xA247671B, .vpermb true 14 103 27),
  (0x22C7E61C, .vsel false 15 102 28),
  (0xA648651D, .vshfl true 16 101 29),
  (0x2688E41E, .vbcast false 17 100 30),
  (0x21C8801E, .vpopc false 17 30),
  (0xA209001F, .vclz true 18 31),
  (0x22898020, .vmov false 19 32),
  (0xA40A0021, .vrcp true 20 33),
  (0x244A8022, .vrsq false 21 34)]

theorem test_decode_class2a : words2a.all (fun p => decode p.1 == p.2) = true := by decide

/-- More words of class 2. -/
def words2b : List (Word × Instr) := [
  (0xA48B0023, .vsqrt true 22 35),
  (0x24CB8024, .vex2 false 23 36),
  (0xA50C0025, .vlg2 true 24 37),
  (0x254C8026, .vsin false 25 38),
  (0xA58D0027, .vcos true 26 39),
  (0x25CD8028, .vtanh false 27 40),
  (0x23051588, .vcvt false 10 21 .f32s32 2 0),
  (0xA345962B, .vqnt true 11 22 .e5m2 true 3),
  (0x23861757, .vdq false 12 23 .int4 7),
  (0xA3C69830, .vbscale true 13 24 .e2m1),
  (0x26318000, .vlane false 99),
  (0xA6C70419, .vscan true 14 .maxS32 25),
  (0x271D861A, .vreds false 59 .orB32 26),
  (0xA75D1B1C, .vrdl true 58 27 28),
  (0x278EDFC8, .vwrl false 29 95 200),
  (0xA7CF009F, .vrdi true 30 31)]

theorem test_decode_class2b : words2b.all (fun p => decode p.1 == p.2) = true := by decide

/-- More words of class 2. -/
def words2c : List (Word × Instr) := [
  (0x280020A1, .vwri false 33 32),
  (0x284A283C, .vcmpEqF64 false 20 40 60),
  (0xA889AA3E, .vcmpNeF64 true 19 42 62),
  (0x28C92C40, .vcmpLtF64 false 18 44 64),
  (0xA908AE42, .vcmpLeF64 true 17 46 66),
  (0x29483044, .vcmpGtF64 false 16 48 68),
  (0xA987B246, .vcmpGeF64 true 15 50 70),
  (0x29C3A983, .vclassF32 false 7 41 131),
  (0xAB842A2B, .vcmpF32 true .un 8 42 43),
  (0x2D04AC2D, .vcmpS32 false .gt 9 44 45),
  (0xAEC52E2F, .vcmpN32 true .le 10 46 47)]

theorem test_decode_class2c : words2c.all (fun p => decode p.1 == p.2) = true := by decide

/-- Words of class 3, written out from the layouts of R69 with the instructions they stand for. -/
def words3a : List (Word × Instr) := [
  (0xB0193D89, .vldB32 true 50 61 17 .cn),
  (0xB05A3D88, .vldB64 true 52 61 17 .plain),
  (0xB09C3D8D, .vldB128 true 56 61 17 .nt),
  (0xB0D9BD8A, .vldS8 true 51 61 17 .acq),
  (0xB11ABD8B, .vldN8 true 53 61 17 .sc),
  (0xB15B3D88, .vldS16 true 54 61 17 .plain),
  (0xB19BBD8D, .vldN16 true 55 61 17 .nt),
  (0x32193E90, .vstB32 false 50 62 18 .plain),
  (0x325A3E94, .vstB64 false 52 62 18 .rel),
  (0x329C3E93, .vstB128 false 56 62 18 .sc),
  (0x32D9BE95, .vstB8 false 51 62 18 .nt),
  (0x331B3E90, .vstB16 false 54 62 18 .plain),
  (0x3340BF98, .vpref false true 63 19),
  (0xB3A041A2, .fget true 64 65 20 true),
  (0x33E143AC, .fput false 66 67 21 true),
  (0xB6A245B4, .vatom true .maxF32 68 69 22 .ar)]

theorem test_decode_class3a : words3a.all (fun p => decode p.1 == p.2) = true := by decide

/-- More words of class 3. -/
def words3b : List (Word × Instr) := [
  (0x3AE347BA, .vred false .andB32 70 71 23 .rel)]

theorem test_decode_class3b : words3b.all (fun p => decode p.1 == p.2) = true := by decide

/-- Words of class 4, written out from the layouts of R71 with the instructions they stand for. -/
def words4a : List (Word × Instr) := [
  (0x4001C81E, .sadd false 1 50 (.reg 30)),
  (0xC042C7F3, .ssub true 2 49 (.imm 499)),
  (0x4083C020, .smul false 3 48 (.reg 32)),
  (0xC0C4BFF1, .smulhs true 4 47 (.imm 497)),
  (0x4105B822, .smulhn false 5 46 (.reg 34)),
  (0xC146B7EF, .sand true 6 45 (.imm 495)),
  (0x4187B024, .sor false 7 44 (.reg 36)),
  (0xC1C8AFED, .sxor true 8 43 (.imm 493)),
  (0x4209A826, .sandn false 9 42 (.reg 38)),
  (0xC24AA7EB, .sshl true 10 41 (.imm 491)),
  (0x428BA028, .sshr false 11 40 (.reg 40)),
  (0xC2CC9FE9, .ssra true 12 39 (.imm 489)),
  (0x430D982A, .smins false 13 38 (.reg 42)),
  (0xC34E97E7, .sminn true 14 37 (.imm 487)),
  (0x438F902C, .smaxs false 15 36 (.reg 44)),
  (0xC3D08FE5, .smaxn true 16 35 (.imm 485))]

theorem test_decode_class4a : words4a.all (fun p => decode p.1 == p.2) = true := by decide

/-- More words of class 4. -/
def words4b : List (Word × Instr) := [
  (0x4411882E, .sslt false 17 34 (.reg 46)),
  (0xC45287E3, .ssltn true 18 33 (.imm 483)),
  (0x44938030, .sseq false 19 32 (.reg 48)),
  (0xC4D47FE1, .ssne true 20 31 (.imm 481)),
  (0x45157832, .ssle false 21 30 (.reg 50)),
  (0xC55677DF, .sslen true 22 29 (.imm 479)),
  (0x45D77034, .scmov false 23 28 (.reg 52)),
  (0xC7986FDD, .sbfen true 24 27 (.imm 477)),
  (0xC5A90300, .smov true 41 (.imm 256)),
  (0x4628A82C, .sadd64 false 40 42 (.reg 44)),
  (0xC66EC3FF, .ssub64 true 46 48 (.imm 511)),
  (0x46B2D035, .sshl64 false 50 52 (.reg 53)),
  (0xC6F6E228, .sshr64 true 54 56 (.imm 40)),
  (0x47218800, .spopc false 33 34),
  (0xC7639000, .sclz true 35 36),
  (0x47E69C25, .smulw false 38 39 (.reg 37))]

theorem test_decode_class4b : words4b.all (fun p => decode p.1 == p.2) = true := by decide

/-- More words of class 4. -/
def words4c : List (Word × Instr) := [
  (0x48011C14, .kand false 1 7 20),
  (0xC8422013, .kor true 2 8 19),
  (0x48832412, .kxor false 3 9 18),
  (0xC8C42811, .kandn true 4 10 17),
  (0xC90B000C, .kmov true 11 (.reg 12)),
  (0x49793400, .kpopc false 57 13),
  (0xC9BA3800, .kffs true 58 14),
  (0x49CF4260, .klane false 15 16 (.imm 96)),
  (0xCA114AFF, .sldB32 true 17 18 (.imm 255)),
  (0x4A545815, .sldB64 false 20 22 (.reg 21)),
  (0xCA986B00, .sldB128 true 24 26 (.imm 256)),
  (0x4ADD701F, .sstB32 false 29 28 (.reg 31)),
  (0xCB1E8203, .sstB64 true 30 32 (.imm 3)),
  (0x4B618823, .satomAdd false 33 34 35),
  (0xCBA59026, .satomCas true 37 36 38),
  (0x4BE7A029, .satomExch false 39 40 41)]

theorem test_decode_class4c : words4c.all (fun p => decode p.1 == p.2) = true := by decide

/-- More words of class 4. -/
def words4d : List (Word × Instr) := [
  (0xCC2A021B, .sget true 42 27),
  (0x4C40AE08, .sset false 43 8)]

theorem test_decode_class4d : words4d.all (fun p => decode p.1 == p.2) = true := by decide

/-- Words of class 5, written out from the layouts of R72 with the instructions they stand for. -/
def words5a : List (Word × Instr) := [
  (0x507FFFFF, .br false 0x7FFFFF),
  (0xD0860001, .brany true 1 0x20001),
  (0x5109FFFF, .brall false 2 0x1FFFF),
  (0xD18C0005, .brnone true 3 5),
  (0x52590001, .brnz false 44 0x10001),
  (0xD2DA0006, .brz true 45 6),
  (0x535CFFFF, .call false 46 0xFFFF),
  (0xD3E00000, .jmpr true 48),
  (0x541007FE, .split false 4 3 0x1FE),
  (0xD4800000, .ends true),
  (0x55482C32, .pub false 72 5 33 9),
  (0xD5C9952C, .join true 73 74 75),
  (0x56639400, .joins false 49 50 true),
  (0xD6800000, .joinm true),
  (0x57050000, .barW false 5),
  (0xD726CC00, .barA true 6 51)]

theorem test_decode_class5a : words5a.all (fun p => decode p.1 == p.2) = true := by decide

/-- More words of class 5. -/
def words5b : List (Word × Instr) := [
  (0x57470000, .barD false 7),
  (0xD7680000, .barJ true 8),
  (0x5793D000, .barwp false 19 52),
  (0xD8300000, .fence true .dev),
  (0x58DA8000, .qfence false 0xB5),
  (0xD96A0000, .twait true 53),
  (0x59EC0000, .mwait false 54),
  (0xDA6E0000, .rpoll true 55),
  (0x5AF80000, .vgive false 15),
  (0xDB480000, .vclaim true 9),
  (0x5B800000, .exit false),
  (0xDC2D0000, .trap true 0x5A),
  (0xDC800000, .tret true),
  (0xDD000000, .nop true)]

theorem test_decode_class5b : words5b.all (fun p => decode p.1 == p.2) = true := by decide

/-- Words of class 6, written out from the layouts of R73 with the instructions they stand for. -/
def words6a : List (Word × Instr) := [
  (0x60052063, .acopy false 5 8 6 3),
  (0xE0474000, .gath true 7 16),
  (0x60896000, .scat false 9 24),
  (0xE0C6AA83, .mma true .s2x2 5 10 20 3),
  (0x610B2EA4, .mmasp false .s4x1 6 11 21 4),
  (0xE14F8000, .mzacc true .ind 7),
  (0x6190B2C2, .mstacc false .d1x8 1 12 22 .f16),
  (0xE1DD36E1, .mldacc true .d8x1 2 13 23 .bf16),
  (0x620A0000, .mfence false 10),
  (0xE24B8000, .coll true 11 32),
  (0x62805090, .tenq false 80 144),
  (0xE2C05191, .tgaina true 81 145),
  (0x63005292, .tgainm false 82 146),
  (0xE3405393, .tgains true 83 147),
  (0x63C05494, .tjset false 84 148),
  (0xE3805500, .tdone true 85)]

theorem test_decode_class6a : words6a.all (fun p => decode p.1 == p.2) = true := by decide

/-- More words of class 6. -/
def words6b : List (Word × Instr) := [
  (0x640CFC00, .hres false 12 63),
  (0xE44D3803, .ringp true 13 14 3),
  (0x648F4002, .ringc false 15 16 2),
  (0xE4D10001, .ringq true 17 1),
  (0x65125001, .smap false 18 20 true),
  (0xE5535401, .sunmap true 19 21 true),
  (0x65966170, .cdrop false 22 24 23),
  (0xE5D96800, .cqry true 25 26),
  (0x660771D5, .l2pin false 7 28 29 5),
  (0xE6400006, .l2unpin true 6),
  (0x669E81F0, .cinv false 30 32 31),
  (0xE6A18A31, .cinvI true 33 34 35),
  (0x66E49A50, .cwb false 36 38 37)]

theorem test_decode_class6b : words6b.all (fun p => decode p.1 == p.2) = true := by decide

/-- Words of class 7, written out from the layouts of R75 with the instructions they stand for. -/
def words7a : List (Word × Instr) := [
  (0x70299375, .xmod 20 true 4 77 true 21),
  (0x706AAAAB, .limm 0x2AAAAB),
  (0x7080BEEF, .limmh 0xBEEF),
  (0x70C0CAFE, .limml 0xCAFE),
  (0x71155555, .limmf 0x155555),
  (0xF1400006, .sched true 6),
  (0x7228A800, .sysld false 40 42),
  (0xF269B000, .sysst true 41 44),
  (0x7280B800, .tlbinv false 46),
  (0xF2F0000D, .cntrd true 48 13),
  (0x7300BC00, .trace false 47),
  (0xF3400000, .brkpt true),
  (0x73800000, .waiti false),
  (0xF3F10000, .metsnap true 49),
  (0x7C048A0B, .vidivS32 false 9 10 11),
  (0xFE7FFFFF, .emulation true 9 0x3FFFFF)]

theorem test_decode_class7a : words7a.all (fun p => decode p.1 == p.2) = true := by decide


/-! ## The field rules -/

/-- Instructions that each break one field rule: operand codes, pairs, quads, ranges, reserved values. -/
def illFormed : List Instr := [
  .vadd false .f64 5 4 6, .vadd false .f64 4 5 6, .vadd false .f64 4 6 7, .vmul false .f64 4 6 129, .viadd false .i32 1 2 240,
  .viadd false .i64 3 2 4, .vshl false .i64 2 4 3, .vbfes false 1 2 254, .vcvt false 1 2 .f32f16 1 0, .vcvt false 1 2 .f16f32 0 2,
  .vcvt false 1 3 .f32f64 0 0, .vcvt false 3 2 .f64f32 0 0, .vqnt false 1 2 .d8 false 4, .vqnt false 1 2 .int8 true 0, .vdq false 1 2 .e4m3 5,
  .vscan false 1 .addI32 241, .vwrl false 1 96 2, .vcmpEqF64 false 21 2 4, .vcmpEqF64 false 2 3 4, .vclassF32 false 2 3 250,
  .vcmpS32 false .eq 31 1 2, .vldB32 false 1 2 30 .plain, .vldB64 false 1 2 3 .plain, .vldB128 false 2 2 3 .plain, .vstB128 false 6 2 3 .plain,
  .vatom false .casB32 1 2 3 .relaxed, .vred false .exchB32 1 2 3 .relaxed]

/-- More of them, of classes 4 to 7. -/
def illFormedMore : List Instr := [
  .sadd64 false 1 2 (.imm 0), .sadd64 false 60 2 (.imm 0), .sadd64 false 2 62 (.imm 0), .sadd64 false 2 4 (.reg 5), .smulw false 3 1 (.imm 0),
  .kand false 21 0 0, .kmov false 0 (.imm 1), .klane false 31 0 (.imm 0), .sldB32 false 0 1 (.imm 0), .sldB64 false 1 2 (.imm 0),
  .sldB128 false 60 2 (.imm 0), .sldB128 false 6 2 (.imm 0), .sget false 0 30, .sset false 0 16, .brany false 21 0, .call false 61 0,
  .pub false 0 0 0 0, .pub false 127 2 0 0, .pub false 0 0 59 2, .pub false 1 0 0 1, .joins false 60 0 false, .barW false 20,
  .qfence false 0, .qfence false 0x80, .twait false 60, .vgive false 0, .acopy false 0 58 0 0, .gath false 0 54, .mma false .s1x4 0 30 0 0,
  .hres false 61 0, .smap false 0 1 false, .sunmap false 60 0 false, .cdrop false 0 61 0, .l2pin false 0 2 0 0, .l2pin false 9 2 0 0,
  .xmod 21 false 0 0 false 0, .xmod 31 false 6 0 true 0, .xmod 31 false 0 1 false 0, .tlbinv false 1, .cntrd false 62 0,
  .emulation false 0 0]

theorem test_illFormed_refused : (illFormed ++ illFormedMore).all (fun i => !i.wf && decode (encode i) != i) = true := by decide

theorem test_decode_reserved :
    [0x0A000000#32, 0x230000F0#32, 0x26000001#32, 0x57800001#32, 0x58500000#32, 0x33000001#32, 0x71800000#32, 0x4C000000#32].all
      (fun w => decode w == .illegalWord w) = true := by decide

/-! ## One step on a small state -/

/-- The wave after one step that runs an instruction, with values in s0 to s59 and in lane 0 of the vector registers. -/
def ran (i : Instr) (s v : List (Nat × Word)) : Option State :=
  let t := State.reset.withFetchWord 32 (encode i).toNat
  match step (t.updWave 0 0 fun w => { w with s := s, v := v.map fun p => (96 * p.1, p.2), vbudget := 128 }) with
  | .next u => some u
  | _ => none

/-- The scalar results that it has outstanding. -/
def scalars (i : Instr) (s : List (Nat × Word)) : Option (List (List (Nat × Word))) := (ran i s []).map fun t => t.cw.outs.map (·.sca)

/-- The vector results that it has outstanding, by register and lane, and their flags. -/
def vectors (i : Instr) (v : List (Nat × Word)) : Option (List (List (Nat × Word) × BitVec 5)) :=
  (ran i [] v).map fun t => t.cw.outs.map fun r => (r.vec, r.flags)

theorem test_class4_words :
    let s : List (Nat × Word) := [(2, 0x80000001), (3, 3)]
    let b : SOp := .reg 3
    [(Instr.sadd false 1 2 b, 0x80000004#32), (.ssub false 1 2 b, 0x7FFFFFFE), (.smul false 1 2 b, 0x80000003), (.smulhs false 1 2 b, 0xFFFFFFFE),
     (.smulhn false 1 2 b, 1), (.sand false 1 2 b, 1), (.sor false 1 2 b, 0x80000003), (.sxor false 1 2 b, 0x80000002),
     (.sandn false 1 2 b, 0x80000000), (.sshl false 1 2 b, 8), (.sshr false 1 2 b, 0x10000000), (.ssra false 1 2 b, 0xF0000000),
     (.smins false 1 2 b, 0x80000001), (.sminn false 1 2 b, 3), (.smaxs false 1 2 b, 3), (.smaxn false 1 2 b, 0x80000001),
     (.sslt false 1 2 b, 1), (.ssltn false 1 2 b, 0), (.sseq false 1 2 b, 0), (.ssne false 1 2 b, 1), (.ssle false 1 2 b, 1),
     (.sslen false 1 2 b, 0), (.smov false 1 (.imm 511), 0xFFFFFFFF), (.scmov false 1 2 b, 3), (.spopc false 1 2, 2), (.sclz false 1 3, 30),
     (.sbfen false 1 2 (.imm 256), 1)].all (fun p => scalars p.1 s == some [[(1, p.2)]]) = true := by decide

theorem test_class4_pairs_and_masks :
    let s : List (Nat × Word) := [(2, 0x80000001), (3, 3), (6, 0xFFFFFFFF), (8, 1), (9, 6), (12, 2), (15, 0xFFFFFFFF), (16, 1), (17, 0)]
    [(Instr.sadd64 false 4 2 (.imm 511), [(4, 0x80000000#32), (5, 3#32)]), (.ssub64 false 4 2 (.reg 6), [(4, 0x80000002), (5, 2)]),
     (.sshl64 false 4 2 (.imm 4), [(4, 0x10), (5, 0x38)]), (.sshr64 false 4 2 (.imm 33), [(4, 1), (5, 0)]),
     (.smulw false 4 2 (.reg 6), [(4, 0x7FFFFFFF), (5, 0x80000000)]), (.smulw false 4 2 (.reg 3), [(4, 0x80000003), (5, 1)]),
     (.kand false 1 2 5, [(3, 0xFFFFFFFF), (4, 0), (5, 0)]), (.kor false 1 4 5, [(3, 0xFFFFFFFF), (4, 1), (5, 0)]),
     (.kmov false 1 (.imm 511), [(3, 0xFFFFFFFF), (4, 0xFFFFFFFF), (5, 0xFFFFFFFF)]), (.klane false 1 9 (.imm 34), [(3, 0xFFFFFFC0), (4, 3), (5, 0)]),
     (.kpopc false 1 5, [(1, 33)]), (.kffs false 1 4, [(1, 1)]), (.kffs false 1 9, [(1, 0xFFFFFFFF)]), (.sget false 1 8, [(1, 0)]),
     (.sadd false 63 2 (.imm 0), [])].all (fun p => scalars p.1 s == some [p.2]) = true := by decide

theorem test_float_words :
    let v : List (Nat × Word) := [(1, 0x3F800000), (2, 0x40000000), (3, 0x7F7FFFFF), (4, 0x80000000), (5, 0x3C003C00), (6, 0x7F800001), (7, 0x40400000)]
    [(Instr.vadd false .f32 0 1 2, 0x40400000#32, 0#5), (.vsub false .f32 0 1 2, 0xBF800000, 0), (.vmul false .f32 0 2 2, 0x40800000, 0),
     (.vadd false .f32 0 3 3, 0x7F800000, 0x14), (.vadd false .f32 0 4 4, 0x80000000, 0), (.vfma false .f32 7 1 2, 0x40A00000, 0),
     (.vfnma false .f32 7 1 2, 0x3F800000, 0), (.vmin false .f32 0 1 2, 0x3F800000, 0), (.vmax false .f32 0 4 1, 0x3F800000, 0),
     (.vadd false .f32 0 6 1, 0x7FC00000, 1), (.vcpsgn false .f32 0 1 4, 0xBF800000, 0), (.vabsd false .f32 0 1 2, 0x3F800000, 0),
     (.vadd false .f16x2 0 5 5, 0x40004000, 0)].all
      (fun p => vectors p.1 v == some [([(96 * (match p.1 with | .vfma .. => 7 | .vfnma .. => 7 | _ => 0), p.2.1)], p.2.2)]) = true := by decide

theorem test_integer_words :
    let v : List (Nat × Word) := [(1, 0x7FFFFFFF), (2, 0x80000001), (3, 5), (4, 0x00FF8040), (5, 0x01010101)]
    [(Instr.viadd false .i32 0 1 3, 0x80000004#32), (.visub false .i32 0 3 1, 0x80000006), (.vimul false .i32 0 2 3, 0x80000005),
     (.vimulhs false .i32 0 2 3, 0xFFFFFFFD), (.vimulhn false .i32 0 2 3, 2), (.vimins false .i32 0 1 2, 0x80000001),
     (.viminn false .i32 0 1 2, 0x7FFFFFFF), (.vimaxs false .i32 0 1 2, 0x7FFFFFFF), (.vimaxn false .i32 0 1 2, 0x80000001),
     (.viaddss false .i32 0 1 3, 0x7FFFFFFF), (.visubss false .i32 0 2 3, 0x80000000), (.viaddsn false .i8x4 0 4 4, 0x00FFFF80),
     (.viadd false .i8x4 0 4 5, 0x01008141), (.vshl false .i32 0 3 2, 0), (.vshl false .i32 0 3 3, 160), (.vshr false .i32 0 2 3, 0x04000000),
     (.vsra false .i32 0 2 3, 0xFC000000), (.vand false 0 1 2, 1), (.vandn false 0 1 2, 0x7FFFFFFE), (.vbfes false 0 4 3, 0),
     (.vpopc false 0 2, 2), (.vclz false 0 3, 29), (.vmov false 0 3, 5), (.vlane false 0, 0)].all
      (fun p => (vectors p.1 v).map (fun l => l.map (·.1)) == some [[(0, p.2)]]) = true := by decide
/-- The four words of the table of R150, and the word of R149, with their results. -/
theorem test_functions_and_scale :
    [(0xA4C20004#32, 0xBF800000#32, [(96 * 4, 0x3F000000#32)], 0#5), (0xA4028005, 0x42880000, [(96 * 5, 0x3C70F0F1)], 0x10),
     (0x254280F8, 0, [(96 * 5, 0x3F800000)], 0), (0x25028004, 0x80000000, [(96 * 5, 0xFF800000)], 2), (0x23C28410, 0x40400000, [(96 * 5, 0x1DF)], 0)].all
      (fun p => vectors (decode p.1) [(4, p.2.1), (5, p.2.1)] == some [(p.2.2.1, p.2.2.2)]) = true := by decide

/-- R146 and the examples after R91; R147, R148; R151 to R154 with one lane. -/
theorem test_conversions_and_lanes :
    let v : List (Nat × Word) := [(1, 0xBE99999A), (2, 0xBFC00000), (3, 0x00003C00), (4, 0x000080FF), (5, 0x40490FDB), (6, 0xABCD1234)]
    [(Instr.vcvt false 0 1 .n32f32 2 0, 0#32, 0x10#5), (.vcvt false 0 2 .n32f32 2 0, 0, 1), (.vcvt false 0 3 .f32f16 0 0, 0x3F800000, 0),
     (.vcvt false 0 4 .f32s8 0 0, 0xBF800000, 0), (.vcvt false 0 4 .f32n8 0 1, 0x43000000, 0), (.vcvt false 0 5 .s32f32 2 0, 3, 0x10),
     (.vcvt false 0 5 .bf16f32 1 1, 0x40490000, 0x10), (.vdq false 0 4 .int8 0, 0xBF800000, 0), (.vbcast false 0 6 192, 0xABCD1234, 0),
     (.vshfl false 0 6 192, 0xABCD1234, 0), (.vscan false 0 .addI32 6, 0xABCD1234, 0), (.vwrl false 0 0 3, 0x3C00, 0)].all
      (fun p => vectors p.1 v == some [([(0, p.2.1)], p.2.2)]) = true := by decide

/-- The four words of the table of R147 and the word of R148. -/
theorem test_quantize :
    [(0x2343040A#32, 0x40400000#32, 0x11111111#32, [(96 * 6, 0x11341111#32)], 0#5), (0x23430410, 0x40400000, 0x11111111, [(96 * 6, 0x11111144)], 0),
     (0x23430441, 0x40200000, 0, [(96 * 6, 0x200)], 0x10), (0x23430437, 0xC0E00000, 0, [(96 * 6, 0xF0000000)], 0x14),
     (0x23828401, 0x8F00, 0, [(96 * 5, 0xC2C00000)], 0)].all
      (fun p => vectors (decode p.1) [(4, p.2.1), (6, p.2.2.1)] == some [(p.2.2.2.1, p.2.2.2.2)]) = true := by decide

/-! ## Memory, control, traps, engines: one step each -/

/-- The bytes of the data page after one step, as the core's L1 holds them (the page is a C page). -/
def stored (i : Instr) (s v : List (Nat × Word)) (off n : Nat) : Option Nat :=
  (ran i s v).bind fun t => (SMap.find? (t.core 0).l1 (0x20000 / 128)).map fun l => l.data.toNat / 256 ^ off % 256 ^ n

/-- R113, R157, R170: stores write their bytes in little-endian order; an atomic writes its result. -/
theorem test_stores :
    let s : List (Nat × Word) := [(2, 0x20000), (3, 0), (4, 0x11223344), (5, 0x55667788), (6, 8)]
    let v : List (Nat × Word) := [(1, 16), (2, 0xAABBCCDD), (3, 0x99)]
    stored (.sstB32 false 4 2 (.imm 1)) s v 4 4 = some 0x11223344 ∧ stored (.sstB64 false 4 2 (.reg 6)) s v 8 8 = some 0x5566778811223344 ∧
    stored (.vstB32 false 2 1 1 .plain) s v 16 4 = some 0xAABBCCDD ∧ stored (.vstB8 false 2 1 1 .plain) s v 16 4 = some 0xDD ∧
    stored (.vstB64 false 2 1 1 .plain) s v 16 8 = some 0x99AABBCCDD := by decide

/-- R113, R157: a load's bytes as its outstanding result, with sign extension where the form says so: the words of the code page. -/
theorem test_loads :
    let s : List (Nat × Word) := [(2, 0x10000), (3, 0)]
    let i : Instr := .vldS8 false 5 1 1 .plain
    scalars (.sldB32 false 7 2 (.imm 0)) s = some [[(7, encode (.sldB32 false 7 2 (.imm 0)))]] ∧
    (ran i s [(1, 1)]).map (fun t => t.cw.outs.map (·.vec)) = some [[(96 * 5, 0xFFFFFF81)]] ∧ encode i = 0x30C28108 := by decide

/-- The strand that issued, after one step. -/
def strandAfter (i : Instr) (s : List (Nat × Word)) : Option Strand := (ran i s []).map fun t => t.cs

/-- R117, R118, R30, R54, R206: where the strand goes on, its prefix, its parking, its level. -/
theorem test_control :
    let s : List (Nat × Word) := [(2, 0x10100), (3, 0), (6, 1)]
    let pc (i : Instr) := (strandAfter i s).map (·.pc)
    pc (.br false 0x7FFFFF) = some 0xFFFC ∧ pc (.brany false 2 4) = some 0x10010 ∧ pc (.brall false 0 4) = some 0x10004 ∧ pc (.brnone false 0 4) = some 0x10010 ∧
    pc (.brz false 4 3) = some 0x1000C ∧ pc (.brnz false 4 3) = some 0x10004 ∧ pc (.jmpr false 2) = some 0x10100 ∧ pc (.call false 4 2) = some 0x10008 ∧
    scalars (.call false 4 2) s = some [[(4, 0x10004), (5, 0)]] ∧ (strandAfter (.nop true) s).map (·.park) = some .marker ∧
    (strandAfter (.sched false 3) s).map (·.sched) = some 3 ∧
    (strandAfter (.limm 0x3FFFFF) s).map (·.pfx) = some (some ⟨0x10000, none, some (.limm 0x3FFFFF, 0x707FFFFF)⟩) := by decide

/-- R118: the issuing slot and the two others after a SPLIT of four lanes, of which k2 holds lane 0 and lane 1. -/
theorem test_split :
    let t := State.reset.withFetchWord 32 (encode (.split false 2 4 8)).toNat
    let u := t.updWave 0 0 fun w => ({ w with s := [(6, 3)] } : Wave).updStrand 0 fun st => { st with am := 15, memb := 15 }
    (match step u with | .next x => some ((List.range 3).map fun n => ((x.wave 0 0).strand n).am, (List.range 3).map fun n => ((x.wave 0 0).strand n).pc) | _ => none) =
      some ([12, 15, 3], [0x10010, 0x10020, 0x10004]) := by decide

/-- The trap that one step latches, with traps left for TAKE_TRAP: its cause, TVAL and TPC. -/
def trapped (i : Instr) (s : List (Nat × Word)) : Option (Cause × DWord × DWord) :=
  let t := (State.reset.withFetchWord 32 (encode i).toNat).updWave 0 0 fun w => { w with s := s }
  match step { t with deferTraps := true } with
  | .next u => (u.wave 0 0).latched.map fun f => (f.cause, f.val, f.tpc)
  | _ => none

/-- R134, R206, R76, R117, R114, R299: the cause, TVAL and TPC of a trap. -/
theorem test_traps :
    let s : List (Nat × Word) := [(4, 2), (2, 0x20002)]
    ([(Instr.trap false 7, .usertrap, 7#64, 0x10004#64), (.brkpt false, .break_, 0, 0x10004), (.tret false, .priv, 0x5C800000, 0x10000),
      (.vidivS32 false 9 10 11, .emulate, 0x7C048A0B, 0x10000), (.emulation true 9 5, .emulate, 0xFE400005, 0x10000),
      (.jmpr false 4, .align, 2, 0x10000), (.sldB32 false 1 2 (.imm 0), .align, 0x20002, 0x10000),
      (.sysld false 1 2, .priv, 0x72010800, 0x10000)].all fun p => trapped p.1 s == some p.2) = true := by decide

/-! ## States that meet the hypotheses of the statements -/

/-- A wave of one strand at the code page, in a block with two barriers, eight accumulators and a stash of 4,096 bytes; a page of region RS
stands at 0x30000; the agenda is empty. -/
def base : State :=
  let s := { State.reset.withFetchWord 32 0x5D000000 with agenda := [] }
  let t := s.updBlock 0 fun b => { b with desc := { b.desc with acc := 8, barriers := 2, stash := 4096 } }
  t.updCore 0 fun c => { c with tlb := c.tlb ++ [⟨0, 0x30000, 16, 0x3005B⟩] }

/-- The same wave with values in its scalar registers. -/
def withS (l : List (Nat × Word)) : State := base.updCw fun w => { w with s := l }

/-- The same wave with its strand changed. -/
def withStrand (f : Strand → Strand) : State := base.updCs f

/-- A cause of strand 0 at the word at 0x10000. -/
def aFault (c : Cause) : FaultRec := ⟨c, 7, 0, 0x10004, 1, 0, 0, false⟩

/-- The same machine, five cycles after reset, with a cause latched before (R301). -/
def trapping (s : State) (c : Cause) (tba : DWord) : State :=
  ((s.updPart 0 fun p => { p with cycle := 5 }).updCw fun w => { w with latched := some (aFault c) }).updVi 0
    fun v => { v with tba := tba }

/-- R311: with no handler the context ends: its waves are gone, and the record that the error queue cannot take is counted. -/
theorem test_context_end :
    (match exec (.contextEnd 0 0) (trapping base .usertrap 0) with | .next t => some (t.waves.length, (t.vi 0).eqlost) | _ => none) =
      some (0, 1) := by decide +kernel

theorem noCause_of {l : List (Option Raise)} (h : l.all Option.isNone = true) : NoCause l := fun x hx => by
  simpa using List.all_eq_true.1 h x hx

/-- Words whose prefix rules hold without a prefix. -/
def plain (l : List Instr) : Bool := l.all fun i => (pfxFaults i none).all Option.isNone

/-- Each of a list of words without prefix issues. -/
theorem issues_of {s : State} (l : List Instr) {static dynamic : List (Option Raise)} {reads : List Nat} (hl : plain l = true)
    (h : (s.cs.state == .ready && s.cw.latched.isNone && s.cs.pfx.isNone && static.all Option.isNone &&
      reads.all (fun r => !s.cw.isPending r) && dynamic.all Option.isNone) = true) : ∀ i ∈ l, s.Issues i static reads dynamic := by
  simp only [Bool.and_eq_true, beq_iff_eq, Option.isNone_iff_eq_none, List.all_eq_true, Bool.not_eq_true'] at h
  obtain ⟨⟨⟨⟨⟨h1, h2⟩, h3⟩, h4⟩, h5⟩, h6⟩ := h
  intro i hi
  refine ⟨h1, h2, ?_, fun x hx => h4 x hx, h5, fun x hx => h6 x hx⟩
  rw [h3]; exact noCause_of (List.all_eq_true.1 hl i hi)

/-- A word without prefix whose operation goes through the queue issues. -/
theorem queues_of {s : State} {i : Instr} {static dynamic : List (Option Raise)} {reads : List Nat} {q : QEntry} (hl : plain [i] = true)
    (h : (s.cs.state == .ready && s.cw.latched.isNone && s.cs.pfx.isNone && static.all Option.isNone &&
      reads.all (fun r => !s.cw.isPending r) && dynamic.all Option.isNone) = true) (hq : s.busyFor q = none) :
    s.Queues i static reads dynamic q := ⟨issues_of [i] hl h i (List.mem_singleton.2 rfl), hq⟩

/-- Nothing orders an operation of the strand. -/
theorem unordered_of {s : State} (h : (s.cw.queue.isEmpty && s.cw.port.isEmpty && s.cs.before.isEmpty && s.cs.old.isEmpty &&
    !s.ringWaits s.cur.1 s.cur.2.1 s.cur.2.2 && !(s.waves.any fun p => p.2.queue.any QEntry.atHome) && s.asked.isNone && !s.lag &&
    !s.cw.halted) = true) : s.Unordered := by
  simp only [Bool.and_eq_true, List.isEmpty_iff, Bool.not_eq_true', Option.isNone_iff_eq_none] at h
  obtain ⟨⟨⟨⟨⟨⟨⟨⟨h1, h0⟩, h2⟩, h3⟩, h4⟩, h5⟩, h6⟩, h7⟩, h8⟩ := h
  exact ⟨h1, h0, h2, h3, h4, h5, h6, h7, .inl h8⟩

/-- The one access of an operation is at once to a page of region RS. -/
def isOnPage (s : State) (op : MemOp) (va : DWord) : Option Xlat :=
  match s.translate s.cur.1 s.cw.vi va.toNat op.kind.need with
  | .ok (x, _) =>
    if s.tlbReady s.cur.1 s.cw (.mem op) && s.missRoom (s.agentOf s.cur.1 s.cur.2.1 .normal) op && (stashOff va.toNat).isNone &&
      !s.uncached x && (s.holders x.line).isEmpty && (s.winsOver x.line).isEmpty && !s.bad.contains x.line &&
      ((s.core s.cur.1).l1Victim x.line).isNone && decide ((SMap.get [] s.l2 (l2Key s.cw.part (s.part s.cw.part).size x.line)).length < 16)
    then some x else none
  | .error _ => none

theorem onPage_of {s : State} {op : MemOp} {va : DWord} {x : Xlat} (h : isOnPage s op va = some x) : s.OnPage op va x := by
  unfold isOnPage at h
  split at h
  · rename_i y u hu
    split at h
    · rename_i g
      simp only [Bool.and_eq_true, Bool.not_eq_true', Option.isNone_iff_eq_none, List.isEmpty_iff, decide_eq_true_eq] at g
      obtain ⟨⟨⟨⟨⟨⟨⟨⟨g1, g2⟩, g3⟩, g4⟩, g5⟩, g6⟩, g7⟩, g8⟩, g9⟩ := g
      cases h
      exact ⟨g1, g2, g3, ⟨u, hu⟩, g4, ⟨g5, g6⟩, g7, g8, .inl g9⟩
    · cases h
  · cases h

/-- The issuing strand goes on when its word's condition holds. -/
theorem awake_of {s : State} (h : (!s.cw.halted && !(s.block s.cw.blk).stopped && !(s.block s.cw.blk).dead && !s.cs.parkM) = true) :
    s.Awake := by
  simp only [Bool.and_eq_true, Bool.not_eq_true'] at h
  exact ⟨.inl h.1.1.1, h.1.1.2, h.1.2, h.2⟩

/-- The same machine with VI 0 seeing its first GiB at the same addresses: three levels of tables at 0x1000 (R312, R313). -/
def mapped : State :=
  let m := Memory.write (Memory.write (Memory.write base.mem 0x1000 8 0x2001) 0x2000 8 0x3001) 0x3000 8 0x7B
  ({ base with mem := m } : State).updVi 0 fun v => { v with root := 0x1000 }

/-- The same machine with one request in the ring of the physical function, of 64 bytes given as two numbers of 32. -/
def asking (lo : Nat) : State :=
  { mapped with
    mem := Memory.write mapped.mem hostBase 64 lo
    dev := { mapped.dev with stage := 4, reqSize := 4, reqProd := 1 } }

/-- Its bytes. -/
def asked (lo : Nat) : List Byte := leBytes 64 lo

/-- No L1 cache and no window holds a line, no line is counted, and none has an error. -/
def isBare (s : State) : Bool :=
  s.cores.all (fun p => p.2.l1.isEmpty) && s.blocks.all (fun p => p.2.wins.isEmpty) && s.counted.isEmpty && s.bad.isEmpty

theorem bare_of {s : State} (h : isBare s = true) : s.Bare := by
  simp only [isBare, Bool.and_eq_true, List.all_eq_true, List.isEmpty_iff] at h
  exact ⟨h.1.1.1, h.1.1.2, h.1.2, h.2⟩

/-- A request stands in the ring. -/
theorem asks_of {s : State} {code vi : Nat} {l : List Byte} (hb : isBare s = true)
    (h : (s.dev.stage == 4 && decide (4 ≤ s.dev.reqSize) && decide (s.dev.reqSize ≤ 12) && s.dev.reqProd != s.dev.reqCons &&
      ((List.range 64).map fun i => Memory.byte s.mem (s.dev.reqAddr + i)) == l && field l 0 2 == code && field l 2 2 == vi && decide (vi < 64)) = true) :
    s.asks code vi l := by
  simp only [Bool.and_eq_true, beq_iff_eq, decide_eq_true_eq, bne_iff_ne, ne_eq] at h
  obtain ⟨⟨⟨⟨⟨⟨⟨h1, h2⟩, h3⟩, h4⟩, h5⟩, h6⟩, h7⟩, h8⟩ := h
  refine ⟨?_, h6, h7, h8⟩
  rw [State.nextRequest, (bare_of hb).physRead, h5]
  simp [h1, h4, Nat.not_lt.2 h2, Nat.not_lt.2 h3]

/-- Bytes can be read through the pages of a VI. -/
theorem reads_of {s : State} {vi va n : Nat} (l : List Byte)
    (hb : (isBare s && decide ((s.vi vi).root.toNat % 8 = 0)) = true)
    (h : s.bareRead vi va n = some l) : s.readVirt vi va n = .ok l := by
  rw [Bool.and_eq_true, decide_eq_true_eq] at hb
  exact (bare_of hb.1).readVirt vi hb.2 n va l h

/-- The same machine with a packet in a launch queue's hands, of a kind and in a state. -/
def withPkt (p : Packet) : State := { mapped with packets := [(3, p)], nextPkt := 4 }

/-- A packet of VI 0 in partition 0. -/
def aPkt : Packet := { vi := 0, part := 0, q := 1, idx := 0, bsize := 96, x := 2, y := 1, z := 1, unit := 0x4000, hdesc := 0x5000, rings := [] }

/-- A heap of four tasks whose record 1 is queued. -/
def aHeap : Heap := { vi := 0, base := 0x8000, cap := 4, pop := 2, conc := 2, recs := [(1, { code := 0x4000, state := 1 })] }

/-- The same machine with that heap as heap 5. -/
def withHeap (h : Heap) : State := mapped.updPart 0 fun p => { p with heaps := [(5, h)] }

theorem witness_VectorFloatResults :
    (∀ i ∈ ([.vadd false .f32 7 0 130, .vsub true .f32 7 0 130, .vmul false .f32 7 0 130, .vfma false .f32 7 0 130, .vfnma false .f32 7 0 130, .vmin false .f32 7 0 130, .vmax false .f32 7 0 130, .vcpsgn false .f32 7 0 130, .vscale false .f32 7 0 130, .vabsd false .f32 7 0 130] : List Instr), base.FloatIssues i .f32 7 0 130) ∧
    (∀ i ∈ ([.vadd false .f64 6 4 2] : List Instr), base.FloatIssues i .f64 6 4 2) ∧
    (((withStrand fun st => { st with pfx := some ⟨0xFFFC, some (⟨20, true, 3, 7, true, 0⟩, 0), none⟩ }).FloatIssues (.vfma false .f16x2 0 7 3) .f16x2 0 7 3)) :=
  ⟨issues_of _ (by decide) (by decide),
   issues_of _ (by decide) (by decide),
   ⟨by decide, by decide, noCause_of (by decide), noCause_of (by decide), by decide, noCause_of (by decide)⟩⟩

theorem witness_VectorIntResults :
    (∀ i ∈ ([.viadd false .i32 7 0 187, .visub false .i32 7 0 187, .vimul false .i32 7 0 187, .vimad false .i32 7 0 187, .vimulhs false .i32 7 0 187, .vimulhn false .i32 7 0 187, .vimins false .i32 7 0 187, .viminn false .i32 7 0 187, .vimaxs false .i32 7 0 187, .vimaxn false .i32 7 0 187, .viaddss false .i32 7 0 187, .viaddsn false .i32 7 0 187, .visubss false .i32 7 0 187] : List Instr), base.IntIssues i .i32 7 0 187) ∧
    (∀ i ∈ ([.viadd false .i64 6 0 4] : List Instr), base.IntIssues i .i64 6 0 4) :=
  ⟨issues_of _ (by decide) (by decide),
   issues_of _ (by decide) (by decide)⟩

theorem witness_VectorShifts :
    (∀ i ∈ ([.vshl true .i8x4 7 0 223, .vshr false .i8x4 7 0 223, .vsra false .i8x4 7 0 223] : List Instr), base.ShiftIssues i .i8x4 7 0 223) ∧
    (∀ i ∈ ([.vshl true .i64 6 0 6] : List Instr), base.ShiftIssues i .i64 6 0 6) :=
  ⟨issues_of _ (by decide) (by decide),
   issues_of _ (by decide) (by decide)⟩

theorem witness_BitWordsAndSelect :
    (∀ i ∈ ([.vand false 7 0 3, .vor false 7 0 3, .vxor false 7 0 3, .vandn true 7 0 3] : List Instr), base.MiscIssues i 7 [0] .raw (some 3)) ∧
    (∀ i ∈ ([.vbfes false 0 7 130, .vbfen false 0 7 130, .vbfi false 0 7 130, .vpermb false 0 7 130, .vshfl false 0 7 130, .vbcast false 0 7 130] : List Instr), base.MiscIssues i 0 [7] .i32 (some 130)) ∧
    (∀ i ∈ ([.vpopc false 7 7, .vclz false 7 7] : List Instr), base.MiscIssues i 7 [] .i32 (some 7)) ∧
    (∀ i ∈ ([.vmov false 7 7] : List Instr), base.MiscIssues i 7 [] .raw (some 7)) ∧
    (∀ i ∈ ([.vlane false 7] : List Instr), base.MiscIssues i 7 [] .i32 none) ∧
    (∀ i ∈ ([.vsel false 7 0 5] : List Instr), base.Issues i (base.vdest 7 1 ++ [base.cw.vrange 0] ++ base.cw.codeRange .raw 5) (codeRegs .raw 5 ++ kregs 0) []) :=
  ⟨issues_of _ (by decide) (by decide),
   issues_of _ (by decide) (by decide),
   issues_of _ (by decide) (by decide),
   issues_of _ (by decide) (by decide),
   issues_of _ (by decide) (by decide),
   issues_of _ (by decide) (by decide)⟩

theorem witness_Conversions :
    (∀ i ∈ ([.vcvt false 7 0 .s32f32 2 0, .vqnt false 7 0 .e4m3 true 3, .vdq false 7 0 .int4 7, .vbscale false 7 0 .d8] : List Instr), base.CvtIssues i 7 0 false false) ∧
    (∀ i ∈ ([.vcvt false 6 0 .f64f32 0 0] : List Instr), base.CvtIssues i 6 0 false true) ∧
    (∀ i ∈ ([.vcvt false 7 6 .f32f64 1 0] : List Instr), base.CvtIssues i 7 6 true false) :=
  ⟨issues_of _ (by decide) (by decide),
   issues_of _ (by decide) (by decide),
   issues_of _ (by decide) (by decide)⟩

theorem witness_SpecialFunctions :
    (∀ i ∈ ([.vrcp false 7 187, .vrsq false 7 187, .vsqrt false 7 187, .vex2 false 7 187, .vlg2 false 7 187, .vsin false 7 187, .vcos false 7 187, .vtanh false 7 187] : List Instr), base.SfuIssues i 7 187) :=
  issues_of _ (by decide) (by decide)

theorem witness_ScansAndReductions :
    (∀ i ∈ ([.vscan false 7 .addF32 0] : List Instr), base.Issues i (base.vdest 7 1 ++ base.cw.codeRange .f32 0) (codeRegs .f32 0 ++ base.xmodRegs) []) ∧
    (∀ i ∈ ([.vreds false 63 .orB32 7] : List Instr), base.Issues i (base.sdest 63 1 ++ base.cw.codeRange .i32 7) (codeRegs .i32 7 ++ base.xmodRegs) []) :=
  ⟨issues_of _ (by decide) (by decide),
   issues_of _ (by decide) (by decide)⟩

theorem witness_IndexedLanes :
    let s := withS [(59, 7)]
    (∀ i ∈ ([.vrdl false 59 7 128] : List Instr), s.Issues i (s.sdest 59 1 ++ [s.cw.vrange 7] ++ s.cw.codeRange .i32 128) (codeRegs .i32 128 ++ s.xmodRegs) []) ∧
    (∀ i ∈ ([.vwrl false 7 95 0] : List Instr), s.Issues i (s.vdest 7 1 ++ s.cw.codeRange .raw 0) (codeRegs .raw 0 ++ s.xmodRegs) []) ∧
    (∀ i ∈ ([.vrdi false 7 59] : List Instr), s.Issues i (s.vdest 7 1) (59 :: s.xmodRegs) [s.cw.vrange (s.sa 59).toNat]) ∧
    (∀ i ∈ ([.vwri false 59 0] : List Instr), s.Issues i [s.cw.vrange 0] (59 :: s.xmodRegs) (s.vdest (s.sa 59).toNat 1)) :=
  ⟨issues_of _ (by decide) (by decide),
   issues_of _ (by decide) (by decide),
   issues_of _ (by decide) (by decide),
   issues_of _ (by decide) (by decide)⟩

theorem witness_Compares :
    (∀ i ∈ ([.vcmpEqF64 false 20 6 4, .vcmpNeF64 false 20 6 4, .vcmpLtF64 false 20 6 4, .vcmpLeF64 false 20 6 4, .vcmpGtF64 false 20 6 4, .vcmpGeF64 false 20 6 4] : List Instr), base.CmpIssues i 20 6 4 .f64) ∧
    (∀ i ∈ ([.vcmpF32 false .un 0 7 130] : List Instr), base.CmpIssues i 0 7 130 .f32) ∧
    (∀ i ∈ ([.vcmpS32 false .eq 19 0 0, .vcmpN32 false .ge 19 0 0, .vclassF32 false 19 0 0] : List Instr), base.CmpIssues i 19 0 0 .i32) :=
  ⟨issues_of _ (by decide) (by decide),
   issues_of _ (by decide) (by decide),
   issues_of _ (by decide) (by decide)⟩

theorem witness_ScalarWords :
    (∀ i ∈ ([.sadd false 0 59 (.imm 0), .ssub false 0 59 (.imm 0), .smul false 0 59 (.imm 0), .smulhs false 0 59 (.imm 0), .smulhn false 0 59 (.imm 0), .sand false 0 59 (.imm 0), .sor false 0 59 (.imm 0), .sxor false 0 59 (.imm 0), .sandn false 0 59 (.imm 0), .sshl false 0 59 (.imm 0), .sshr false 0 59 (.imm 0), .ssra false 0 59 (.imm 0)] : List Instr), base.ScalIssues i 0 59 (.imm 0)) ∧
    (∀ i ∈ ([.smins false 63 62 (.reg 63), .sminn false 63 62 (.reg 63), .smaxs false 63 62 (.reg 63), .smaxn false 63 62 (.reg 63), .sslt false 63 62 (.reg 63), .ssltn false 63 62 (.reg 63), .sseq false 63 62 (.reg 63), .ssne false 63 62 (.reg 63), .ssle false 63 62 (.reg 63), .sslen false 63 62 (.reg 63), .sbfen false 63 62 (.reg 63)] : List Instr), base.ScalIssues i 63 62 (.reg 63)) :=
  ⟨issues_of _ (by decide) (by decide),
   issues_of _ (by decide) (by decide)⟩

theorem witness_ScalarMovesAndPairs :
    (∀ i ∈ ([.smov false 62 (.imm 5)] : List Instr), base.Issues i (base.sdest 62 1) (sopRegs (.imm 5)) []) ∧
    ((withS [(1, 1)]).sa 1 ≠ 0) ∧
    (∀ i ∈ ([.scmov false 0 1 (.reg 2)] : List Instr), (withS [(1, 1)]).Issues i [] (1 :: sopRegs (.reg 2)) ((withS [(1, 1)]).sdest 0 1)) ∧
    (base.sa 1 = 0) ∧
    (∀ i ∈ ([.scmov false 0 1 (.reg 2)] : List Instr), base.Issues i [] (1 :: sopRegs (.reg 2)) []) ∧
    (∀ i ∈ ([.spopc false 59 0, .sclz false 59 0] : List Instr), base.Issues i (base.sdest 59 1) [0] []) ∧
    (∀ i ∈ ([.sadd64 false 58 0 (.reg 63), .ssub64 false 58 0 (.reg 63)] : List Instr), base.Issues i (base.sdest 58 2) (pairRegs 0 ++ sopRegs64 (.reg 63)) []) ∧
    (∀ i ∈ ([.sshl64 false 0 58 (.reg 59), .sshr64 false 0 58 (.reg 59)] : List Instr), base.Issues i (base.sdest 0 2) (pairRegs 58 ++ sopRegs (.reg 59)) []) ∧
    (∀ i ∈ ([.smulw false 63 1 (.imm 3)] : List Instr), base.Issues i (base.sdest 63 2) (1 :: sopRegs (.imm 3)) []) :=
  ⟨issues_of _ (by decide) (by decide),
   by decide,
   issues_of _ (by decide) (by decide),
   by decide,
   issues_of _ (by decide) (by decide),
   issues_of _ (by decide) (by decide),
   issues_of _ (by decide) (by decide),
   issues_of _ (by decide) (by decide),
   issues_of _ (by decide) (by decide)⟩

theorem witness_MaskWords :
    (∀ i ∈ ([.kand false 20 0 19, .kor false 20 0 19, .kxor false 20 0 19, .kandn false 20 0 19] : List Instr), base.Issues i (base.kdest 20) (kregs 0 ++ kregs 19) []) ∧
    (∀ i ∈ ([.kmov false 0 (.reg 20)] : List Instr), base.Issues i (base.kdest 0) (kregs 20) []) ∧
    (∀ i ∈ ([.kmov false 19 (.imm 511)] : List Instr), base.Issues i (base.kdest 19) [] []) ∧
    (∀ l, l < 96 → (BitVec.allOnes 96).getLsbD l = decide ((base.sa 0).toNat ≤ l ∧ l < (base.sop (.imm 96)).toNat)) ∧
    (∀ i ∈ ([.klane false 1 0 (.imm 96)] : List Instr), base.Issues i (base.kdest 1) (0 :: sopRegs (.imm 96)) []) ∧
    (∀ i ∈ ([.kpopc false 63 20, .kffs false 63 20] : List Instr), base.Issues i (base.sdest 63 1) (kregs 20) []) :=
  ⟨issues_of _ (by decide) (by decide),
   issues_of _ (by decide) (by decide),
   issues_of _ (by decide) (by decide),
   by decide,
   issues_of _ (by decide) (by decide),
   issues_of _ (by decide) (by decide)⟩

theorem witness_VectorMemoryWords :
    let op (k : MemKind) (o : Ordq) := base.vecOp k o 0 29 (fun _ => 0) (fun _ => 0)
    let q (i : Instr) (k : MemKind) (o : Ordq) (b : Bool) := base.entryOf i (.mem (op k o)) base.exm b
    base.Queues (.vldB32 false 7 0 29 .acq) (base.vdest 7 1 ++ [base.cw.vrange 0]) (pairRegs 58 ++ base.xmodRegs) (base.addrFaults (op (.load 4 false 7) .acq)) (q (.vldB32 false 7 0 29 .acq) (.load 4 false 7) .acq true) ∧
    base.Queues (.vldB64 false 6 0 29 .cn) (base.vdest 6 2 ++ [base.cw.vrange 0]) (pairRegs 58 ++ base.xmodRegs) (base.addrFaults (op (.load 8 false 6) .cn)) (q (.vldB64 false 6 0 29 .cn) (.load 8 false 6) .cn false) ∧
    base.Queues (.vldB128 false 4 0 29 .sc) (base.vdest 4 4 ++ [base.cw.vrange 0]) (pairRegs 58 ++ base.xmodRegs) (base.addrFaults (op (.load 16 false 4) .sc)) (q (.vldB128 false 4 0 29 .sc) (.load 16 false 4) .sc true) ∧
    base.Queues (.vldS8 false 0 0 29 .plain) (base.vdest 0 1 ++ [base.cw.vrange 0]) (pairRegs 58 ++ base.xmodRegs) (base.addrFaults (op (.load 1 true 0) .rlx)) (q (.vldS8 false 0 0 29 .plain) (.load 1 true 0) .rlx false) ∧
    base.Queues (.vstB128 false 4 0 29 .rel) (base.cw.vranges 4 4 ++ [base.cw.vrange 0]) (pairRegs 58 ++ base.xmodRegs) (base.addrFaults (op (.store 16) .rel)) (q (.vstB128 false 4 0 29 .rel) (.store 16) .rel true) ∧
    base.Queues (.vstB8 false 7 0 29 .nt) (base.cw.vranges 7 1 ++ [base.cw.vrange 0]) (pairRegs 58 ++ base.xmodRegs) (base.addrFaults (op (.store 1) .nt)) (q (.vstB8 false 7 0 29 .nt) (.store 1) .nt true) ∧
    base.Queues (.vpref false true 7 29) ([] ++ [base.cw.vrange 7]) (pairRegs 58 ++ base.xmodRegs) (base.addrFaults (op (.pref true) .rlx)) (q (.vpref false true 7 29) (.pref true) .rlx false) ∧
    base.Queues (.fget false 7 0 29 true) (base.vdest 7 1 ++ [base.cw.vrange 0]) (pairRegs 58 ++ base.xmodRegs) (base.addrFaults (op (.fget 7) .acq)) (q (.fget false 7 0 29 true) (.fget 7) .acq true) ∧
    base.Queues (.fput false 7 0 29 true) ([base.cw.vrange 7] ++ [base.cw.vrange 0]) (pairRegs 58 ++ base.xmodRegs) (base.addrFaults (op .fput .rel)) (q (.fput false 7 0 29 true) .fput .rel true) ∧
    base.Queues (.vatom false .addI64 6 0 29 .ar) (base.cw.vranges 6 2 ++ base.cs.pubVs 6 2 ++ [base.cw.vrange 0]) (pairRegs 58 ++ base.xmodRegs) (base.addrFaults (op (.atom .addI64 (some 6)) .ar)) (q (.vatom false .addI64 6 0 29 .ar) (.atom .addI64 (some 6)) .ar true) ∧
    base.Queues (.vred false .addF32 7 0 29 .relaxed) (base.cw.vranges 7 1 ++ [base.cw.vrange 0]) (pairRegs 58 ++ base.xmodRegs) (base.addrFaults (op (.atom .addF32 none) .rlx)) (q (.vred false .addF32 7 0 29 .relaxed) (.atom .addF32 none) .rlx true) :=
  ⟨queues_of (by decide) (by decide) (by decide),
   queues_of (by decide) (by decide) (by decide),
   queues_of (by decide) (by decide) (by decide),
   queues_of (by decide) (by decide) (by decide),
   queues_of (by decide) (by decide) (by decide),
   queues_of (by decide) (by decide) (by decide),
   queues_of (by decide) (by decide) (by decide),
   queues_of (by decide) (by decide) (by decide),
   queues_of (by decide) (by decide) (by decide),
   queues_of (by decide) (by decide) (by decide),
   queues_of (by decide) (by decide) (by decide)⟩

theorem witness_ScalarMemoryWords :
    let s := withS [(58, 4)]
    let op (n d : Nat) := scaOp (.sload n d) (base.saddr 58 (.imm 0) n) 0 0
    let st (n : Nat) := scaOp (.sstore n) (base.saddr 58 (.imm 1) n) 0 0
    let at_ (o : AtomOp) := scaOp (.satom o 63) (base.sa64 58) 0 0
    base.Queues (.sldB32 false 63 58 (.imm 0)) (base.sdest 63 1) (pairRegs 58 ++ sopRegs (.imm 0)) (base.addrFaults (op 4 63)) (base.entryOf (.sldB32 false 63 58 (.imm 0)) (.mem (op 4 63)) base.cs.memb false) ∧
    base.Queues (.sldB64 false 58 58 (.imm 0)) (base.sdest 58 2) (pairRegs 58 ++ sopRegs (.imm 0)) (base.addrFaults (op 8 58)) (base.entryOf (.sldB64 false 58 58 (.imm 0)) (.mem (op 8 58)) base.cs.memb false) ∧
    base.Queues (.sldB128 false 56 58 (.imm 0)) (base.sdest 56 4) (pairRegs 58 ++ sopRegs (.imm 0)) (base.addrFaults (op 16 56)) (base.entryOf (.sldB128 false 56 58 (.imm 0)) (.mem (op 16 56)) base.cs.memb false) ∧
    base.Queues (.sstB32 false 63 58 (.imm 1)) [] (63 :: pairRegs 58 ++ sopRegs (.imm 1)) (base.addrFaults (st 4)) (base.entryOf (.sstB32 false 63 58 (.imm 1)) (.mem (st 4)) base.cs.memb true) ∧
    base.Queues (.sstB64 false 0 58 (.imm 1)) [] (pairRegs 0 ++ pairRegs 58 ++ sopRegs (.imm 1)) (base.addrFaults (st 8)) (base.entryOf (.sstB64 false 0 58 (.imm 1)) (.mem (st 8)) base.cs.memb true) ∧
    base.Queues (.satomAdd false 63 58 0) (base.sdest 63 1) ([] ++ pairRegs 58 ++ [0]) (base.addrFaults (at_ .addI32)) (base.entryOf (.satomAdd false 63 58 0) (.mem (at_ .addI32)) base.cs.memb true) ∧
    base.Queues (.satomCas false 63 58 0) (base.sdest 63 1) ([63] ++ pairRegs 58 ++ [0]) (base.addrFaults (at_ .casB32)) (base.entryOf (.satomCas false 63 58 0) (.mem (at_ .casB32)) base.cs.memb true) ∧
    (∀ i ∈ ([.sldB64 false 0 58 (.imm 0)] : List Instr), s.Issues i (s.sdest 0 2) (pairRegs 58 ++ sopRegs (.imm 0)) []) ∧
    ((s.saddr 58 (.imm 0) 8).toNat % 8 ≠ 0) ∧
    (∀ i ∈ ([.sldB32 false 0 58 (.imm 0)] : List Instr), (withS [(58, 1)]).Issues i (s.sdest 0 1) (pairRegs 58 ++ sopRegs (.imm 0)) []) ∧
    (((withS [(58, 1)]).saddr 58 (.imm 0) 4).toNat % 4 ≠ 0 ∧ ((withS [(58, 8)]).saddr 58 (.imm 0) 16).toNat % 16 ≠ 0) ∧
    (∀ i ∈ ([.sldB128 false 0 58 (.imm 0)] : List Instr), (withS [(58, 8)]).Issues i ((withS [(58, 8)]).sdest 0 4) (pairRegs 58 ++ sopRegs (.imm 0)) []) ∧
    (∀ i ∈ ([.sstB64 false 0 58 (.imm 0)] : List Instr), s.Issues i [] (pairRegs 0 ++ pairRegs 58 ++ sopRegs (.imm 0)) []) ∧
    (∀ i ∈ ([.sstB32 false 0 58 (.imm 0)] : List Instr), (withS [(58, 3)]).Issues i [] (0 :: pairRegs 58 ++ sopRegs (.imm 0)) []) :=
  ⟨queues_of (by decide) (by decide) (by decide),
   queues_of (by decide) (by decide) (by decide),
   queues_of (by decide) (by decide) (by decide),
   queues_of (by decide) (by decide) (by decide),
   queues_of (by decide) (by decide) (by decide),
   queues_of (by decide) (by decide) (by decide),
   queues_of (by decide) (by decide) (by decide),
   issues_of _ (by decide) (by decide),
   by decide,
   issues_of _ (by decide) (by decide),
   by decide,
   issues_of _ (by decide) (by decide),
   issues_of _ (by decide) (by decide),
   issues_of _ (by decide) (by decide)⟩

theorem witness_ScalarAccesses :
    let s := withS [(2, 4088), (3, 0xFFFFFF00), (4, 0x30000)]
    let st (a : SReg) (n : Nat) := scaOp (.sstore n) (s.saddr a (.imm 0) n) 0 0
    let ld := scaOp (.sload 4 0) (s.saddr 2 (.imm 1) 4) 0 0
    s.Queues (.sstB64 false 0 2 (.imm 0)) [] (pairRegs 0 ++ pairRegs 2 ++ sopRegs (.imm 0)) (s.addrFaults (st 2 8)) (s.entryOf (.sstB64 false 0 2 (.imm 0)) (.mem (st 2 8)) s.cs.memb true) ∧
    s.Queues (.sldB32 false 0 2 (.imm 1)) (s.sdest 0 1) (pairRegs 2 ++ sopRegs (.imm 1)) (s.addrFaults ld) (s.entryOf (.sldB32 false 0 2 (.imm 1)) (.mem ld) s.cs.memb false) ∧
    (s.Unordered) ∧
    (stashOff (s.saddr 2 (.imm 0) 8).toNat = some 4088 ∧ s.stashAt s.cw.blk 4088 8 = some (0, 4088) ∧ (s.block 0).winAt 4088 = none) ∧
    (stashOff (s.saddr 2 (.imm 1) 4).toNat = some 4092 ∧ s.stashAt s.cw.blk 4092 4 = some (0, 4092) ∧ (s.block 0).winAt 4092 = none) ∧
    s.Queues (.sstB32 false 1 4 (.imm 0)) [] (1 :: pairRegs 4 ++ sopRegs (.imm 0)) (s.addrFaults (st 4 4)) (s.entryOf (.sstB32 false 1 4 (.imm 0)) (.mem (st 4 4)) s.cs.memb true) ∧
    (s.tlbReady s.cur.1 s.cw (.mem (st 4 4)) = true ∧ stashOff (s.saddr 4 (.imm 0) 4).toNat = none ∧
      s.missRoom (s.agentOf s.cur.1 s.cur.2.1 .normal) (st 4 4) = true ∧ (s.block 0).bad.contains (4092 / 128) = false) ∧
    ((match s.translate s.cur.1 s.cw.vi (s.saddr 4 (.imm 0) 4).toNat .wr with
      | .ok (x, _) => x.region == 1 && !s.uncached x && decide ((SMap.get [] s.l2 (l2Key s.cw.part (s.part s.cw.part).size x.line)).length < 16)
      | .error _ => false) = true) :=
  ⟨queues_of (by decide) (by decide) (by decide),
   queues_of (by decide) (by decide) (by decide),
   unordered_of (by decide),
   by decide,
   by decide,
   queues_of (by decide) (by decide) (by decide),
   by decide,
   by decide⟩

theorem witness_SpecialRegisters :
    let h := withStrand fun st => { st with trap := true }
    (∀ i ∈ ([.sget false 63 26] : List Instr), base.Issues i (base.trapOnly (.sget false 63 26) 26 ++ base.sdest 63 1) [] []) ∧
    (∀ i ∈ ([.sget false 59 16] : List Instr), h.Issues i (h.trapOnly (.sget false 59 16) 16 ++ h.sdest 59 1) [] []) ∧
    (∀ i ∈ ([.sset false 0 8] : List Instr), base.Issues i (base.trapOnly (.sset false 0 8) 8) [0] []) ∧
    (∀ i ∈ ([.sset false 0 20] : List Instr), h.Issues i (h.trapOnly (.sset false 0 20) 20) [0] []) :=
  ⟨issues_of _ (by decide) (by decide),
   issues_of _ (by decide) (by decide),
   issues_of _ (by decide) (by decide),
   issues_of _ (by decide) (by decide)⟩

theorem witness_Branches :
    let s := withS [(58, 0x10006)]
    (∀ i ∈ ([.br false 0x400000] : List Instr), base.Issues i [] [] []) ∧
    (∀ i ∈ ([.brany false 20 0, .brall false 20 0, .brnone false 20 0] : List Instr), base.Issues i [] (kregs 20) []) ∧
    (∀ i ∈ ([.brnz false 59 0, .brz false 59 0] : List Instr), base.Issues i [] [59] []) ∧
    (∀ i ∈ ([.call false 58 1] : List Instr), base.Issues i (base.sdest 58 2) [] []) ∧
    ((base.sa64 58).toNat % 4 = 0 ∧ (s.sa64 58).toNat % 4 ≠ 0 ∧ base.cs.wideVal = none) ∧
    (∀ i ∈ ([.jmpr false 58] : List Instr), base.Issues i [] (pairRegs 58) []) ∧
    (∀ i ∈ ([.jmpr false 58] : List Instr), s.Issues i [] (pairRegs 58) []) :=
  ⟨issues_of _ (by decide) (by decide),
   issues_of _ (by decide) (by decide),
   issues_of _ (by decide) (by decide),
   issues_of _ (by decide) (by decide),
   by decide,
   issues_of _ (by decide) (by decide),
   issues_of _ (by decide) (by decide)⟩

theorem witness_SplitWords :
    let deep (n : Nat) := withStrand fun st => { st with stack := List.replicate n ⟨.fPending, 0, 0⟩ }
    (∀ i ∈ ([.split false 20 0 0] : List Instr), base.Issues i [] (kregs 20) []) ∧
    (base.cs.stack = [] ∧ base.cs.trap = false ∧ (if (1 : Lanes) ≠ 0 ∧ (0 : Lanes) ≠ 0 then 2 else 1) ≤ (base.cw.freeSlots (base.cycle base.cw.part)).length) ∧
    (∀ i ∈ ([.split false 0 0 0] : List Instr), (deep 14).Issues i [] (kregs 0) []) ∧
    (¬(deep 14).cs.stack = [] ∧ (deep 14).cs.stack.length ≤ 14 ∧ 14 < (deep 15).cs.stack.length) ∧
    (∀ i ∈ ([.split false 0 0 0] : List Instr), (deep 15).Issues i [] (kregs 0) []) ∧
    ((base.cw.strand 0).state = .ready ∧ (base.cw.strand 0).parent = none ∧ base.cw.freeSlots 0 = 1 :: 2 :: [3, 4, 5, 6, 7]) :=
  ⟨issues_of _ (by decide) (by decide),
   by decide,
   issues_of _ (by decide) (by decide),
   by decide,
   issues_of _ (by decide) (by decide),
   by decide⟩

theorem witness_StrandWords :
    let ser (x : SerState) := withStrand fun st => { st with stack := [⟨x, 0x10040, 1⟩] }
    let cont := withStrand fun st => { st with kind := .cont }
    (base.cs.stack = [] ∧ base.cs.trap = false) ∧
    (∀ i ∈ ([.ends false, .exit false, .joinm false] : List Instr), base.Issues i [] [] []) ∧
    ((∃ u, (ser .fPending).cs.endsSerial (ser .fPending).cs.stack = some u)) ∧
    (∀ i ∈ ([.ends false] : List Instr), (ser .fPending).Issues i [] [] []) ∧
    ((ser .cPending).cs.stack ≠ [] ∧ (ser .cPending).cs.endsSerial (ser .cPending).cs.stack = none) ∧
    (∀ i ∈ ([.ends false] : List Instr), (ser .cPending).Issues i [] [] []) ∧
    (∀ i ∈ ([.pub false 0 8 0 31] : List Instr), base.Issues i (base.cw.vranges 0 8) [] []) ∧
    (∀ i ∈ ([.pub false 7 1 0 0] : List Instr), (ser .fPending).Issues i ((ser .fPending).cw.vranges 7 1) [] []) ∧
    (cont.cs.stack = [] ∧ cont.cs.kind = .cont ∧ (ser .cRunning).cs.stack ≠ [] ∧ (ser .cRunning).cs.joinCtx = false) ∧
    (∀ i ∈ ([.join false 7 0 7] : List Instr), cont.Issues i (cont.vdest 7 1 ++ [cont.cw.vrange 0, cont.cw.vrange 7]) [] []) ∧
    (∀ i ∈ ([.join false 0 0 7] : List Instr), (ser .cRunning).Issues i ((ser .cRunning).vdest 0 1 ++ [(ser .cRunning).cw.vrange 0, (ser .cRunning).cw.vrange 7]) [] []) ∧
    (∀ i ∈ ([.joins false 59 0 true] : List Instr), cont.Issues i (cont.sdest 59 1) [0] []) ∧
    (∀ i ∈ ([.joins false 0 59 false] : List Instr), (ser .cRunning).Issues i ((ser .cRunning).sdest 0 1) [59] []) :=
  ⟨by decide,
   issues_of _ (by decide) (by decide),
   ⟨_, rfl⟩,
   issues_of _ (by decide) (by decide),
   by decide,
   issues_of _ (by decide) (by decide),
   issues_of _ (by decide) (by decide),
   issues_of _ (by decide) (by decide),
   by decide,
   issues_of _ (by decide) (by decide),
   issues_of _ (by decide) (by decide),
   issues_of _ (by decide) (by decide),
   issues_of _ (by decide) (by decide)⟩

theorem witness_BarrierWords :
    let b : Barrier := { e := 2, flipAt := some 4 }
    ((base.block base.cw.blk).hasBarrier 0 = true ∧ (base.block base.cw.blk).hasBarrier 1 = true ∧ base.cs.trap = false ∧ ∀ n ∈ base.cw.liveSlots, n = base.cur.2.2) ∧
    (∀ i ∈ ([.barW false 1, .barD false 0, .barJ false 1] : List Instr), base.Issues i [] [] []) ∧
    (∀ i ∈ ([.barA false 0 59] : List Instr), base.Issues i (base.sdest 59 1) [] []) ∧
    (∀ i ∈ ([.barwp false 1 59] : List Instr), base.Issues i [] [59] []) ∧
    (b.flipAt ≠ some 5 ∧ b.a + 1 < b.e ∧ ({ b with a := 1 } : Barrier).e ≤ ({ b with a := 1 } : Barrier).a + 1) :=
  ⟨by decide,
   issues_of _ (by decide) (by decide),
   issues_of _ (by decide) (by decide),
   issues_of _ (by decide) (by decide),
   by decide⟩

theorem witness_FencesAndWaits :
    base.Queues (.fence false .sys) [] [] [] (base.entryOf (.fence false .sys) (.fence .sys) base.cs.memb true) ∧
    base.Queues (.qfence false 0xFF) [] [] [] (base.entryOf (.qfence false 0xFF) (.qfence 0xFF) base.cs.memb true) ∧
    (∀ i ∈ ([.twait false 59] : List Instr), base.Issues i [] [] []) ∧
    (∀ i ∈ ([.mwait false 0] : List Instr), base.Issues i [] [0] []) ∧
    (0 < ((withS [(0, 1)]).sa 0 - ((base.block base.cw.blk).batch - 1)).toInt ∧ ¬0 < (base.sa 0 - ((base.block base.cw.blk).batch - 1)).toInt) :=
  ⟨queues_of (by decide) (by decide) (by decide),
   queues_of (by decide) (by decide) (by decide),
   issues_of _ (by decide) (by decide),
   issues_of _ (by decide) (by decide),
   by decide⟩

theorem witness_RolesAndBudgets :
    let p (n : Nat) := base.updCw fun w => { w with pendRole := some (1, n) }
    let g := base.updCw fun w => { w with vbudget := 128 }
    (base.cw.pendRole = none ∧ (p 8).cw.pendRole = some (1, 8) ∧ (p 8).roleReady 0 0 8 = true ∧ (p 10000).cw.pendRole = some (1, 10000) ∧ (p 10000).roleReady 0 0 10000 = false) ∧
    (∀ i ∈ ([.rpoll false 59] : List Instr), base.Issues i (base.sdest 59 1) [] []) ∧
    (∀ i ∈ ([.rpoll false 0] : List Instr), (p 8).Issues i ((p 8).sdest 0 1) [] []) ∧
    (∀ i ∈ ([.rpoll false 0] : List Instr), (p 10000).Issues i ((p 10000).sdest 0 1) [] []) ∧
    (8 * (15 : BitVec 4).toNat + 8 ≤ g.cw.vbudget ∧ base.cw.vbudget + 8 * (15 : BitVec 4).toNat ≤ 128) ∧
    (∀ i ∈ ([.vgive false 15] : List Instr), g.Issues i [] [] []) ∧
    (∀ i ∈ ([.vclaim false 15] : List Instr), base.Issues i [] [] []) :=
  ⟨by decide,
   issues_of _ (by decide) (by decide),
   issues_of _ (by decide) (by decide),
   issues_of _ (by decide) (by decide),
   by decide,
   issues_of _ (by decide) (by decide),
   issues_of _ (by decide) (by decide)⟩

theorem witness_TrapWords :
    (∀ i ∈ ([.trap false 255, .brkpt true, .nop true, .tret false] : List Instr), base.Issues i [] [] []) :=
  issues_of _ (by decide) (by decide)

theorem witness_UndefinedWords :
    ((0x7C000000#32).extractLsb' 28 3 = 7#3 ∧ 48 ≤ ((0x7C000000#32).extractLsb' 22 6).toNat) ∧
    ((0xFFFFFFFF#32).extractLsb' 28 3 = 7#3 ∧ 48 ≤ ((0xFFFFFFFF#32).extractLsb' 22 6).toNat) ∧
    (base.cw.latched = none ∧ base.cw.halted = false) :=
  ⟨by decide,
   by decide,
   by decide⟩

theorem witness_LowestCauseFirst :
    let s := base.updCw fun w => { w with tokens := [0] }
    let t := base.updCw fun w => { w with tokens := [59] }
    (lowest (pfxFaults (.sadd false 0 1 (.imm 3)) s.cs.pfx ++ s.sdest 0 1) = some ⟨.tokenwrite, (lowest (s.sdest 0 1)).elim 0 (·.val)⟩) ∧
    ((t.cs.pfx = none ∧ NoCause (t.sdest 0 1) ∧ t.cw.isPending 59 = true)) :=
  ⟨by decide,
   ⟨by decide, noCause_of (by decide), by decide⟩⟩

theorem witness_Hints :
    let q : Pfx := { start := 0xFFFC, wide := some (.high 7, 0x70800007) }
    let s := withStrand fun st => { st with pfx := some q }
    (base.cs.pfxNow.xmod = none ∧ base.cs.pfxNow.wide = none ∧ base.cs.pfx = none ∧ s.cs.pfxNow.wide = some (.high 7, 0x70800007)) :=
  by decide

theorem witness_OpenSystemWords :
    (∀ i ∈ ([.sched false 7] : List Instr), base.Issues i [] [] []) ∧
    (∀ i ∈ ([.trace false 63] : List Instr), base.Issues i [] [63] []) ∧
    (∀ i ∈ ([.cntrd false 58 15] : List Instr), base.Issues i (base.sdest 58 2) [] []) :=
  ⟨issues_of _ (by decide) (by decide),
   issues_of _ (by decide) (by decide),
   issues_of _ (by decide) (by decide)⟩

theorem witness_FirmwareWords :
    let s := base.updCw fun w => { w with firmware := true }
    (s.cw.firmware = true ∧ base.cw.firmware = false) ∧
    (∀ i ∈ ([.sysld false 0 58] : List Instr), s.Issues i (s.sdest 0 1) (pairRegs 58) []) ∧
    (∀ i ∈ ([.sysst false 63 0] : List Instr), s.Issues i [] (63 :: pairRegs 0) []) ∧
    (∀ i ∈ ([.tlbinv false 0] : List Instr), s.Issues i [] (pairRegs 0) []) ∧
    (∀ i ∈ ([.waiti false] : List Instr), s.Issues i [] [] []) ∧
    (∀ i ∈ ([.metsnap false 59] : List Instr), s.Issues i (s.sdest 59 1) [59] []) ∧
    ((NoCause (pfxFaults (.sysld false 0 2) base.cs.pfx) ∧ NoCause (pfxFaults (.sysst false 0 2) base.cs.pfx) ∧ NoCause (pfxFaults (.tlbinv false 2) base.cs.pfx) ∧ NoCause (pfxFaults (.waiti false) base.cs.pfx) ∧ NoCause (pfxFaults (.metsnap false 2) base.cs.pfx))) :=
  ⟨by decide,
   issues_of _ (by decide) (by decide),
   issues_of _ (by decide) (by decide),
   issues_of _ (by decide) (by decide),
   issues_of _ (by decide) (by decide),
   issues_of _ (by decide) (by decide),
   ⟨noCause_of (by decide), noCause_of (by decide), noCause_of (by decide), noCause_of (by decide), noCause_of (by decide)⟩⟩

theorem witness_EngineWords :
    let q (i : Instr) (n : Nat) (op : EngOp) := base.entryOf i (.engine n { op := op, token := 59, core := base.cur.1, slot := base.cur.2.1, pc := base.cs.start, opcode := opcodeOf (encode i) }) base.cs.memb true
    base.Queues (.acopy false 59 56 59 3) (base.sdest 59 1) (blockRegs 56 4 ++ [59]) [] (q (.acopy false 59 56 59 3) 3 (.acopy 0 0 0 0)) ∧
    base.Queues (.gath false 59 52) (base.sdest 59 1) (blockRegs 52 8) [] (q (.gath false 59 52) 4 (.gath 0 0 0 0 0 0 true)) ∧
    base.Queues (.scat false 59 0) (base.sdest 59 1) (blockRegs 0 8) [] (q (.scat false 59 0) 4 (.scat 0 0 0 0 0 0 0 true)) ∧
    base.Queues (.coll false 59 0) (base.sdest 59 1) (blockRegs 0 8) [] (q (.coll false 59 0) 6 (.coll 0 0 0 0 0 0 0 0 true)) :=
  ⟨queues_of (by decide) (by decide) (by decide),
   queues_of (by decide) (by decide) (by decide),
   queues_of (by decide) (by decide) (by decide),
   queues_of (by decide) (by decide) (by decide)⟩

theorem witness_WindowAndCountWords :
    let s := withS [(0, 0), (1, 128), (2, 0x30000), (4, 0), (5, 0xFFFFFF00)]
    let full := s.updBlock 0 fun b => { b with wins := (List.range 16).map fun n => (n, { off := 4096 }) }
    let counted := s.updBlock 0 fun b => { b with counts := [(0, .live 3)] }
    (∀ i ∈ ([.smap false 59 56 true] : List Instr), base.Issues i (base.sdest 59 1) (blockRegs 56 4) []) ∧
    ((base.block 0).smapOk (base.sr 56).toNat (base.sr 57).toNat (base.sp 58) = false) ∧
    (∀ i ∈ ([.smap false 59 0 false] : List Instr), s.Issues i (s.sdest 59 1) (blockRegs 0 4) []) ∧
    ((s.block 0).smapOk (s.sr 0).toNat (s.sr 1).toNat (s.sp 2) = true ∧ (s.block 0).freeWin = some 0) ∧
    (∀ i ∈ ([.smap false 59 0 false] : List Instr), full.Issues i (full.sdest 59 1) (blockRegs 0 4) []) ∧
    ((full.block 0).smapOk (full.sr 0).toNat (full.sr 1).toNat (full.sp 2) = true ∧ (full.block 0).freeWin = none) ∧
    (∀ i ∈ ([.cqry false 63 4] : List Instr), counted.Issues i (counted.sdest 63 1) (pairRegs 4) []) ∧
    (stashOff (counted.sa64 4).toNat = some 0 ∧ counted.stashAt counted.cw.blk 0 1 = some (0, 0)) :=
  ⟨issues_of _ (by decide) (by decide),
   by decide,
   issues_of _ (by decide) (by decide),
   by decide,
   issues_of _ (by decide) (by decide),
   by decide,
   issues_of _ (by decide) (by decide),
   by decide⟩

theorem witness_PortWords :
    let q (i : Instr) (k : PortKind) := base.entryOf i (.port { kind := k, base := 0, len := 0, token := 59, pc := base.cs.start, opcode := opcodeOf (encode i) }) base.cs.memb true
    base.Queues (.sunmap false 59 0 true) (base.sdest 59 1) [0] [] (q (.sunmap false 59 0 true) (.sunmap true)) ∧
    base.Queues (.cdrop false 59 58 0) (base.sdest 59 1) (pairRegs 58 ++ [0]) [] (q (.cdrop false 59 58 0) .cdrop) ∧
    base.Queues (.cinv false 59 0 59) (base.sdest 59 1) (pairRegs 0 ++ [59]) [] (q (.cinv false 59 0 59) .cinv) ∧
    base.Queues (.cinvI false 59 0 59) (base.sdest 59 1) (pairRegs 0 ++ [59]) [] (q (.cinvI false 59 0 59) .cinvI) ∧
    base.Queues (.cwb false 0 0 0) (base.sdest 0 1) (pairRegs 0 ++ [0]) [] (q (.cwb false 0 0 0) .cwb) ∧
    ((base.sa64 58).toNat % 128 = 0 ∧ (base.sa 59).toNat % 128 = 0) ∧
    base.Queues (.l2pin false 8 58 59 7) [] (pairRegs 58 ++ [59]) [] (base.entryOf (.l2pin false 8 58 59 7) (.pin 7 8 (base.sa64 58) (base.sa 59).toNat) base.cs.memb true) ∧
    base.Queues (.l2unpin false 7) [] [] [] (base.entryOf (.l2unpin false 7) (.pin 7 0 0 0) base.cs.memb true) :=
  ⟨queues_of (by decide) (by decide) (by decide),
   queues_of (by decide) (by decide) (by decide),
   queues_of (by decide) (by decide) (by decide),
   queues_of (by decide) (by decide) (by decide),
   queues_of (by decide) (by decide) (by decide),
   by decide,
   queues_of (by decide) (by decide) (by decide),
   queues_of (by decide) (by decide) (by decide)⟩

theorem witness_MatrixWords :
    let s := withS [(0, 0x30000), (2, 0x31000), (8, 0x12), (9, 1), (10, 32), (11, 32), (12, 0x32000), (14, 0x33000), (16, 0x88), (17, 1)]
    let e (i : Instr) (sh : Shape) (acc : Nat) (k : MatKind) (r : List (Nat × Nat)) (l : Bool) (n : Need) := s.entryOf i (.matrix { kind := k, shape := sh, acc := acc, core := s.cur.1, slot := s.cur.2.1, pc := s.cs.start, word := encode i, pins := (s.matCheck 0 0 n r).2.1, lines := if l then s.operandLines s.cw.vi (s.matCheck 0 0 n r).2.1 r else [] }) s.cs.memb true
    let ranges := mmaRanges .s2x2 0x30000 0x31000 (s.fmtBlock 8) false
    let sparse := mmaRanges .s2x2 0x30000 0x31000 (s.fmtBlock 8) true
    let rows := (List.range Shape.s1x4.rows).map fun r => (((s.sp 0).toNat + r * (s.sr 4).toNat) % 2 ^ 64, Shape.s1x4.cols * AccFmt.f32.bytes)
    s.Queues (.mzacc false .s1x4 7) [] [] (s.matFaults (.mzacc false .s1x4 7) .s1x4 7) (e (.mzacc false .s1x4 7) .s1x4 7 .mzacc [] false .rd) ∧
    (s.fmtBad 8 false = false ∧ s.fmtBad 8 true = false ∧ (s.matCheck 0 0 .rd ranges).1 = [] ∧ (s.matCheck 0 0 .rd sparse).1 = []) ∧
    (firstUnaligned [(0x30000, 32), (0x31000, 32), ((s.fmtBlock 8).astr, 32), ((s.fmtBlock 8).bstr, 32), (0x32000, 2), (0x33000, 2)] = none) ∧
    ((s.sr 5) = 0 ∧ firstUnaligned [(0x30000, AccFmt.f32.bytes), ((s.sr 4).toNat, AccFmt.f32.bytes)] = none) ∧
    (∀ i ∈ ([.mfence false 63] : List Instr), s.Issues i (s.sdest 63 1) [] []) ∧
    s.Queues (.mma false .s2x2 7 0 1 1) [] (pairRegs 0 ++ pairRegs 2 ++ blockRegs 8 8) (s.matFaults (.mma false .s2x2 7 0 1 1) .s2x2 7) (e (.mma false .s2x2 7 0 1 1) .s2x2 7 (.mma (s.sp 0) (s.sp 2) (s.fmtBlock 8)) ranges true .rd) ∧
    s.Queues (.mstacc false .s1x4 0 0 2 .f32) [] (pairRegs 0 ++ pairRegs 4) (s.matFaults (.mstacc false .s1x4 0 0 2 .f32) .s1x4 0) (e (.mstacc false .s1x4 0 0 2 .f32) .s1x4 0 (.mstacc (s.sp 0) 0 .f32) rows false .wr) ∧
    s.Queues (.mldacc false .s1x4 0 0 2 .f32) [] (pairRegs 0 ++ pairRegs 4) (s.matFaults (.mldacc false .s1x4 0 0 2 .f32) .s1x4 0) (e (.mldacc false .s1x4 0 0 2 .f32) .s1x4 0 (.mldacc (s.sp 0) 0 .f32) rows false .rd) ∧
    ((s.matCheck 0 0 .wr rows).1 = [] ∧ (s.matCheck 0 0 .rd rows).1 = []) ∧
    (((s.updCs fun st => { st with pfx := some ⟨0xFFFC, some (⟨31, false, 0, 4, true, 5⟩, 0), none⟩ }).cs.xmod = some ⟨31, false, 0, 4, true, 5⟩ ∧ NoCause ((s.updCs fun st => { st with pfx := some ⟨0xFFFC, some (⟨31, false, 0, 4, true, 5⟩, 0), none⟩ }).cw.vranges 4 (1 * (256 / matWidth 2) / 16)) ∧ NoCause (pfxFaults (.mmasp false .s2x2 7 0 1 1) (some ⟨0xFFFC, some (⟨31, false, 0, 4, true, 5⟩, 0), none⟩)))) :=
  ⟨queues_of (by decide) (by decide) (by decide),
   by decide +kernel,
   by decide,
   by decide,
   issues_of _ (by decide) (by decide),
   queues_of (by decide) (by decide) (by decide),
   queues_of (by decide) (by decide) (by decide),
   queues_of (by decide) (by decide) (by decide),
   by decide +kernel,
   ⟨by decide, noCause_of (by decide), noCause_of (by decide)⟩⟩

theorem witness_HeapWords :
    let q (i : Instr) (k : HeapKind) (kd : Kind) := base.entryOf i (.heap k ((lanesOf base.exm).map fun l => (l, base.cw.vreg 7 l, BitVec.ofNat 32 (base.operand kd 130 l)))) base.exm true
    let h := base.updPart 0 fun p => { p with heaps := [(63, { vi := 0 })] }
    base.Queues (.tenq false 7 130) (base.cw.vrange 7 :: base.cw.codeRange .f32 130) (codeRegs .f32 130) [] (q (.tenq false 7 130) .tenq .f32) ∧
    base.Queues (.tgaina false 7 130) (base.cw.vrange 7 :: base.cw.codeRange .f32 130) (codeRegs .f32 130) [] (q (.tgaina false 7 130) .gaina .f32) ∧
    base.Queues (.tgainm false 7 130) (base.cw.vrange 7 :: base.cw.codeRange .f32 130) (codeRegs .f32 130) [] (q (.tgainm false 7 130) .gainm .f32) ∧
    base.Queues (.tgains false 7 130) (base.cw.vrange 7 :: base.cw.codeRange .f32 130) (codeRegs .f32 130) [] (q (.tgains false 7 130) .gains .f32) ∧
    base.Queues (.tjset false 7 130) (base.cw.vrange 7 :: base.cw.codeRange .i32 130) (codeRegs .i32 130) [] (q (.tjset false 7 130) .tjset .i32) ∧
    base.Queues (.tdone false 0) [base.cw.vrange 0] [] [] (base.entryOf (.tdone false 0) (.heap .tdone ((lanesOf base.exm).map fun l => (l, base.cw.vreg 0 l, 0))) base.exm true) ∧
    (∀ i ∈ ([.hres false 58 63] : List Instr), h.Issues i (h.sdest 58 2) [] []) ∧
    ((h.heap h.cw.part 63).isSome = true ∧ (base.heap base.cw.part 63).isSome = false) ∧
    (∀ i ∈ ([.hres false 58 63] : List Instr), base.Issues i (base.sdest 58 2) [] []) :=
  ⟨queues_of (by decide) (by decide) (by decide),
   queues_of (by decide) (by decide) (by decide),
   queues_of (by decide) (by decide) (by decide),
   queues_of (by decide) (by decide) (by decide),
   queues_of (by decide) (by decide) (by decide),
   queues_of (by decide) (by decide) (by decide),
   issues_of _ (by decide) (by decide),
   by decide,
   issues_of _ (by decide) (by decide)⟩

theorem witness_RingWords :
    let q (i : Instr) (p : Bool) := base.entryOf i (.ring p 3 (base.sa 0) 59) base.cs.memb true
    base.Queues (.ringp false 59 0 3) (base.sdest 59 1) [0] [] (q (.ringp false 59 0 3) true) ∧
    base.Queues (.ringc false 59 0 3) (base.sdest 59 1) [0] [] (q (.ringc false 59 0 3) false) ∧
    (∀ i ∈ ([.ringq false 63 3] : List Instr), base.Issues i (base.sdest 63 1) [] []) :=
  ⟨queues_of (by decide) (by decide) (by decide),
   queues_of (by decide) (by decide) (by decide),
   issues_of _ (by decide) (by decide)⟩

theorem witness_WaveEvents :
    let st (f : Strand → Strand) := withStrand f
    let a := st fun x => { x with state := .parked, park := .token, parkI := some (.sadd false 0 1 (.imm 3)) }
    let b := st fun x => { x with state := .parked, park := .marker }
    let c := st fun x => { x with state := .parked, park := .publication, parkI := some (.pub false 0 1 0 0) }
    let q (i : Instr) (o : QOp) := base.entryOf i o base.cs.memb true
    let d := base.updCw fun w => { w with queue := [q (.fence false .dev) (.fence .dev)] }
    let e := (st fun x => { x with state := .ended }).updBlock 0 fun b => { b with waves := [0, 1] }
    ((base.updCw fun w => { w with outs := [{ strand := 0 }] }).canLand 0 0 0 = true) ∧
    (a.canWake 0 0 0 = true ∧ (a.cw.strand 0).retries = true ∧ a.cw.latched = none) ∧
    (b.canWake 0 0 0 = true ∧ (b.cw.strand 0).retries = false ∧ (b.cw.strand 0).parkI = none) ∧
    (c.canWake 0 0 0 = true ∧ (c.cw.strand 0).retries = false ∧ (c.cw.strand 0).parkI = some (.pub false 0 1 0 0)) ∧
    (d.cw.entry 0 = some (q (.fence false .dev) (.fence .dev)) ∧ d.releasable 0 0 (q (.fence false .dev) (.fence .dev)) = true ∧ d.tlbReady 0 d.cw (.fence .dev) = true) ∧
    (((st fun x => { x with waits := 64 }).cw.strand 0).state = .ready ∧ ((st fun x => { x with waits := 64 }).cw.strand 0).cappedAt = none ∧ 64 ≤ ((st fun x => { x with waits := 64 }).cw.strand 0).waits) ∧
    ((match base.translate 0 0 (0x10004 / 128 * 128) .fetch with | .ok (x, u) => !u.bad.contains x.line | .error _ => false) = true) ∧
    (e.cw.finished = true ∧ e.cw.queue = [] ∧ e.cw.tasks = [] ∧ (e.block e.cw.blk).task = false ∧
      (List.range 20).filter ((e.updBlock 0 fun b => { b with bars := [], desc := { b.desc with barriers := 0 } }).block 0).hasBarrier = []) :=
  ⟨by decide,
   by decide,
   by decide,
   by decide,
   by decide,
   by decide,
   by decide,
   by decide⟩

theorem witness_TrapEvents :
    let written (s : State) : Bool := match (s.haltForTrap 0 0 (aFault .usertrap) 0).writeFrames 0 0 (s.block 0).waves with | .ok _ => true | .error _ => false
    ((trapping mapped .usertrap 0x10000).trapReady 0 0 = true ∧ (trapping base .usertrap 0x10000).trapReady 0 0 = true) ∧
    (¬(Cause.usertrap.kind = .terminal ∨ (0 : Nat) = 8 ∨ ((trapping mapped .usertrap 0x10000).vi 0).tba = 0)) ∧
    (written (trapping mapped .usertrap 0x10000) = true ∧ written (trapping base .usertrap 0x10000) = false) ∧
    ((trapping base .mcheck 0x10000).trapReady 0 0 = true ∧ Cause.mcheck.kind = .terminal) ∧
    ((trapping base .usertrap 0).trapReady 0 0 = true ∧ ((trapping base .usertrap 0).vi 0).tba = 0) :=
  ⟨by decide +kernel,
   by decide +kernel,
   by decide +kernel,
   by decide +kernel,
   by decide +kernel⟩

theorem witness_TrapEntryAndReturn :
    ((⟨.usertrap, 0, 7, 0, 1, 0, 0, false⟩ : FaultRec).strand < 8) ∧
    (({ tcause := 0x21, tpcWritten := false } : Wave).tNoted = false ∧ ({ tcause := 0x21, tpcWritten := false } : Wave).tcause = Cause.translate.code ∧ ({ tcause := 0x31, tpcWritten := true } : Wave).tcause = Cause.fpexc.code) :=
  ⟨by decide,
   by decide⟩

theorem witness_HostAndRemoteAccesses :
    let link := { base with dev := { base.dev with ports := [(15, { up := true, dev := 1023, reach := [(1023, 7, 0)] })] } }
    ((hbmEnd - 2) + [(1 : Byte), 2].length ≤ hbmEnd ∧ (hbmEnd - 8) + 8 ≤ hbmEnd ∧ (hbmEnd - 8) % 8 = 0) ∧
    ((match mapped.writeVirt 0 0x50000 [1, 2] with | .ok _ => true | .error _ => false) = true ∧ (match base.writeVirt 0 0x50000 [1] with | .ok _ => false | .error _ => true) = true) ∧
    ((mapped.readVirt 0 0x1000 2 = .ok [1, 0x20])) ∧
    ((match base.readVirt 0 0x1000 2 with | .ok _ => false | .error _ => true) = true) ∧
    ((SMap.get {} link.dev.ports 15 : Port).up = true ∧ link.hbmOwner 0 = some 0 ∧ (1023, 7, 0) ∈ (SMap.get {} link.dev.ports 15 : Port).reach ∧
      (5, 7, 0) ∉ (SMap.get {} link.dev.ports 15 : Port).reach) ∧
    ((2 ^ 40 - 1) + [(1 : Byte)].length ≤ 2 ^ 40 ∧ (2 ^ 48 - 1) + [(1 : Byte)].length ≤ 2 ^ 48) :=
  ⟨by decide,
   by decide +kernel,
   reads_of _ (by decide) (by decide +kernel),
   by decide +kernel,
   by decide,
   by decide⟩

theorem witness_Requests :
    let tr := 1 + 8192 * 2 ^ 128
    let trBad := 1 + 4096 * 2 ^ 128
    let sc := 4 + 7 * 2 ^ 64 + 50000 * 2 ^ 96
    let gr := 3 + 2 ^ 80 + 0x6000 * 2 ^ 128
    let ex := { asking (7 + 4096 * 2 ^ 64) with dev := { (asking (7 + 4096 * 2 ^ 64)).dev with extents := [{ base := 4096, len := 1, vi := 0, pending := true }] } }
    (((asking tr).asks 1 0 (asked tr) ∧ field (asked tr) 16 8 % 8192 = 0)) ∧
    (((asking trBad).asks 1 0 (asked trBad) ∧ field (asked trBad) 16 8 % 8192 ≠ 0)) ∧
    (((asking (2 + 4096 * 2 ^ 64)).asks 2 0 (asked (2 + 4096 * 2 ^ 64)) ∧ field (asked (2 + 4096 * 2 ^ 64)) 8 8 % 4096 = 0)) ∧
    (((asking (2 + 64 * 2 ^ 64)).asks 2 0 (asked (2 + 64 * 2 ^ 64)) ∧ field (asked (2 + 64 * 2 ^ 64)) 8 8 % 4096 ≠ 0)) ∧
    (((asking sc).asks 4 0 (asked sc) ∧ field (asked sc) 8 4 ≤ 7 ∧ 100 ≤ field (asked sc) 12 4 ∧ field (asked sc) 12 4 ≤ 50000)) ∧
    (((asking (sc + 2 ^ 96)).asks 4 0 (asked (sc + 2 ^ 96)) ∧ 50000 < field (asked (sc + 2 ^ 96)) 12 4)) ∧
    (((asking (5 + 2 ^ 16)).asks 5 1 (asked (5 + 2 ^ 16)) ∧ ((asking (5 + 2 ^ 16)).part (field (asked (5 + 2 ^ 16)) 8 4)).size ≠ 0 ∧ (asking (5 + 2 ^ 16)).idleVi 1 = true)) ∧
    (((asking 5).asks 5 0 (asked 5) ∧ ((asking 5).part (field (asked 5) 8 4)).size ≠ 0 ∧ (asking 5).idleVi 0 = false)) ∧
    (((asking (5 + 7 * 2 ^ 64)).asks 5 0 (asked (5 + 7 * 2 ^ 64)) ∧ ((asking (5 + 7 * 2 ^ 64)).part (field (asked (5 + 7 * 2 ^ 64)) 8 4)).size = 0)) ∧
    (((asking (6 + 63 * 2 ^ 16)).asks 6 63 (asked (6 + 63 * 2 ^ 16)))) ∧
    (((asking gr).asks 3 0 (asked gr) ∧ field (asked gr) 12 2 < field (asked gr) 10 2 ∧ (asking gr).groupBusy 0 (field (asked gr) 8 2) = false)) ∧
    (((asking gr).readVirt 0 (field (asked gr) 16 8) (8 * field (asked gr) 10 2) = .ok (List.replicate 8 0))) ∧
    ((List.range 1).all (fun i => decide (field (List.replicate 8 0) (8 * i) 8 < 2 ^ 32)) = true) ∧
    ((ex.asks 7 0 (asked (7 + 4096 * 2 ^ 64)) ∧ (ex.dev.extents.find? fun e => e.base = field (asked (7 + 4096 * 2 ^ 64)) 8 8 && e.vi = 0 && e.pending) = some { base := 4096, len := 1, vi := 0, pending := true })) :=
  ⟨⟨asks_of (by decide) (by decide +kernel), by decide +kernel⟩,
   ⟨asks_of (by decide) (by decide +kernel), by decide +kernel⟩,
   ⟨asks_of (by decide) (by decide +kernel), by decide +kernel⟩,
   ⟨asks_of (by decide) (by decide +kernel), by decide +kernel⟩,
   ⟨asks_of (by decide) (by decide +kernel), by decide +kernel⟩,
   ⟨asks_of (by decide) (by decide +kernel), by decide +kernel⟩,
   ⟨asks_of (by decide) (by decide +kernel), by decide +kernel⟩,
   ⟨asks_of (by decide) (by decide +kernel), by decide +kernel⟩,
   ⟨asks_of (by decide) (by decide +kernel), by decide +kernel⟩,
   asks_of (by decide) (by decide +kernel),
   ⟨asks_of (by decide) (by decide +kernel), by decide +kernel⟩,
   reads_of _ (by decide) (by decide +kernel),
   by decide,
   ⟨asks_of (by decide) (by decide +kernel), by decide +kernel⟩⟩

theorem witness_Boot :
    let s (n : Nat) (host : Bool) (len : Nat) : State :=
      { base with agenda := [.boot], dev := { base.dev with stage := n, hostImage := host, imgBase := 4096, imgLen := len } }
    ((s 2 false 0).dev.stage = 2 ∧ (s 15 false 0).dev.stage = 15 ∧ (s 4 false 0).dev.stage ≠ 2 ∧ (s 4 false 0).dev.stage ≠ 15) ∧
    (∀ n host len, (s n host len).agenda = .boot :: []) ∧
    ((s 1 false 0).dev.stage = 1 ∧ (s 1 false 0).dev.hostImage = false ∧ (s 1 true 0).dev.hostImage = true ∧ (s 3 true 0).dev.stage = 3 ∧
      (s 4 true 0).dev.stage ≠ 1 ∧ (s 4 true 0).dev.stage ≠ 3) ∧
    (¬((s 1 true (2 ^ 26 + 1)).dev.imgLen ≤ 2 ^ 26) ∧ (s 1 true (2 ^ 26)).dev.imgLen ≤ 2 ^ 26) :=
  ⟨by decide, fun _ _ _ => rfl, by decide, by decide⟩

theorem witness_ManagementMessages :
    let s := base.updVi 5 fun v => { v with part := some 0 }
    let bad := s.updPart 0 fun p => { p with snapOk := false }
    let reset := s.updPart 0 fun p => { p with resetting := true }
    ((63 : Nat) < 64 ∧ (15 : Nat) < 16 ∧ (s.vi 5).part = some 0 ∧ (s.vi 5).part.isSome = true ∧ (s.vi 9).part = none ∧ (64 : Nat) ≤ 64) ∧
    ((s.snapshot 0 5 1).isSome = true ∧ (bad.vi 5).part = some 0 ∧ bad.snapshot 0 5 1 = none) ∧
    ((s.vi 5).part.any (fun p => (s.part p).resetting) = false ∧ (reset.vi 5).part.any (fun p => (reset.part p).resetting) = true) :=
  ⟨by decide,
   by decide +kernel,
   by decide⟩

theorem witness_StopAndDump :
    let pk : Packet := { aPkt with q := 2, idx := 9 }
    let s := { base with packets := [(0, pk)] }
    let h := s.updBlock 0 fun b => { b with stopped := true }
    let k := base.updVi 0 fun v => { v with key := some 7 }
    let pre := s.updCs fun st => { st with pfx := some { start := 0 } }
    (pre.namedBlocks 0 2 9 0 0 0 = [0] ∧ pre.noPrefix ((pre.namedBlocks 0 2 9 0 0 0).flatMap pre.blockWaves) = false) ∧
    (base.namedBlocks 0 2 9 0 0 0 = [] ∧ s.namedBlocks 0 2 9 0 0 0 = [0] ∧ s.noPrefix ((s.namedBlocks 0 2 9 0 0 0).flatMap s.blockWaves) = true) ∧
    ((s.namedBlocks 0 2 9 0 0 0).filter (fun b => (s.block b).stopped) = [] ∧ (h.namedBlocks 0 2 9 0 0 0).filter (fun b => (h.block b).stopped) = [0]) ∧
    ((k.vi 0).part = some 0 ∧ (k.vi 0).key = some 7 ∧ (k.part 0).resident = some 0 ∧ (k.blocks.any fun b => b.2.vi = 0 && !b.2.stopped) = true) ∧
    (((k.updPart 0 fun p => { p with resident := none }).part 0).resident ≠ some 0 ∧ (3 : Nat) < 4 ∧ (159 : Nat) < 160 ∧ (base.vi 0).key = none) :=
  ⟨by decide,
   by decide,
   by decide,
   by decide,
   by decide⟩

theorem witness_DeviceEvents :
    let x (g : Bool) : Extent := { base := 8192, len := 4096, vi := 63, pending := g }
    let s (g : Bool) := { base with dev := { base.dev with extents := [x g] } }
    let l := { base with dev := { base.dev with ports := [(15, { up := true, dev := 1023, port := 15 })] } }
    ((1 : Nat) ≠ 0 ∧ (2 ^ 44 - 1) + 1 ≤ 2 ^ 44 ∧ (63 : Nat) < 64 ∧ (∀ x ∈ ({ base with dev := { base.dev with extents := [{ base := 0, len := 2 ^ 44, vi := 1, gone := true }] } } : State).dev.extents, x.base < 1 → x.gone = true) ∧ (11 : Nat) < 12 ∧ (31 : Nat) < 32) ∧
    (((s false).dev.extents.find? fun e => e.base = 8192 && !e.gone && !e.pending) = some (x false) ∧ ((s true).dev.extents.find? fun e => e.base = 8192 && e.pending) = some (x true)) ∧
    ((SMap.get {} l.dev.ports 15 : Port).up = true ∧ (l.part 0).size ≠ 0) ∧
    (((SMap.put l.dev.ports 15 { (SMap.get {} l.dev.ports 15 : Port) with up := false }).any fun x => x.2.up && x.2.dev = (SMap.get {} l.dev.ports 15 : Port).dev) = false) ∧
    (let a := base.updPart (base.chanPart 11 31) fun p => { p with acts := [(bankKey 11 31 15, 3)] }
     SMap.get 0 (a.part (a.chanPart 11 31)).acts (bankKey 11 31 15) = 3 ∧ SMap.get 0 (base.part (base.chanPart 11 31)).acts (bankKey 11 31 15) = 0) ∧
    ((s true).dev.extents.find? (fun e => e.base = 8192 && !e.gone) = some (x true) ∧ (s true).dev.extents.find? (fun e => e.base = 8192 && !e.gone && !e.pending) = none) :=
  ⟨by decide,
   by decide,
   by decide,
   by decide,
   by decide,
   by decide⟩

theorem witness_EngineCompletions :
    let on (q : Nat) (e : EngEntry) := mapped.updBlock 0 fun b => { b with queues := [(q, [e])] }
    let cp (d r : DWord) (len : Nat) : EngEntry := { op := .acopy d r len 0 }
    let ga : EngEntry := { op := .gath 0x50000 0x51000 0x52000 2 2 2 true }
    let sc : EngEntry := { op := .scat 0x50000 0x51000 0x52000 2 0 2 2 true }
    let co (ok : Bool) : EngEntry := { op := .coll 0x30000 0x30100 4 1 0 0 0 0 ok }
    let grp : Group := { m := 2, q := 0, members := [0, 1] }
    let cs (ok : Bool) := (on 6 (co ok)).updVi 0 fun v => { v with groups := [(1, grp)] }
    let fit := (on 6 { co true with op := .coll 0 0 0 1 0 0 0 4 true }).updVi 0 fun v => { v with groups := [(1, grp)] }
    (mapped.enginesRun 0 = true ∧ SMap.get [] ((on 3 (cp 0 0 0)).block 0).queues 3 = [cp 0 0 0]) ∧
    ((on 0 (cp 1 0x50000 64)).acopyRange 0 1 0x50000 64 0 = true ∧ (on 0 (cp 0x50000 0x51000 64)).acopyRange 0 0x50000 0x51000 64 0 = false) ∧
    ((match (on 0 (cp 0x30000 0x30080 64)).copyFrom ((on 0 (cp 0x30000 0x30080 64)).engAgent 0 (cp 0x30000 0x30080 64)) 0x30000 0x30080 64 0 ((on 0 (cp 0x30000 0x30080 64)).fillStop 0 0) (64 / 4 + 1) (2 ^ 24) 0 with | (pix, none, _) => decide (64 ≤ pix) | _ => false) = true) ∧
    ((match (on 0 (cp 0x30000 0x70000000 64)).copyFrom ((on 0 (cp 0x30000 0x70000000 64)).engAgent 0 (cp 0x30000 0x70000000 64)) 0x30000 0x70000000 64 0 ((on 0 (cp 0x30000 0x70000000 64)).fillStop 0 0) (64 / 4 + 1) (2 ^ 24) 0 with | (_, some _, _) => true | _ => false) = true) ∧
    ((on 0 (cp 0xFFFFFF0000000080 0xFFFFFF0000000000 128)).acopyRange 0 0xFFFFFF0000000080 0xFFFFFF0000000000 128 0 = false ∧ 128 ≤ toLineEnd 0xFFFFFF0000000080 ∧ stashOff 0xFFFFFF0000000080 = some 128 ∧ (on 0 (cp 0xFFFFFF0000000080 0xFFFFFF0000000000 128)).stashAt 0 128 128 = some (0, 128) ∧ ((on 0 (cp 0xFFFFFF0000000080 0xFFFFFF0000000000 128)).waves.any fun k => k.2.queue.any QEntry.atHome) = false ∧ ((on 0 (cp 0xFFFFFF0000000080 0xFFFFFF0000000000 128)).block 0).bad.contains (0 / 128) = false) ∧
    ((on 4 ga).gathRange 0 0x50001 0x51000 0x52000 2 2 2 0 true = true ∧ (match (on 4 ga).gathFrom ((on 4 ga).engAgent 0 ga) 0x30000 0x30800 0x31000 2 2 2 none (min (2 ^ 24) 2) 0 with | (pix, none, _) => decide (2 ≤ pix) | _ => false) = true) ∧
    ((match (on 4 sc).gathFrom ((on 4 sc).engAgent 0 sc) 0x70000000 0x30800 0x31000 2 2 2 (some 0) (min (2 ^ 24) 2) 0 with | (_, some _, _) => true | _ => false) = true) ∧
    (collRange (SMap.find? ((cs false).vi 0).groups 1) 0x30000 0x30100 4 0 0 0 false = true ∧ collRange (SMap.find? ((cs true).vi 0).groups 1) 0x30000 0x30100 4 0 0 0 true = false) ∧
    (isOrder 2 [1, 0] = true ∧ SMap.find? (fit.vi 0).groups 1 = some grp ∧ collRange (SMap.find? (fit.vi 0).groups 1) 0 0 0 0 0 4 true = false) ∧
    ((match (cs true).collRead ((cs true).engAgent 0 (co true)) ((collLens 0 4 2 (collSize 0)).1 / 128 + 2) 0x30000 (collLens 0 4 2 (collSize 0)).1 with | .ok (_, t) => (match t.collWrite ((cs true).engAgent 0 (co true)) ((collLens 0 4 2 (collSize 0)).2 / 128 + 2) 0x30100 (collLens 0 4 2 (collSize 0)).2 0 with | .ok _ => true | .error _ => false) | .error _ => false) = true) :=
  ⟨by decide,
   by decide +kernel,
   by decide +kernel,
   by decide +kernel,
   by decide,
   by decide +kernel,
   by decide +kernel,
   by decide,
   by decide,
   by decide +kernel⟩

theorem witness_PortCompletions :
    let po (k : PortKind) (l : Nat) : PortOp := { id := 2, kind := k, base := 0xFFFFFF0000000000, len := l, token := 4, pc := 0, opcode := 0 }
    let s (k : PortKind) (l : Nat) := (base.updCw fun w => { w with port := [po k l] }).updBlock 0 fun b => { b with counts := [(0, .live 3)] }
    let sn (v : Nat) := base.updCw fun w => { w with snaps := [⟨1, v, 4⟩] }
    (((sn 0).cw.snaps.find? fun y => y.id = 1) = some ⟨1, 0, 4⟩ ∧ ((sn 0).vi 0).part = some 0 ∧ ((sn 9).vi 9).part = none) ∧
    (((sn 0).snapshot 0 0 0).isSome = true) ∧
    (po .cdrop 128 ∈ (s .cdrop 128).cw.port ∧ (∀ x ∈ (s .cdrop 128).cw.port, x.id = 2 → x = po .cdrop 128) ∧ (∀ x ∈ (s .cdrop 128).cw.port.takeWhile (fun x => x.id != 2), x.lanes &&& (po .cdrop 128).lanes = 0) ∧ (po .cdrop 128).status = 0) ∧
    (stashOff (0xFFFFFF0000000000 - 0xFFFFFF0000000000 % 128) = some 0 ∧ (s .cdrop 128).stashAt 0 0 1 = some (0, 0) ∧ SMap.get Count.none ((s .cdrop 128).block 0).counts (0 / 128) = .live 3) ∧
    ((match (s .cwb 128).maintain ((s .cwb 128).agentOf 0 0 .normal) .cwb 0x30080 3 0x30000 with | (none, _) => true | _ => false) = true) ∧
    ((match (s .cinv 128).maintain ((s .cinv 128).agentOf 0 0 .normal) .cinv 0x90080 3 0x90000 with | (some _, _) => true | _ => false) = true) :=
  ⟨by decide,
   by decide,
   by decide,
   by decide,
   by decide +kernel,
   by decide +kernel⟩

theorem witness_MatrixCompletions :
    let me (k : MatKind) : MatEntry := { kind := k, core := 0, slot := 0, batch := 1, pc := 0x10000 }
    let s (k : MatKind) := base.updBlock 0 fun b => { b with mq := [me k] }
    let c := base.updBlock 0 fun b => { b with batch := 2, batchFlags := [(1, 0, 3)] }
    ((s .mzacc).enginesRun 0 = true ∧ ((s .mzacc).block 0).mq = [me .mzacc] ∧ (s .mzacc).matReady 0 = true ∧ mmaGroups { kg := 0xFFFF } true ≤ 2 ^ 18) ∧
    ((me .mzacc).acc < 8 ∧ (7 : Nat) ≠ (me .mzacc).acc ∧ (c.block 0).batchReady = true ∧ (SMap.find? c.waves 0).isSome = true ∧ ((0 : Word) + 1, 0, 3#5) ∈ (c.block 0).batchFlags) :=
  ⟨by decide,
   by decide⟩

theorem witness_HeapEvents :
    let ho (k : HeapKind) (h v : Word) : HeapOp := { core := 0, slot := 0, strand := 0, lane := 0, kind := k, handle := h, val := v }
    let ar (o : HeapOp) := withHeap { aHeap with arrivals := [o], recs := [(0, {}), (1, { state := 1 }), (2, { state := 2 }), (3, { state := 3 })] }
    let run : HeapRun := { packet := 3 }
    ((ar (ho .tenq 0 0)).heap 0 5 = some { aHeap with arrivals := [ho .tenq 0 0], recs := [(0, {}), (1, { state := 1 }), (2, { state := 2 }), (3, { state := 3 })] }) ∧
    (aHeap.cap ≤ (ho .tdone 4 0).handle.toNat % 2 ^ 26 ∧ (ar (ho .hres 0 0)).opWave (ho .hres 0 0) = true ∧ badGain 0 = false ∧ badGain 0x7FC00000 = true) ∧
    ((List.range 4).all (fun n => ((ar (ho .tenq 0 0)).taskRead { aHeap with recs := [(0, {}), (1, { state := 1 }), (2, { state := 2 }), (3, { state := 3 })] } n).any fun r => r.st = n) = true) ∧
    (base.taskRead { aHeap with recs := [] } 0 = none) ∧
    (reaches (gainOp .gaina 0 0x3F800000) aHeap.thr = true ∧ reaches (gainOp .gaina 0 0) 0x3F800000 = false) ∧
    (((5 * 2 ^ 26 : Nat) : Nat) / 2 ^ 26 = 5 ∧ ({ join := 1 } : TaskRec).join = 1 ∧ ({ join := 1 } : TaskRec).st = tIdle ∧ ({ join := 2 } : TaskRec).join ≠ 0 ∧ ({} : TaskRec).join = 0) ∧
    ({ aHeap with run := some run }.gather = (1, { code := 0x4000, state := 1 }) :: []) ∧
    (((withHeap { aHeap with run := some run }).readVirt 0 0x4000 32 = .ok (List.replicate 32 0))) ∧
    (((withHeap { aHeap with run := some run }).taskCore 0 (UnitDesc.ofBytes (List.replicate 32 0)).task).isSome = true) ∧
    (run.latch = false ∧ run.running < aHeap.conc ∧ ((withHeap aHeap).part 0).resident = some aHeap.vi ∧ run.running = 0 ∧ aHeap.arrivals = [] ∧ aHeap.parentUps = []) ∧
    (run.failed = false ∧ { run with failed := true }.failed = true ∧ { run with latch := true }.latch = true ∧ ∀ p ∈ { aHeap with recs := [] }.recs, p.2.st ≠ tQueued) :=
  ⟨by decide,
   by decide,
   by decide,
   by decide +kernel,
   by decide,
   by decide,
   by decide,
   reads_of _ (by decide) (by decide +kernel),
   by decide,
   by decide,
   by decide⟩

theorem witness_RegistersAndNotifies :
    let s := mapped.updVi 0 fun v => { v with queues := [(15, { word := 0x50000 })] }
    ((63 : Nat) < 64 ∧ (15 : Nat) < 16 ∧ 0x3FC < 0x400 ∧ 0x3FC % 64 ≠ 0 ∧ 0x3FC % 64 ≠ 8 ∧ 0x3FC % 64 ≠ 16 ∧ (64 : Nat) ≤ 64 ∧ 0x400 ≤ 0x1014) ∧
    ((match s.writeVirt 0 0x50000 (leBytes 4 7) with | .ok t => (t.wakeFutures.vi 0).part = some 0 && ((t.wakeFutures.part 0).slotOf 0 15).isNone && ((t.wakeFutures.updPart 0 fun p => { p with slots := [(0, ⟨0, 15, 0⟩)] }).part 0).slotOf 0 15 == some 0 | .error _ => false) = true) :=
  ⟨by decide,
   by decide +kernel⟩

theorem witness_PacketEvents :
    let acc := (mapped.updVi 0 fun v => { v with queues := [(1, { base := 0x6000, size := 4, enable := true })] }).updPart 0 fun p => { p with slots := [(0, ⟨0, 1, 1⟩)] }
    let st (k : Nat) := withPkt { aPkt with state := .started, kind := k }
    let p : Packet := { aPkt with state := .started, kind := 1, seq := 1, tickets := [(0, 0, 2)] }
    let g := withPkt p
    ((acc.vi 0).part = some 0 ∧ (acc.part 0).slotOf 0 1 = some 0 ∧ (acc.part 0).resident = some 0 ∧ (SMap.get {} (acc.vi 0).queues 1 : LQueue).enable = true ∧ (SMap.get ⟨0, 1, 0⟩ (acc.part 0).slots 0 : QSlot).prod ≠ (SMap.get {} (acc.vi 0).queues 1 : LQueue).cons) ∧
    ((acc.readVirt 0 0x6000 128 = .ok (List.replicate 128 0))) ∧
    ((withPkt aPkt).pkt 3 = some aPkt ∧ (withPkt aPkt).mayStart 3 aPkt = true ∧ aPkt.err = false ∧ (withPkt { aPkt with err := true }).mayStart 3 { aPkt with err := true } = true) ∧
    ((List.range 6).all (fun k => ((st k).fresh 3 k).isSome) = true) ∧
    (((st 1).readVirt 0 0x4000 32 = .ok (List.replicate 32 0))) ∧
    (aPkt.gridBad (UnitDesc.ofBytes (List.replicate 32 0)) = true ∧ aPkt.gridBad {} = false) ∧
    (((st 2).readVirt 0 0x5000 64 = .ok (List.replicate 64 0))) ∧
    (heapBad (List.replicate 64 0) = true ∧ (st 2).heap 0 0 = none ∧ heapBad ((List.replicate 8 0) ++ [4, 0, 0, 0, 0, 0, 0, 0, 0, 1, 1, 0, 0, 0, 0, 0] ++ (List.replicate 6 0 ++ [0xF0, 0x3F]) ++ List.replicate 32 0) = false) ∧
    (((withHeap aHeap).heap 0 5).isSome = true ∧ aHeap.run = none ∧ ({ aHeap with run := some { packet := 3 } } : Heap).run.isSome = true) ∧
    (({ aPkt with state := .done } : Packet).state = .done ∧ ({ aPkt with state := .started, kind := 1, seq := 1, count := 2 } : Packet).count = aPkt.x * aPkt.y * aPkt.z) ∧
    (((g.part 0).resident.bind g.oldestGrid == some (3, p) && (g.unitRoom p 0).isSome && g.inTurn 0 p 0 && !g.stealWaits 0 p 0 && decide ((p.rangeOf 0).1 < (p.rangeOf 0).2) && !p.desc.duet) = true) :=
  ⟨by decide,
   reads_of _ (by decide) (by decide +kernel),
   by decide,
   by decide,
   reads_of _ (by decide) (by decide +kernel),
   by decide,
   reads_of _ (by decide) (by decide +kernel),
   by decide,
   by decide,
   by decide,
   by decide +kernel⟩

/-- Conditions that hold as their word issues (R209): the words that would park go on. -/
theorem witness_WordsThatGoOn :
    let cont := withStrand fun st => { st with kind := .cont, armT := ⟨1, true, true, 1⟩, armF := ⟨2, true, true, 2⟩ }
    let bar (b : Barrier) := base.updBlock 0 fun k => { k with bars := [(1, b)] }
    let irq := ({ base with dev := { base.dev with irqs := [0] } } : State).updCw fun w => { w with firmware := true }
    (base.Awake ∧ cont.Awake ∧ (bar { p := 1, e := 1 }).Awake ∧ irq.Awake) ∧
    (base.endReady 0 0 0 false = true ∧ base.endReady 0 0 0 true = true ∧ base.cs.noted = [] ∧ base.cw.matNotes = [] ∧ base.cs.kind ≠ .cont) ∧
    (base.advance.pubReady 0 0 0 (pubMaskV 0 8) (pubMaskS 0 31) = true ∧ base.cw.predecessorsDone 0 = true) ∧
    (cont.cs.stack = [] ∧ cont.cs.kind = .cont ∧ cont.cw.joinReady 0 0 7 = true ∧ cont.cw.armHas cont.cs.armF 0 (1#64 <<< 59) = true) ∧
    ((bar { p := 1, e := 1 }).phasePassed 0 1 0 = true ∧ (bar { p := 1, e := 1 }).cw.queue = [] ∧
      (bar { p := 1, e := 1 }).ringWaits 0 0 0 = false ∧ ((bar { p := 1, e := 1 }).barrier 0 1).flipAt ≠ some (base.cycle 0) ∧
      ((bar { p := 1, e := 1 }).barrier 0 1).e ≤ ((bar { p := 1, e := 1 }).barrier 0 1).a + 1) ∧
    (base.cw.isPending 59 = false ∧ 0 ≤ ((base.block 0).batchDone - (base.sa 0)).toInt ∧ base.cw.coveredNotes 0 = []) ∧
    (base.regsReady 0 0 (8 * 15) = true ∧ irq.dev.irqs.contains 0 = true ∧ irq.cw.firmware = true) :=
  ⟨⟨awake_of (by decide), awake_of (by decide), awake_of (by decide), awake_of (by decide)⟩,
   by decide,
   by decide,
   by decide,
   by decide,
   by decide,
   by decide⟩

/-- R167: an FGET whose one lane finds a full cell of the stash. -/
theorem witness_VectorMemoryWords_fget :
    let s := ((withS [(59, 0xFFFFFF00)]).updCs fun st => { st with am := 1 }).updBlock 0 fun b => { b with stash := Memory.write [] 0 8 (2 ^ 32 + 7) }
    let op := s.vecOp (.fget 7) .acq 0 29 (fun _ => 0) (fun _ => 0)
    s.Queues (.fget false 7 0 29 true) (s.vdest 7 1 ++ [s.cw.vrange 0]) (pairRegs 58 ++ s.xmodRegs) (s.addrFaults op)
      (s.entryOf (.fget false 7 0 29 true) (.mem op) s.exm true) ∧ s.Unordered ∧
    (lanesOf s.exm = [0] ∧ stashOff (s.vaddr 0 29 0).toNat = some 0 ∧ s.stashAt s.cw.blk 0 8 = some (0, 0) ∧ (s.block 0).winAt 0 = none ∧
      (s.block 0).bad.contains (0 / 128) = false ∧ 2 ^ 32 ≤ Memory.read (s.block 0).stash 0 8) :=
  ⟨queues_of (by decide) (by decide) (by decide), unordered_of (by decide), by decide⟩

/-- R204: the operands of RINGP and RINGC at a ring of four slots. -/
theorem witness_RingWords_performed :
    let r : Ring := { cnt := 4, size := 1 }
    let s (x : Word) := (withS [(0, x)]).updBlock 0 fun b => { b with rings := [(3, r)] }
    let q (i : Instr) (p : Bool) (x : Word) := (s x).entryOf i (.ring p 3 x 59) (s x).cs.memb true
    (s 5).Queues (.ringp false 59 0 3) ((s 5).sdest 59 1) [0] [] (q (.ringp false 59 0 3) true 5) ∧
    (s 0).Queues (.ringc false 59 0 3) ((s 0).sdest 59 1) [0] [] (q (.ringc false 59 0 3) false 0) ∧
    (s 4).Queues (.ringp false 59 0 3) ((s 4).sdest 59 1) [0] [] (q (.ringp false 59 0 3) true 4) ∧
    (s 0xFFFFFFFF).Queues (.ringc false 59 0 3) ((s 0xFFFFFFFF).sdest 59 1) [0] [] (q (.ringc false 59 0 3) false 0xFFFFFFFF) ∧
    ((s 5).Unordered ∧ (s 0).Unordered ∧ (s 4).Unordered ∧ (s 0xFFFFFFFF).Unordered) ∧
    (∀ k, (s 4).ringWaits 0 0 k = false) ∧ (r.ready true 4 = true ∧ ((s 0xFFFFFFFF).sa 0).toInt < 0 ∧ (r.cnt : Int) < ((s 5).sa 0).toInt) :=
  ⟨queues_of (by decide) (by decide) (by decide), queues_of (by decide) (by decide) (by decide),
   queues_of (by decide) (by decide) (by decide), queues_of (by decide) (by decide) (by decide),
   ⟨unordered_of (by decide), unordered_of (by decide), unordered_of (by decide), unordered_of (by decide)⟩,
   fun _ => rfl, by decide⟩

theorem witness_MaskTriples :
    ((20 : Nat) ≤ 20 ∧ (95 : Nat) < 96 ∧ (19 : Nat) < 20) :=
  by decide

theorem witness_WaveStart :
    ((List.replicate 96 ((0, {}) : Nat × TaskRec)).length ≤ 96) :=
  by decide

theorem witness_SchedulingEvents :
    let late := (base.updPart 0 fun p => { p with cycle := 15000000 })
    let q2 := base.updBlock 0 fun b => { b with watch := true, below := 65536, waves := [0, 1], converted := [0] }
    let m : State := { State.reset with vis := [(0, {})] }
    let rdy (r : Option Nat) := ((base.updVi 3 fun v => { v with part := some 0, prio := 7, queues := [(0, { pending := true })] }).updVi 0 fun v => { v with queues := [(0, { pending := true })] }).updPart 0 fun p => { p with resident := r, cycle := 15000000 }
    let lay : List PartSpec := [{ low := 4, size := 4, lent := [], vis := [7] }, { low := 0, size := 2, lent := [(11, 1)], vis := [0] }]
    ((late.part 0).resident = some 0 ∧ (late.part 0).sliceOver = false ∧ (late.vi 0).slice * 3000 ≤ (late.part 0).cycle - (late.part 0).sliceStart ∧ ((late.readyVis 0).any fun v => v ≠ 0 ∧ (late.vi 0).prio ≤ (late.vi v).prio) = false) ∧
    (base.mapsOk 0 [] = true ∧ (base.part 0).slots = []) ∧
    ((q2.block 0).watch = true ∧ (q2.part 0).window ≤ (q2.block 0).below ∧ (∀ x ∈ (q2.block 0).waves, (q2.waveK x).pendRole = none) ∧ (q2.block 0).converted.filter (q2.block 0).waves.contains = 0 :: []) ∧
    (minBy (fun k => 16 - (q2.waveK k).waveInBlk) ((q2.block 0).waves.filter fun k => (q2.waveK k).role = 0) = some 0 ∧ 2 ≤ ((q2.block 0).waves.filter fun k => (q2.waveK k).role = 0).length) ∧
    (layoutOk [] = true ∧ m.mayReconfigure [] = true ∧ m.parts = []) ∧
    ((rdy none).incoming 0 = some 3 ∧ ((rdy none).part 0).resident = none ∧ (rdy (some 0)).incoming 0 = some 3 ∧ ((rdy (some 0)).part 0).resident = some 0 ∧ (rdy (some 0)).noPrefix ((rdy (some 0)).viWaves 0 0) = true) ∧
    ((((rdy (some 0)).readyVis 0).any fun v => v ≠ 0 ∧ ((rdy (some 0)).vi 0).prio ≤ ((rdy (some 0)).vi v).prio) = true ∧ ((rdy (some 0)).part 0).sliceOver = false ∧ ((rdy (some 0)).vi 0).slice * 3000 ≤ ((rdy (some 0)).part 0).cycle - ((rdy (some 0)).part 0).sliceStart) ∧
    (layoutOk lay = true ∧ m.mayReconfigure lay = true ∧ layoutOk [{ low := 1, size := 2, lent := [], vis := [] }] = false ∧ base.mapsOk 0 [(64, 0, 0)] = false) ∧
    ((withStrand fun st => { st with pfx := some { start := 0 } }).noPrefix ((withStrand fun st => { st with pfx := some { start := 0 } }).viWaves 0 0) = false) :=
  ⟨by decide,
   by decide,
   by decide,
   by decide,
   by decide,
   by decide,
   by decide,
   by decide,
   by decide⟩

theorem witness_DecodeInvertsEncode :
    ((Instr.vfma true .f64 126 0 254).wf = true ∧ (Instr.vfma true .f64 126 0 254).isWord = true) :=
  by decide

theorem witness_StepRunsTheWord :
    let s := State.reset.withFetchWord 32 0x5D000000
    let t := ({ s with agenda := [] } : State).issueCycle 0 0
    let u := { t with cur := (0, 0, 0) }
    (s.agenda = .issue 0 0 0 :: [] ∧ t.pick 0 (quarterOf 0) = some (0, 0) ∧ canonical u.cs.pc.toNat = true ∧ u.cs.pc.toNat % 4 = 0) ∧
    ((SMap.find? (u.core u.cur.1).icache (icacheKey u.cw.vi u.cs.pc.toNat)).isSome = true ∧ decodeBytes [0, 0, 0, 0x5D] = some (.nop false)) ∧
    (({ s with agenda := [.event .powerOn] } : State).agenda = .event .powerOn :: [] ∧ Instr.powerOn.isWord = false) :=
  ⟨by decide,
   by decide,
   by decide⟩

theorem witness_ResultsLand :
    let r : Result := { strand := 0, vec := [(96, 7), (97, 8)], sca := [(62, 9)], flags := 1 }
    let s := base.updCw fun w => { w with outs := [r] }
    (s.cw.outs[0]? = some r ∧ (∃ p ∈ r.vec, (2#96).getLsbD (p.1 % 96) ≠ true) ∧ (∀ p ∈ r.vec, (3#96).getLsbD (p.1 % 96) = true) ∧ r.bits = none) :=
  by decide

theorem witness_RegisterWordsFrame :
    let s := { base with deferTraps := true }
    ((registerOnly (.sadd false 1 2 (.imm 3)) = true ∧ s.deferTraps = true ∧ ∃ t, exec (.sadd false 1 2 (.imm 3)) s = .next t)) :=
  ⟨rfl, rfl, _, rfl⟩

theorem witness_MemoryStaysCanonical :
    ((State.reset.Canonical ∧ ∃ t, step State.reset = .next t)) :=
  ⟨by unfold State.Canonical; decide, _, rfl⟩


/-! ## Accesses of vectors, wakes and completions: the hypotheses of their clauses -/

theorem cells_of {s : State} {a : VReg} {b : BitVec 5} {n : Nat} {cell : Nat → Nat × Nat}
    (h : (lanesOf s.exm).all (fun l => (match stashOff (s.vaddr a b l).toNat with
        | some off => s.stashAt s.cw.blk off n == some (cell l) | none => false) &&
      ((s.block (cell l).1).winAt (cell l).2).isNone && !(s.block (cell l).1).bad.contains ((cell l).2 / 128)) = true) :
    s.StashCells a b n cell := by
  have g := fun l hl => List.all_eq_true.1 h l hl
  simp only [Bool.and_eq_true, Option.isNone_iff_eq_none, Bool.not_eq_true'] at g
  refine ⟨fun l hl => ?_, fun l hl => (g l hl).1.2, fun l hl => (g l hl).2⟩
  have h1 := (g l hl).1.1
  cases hs : stashOff (s.vaddr a b l).toNat with
  | none => simp [hs] at h1
  | some off => rw [hs] at h1; exact ⟨off, rfl, by simpa using h1⟩

/-- A strand with lanes 0 and 1 whose addresses in v1 are the bytes 0 and 16 of its stash, with values in v4 and v5; the line counts two
readers. -/
def lanes2 : State :=
  (((withS [(58, 0), (59, 0xFFFFFF00)]).updCs fun st => { st with am := 3 }).updCw fun w =>
    { w with v := [(97, 16), (384, 0x11), (385, 0x22), (480, 0x33), (481, 0x44)] }).updBlock 0 fun b =>
      { b with counts := [(0, .live 2)], stash := Memory.write (Memory.write [] 0 4 0xFFFFFF80) 16 4 7 }

theorem witness_VectorAccesses :
    let s := lanes2
    let cell (l : Nat) : Nat × Nat := (0, 16 * l)
    let q (i : Instr) (op : MemOp) (ssq : Bool) := s.entryOf i (.mem op) s.exm ssq
    let ld (n : Nat) (o : LdQ) := s.vecOp (.load n false 4) (ldOrd o) 1 29 (fun _ => 0) (fun _ => 0)
    let st (n : Nat) := s.vecOp (.store n) (stOrd .plain) 1 29 (s.vdata 4 n) (fun _ => 0)
    let fp := s.vecOp .fput .rlx 1 29 (s.vdata 4 4) (fun _ => 0)
    let at_ := s.vecOp (.atom .casB32 (some 4)) (atOrd .relaxed) 1 29 (s.vdata 4 4) (fun l => s.cw.vreg 5 l)
    let rd := s.vecOp (.atom .addI32 none) (rdOrd .relaxed) 1 29 (s.vdata 4 4) (fun _ => 0)
    (s.Unordered ∧ s.StashCells 1 29 16 cell ∧ s.StashCells 1 29 8 cell ∧ s.StashCells 1 29 4 cell ∧ s.Apart 16 cell ∧ s.Apart 4 cell) ∧
    s.Queues (.vldB128 false 4 1 29 .plain) (s.vdest 4 4 ++ [s.cw.vrange 1]) (pairRegs 58 ++ s.xmodRegs) (s.addrFaults (ld 16 .plain))
      (q (.vldB128 false 4 1 29 .plain) (ld 16 .plain) false) ∧
    s.Queues (.vldB32 false 4 1 29 .cn) (s.vdest 4 1 ++ [s.cw.vrange 1]) (pairRegs 58 ++ s.xmodRegs) (s.addrFaults (ld 4 .cn))
      (q (.vldB32 false 4 1 29 .cn) (ld 4 .cn) false) ∧
    ((s.block s.cw.blk).peer ≠ some s.cw.blk ∧ SMap.get Count.none (s.block 0).counts 0 = .live 2 ∧ ldOrd .plain = .rlx ∧ ldOrd .nt = .nt) ∧
    s.Queues (.vstB128 false 4 1 29 .plain) (s.cw.vranges 4 4 ++ [s.cw.vrange 1]) (pairRegs 58 ++ s.xmodRegs) (s.addrFaults (st 16))
      (q (.vstB128 false 4 1 29 .plain) (st 16) true) ∧
    s.Queues (.fput false 4 1 29 false) ([s.cw.vrange 4] ++ [s.cw.vrange 1]) (pairRegs 58 ++ s.xmodRegs) (s.addrFaults fp)
      (q (.fput false 4 1 29 false) fp true) ∧
    s.Queues (.vatom false .casB32 4 1 29 .relaxed) ((s.cw.vranges 4 2 ++ s.cs.pubVs 4 1) ++ [s.cw.vrange 1]) (pairRegs 58 ++ s.xmodRegs)
      (s.addrFaults at_) (q (.vatom false .casB32 4 1 29 .relaxed) at_ true) ∧
    s.Queues (.vred false .addI32 4 1 29 .relaxed) (s.cw.vranges 4 1 ++ [s.cw.vrange 1]) (pairRegs 58 ++ s.xmodRegs) (s.addrFaults rd)
      (q (.vred false .addI32 4 1 29 .relaxed) rd true) :=
  ⟨⟨unordered_of (by decide), cells_of (by decide), cells_of (by decide), cells_of (by decide), by unfold State.Apart; decide,
    by unfold State.Apart; decide⟩,
   queues_of (by decide) (by decide) (by decide),
   queues_of (by decide) (by decide) (by decide),
   by decide,
   queues_of (by decide) (by decide) (by decide),
   queues_of (by decide) (by decide) (by decide),
   queues_of (by decide) (by decide) (by decide),
   queues_of (by decide) (by decide) (by decide)⟩

/-- R162 to R169, R237: the stash's two words, the count of the line and the returned values after one vector access of two lanes. -/
theorem test_vector_accesses :
    let after (i : Instr) : Option (Nat × Nat × Count × List (List (Nat × Word))) := match exec i lanes2 with
      | .next u => some (Memory.read (u.block 0).stash 0 8, Memory.read (u.block 0).stash 16 8, SMap.get .none (u.block 0).counts 0, u.cw.outs.map (·.vec))
      | _ => none
    [(Instr.vldS8 false 4 1 29 .plain, 0xFFFFFF80, 7, Count.live 2, [[(384, 0xFFFFFF80#32), (385, 7#32)]]),
     (.vldB32 false 4 1 29 .cn, 0xFFFFFF80, 7, .live 1, [[(384, 0xFFFFFF80), (385, 7)]]),
     (.vstB64 false 4 1 29 .plain, 0x3300000011, 0x4400000022, .live 2, []),
     (.fput false 4 1 29 false, 0x100000011, 0x100000022, .live 2, []),
     (.vatom false .addI32 4 1 29 .relaxed, 0xFFFFFF91, 0x29, .live 2, [[(384, 0xFFFFFF80), (385, 7)]]),
     (.vred false .maxS32 4 1 29 .relaxed, 0x11, 0x22, .live 2, [])].all (fun p => after p.1 == some p.2) = true := by decide +kernel

/-- A strand parked on the condition of its own word. -/
def parkedOn (p : Park) (i : Instr) (arg : Word := 0) : State :=
  withStrand fun x => { x with state := .parked, park := p, parkI := some i, parkArg := arg }

/-- The strand wakes with its word's effect. -/
def wakesAs (s : State) (i : Instr) : Bool := s.canWake 0 0 0 && !(s.cw.strand 0).retries && (s.cw.strand 0).parkI == some i

theorem witness_WaveEvents_wakes :
    let cont (i : Instr) := (parkedOn .publication i).updCs fun st => { st with kind := .cont, armT := ⟨1, true, true, 1⟩, armF := ⟨2, true, true, 2⟩ }
    let bar (i : Instr) := (parkedOn .barrier i).updBlock 0 fun k => { k with bars := [(1, { p := 1, e := 1 })] }
    let irq : State := { parkedOn .interrupt (.waiti false) with dev := { base.dev with irqs := [0] } }
    let full (n : BitVec 4) := (parkedOn .pool (.vclaim false n)).updCw fun w => { w with vbudget := 128 }
    let early := (parkedOn .arms (.ends false)).updCw fun w => { w with outs := [{ strand := 0 }] }
    let tok := (cont (.joins false 59 0 true)).updCw fun w => { w with tokens := [59] }
    let op := base.vecOp (.fget 7) .rlx 0 29 (fun _ => 0) (fun _ => 1)
    let fg := (parkedOn .future (.fget false 7 0 29 false)).updCw fun w => { w with queue := [base.entryOf (.fget false 7 0 29 false) (.mem op) base.exm false] }
    ((wakesAs early (.ends false) && !early.endReady 0 0 0 false) = true) ∧
    ((wakesAs (parkedOn .arms (.ends false)) (.ends false) && (parkedOn .arms (.ends false)).endReady 0 0 0 false &&
      (parkedOn .arms (.ends false)).cw.matNotes.isEmpty && (parkedOn .arms (.ends false)).cs.noted.isEmpty) = true) ∧
    ((wakesAs (parkedOn .marker (.exit true)) (.exit true) && wakesAs (parkedOn .predecessors (.joinm false)) (.joinm false) &&
      wakesAs irq (.waiti false)) = true) ∧
    ((wakesAs (cont (.join false 7 0 127)) (.join false 7 0 127) && wakesAs (cont (.joins false 63 59 true)) (.joins false 63 59 true) &&
      wakesAs tok (.joins false 59 0 true) && tok.cw.isPending 59) = true) ∧
    ((wakesAs (parkedOn .ring (.ringp false 59 0 3)) (.ringp false 59 0 3) && wakesAs (parkedOn .ring (.ringc false 59 0 3)) (.ringc false 59 0 3) &&
      wakesAs (parkedOn .token (.twait false 59)) (.twait false 59) && wakesAs (parkedOn .batch (.mwait false 0)) (.mwait false 0)) = true) ∧
    ((wakesAs (bar (.barW false 1)) (.barW false 1) && wakesAs (bar (.barwp false 1 63)) (.barwp false 1 63)) = true) ∧
    ((wakesAs (parkedOn .pool (.vclaim false 1)) (.vclaim false 1) && decide (base.cw.vbudget + 8 ≤ 128) && wakesAs (full 1) (.vclaim false 1)) = true) ∧
    ((wakesAs fg (.fget false 7 0 29 false) && (fg.cw.fgetEntry 0).isSome) = true) ∧
    (let own := base.updCore 0 fun c => { c with ranges := [⟨0, 0x10000, 256, 1⟩] }
     own.rangeCores 0 0 0x10000 = [0] ∧ (0 : Nat) ∉ own.rangeCores 0 0 0x10100) :=
  ⟨by decide, by decide, by decide, by decide, by decide, by decide, by decide, by decide, by decide⟩

/-- R16, R123: a JOINS whose destination has become a pending token raises TOKENWRITE at its own address as it wakes.  R131: a VCLAIM whose
budget would exceed 128 raises VREGRANGE. -/
theorem test_wake_faults :
    let s := ((parkedOn .publication (.joins false 59 0 true)).updCs fun st =>
      { st with kind := .cont, armT := ⟨1, true, true, 1⟩, armF := ⟨2, true, true, 2⟩ }).updCw fun w => { w with tokens := [59] }
    let v := (parkedOn .pool (.vclaim false 1)).updCw fun w => { w with vbudget := 128 }
    let cause (s : State) := match exec (.strandWake 0 0 0) s with | .next u => u.cw.latched.map fun f => (f.cause, f.val, f.tpc) | _ => none
    cause s = some (.tokenwrite, 59, s.cs.pc - 4) ∧ cause v = some (.vregrange, 8, v.cs.pc - 4) := by decide +kernel

theorem witness_EngineCompletions_counted :
    let cp (d r : DWord) (len cnt : Nat) : EngEntry := { op := .acopy d r len cnt }
    let on (e : EngEntry) := mapped.updBlock 0 fun b => { b with queues := [(0, [e])] }
    let starts (s : State) (e : EngEntry) (d r len cnt : Nat) : Option (Option Bool) := match s.startCopy 0 0 (s.engAgent 0 e) e d r len cnt with
      | .ok t => some ((t.reserveSome 0 0 0 (2 ^ 17)).map (·.1)) | .error _ => none
    let full := (on (cp 0x50000 0x51000 128 3)).updPart 0 fun p => { p with quota := 0 }
    let e := cp 0xFFFFFF0000000080 0xFFFFFF0000000000 128 3
    (mapped.gateOpen 0 0 [] = true ∧ starts (on (cp 0x50001 0x51000 128 3)) (cp 0x50001 0x51000 128 3) 0x50001 0x51000 128 3 = none) ∧
    (starts (on (cp 0x50000 0x51000 128 3)) (cp 0x50000 0x51000 128 3) 0x50000 0x51000 128 3 = some (some true)) ∧
    (starts full (cp 0x50000 0x51000 128 3) 0x50000 0x51000 128 3 = some none) ∧
    ((on e).stashLive 0 0xFFFFFF0000000080 128 = false ∧ (on e).acopyRange 0 0xFFFFFF0000000080 0xFFFFFF0000000000 128 3 = false ∧
      e.begun = false ∧ e.pix = 0 ∧ e.held = []) :=
  ⟨by decide +kernel, by decide +kernel, by decide +kernel, by decide +kernel⟩

/-- R175, R238: a counted copy of one line to the stash gives it its count; R175: CFULL is status 1. -/
theorem test_counted_copy :
    let cp (d r : DWord) : EngEntry := { op := .acopy d r 128 3, token := 9 }
    let on (d r : DWord) := mapped.updBlock 0 fun b => { b with queues := [(0, [cp d r])], stash := Memory.write [] 0 4 0xABCD }
    let full := (on 0x50000 0x51000).updPart 0 fun p => { p with quota := 0 }
    (match exec (.acopyComplete 0 0) (on 0xFFFFFF0000000080 0xFFFFFF0000000000) with
      | .next u => some (SMap.get .none (u.block 0).counts 1, Memory.read (u.block 0).stash 128 4, SMap.get 0 u.cw.s 9) | _ => none) =
        some (.live 3, 0xABCD, 0) ∧
    (match exec (.acopyComplete 0 0) full with | .next u => some (SMap.get 0 u.cw.s 9, u.counted.length) | _ => none) = some (1, 0) := by decide +kernel

theorem witness_PortCompletions_unusable :
    let s := (base.updCw fun w => { w with snaps := [⟨1, 0, 4⟩] }).updPart 0 fun p => { p with snapOk := false }
    (s.cw.snaps.find? fun y => y.id = 1) = some ⟨1, 0, 4⟩ ∧ (s.vi 0).part = some 0 ∧ s.snapshot 0 0 0 = none := by decide +kernel

theorem witness_StepRunsTheWord_fetch :
    let s := (State.reset.withFetchWord 32 0x5D000000).updCore 0 fun c => { c with icache := [] }
    let t : State := { s with agenda := [], cur := (0, 0, 0) }
    s.agenda = .issue 0 0 0 :: [] ∧ t.nextWord 0 0 0 = none ∧ t.mayIssue 0 0 0 = true ∧
    (match t.translate 0 t.cw.vi t.cs.pc.toNat .fetch with | .ok (x, u) => !u.bad.contains x.line | .error _ => false) = true ∧
    (({ State.reset.withFetchWord 32 0x5D000000 with agenda := [] } : State).nextWord 0 0 0).isSome = true := by decide +kernel

/-- R302, R300: a taken trap leaves its cause, TVAL, TPC and mask in the trap registers, and the handler ready at TBA. -/
theorem test_take_trap :
    (match exec (.takeTrap 0 0) (trapping mapped .usertrap 0x10000) with
      | .next u => some (u.cw.tcause, u.cw.tval, u.cw.tpc, u.cw.tlane, (u.cw.strand 8).pc, u.cw.halted) | _ => none) =
      some (Cause.usertrap.code, 7, 0x10004, 1, 0x10000, true) := by decide +kernel

/-- R277, R328: a register of a launch queue drops the bits of its alignment; IMGBASE does not. -/
theorem test_register_write :
    (match exec (.registerWrite (.vi 0) 0 0x123456) base with | .next u => some (u.viRead 0 0) | _ => none) = some 0x123400 ∧
    (match exec (.registerWrite .pf 8 0x123456) base with | .next u => some (u.pfRead 8) | _ => none) = some 0x123456 := by decide +kernel

/-! ## Further clauses -/

/-- A strand with the payload of a LIMM before its word. -/
def withLimm (p : BitVec 22) : State := withStrand fun st => { st with pfx := some { start := 0xFFFC, wide := some (.limm p, 0x70000000) } }

theorem witness_ScalarMemoryWords_atomics :
    let s := withS [(58, 2)]
    (∀ i ∈ ([.satomAdd false 63 58 0, .satomExch false 63 58 0] : List Instr), s.Issues i (s.sdest 63 1) ([] ++ pairRegs 58 ++ [0]) []) ∧
    (∀ i ∈ ([.satomCas false 1 58 0] : List Instr), s.Issues i (s.sdest 1 1) ([1] ++ pairRegs 58 ++ [0]) []) ∧ (s.sa64 58).toNat % 4 ≠ 0 :=
  ⟨issues_of _ (by decide) (by decide), issues_of _ (by decide) (by decide), by decide⟩

theorem witness_SpecialRegisters_privileged :
    (base.cs.trap = false ∧ (16 : BitVec 9).toNat = 16 ∧ (25 : BitVec 9).toNat ≤ 25) ∧
    (∀ i ∈ ([.sget false 59 16, .sget false 59 25] : List Instr), base.Issues i (base.sdest 59 1) [] []) ∧
    (∀ i ∈ ([.sset false 0 19, .sset false 0 20] : List Instr), base.Issues i [] [0] []) :=
  ⟨by decide, issues_of _ (by decide) (by decide), issues_of _ (by decide) (by decide)⟩

theorem witness_Branches_extended :
    base.cs.wideVal = none ∧ (withLimm 0x200000).cs.wideVal = some (.limm 0x200000) := by decide

/-- R118: the arm record of a parent, whose arm splits; the arms of a SPLIT with one side and with none. -/
theorem witness_SplitWords_arms :
    let w : Wave := (base.cw.setStrand 3 { state := .parked, kind := .cont, armF := ⟨0, true, false, 3⟩ }).updStrand 0 fun st =>
      { st with kind := .armF, parent := some 3, am := 3, memb := 3 }
    let r : Result := { strand := 0, sca := [(60, 1)], seq := 0 }
    let u := base.updCw fun w => { w with outs := [r] }
    ((w.strand 0).state = .ready ∧ (w.strand 0).parent = some 3 ∧ w.freeSlots 0 = 1 :: [2, 4, 5, 6, 7] ∧ w.freeSlots 0 ≠ [] ∧
      (w.strand 3).armT.live = false ∧ (w.strand 3).armF.live = true ∧ (w.strand 3).armF.ended = false ∧ (w.strand 3).armF.slot = 0) ∧
    ((withLimm 0x3FFFFF).cs.wideVal = some (.limm 0x3FFFFF)) ∧
    (r ∈ u.cw.outs ∧ r.strand = base.cur.2.2 ∧ r.seq ≤ base.cs.issued ∧ 20060 ∈ r.keys) ∧
    (∀ i ∈ ([.split false 20 0 0] : List Instr), (withStrand fun st => { st with am := 0 }).Issues i [] (kregs 20) []) ∧
    (1 ≤ ((withStrand fun st => { st with am := 0 }).cw.freeSlots (base.cycle base.cw.part)).length) :=
  ⟨by decide, by decide, by decide, issues_of _ (by decide) (by decide), by decide⟩

theorem witness_StrandWords_raised :
    let h := withStrand fun st => { st with trap := true }
    (h.cs.trap = true ∧ base.cs.joinCtx = true ∧ base.cs.noted = []) ∧
    (∀ i ∈ ([.exit true] : List Instr), h.Issues i [] [] []) ∧
    (∀ i ∈ ([.join false 7 0 7] : List Instr), base.Issues i (base.vdest 7 1 ++ [base.cw.vrange 0, base.cw.vrange 7]) [] []) ∧
    (∀ i ∈ ([.joins false 59 0 false] : List Instr), base.Issues i (base.sdest 59 1) [0] []) :=
  ⟨by decide, issues_of _ (by decide) (by decide), issues_of _ (by decide) (by decide), issues_of _ (by decide) (by decide)⟩

theorem witness_RolesAndBudgets_raised :
    let g := base.updCw fun w => { w with vbudget := 128 }
    (base.cw.vbudget < 8 * (15 : BitVec 4).toNat + 8 ∧ 128 < g.cw.vbudget + 8 * (1 : BitVec 4).toNat) ∧
    (∀ i ∈ ([.vgive false 15] : List Instr), base.Issues i [] [] []) ∧ (∀ i ∈ ([.vclaim false 1] : List Instr), g.Issues i [] [] []) :=
  ⟨by decide, issues_of _ (by decide) (by decide), issues_of _ (by decide) (by decide)⟩

/-- R301: TOKENWRITE and VREGRANGE of an access, the first before the second; ALIGN once its operands are read. -/
theorem witness_LowestCauseFirst_accesses :
    let s := base.updCw fun w => { w with tokens := [0] }
    let t := withS [(58, 2)]
    let op := t.vecOp (.load 4 false 7) .rlx 0 29 (fun _ => 0) (fun _ => 0)
    lowest (pfxFaults (.sldB32 false 0 58 (.imm 0)) s.cs.pfx ++ s.sdest 0 1) = some ⟨.tokenwrite, (lowest (s.sdest 0 1)).elim 0 (·.val)⟩ ∧
    lowest (pfxFaults (.vstB128 false 6 0 29 .plain) base.cs.pfx ++ (base.cw.vranges 6 4 ++ [base.cw.vrange 0])) = some ⟨.vregrange, 8⟩ ∧
    (NoCause (pfxFaults (.sldB32 false 1 58 (.imm 0)) t.cs.pfx ++ t.sdest 1 1) ∧
      lowest (t.addrFaults (scaOp (.sload 4 1) (t.saddr 58 (.imm 0) 4) 0 0)) = some ⟨.align, 2⟩) ∧
    (NoCause (pfxFaults (.vldB32 false 7 0 29 .plain) t.cs.pfx ++ (t.vdest 7 1 ++ [t.cw.vrange 0])) ∧
      (∀ x ∈ pairRegs 58 ++ t.xmodRegs, t.cw.isPending x = false) ∧ lowest (t.addrFaults op) = some ⟨.align, 2⟩) :=
  ⟨by decide, by decide, ⟨noCause_of (by decide), by decide⟩, ⟨noCause_of (by decide), by decide, by decide⟩⟩

/-- R131, R351: a JOIN whose registers the budget no longer holds; a stopped block; an entry whose time has come. -/
theorem witness_WaveEvents_stops :
    let j := (parkedOn .publication (.join false 9 0 7)).updCs fun st => { st with kind := .cont, armT := ⟨1, true, true, 1⟩, armF := ⟨2, true, true, 2⟩ }
    let st := base.updBlock 0 fun b => { b with stopped := true }
    (wakesAs j (.join false 9 0 7) = true ∧ (lowest (j.cw.vranges 9 1 ++ [j.cw.vrange 0, j.cw.vrange 7])).map (·.cause) = some .vregrange ∧
      (lowest (j.cw.vranges 9 1 ++ [j.cw.vrange 0, j.cw.vrange 7])).map (·.val) = some 9) ∧
    (st.isStopped 0 0 = true ∧ base.isStopped 0 0 = false ∧ base.partOf 0 ≠ noPart) ∧
    ((base.entryOf (.fence false .dev) (.fence .dev) base.cs.memb true).ripe (base.cycle 0) = true) := by decide

/-- R303 to R305, R308: a wave whose frame can be written; a trap strand whose frame can be read. -/
theorem witness_TrapEntryAndReturn_frame :
    (∀ n, n < 8 → (base.cw.strand n).stack.length ≤ 16) ∧ base.cw.frameAt = none ∧
    ((mapped.drainWave 0 0).wave 0 0).latched = none ∧
    (match (mapped.drainWave 0 0).loadBytes 0 0 128 64 ((mapped.drainWave 0 0).frameAddr 0 0) with | .ok _ => true | .error _ => false) = true := by
  decide +kernel

/-- R329: requests that break a rule or meet what is busy: an index that is no member's, a list without a page, a member of more than 32 bits, a
COLL of the group, an extent that is not pending. -/
theorem witness_Requests_refused :
    let none_ := 3
    let far := 3 + 2 ^ 80 + 0x7000000000 * 2 ^ 128
    let big := 3 + 2 ^ 80 + 0xFFC * 2 ^ 128
    let gr := 3 + 2 ^ 80 + 0x6000 * 2 ^ 128
    let busy := (asking gr).updBlock 0 fun b => { b with queues := [(6, [{ op := .coll 0 0 0 0 0 0 0 0 true }])] }
    ((asking none_).asks 3 0 (asked none_) ∧ field (asked none_) 10 2 ≤ field (asked none_) 12 2) ∧
    ((asking far).asks 3 0 (asked far) ∧ field (asked far) 12 2 < field (asked far) 10 2 ∧
      (match (asking far).readVirt 0 (field (asked far) 16 8) 8 with | .ok _ => false | .error _ => true) = true) ∧
    ((asking big).asks 3 0 (asked big) ∧ (asking big).readVirt 0 (field (asked big) 16 8) 8 = .ok [0, 0, 0, 0, 1, 0x20, 0, 0] ∧
      2 ^ 32 ≤ field [0, 0, 0, 0, 1, 0x20, 0, 0] 0 8) ∧
    (busy.asks 3 0 (asked gr) ∧ (busy.fetchVirt (busy.viPart 0) 0 0x6000 8).1.groupBusy 0 0 = true) ∧
    ((asking (7 + 4096 * 2 ^ 64)).asks 7 0 (asked (7 + 4096 * 2 ^ 64)) ∧ (asking (7 + 4096 * 2 ^ 64)).dev.extents = []) :=
  ⟨⟨asks_of (by decide) (by decide +kernel), by decide +kernel⟩,
   ⟨asks_of (by decide) (by decide +kernel), by decide +kernel, by decide +kernel⟩,
   ⟨asks_of (by decide) (by decide +kernel), reads_of _ (by decide) (by decide +kernel), by decide⟩,
   ⟨asks_of (by decide) (by decide +kernel), by decide +kernel⟩,
   ⟨asks_of (by decide) (by decide +kernel), by decide⟩⟩

/-- R351: a block that may stop at once, one inside a prefix, one that is stopping, one that has stopped. -/
theorem witness_StopAndDump_stops :
    let s := { base with packets := [(0, { aPkt with q := 2, idx := 9 })] }
    let pre := s.updCs fun st => { st with pfx := some { start := 0 } }
    let h := s.updBlock 0 fun b => { b with stopped := true }
    let g := s.updBlock 0 fun b => { b with stopping := true }
    let gp := pre.updBlock 0 fun b => { b with stopping := true }
    (∀ t ∈ [s, pre, h, g, gp], t.namedBlocks 0 2 9 0 0 0 = [0]) ∧ ((h.block 0).stopped = true ∧ (g.block 0).stopping = true ∧ (s.block 0).stopping = false ∧
      (s.block 0).stopped = false) ∧
    (g.midPrefix ([0].flatMap g.blockWaves) = false ∧ gp.midPrefix ([0].flatMap gp.blockWaves) = true) := by decide

/-- R178, R351: SUNMAP of a window with a dirty line that can be written back, of one that cannot, and of none. -/
theorem witness_PortCompletions_sunmap :
    let po (wb acted : Bool) : PortOp := { id := 2, kind := .sunmap wb, base := 1, len := 0, token := 4, pc := 0, opcode := 0, acted := acted }
    let w (va : DWord) : StashWin := { base := va, off := 0, len := 128, lines := [(0, .dirty)] }
    let s (va : DWord) := (mapped.updCw fun w => { w with port := [po true false] }).updBlock 0 fun b => { b with wins := [(1, w va)] }
    (po true false ∈ (s 0x50000).cw.port ∧ (s 0x50000).isStopped 0 0 = false ∧ (po true false).acted = false ∧ (po true true).acted = true ∧
      SMap.find? ((s 0x50000).block 0).wins 1 = some (w 0x50000) ∧ SMap.find? (mapped.block 0).wins 1 = none) ∧
    ((match (s 0x50000).winWriteBack 0 1 0 with | .ok _ => true | .error _ => false) = true) ∧
    ((match (s 0x7000000000).winWriteBack 0 1 0 with | .ok _ => false | .error _ => true) = true) :=
  ⟨by decide, by decide +kernel, by decide +kernel⟩

/-- R283: what cannot be read: a ring's entry, a unit descriptor, a heap descriptor. -/
theorem witness_PacketEvents_unreadable :
    let lost (t : State) (va n : Nat) : Bool := match t.readVirt 0 va n with | .ok _ => false | .error _ => true
    let acc := (base.updVi 0 fun v => { v with queues := [(1, { base := 0x6000, size := 4, enable := true })] }).updPart 0 fun p => { p with slots := [(0, ⟨0, 1, 1⟩)] }
    let st (k : Nat) : State := { base with packets := [(3, { aPkt with state := .started, kind := k })], nextPkt := 4 }
    let heap := (st 3).updPart 0 fun p => { p with heaps := [(0, aHeap)] }
    ((acc.vi 0).part = some 0 ∧ (acc.part 0).slotOf 0 1 = some 0 ∧ lost acc 0x6000 128 = true) ∧
    (((st 1).fresh 3 1).isSome = true ∧ lost (st 1) 0x4000 32 = true) ∧
    (((st 2).fresh 3 2).isSome = true ∧ lost (st 2) 0x5000 64 = true) ∧
    ((heap.fresh 3 3).isSome = true ∧ (heap.heap 0 0).isSome = true ∧ lost heap 0x5000 64 = true) := by decide +kernel

/-- R29, R155: a compare's result, one of four words, and one that a later word of the strand has overtaken. -/
theorem witness_ResultsLand_scalars :
    let c : Result := { strand := 0, bits := some (2, 3, 1), seq := 1 }
    let q : Result := { strand := 0, sca := [(4, 1), (5, 2), (6, 3), (7, 4)], seq := 1 }
    let s := base.updCw fun w => { w with outs := [c, q], shadow := [(0, 2, 20005)] }
    (s.cw.outs[0]? = some c ∧ s.cw.outs[1]? = some q ∧ c.sca = [] ∧ q.bits = none ∧ c.vec = [] ∧ q.vec = []) ∧
    (s.cw.shadowed q 20005 = true ∧ s.cw.shadowed q 20004 = false ∧ s.cw.shadowed c 20006 = false) := by decide

/-- Accesses at once to a page of region RS at 0x30000: of the strand, and of its one lane. -/
theorem witness_Accesses_page :
    let s := ((withS [(2, 0x30000), (3, 0), (58, 0x30000), (59, 0)]).updCs fun st => { st with am := 1 }).updCw fun w => { w with v := [(384, 0x11)] }
    let ld := scaOp (.sload 4 0) (s.saddr 2 (.imm 1) 4) 0 0
    let vl := s.vecOp (.load 16 false 4) .rlx 1 29 (fun _ => 0) (fun _ => 0)
    let vs := s.vecOp (.store 8) .nt 1 29 (s.vdata 4 8) (fun _ => 0)
    let va := s.vecOp (.atom .addI64 (some 4)) .rlx 1 29 (s.vdata 4 8) (fun l => s.cw.vreg 5 l)
    let at_ (op : MemOp) (a : DWord) := ∃ x, isOnPage s op a = some x ∧ s.OnPage op a x ∧ x.region = 1
    (s.Unordered ∧ lanesOf s.exm = [0] ∧ atOrd .relaxed = .rlx) ∧
    s.Queues (.sldB32 false 0 2 (.imm 1)) (s.sdest 0 1) (pairRegs 2 ++ sopRegs (.imm 1)) (s.addrFaults ld) (s.entryOf (.sldB32 false 0 2 (.imm 1)) (.mem ld) s.cs.memb false) ∧
    s.Queues (.vldB128 false 4 1 29 .plain) (s.vdest 4 4 ++ [s.cw.vrange 1]) (pairRegs 58 ++ s.xmodRegs) (s.addrFaults vl) (s.entryOf (.vldB128 false 4 1 29 .plain) (.mem vl) s.exm false) ∧
    s.Queues (.vstB64 false 4 1 29 .nt) (s.cw.vranges 4 2 ++ [s.cw.vrange 1]) (pairRegs 58 ++ s.xmodRegs) (s.addrFaults vs) (s.entryOf (.vstB64 false 4 1 29 .nt) (.mem vs) s.exm true) ∧
    s.Queues (.vatom false .addI64 4 1 29 .relaxed) ((s.cw.vranges 4 2 ++ s.cs.pubVs 4 2) ++ [s.cw.vrange 1]) (pairRegs 58 ++ s.xmodRegs) (s.addrFaults va) (s.entryOf (.vatom false .addI64 4 1 29 .relaxed) (.mem va) s.exm true) ∧
    at_ ld (s.saddr 2 (.imm 1) 4) ∧ at_ vl (s.vaddr 1 29 0) ∧ at_ vs (s.vaddr 1 29 0) ∧ at_ va (s.vaddr 1 29 0) :=
  ⟨⟨unordered_of (by decide), by decide, by decide⟩,
   queues_of (by decide) (by decide) (by decide), queues_of (by decide) (by decide) (by decide),
   queues_of (by decide) (by decide) (by decide), queues_of (by decide) (by decide) (by decide),
   ⟨_, rfl, onPage_of rfl, by decide⟩, ⟨_, rfl, onPage_of rfl, by decide⟩, ⟨_, rfl, onPage_of rfl, by decide⟩, ⟨_, rfl, onPage_of rfl, by decide⟩⟩

/-- R312, R313: a walk of three levels to a leaf of 1 GiB, and one that ends. -/
theorem witness_ScalarAccesses_walk :
    canonical 0x50000 = true ∧ canonical (2 ^ 56) = false ∧ mapped.bareWalk 0 0x50000 = some (0x7B, 30) ∧ mapped.dev.target 0x50000 = some (.hbm, 0x50000) ∧
    mapped.physFault 0 .hbm 0x50000 = none ∧ mapped.otherHbm 0 ⟨0, 30, 0x7B, .hbm, 0x50000⟩ = false ∧ base.bareWalk 0 0x50000 = none := by decide +kernel

/-- R162, R165 to R169, R227: the bytes of an RS page and the returned values after one access of its one lane; no other byte changes. -/
theorem test_page_accesses :
    let s := ((withS [(58, 0x30000), (59, 0)]).updCs fun st => { st with am := 1 }).updCw fun w => { w with v := [(384, 0x11), (480, 0x33)] }
    let t : State := { s with mem := Memory.write s.mem 0x30000 16 0x0000000100000002FFFFFF80FFFFFF81 }
    let after (i : Instr) : Option (Nat × List (List (Nat × Word)) × Bool) := match exec i t with
      | .next u => some (Memory.read u.mem 0x30000 16, u.cw.outs.map (·.vec), u.mem.filter (fun x => x.1 < 0x30000) == t.mem.filter (fun x => x.1 < 0x30000))
      | _ => none
    let old := 0x0000000100000002FFFFFF80FFFFFF81
    [(Instr.vldS8 false 4 1 29 .plain, old, [[(384, 0xFFFFFF81#32)]]), (.vldN16 false 4 1 29 .plain, old, [[(384, 0xFF81)]]),
     (.vldB128 false 4 1 29 .nt, old, [[(384, 0xFFFFFF81), (480, 0xFFFFFF80), (576, 2), (672, 1)]]),
     (.vstB64 false 4 1 29 .plain, 0x00000001000000020000003300000011, []), (.vstB8 false 4 1 29 .nt, 0x0000000100000002FFFFFF80FFFFFF11, []),
     (.fput false 4 1 29 false, 0x00000001000000020000000100000011, []),
     (.vatom false .addI32 4 1 29 .relaxed, 0x0000000100000002FFFFFF80FFFFFF92, [[(384, 0xFFFFFF81)]]),
     (.vred false .maxS32 4 1 29 .relaxed, 0x0000000100000002FFFFFF8000000011, [])].all (fun p => after p.1 == some (p.2.1, p.2.2, true)) = true := by
  decide +kernel

/-! ## The hash and the cipher -/

/-- FIPS 180-4's example: the SHA-256 of the three bytes "abc". -/
theorem test_sha256 : sha256 [0x61, 0x62, 0x63] = 0xBA7816BF8F01CFEA414140DE5DAE2223B00361A396177A9CB410FF61F20015AD := by decide +kernel

/-- FIPS 197, appendix C.3: AES-256 under the key 00 01 … 1f. -/
theorem test_aes256 :
    aesBlock (aesKeys 0x000102030405060708090A0B0C0D0E0F101112131415161718191A1B1C1D1E1F) 0x00112233445566778899AABBCCDDEEFF =
      0x8EA2B7CA516745BFEAFC49904B496089 := by decide +kernel

/-- The GCM specification's test cases 13 and 14: the tag of an empty text, and one block of zeros with its tag, under a key of zeros. -/
theorem test_gcm :
    sealGcm 0 0 [] = beBytes 16 0x530F8AFBC74536B9A963B4F1C4CB738B ∧
    sealGcm 0 0 (List.replicate 16 0) = beBytes 16 0xCEA7403D4D606B6E074EC5D3BAF39D18 ++ beBytes 16 0xD0D1C8A799996BF0265B98B5D48AB919 := by
  decide +kernel
end

section
/-! Mask triples (R6): a mask of 96 lanes is its three words, and a triple holds them in three scalar registers. -/

namespace Sys2Proof.Machine

/-! ## A mask and its words -/

/-- Lane l of the mask of three words is bit l mod 32 of word l div 32. -/
theorem getLsbD_maskOfWords (f : Nat → Word) {l : Nat} (h : l < 96) :
    (maskOfWords (f 0) (f 1) (f 2)).getLsbD l = (f (l / 32)).getLsbD (l % 32) := by
  have hbeat : l < 32 ∧ l / 32 = 0 ∨ 32 ≤ l ∧ l < 64 ∧ l / 32 = 1 ∨ 64 ≤ l ∧ l / 32 = 2 := by omega
  rw [maskOfWords, BitVec.getLsbD_append, BitVec.getLsbD_append]
  rcases hbeat with ⟨hl, hd⟩ | ⟨hlo, hl, hd⟩ | ⟨hlo, hd⟩
  · have hm : l % 32 = l := by omega
    simp [hd, hm, hl]
  · have hm : l % 32 = l - 32 := by omega
    have h0 : ¬ l < 32 := by omega
    have h1 : l - 32 < 32 := by omega
    simp [hd, hm, h0, h1]
  · have hm : l % 32 = l - 32 - 32 := by omega
    have h0 : ¬ l < 32 := by omega
    have h1 : ¬ l - 32 < 32 := by omega
    simp [hd, hm, h0, h1]

theorem getLsbD_maskWord (m : Lanes) (i : Nat) {j : Nat} (h : j < 32) : (maskWord m i).getLsbD j = m.getLsbD (32 * i + j) := by
  simp [maskWord, h]

theorem getLsbD_maskWord_of_lane (m : Lanes) (l : Nat) : (maskWord m (l / 32)).getLsbD (l % 32) = m.getLsbD l := by
  rw [getLsbD_maskWord m _ (Nat.mod_lt l (by decide)), Nat.div_add_mod]

/-- A mask is the mask of its three words. -/
@[simp] theorem maskOfWords_maskWord (m : Lanes) : maskOfWords (maskWord m 0) (maskWord m 1) (maskWord m 2) = m := by
  apply BitVec.eq_of_getLsbD_eq
  intro l hl
  rw [getLsbD_maskOfWords (maskWord m) hl, getLsbD_maskWord_of_lane]

/-! ## Scalar registers below s60, and AM in s60 to s62 -/

theorem Wave.sreg_setSreg_self (w : Wave) (n : Nat) {r : Nat} (x : Word) (h : r < 60) : (w.setSreg n r x).sreg n r = x := by
  have h63 : r ≠ 63 := by omega
  simp [Wave.sreg, Wave.setSreg, h63, Nat.not_le.mpr h]

/-- A write of a scalar register below s60 leaves every other scalar register as each strand reads it. -/
theorem Wave.sreg_setSreg_of_ne (w : Wave) (n k : Nat) {r j : Nat} (x : Word) (h : r < 60) (hj : j ≠ r) :
    (w.setSreg n r x).sreg k j = w.sreg k j := by
  have h63 : r ≠ 63 := by omega
  simp only [Wave.setSreg, h63, Nat.not_le.mpr h, if_false, Wave.sreg, SMap.get_set_of_ne 0 w.s x hj]
  rfl

theorem Wave.sreg_am (w : Wave) (n : Nat) {i : Nat} (h : i < 3) : w.sreg n (60 + i) = maskWord (w.strand n).am i := by
  have h63 : 60 + i ≠ 63 := by omega
  simp [Wave.sreg, h63]

/-! ## Mask triples -/

theorem Wave.getLsbD_ktriple (w : Wave) (n k : Nat) {l : Nat} (h : l < 96) :
    (w.ktriple n k).getLsbD l = (w.sreg n (3 * k + l / 32)).getLsbD (l % 32) :=
  getLsbD_maskOfWords (fun i => w.sreg n (3 * k + i)) h

/-- A triple below k20 reads back the mask whose three words are written to its registers. -/
theorem Wave.ktriple_setSregs_self (w : Wave) (n : Nat) {k : Nat} (x : Lanes) (h : k < 20) :
    (w.setSregs n [(3 * k, maskWord x 0), (3 * k + 1, maskWord x 1), (3 * k + 2, maskWord x 2)]).ktriple n k = x := by
  have h0 : 3 * k < 60 := by omega
  have h1 : 3 * k + 1 < 60 := by omega
  have h2 : 3 * k + 2 < 60 := by omega
  simp only [Wave.setSregs, Wave.ktriple]
  rw [Wave.sreg_setSreg_of_ne _ n n _ h2 (by omega), Wave.sreg_setSreg_of_ne _ n n _ h1 (by omega), Wave.sreg_setSreg_self _ n _ h0,
    Wave.sreg_setSreg_of_ne _ n n _ h2 (by omega), Wave.sreg_setSreg_self _ n _ h1, Wave.sreg_setSreg_self _ n _ h2,
    maskOfWords_maskWord]

/-- Triple k20 is AM: its registers are s60 to s62 (R15). -/
theorem Wave.ktriple_am (w : Wave) (n : Nat) : w.ktriple n 20 = (w.strand n).am :=
  calc w.ktriple n 20 = maskOfWords (w.sreg n (60 + 0)) (w.sreg n (60 + 1)) (w.sreg n (60 + 2)) := rfl
    _ = (w.strand n).am := by simp only [Wave.sreg_am, Nat.reduceLT, maskOfWords_maskWord]

/-- Settles O56: a mask is its three words, lane by lane and as a whole, and registers below s60 read back what is written. -/
theorem maskTriples : Obligations.MaskTriples := by
  unfold Obligations.MaskTriples
  exact ⟨fun w n k _ _ hl => w.getLsbD_ktriple n k hl, fun m l _ => getLsbD_maskWord_of_lane m l,
    fun w n _ x hk => w.ktriple_setSregs_self n x hk, fun w n => w.ktriple_am n⟩

end Sys2Proof.Machine
end

section
/-! The emulation space and the words that are no instruction (R55, R76, R77): a class 7 word with op 48 to 63 decodes to an instruction whose
word it is and that does nothing but raise EMULATE, and what a raised cause latches. -/

namespace Sys2Proof

/-! ## A word from its fields -/

/-- A one-bit field is the bit that it holds. -/
theorem bit_getLsbD_eq_ext (x : BitVec n) (s : Nat) : bit (x.getLsbD s) = x.extractLsb' s 1 := by
  apply BitVec.eq_of_getLsbD_eq
  intro i hi
  obtain rfl : i = 0 := by omega
  simp [bit]

/-- Every word is the layout M of its fields. -/
theorem layM_fields (w : Word) :
    layM (w.getLsbD 31) (w.extractLsb' 28 3) (w.extractLsb' 22 6) (w.extractLsb' 15 7) (w.extractLsb' 8 7) (w.extractLsb' 0 8) = w := by
  simp only [layM, bit_getLsbD_eq_ext, BitVec.extractLsb'_append_extractLsb'_eq_extractLsb', BitVec.extractLsb'_eq_self]

/-- Every word of class 7 is the layout of a hint with its op and its payload. -/
theorem layH_fields {w : Word} (h : w.extractLsb' 28 3 = 7#3) :
    layH (w.getLsbD 31) (w.extractLsb' 22 6) (w.extractLsb' 0 22) = w := by
  have hcls : (7 : BitVec 3) = w.extractLsb' 28 3 := h.symm
  simp only [layH, hcls, bit_getLsbD_eq_ext, BitVec.extractLsb'_append_extractLsb'_eq_extractLsb', BitVec.extractLsb'_eq_self]

/-! ## Decoding the emulation space -/

/-- Slot 48 of the emulation space holds the words of VIDIV.s32 (R77). -/
theorem encode_vidivS32_fields {w : Word} (h7 : w.extractLsb' 28 3 = 7#3) (hop : w.extractLsb' 22 6 = 48#6) :
    encode (.vidivS32 (w.getLsbD 31) (w.extractLsb' 15 7) (w.extractLsb' 8 7) (w.extractLsb' 0 8)) = w := by
  have hw := layM_fields w
  rwa [h7, hop] at hw

/-- The slots after it hold the words that the model gives a slot and a payload (R76). -/
theorem encode_emulation_fields {w : Word} (h7 : w.extractLsb' 28 3 = 7#3) {op : BitVec 4}
    (hop : w.extractLsb' 22 6 = (3 : BitVec 2) ++ op) : encode (.emulation (w.getLsbD 31) op (w.extractLsb' 0 22)) = w := by
  have hw := layH_fields h7
  rwa [hop] at hw

theorem decode_slot48 {w : Word} (h7 : w.extractLsb' 28 3 = 7#3) (hop : w.extractLsb' 22 6 = 48#6) :
    decode w = .vidivS32 (w.getLsbD 31) (w.extractLsb' 15 7) (w.extractLsb' 8 7) (w.extractLsb' 0 8) := by
  rw [← Laws.RoundTrip.vidivS32 _ _ _ _ rfl rfl, encode_vidivS32_fields h7 hop]

theorem decode_slotAfter48 {w : Word} (h7 : w.extractLsb' 28 3 = 7#3) {op : BitVec 4} (hop : w.extractLsb' 22 6 = (3 : BitVec 2) ++ op)
    (h0 : op ≠ 0) : decode w = .emulation (w.getLsbD 31) op (w.extractLsb' 0 22) := by
  rw [← Laws.RoundTrip.emulation _ _ _ (by simpa [Instr.wf] using h0) rfl, encode_emulation_fields h7 hop]

/-- The ops from 48 on: 48 itself, or two ones before the number of a slot after it. -/
theorem emulationOp_cases (op : BitVec 6) (h : 48 ≤ op.toNat) : op = 48#6 ∨ ∃ k : BitVec 4, k ≠ 0 ∧ op = (3 : BitVec 2) ++ k := by
  have hlow : op = (3 : BitVec 2) ++ op.extractLsb' 0 4 := by revert op; decide
  by_cases h0 : op.extractLsb' 0 4 = 0
  · exact .inl (by rw [hlow, h0]; rfl)
  · exact .inr ⟨_, h0, hlow⟩

end Sys2Proof

namespace Sys2Proof.Machine

/-! ## What the words raise -/

theorem exec_vidivS32_raises (s : State) (m : Bool) (d a : VReg) (b : Code) :
    exec (.vidivS32 m d a b) s =
      .next ((s.raised (.vidivS32 m d a b) ⟨.emulate, (encode (.vidivS32 m d a b)).setWidth 64⟩).settle s.cur.1 s.cur.2.1) := by
  simp only [exec_vidivS32, execVidivS32, State.raiseHere_eq]

theorem exec_emulation_raises (s : State) (m : Bool) (op : BitVec 4) (x : BitVec 22) :
    exec (.emulation m op x) s =
      .next ((s.raised (.emulation m op x) ⟨.emulate, (encode (.emulation m op x)).setWidth 64⟩).settle s.cur.1 s.cur.2.1) := by
  simp only [exec_emulation, execEmulation, State.raiseHere_eq]

theorem exec_illegalWord_raises (s : State) (w : Word) :
    exec (.illegalWord w) s = .next ((s.raised (.illegalWord w) ⟨.illegal, w.setWidth 64⟩).settle s.cur.1 s.cur.2.1) := by
  simp only [exec_illegalWord, execIllegalWord, State.raiseHere_eq]

/-- A word of the emulation space raises EMULATE with itself, whichever slot it stands in (R76). -/
theorem exec_emulationSpace (s : State) {w : Word} (h7 : w.extractLsb' 28 3 = 7#3) (h48 : 48 ≤ (w.extractLsb' 22 6).toNat) :
    exec (decode w) s = .next ((s.raised (decode w) ⟨.emulate, w.setWidth 64⟩).settle s.cur.1 s.cur.2.1) := by
  rcases emulationOp_cases _ h48 with hop | ⟨k, hk, hop⟩
  · rw [decode_slot48 h7 hop, exec_vidivS32_raises, encode_vidivS32_fields h7 hop]
  · rw [decode_slotAfter48 h7 hop hk, exec_emulation_raises, encode_emulation_fields h7 hop]

/-! ## What a raised cause latches, and what it leaves (R299) -/

theorem State.raised_mem (s : State) (i : Instr) (r : Raise) : (s.raised i r).mem = s.mem := rfl

/-- The wave of a strand that raises the first cause of a wave that is not halted: the strand stands at its word, or at the first word of its
prefix, and the cause is latched. -/
theorem State.raised_cw {s : State} (i : Instr) (r : Raise) (h : s.cw.latched = none) (hh : s.cw.halted = false) :
    (s.raised i r).cw =
      { s.cw.updStrand s.cur.2.2 (fun st => { st with pc := st.start, pfx := none, replay := none }) with
        latched := some ⟨r.cause, r.val, s.cur.2.2, s.cs.start, s.maskFor i, encode i, s.cs.issued, false⟩
        latchedAt := s.cycle s.cw.part } := by
  rw [State.raised_latches i r h hh, State.cw_updCw, State.updCs_eq_updCw, State.cw_updCw]
  rfl

/-- Settles O24, by the two kinds of slot of the emulation space and the wave after a raised cause. -/
theorem undefinedWords : Obligations.UndefinedWords := by
  unfold Obligations.UndefinedWords
  intro s
  refine ⟨fun w h7 h48 => exec_emulationSpace s h7 h48, exec_vidivS32_raises s, exec_emulation_raises s, exec_illegalWord_raises s,
    fun i r h hh => ?_⟩
  rw [State.raised_cw i r h hh]
  exact ⟨_, rfl, rfl, rfl, rfl, rfl, rfl, rfl, rfl, s.raised_mem i r⟩

end Sys2Proof.Machine
end

section
/-! The ring words (R203 to R205): the entry of a wave that has nothing else under way is performed as it issues, and what RINGP and RINGC do to
their ring, to the wave that issues them and to the strands that wait at the ring. -/

namespace Sys2Proof.Machine

/-! ## An entry alone in its queue (R210, R211) -/

/-- An entry with its place in its wave and the cycle of its release. -/
def QEntry.releasedAs (q : QEntry) (id cycle : Nat) : QEntry := { q with id := id, rel := some cycle }

/-- No strand precedes the strand of an entry: nothing holds it. -/
theorem Wave.held_of_first {w : Wave} {e : QEntry} (h : e.before = []) : w.held e = false := by
  simp [Wave.held, Wave.livePred, QEntry.ofPred, h]

theorem Wave.isReleased_alone {w : Wave} {e : QEntry} (hq : w.queue = [e]) (h : e.before = []) : w.isReleased e = true := by
  simp [Wave.isReleased, Wave.held_of_first h, hq]

/-- An entry that no strand and no earlier entry precedes does not precede itself, unless it is an arrival. -/
theorem QEntry.precedes_self_eq_false {e : QEntry} (ha : e.arrives = false) (hb : e.before = []) (ho : e.old = []) :
    e.precedes e = false := by
  simp [QEntry.precedes, ha, hb, ho]

theorem QEntry.passesBefore_self (e : QEntry) : e.passesBefore e = false := by simp [QEntry.passesBefore]

theorem Wave.free_alone {w : Wave} {e : QEntry} (hq : w.queue = [e]) (ha : e.arrives = false) (hb : e.before = []) (ho : e.old = []) :
    w.free e = true := by
  simp [Wave.free, Wave.isReleased_alone hq hb, hq, QEntry.precedes_self_eq_false ha hb ho, QEntry.passesBefore_self]

/-- An entry that enters an empty queue, and that nothing holds, is released in that cycle. -/
theorem State.pushQ_empty {t : State} {core slot : Nat} {q : QEntry} (hq : (t.wave core slot).queue = []) (hb : q.before = [])
    (hr : q.rel = none) :
    t.pushQ core slot q = t.updWave core slot fun w =>
      { w with queue := [q.releasedAs w.nextId (t.cycle w.part)], nextId := w.nextId + 1 } := by
  unfold State.pushQ State.updWave
  congr 1
  simp [Wave.stamp, hq, hr, QEntry.releasedAs, Wave.isReleased, Wave.held_of_first, hb]

/-! ## Waiters of a wave at the rings of a block (R204) -/

/-- No strand of a wave waits at a ring of a block. -/
def State.WaitsNowhere (s : State) (blk key : Nat) : Prop := ∀ p ∈ (s.block blk).rings, ∀ x ∈ p.2.waiters, x.wave ≠ key

theorem State.ringWaits_eq_false_iff {s : State} {core slot : Nat} :
    (∀ n, s.ringWaits core slot n = false) ↔ s.WaitsNowhere (s.wave core slot).blk (waveKey core slot) := by
  constructor
  · intro h p hp x hx hk
    have hn := h x.strand
    simp only [State.ringWaits, List.any_eq_false] at hn
    exact hn p hp (List.any_eq_true.2 ⟨x, hx, by simp [hk]⟩)
  · intro h n
    simp only [State.ringWaits, List.any_eq_false, List.any_eq_true, not_exists, not_and]
    intro p hp x hx
    simp [h p hp x hx]

/-- A wave that waits at no ring has no claim there before an entry. -/
theorem State.claimWaits_of_waitsNowhere {s : State} {core slot : Nat} (e : QEntry)
    (h : s.WaitsNowhere (s.wave core slot).blk (waveKey core slot)) : s.claimWaits core slot e = false := by
  have hp : ((s.block (s.wave core slot).blk).ringWaiters.any fun x => x.precedes core slot e) = false := by
    rw [List.any_eq_false]
    intro x hx
    obtain ⟨p, hp, hx⟩ := List.mem_flatMap.1 hx
    simp [RingWait.precedes, h p hp x hx]
  simp [State.claimWaits, hp]

/-! ## The issue of a ring operation -/

theorem State.updWave_updWave (s : State) (core slot : Nat) (f g : Wave → Wave) :
    (s.updWave core slot f).updWave core slot g = s.updWave core slot fun w => g (f w) := by
  simp [State.updWave, State.setWave, State.wave]

theorem State.updWave_congr {s : State} {core slot : Nat} {f g : Wave → Wave} (h : f (s.wave core slot) = g (s.wave core slot)) :
    s.updWave core slot f = s.updWave core slot g := by simp only [State.updWave, h]

/-- A ring operation taken out of its queue and performed (R211). -/
theorem State.runEntry_ring {s : State} {core slot : Nat} {e : QEntry} {prod : Bool} {ring d : Nat} {n : Word}
    (hop : e.op = .ring prod ring n d) :
    s.runEntry core slot e = (s.updWave core slot fun w => { w with queue := w.queue.filter fun x => x.id != e.id }).ringOp core slot e
      prod ring n d := by
  simp only [State.runEntry, State.performQ, hop]

/-- A ring operation that is alone in its queue, of a strand that no handler keeps halted, can be performed. -/
theorem State.releasable_ring {s : State} {core slot : Nat} {e : QEntry} {prod : Bool} {ring d : Nat} {n : Word}
    (hop : e.op = .ring prod ring n d) (hq : (s.wave core slot).queue = [e]) (hb : e.before = []) (ho : e.old = [])
    (ha : (s.wave core slot).asleep e.strand = false) (hw : s.WaitsNowhere (s.wave core slot).blk (waveKey core slot)) :
    s.releasable core slot e = true := by
  have hr : e.arrives = false := by simp [QEntry.arrives, hop]
  simp [State.releasable, Wave.free_alone hq hr hb ho, Wave.arrivalWaits, hr, ha, State.claimWaits_of_waitsNowhere e hw,
    State.aliasWaits, hq, hop, State.roomFor, State.portRoom]

/-- A ring operation is performed in the cycle of its issue when its wave has nothing else under way. -/
theorem State.issueQ_ring {t : State} {core slot : Nat} {q : QEntry} {prod : Bool} {ring d : Nat} {n : Word}
    (hop : q.op = .ring prod ring n d) (hq : (t.wave core slot).queue = []) (hb : q.before = []) (ho : q.old = []) (hr : q.rel = none)
    (ha : (t.wave core slot).asleep q.strand = false) (hw : t.WaitsNowhere (t.wave core slot).blk (waveKey core slot)) :
    t.issueQ core slot q = (t.updWave core slot fun w => { w with nextId := w.nextId + 1 }).ringOp core slot
      (q.releasedAs (t.wave core slot).nextId (t.cycle (t.wave core slot).part)) prod ring n d := by
  generalize he : q.releasedAs (t.wave core slot).nextId (t.cycle (t.wave core slot).part) = e
  have hpush : (t.pushQ core slot q).wave core slot =
      { t.wave core slot with queue := [e], nextId := (t.wave core slot).nextId + 1 } := by
    rw [State.pushQ_empty hq hb hr, State.wave_updWave_self, he]
  have heop : e.op = .ring prod ring n d := by rw [← he]; exact hop
  have hentry : ((t.pushQ core slot q).wave core slot).entry (t.wave core slot).nextId = some e := by
    rw [hpush]; simp [Wave.entry, ← he, QEntry.releasedAs]
  have hrel : (t.pushQ core slot q).releasable core slot e = true := by
    refine State.releasable_ring heop ?_ ?_ ?_ ?_ ?_
    · rw [hpush]
    · rw [← he]; exact hb
    · rw [← he]; exact ho
    · rw [hpush, ← he]; exact ha
    · rw [hpush]; exact hw
  have hripe : (t.pushQ core slot q).ripeNow core slot e = true := by
    rw [State.ripeNow, hpush, ← he]
    simp [QEntry.ripe, QEntry.releasedAs, State.pushQ, State.cycle, State.part]
  have hwalk : (t.pushQ core slot q).tlbReady core ((t.pushQ core slot q).wave core slot) (.ring prod ring n d) = true := rfl
  have hrun : (t.pushQ core slot q).runEntry core slot e =
      (t.updWave core slot fun w => { w with nextId := w.nextId + 1 }).ringOp core slot e prod ring n d := by
    rw [State.runEntry_ring heop, State.pushQ_empty hq hb hr, State.updWave_updWave]
    congr 1
    refine State.updWave_congr ?_
    simp [← he, QEntry.releasedAs, hq]
  simp only [State.issueQ, hentry, hrel, hripe, hwalk, heop, QOp.isMem, Bool.and_false, Bool.not_false, Bool.and_self, if_true]
  exact hrun

/-! ## The operations of a ring (R204) -/

theorem Ring.fillRun_waiters (r : Ring) (n : Nat) : (r.fillRun n).waiters = r.waiters := by
  induction n generalizing r with
  | zero => rfl
  | succ n ih =>
    unfold Ring.fillRun
    split
    · exact ih _
    · rfl

theorem Ring.freeRun_waiters (r : Ring) (n : Nat) : (r.freeRun n).waiters = r.waiters := by
  induction n generalizing r with
  | zero => rfl
  | succ n ih =>
    unfold Ring.freeRun
    split
    · exact ih _
    · rfl

theorem Ring.give_waiters (r : Ring) (prod : Bool) (n wave : Nat) : (r.give prod n wave).waiters = r.waiters := by
  cases prod with
  | true => exact Ring.fillRun_waiters ..
  | false => exact Ring.freeRun_waiters ..

theorem Ring.take_waiters (r : Ring) (prod : Bool) (n wave : Nat) : (r.take prod n wave).1.waiters = r.waiters := by
  cases prod <;> rfl

/-- The waiters that are left after serving, and those that are served, are waiters of before. -/
theorem Ring.serve_subset (l : List RingWait) (r : Ring) (bp bc : Bool) :
    (r.serve bp bc l).2.1 ⊆ l ∧ (r.serve bp bc l).2.2.map (·.1) ⊆ l := by
  induction l generalizing r bp bc with
  | nil => simp [Ring.serve]
  | cons w t ih =>
    rw [Ring.serve]
    by_cases hc : (!(if w.prod then bp else bc) && r.ready w.prod w.n.toNat) = true
    · obtain ⟨hleft, hserved⟩ := ih (r.take w.prod w.n.toNat w.wave).1 bp bc
      rw [if_pos hc]
      exact ⟨List.subset_cons_of_subset w hleft, List.cons_subset_cons w hserved⟩
    · obtain ⟨hleft, hserved⟩ := ih r (bp || w.prod) (bc || !w.prod)
      rw [if_neg hc]
      exact ⟨List.cons_subset_cons w hleft, List.subset_cons_of_subset w hserved⟩

/-- A ring of a block. -/
def State.ringOf (s : State) (blk ring : Nat) : Ring := SMap.get {} (s.block blk).rings ring

/-- The state with a ring of a block replaced. -/
def State.setRing (s : State) (blk ring : Nat) (r : Ring) : State :=
  s.updBlock blk fun b => { b with rings := SMap.put b.rings ring r }

section
variable {s : State} {core slot : Nat} {q : QEntry} {prod : Bool} {ring d : Nat} {n : Word} {r : Ring}

/-- An operand beyond the ring, or a ring that is not configured. -/
theorem State.ringOp_beyond (hr : s.ringOf (s.wave core slot).blk ring = r) (h : r.cnt = 0 ∨ (r.cnt : Int) < n.toInt) :
    s.ringOp core slot q prod ring n d = s.addScalar (waveKey core slot) q.strand d 0xFFFFFFFF q.seq := by
  have hout : (decide (r.cnt = 0) || decide ((r.cnt : Int) < n.toInt)) = true := by simpa using h
  rw [State.ringOf] at hr
  simp only [State.ringOp, hr]
  rw [if_pos hout]

/-- The operand 0. -/
theorem State.ringOp_zero (hr : s.ringOf (s.wave core slot).blk ring = r) (hc : r.cnt ≠ 0) (h : n.toInt = 0) :
    s.ringOp core slot q prod ring n d = s.addScalar (waveKey core slot) q.strand d (r.pf - r.cc) q.seq := by
  have hin : ¬ (decide (r.cnt = 0) || decide ((r.cnt : Int) < n.toInt)) = true := by simp [hc, h]
  rw [State.ringOf] at hr
  simp only [State.ringOp, hr]
  rw [if_neg hin, if_pos h]

/-- A positive operand that can proceed. -/
theorem State.ringOp_takes (hr : s.ringOf (s.wave core slot).blk ring = r) (hn : n.toInt ≤ r.cnt) (h : 0 < n.toInt)
    (hw : ∀ w ∈ r.waiters, w.prod ≠ prod) (hready : r.ready prod n.toInt.toNat = true) :
    let taken := r.take prod n.toInt.toNat (waveKey core slot)
    s.ringOp core slot q prod ring n d =
      (s.setRing (s.wave core slot).blk ring taken.1).addScalar (waveKey core slot) q.strand d taken.2 q.seq := by
  have hin : ¬ (decide (r.cnt = 0) || decide ((r.cnt : Int) < n.toInt)) = true := by
    simp only [Bool.or_eq_true, decide_eq_true_eq]; omega
  have hfirst : ¬ ((r.waiters.any fun w => w.prod = prod) || !r.ready prod n.toInt.toNat) = true := by simpa [hready] using hw
  rw [State.ringOf] at hr
  simp only [State.ringOp, hr]
  rw [if_neg hin, if_neg (by omega), if_pos h, if_neg hfirst]
  cases prod <;> rfl

/-- A negative operand. -/
theorem State.ringOp_gives (hr : s.ringOf (s.wave core slot).blk ring = r) (hc : r.cnt ≠ 0) (h : n.toInt < 0) :
    let given := r.give prod n.toInt.natAbs (waveKey core slot)
    let served := given.serve false false r.waiters
    s.ringOp core slot q prod ring n d =
      served.2.2.foldl (fun s p => s.addScalar p.1.wave p.1.strand p.1.d p.2 p.1.seq)
        ((s.setRing (s.wave core slot).blk ring { served.1 with waiters := served.2.1 }).addScalar (waveKey core slot) q.strand d
          (given.pf - given.cc) q.seq) := by
  have hin : ¬ (decide (r.cnt = 0) || decide ((r.cnt : Int) < n.toInt)) = true := by
    simp only [Bool.or_eq_true, decide_eq_true_eq]; omega
  rw [State.ringOf] at hr
  simp only [State.ringOp, hr, Ring.give_waiters]
  rw [if_neg hin, if_neg (by omega), if_neg (by omega)]
  rfl

end

/-! ## What a ring operation leaves of its wave -/

/-- A map has its default at a key, or lists what it has there. -/
theorem SMap.get_eq_default_or_mem (d : α) (m : SMap α) (k : Nat) : SMap.get d m k = d ∨ (k, SMap.get d m k) ∈ m := by
  induction m with
  | nil => exact .inl rfl
  | cons p t ih =>
    by_cases h : p.1 = k
    · subst h; simp [SMap.get]
    · rw [SMap.get, if_neg h]
      exact ih.imp_right (List.mem_cons_of_mem _)

theorem State.WaitsNowhere.waiter_ne {s : State} {blk key : Nat} (h : s.WaitsNowhere blk key) (ring : Nat) :
    ∀ x ∈ (s.ringOf blk ring).waiters, x.wave ≠ key := by
  intro x hx
  rcases SMap.get_eq_default_or_mem {} (s.block blk).rings ring with hd | hm
  · rw [State.ringOf, hd] at hx
    cases hx
  · exact h _ hm x hx

theorem State.ringOf_setRing (s : State) (blk ring : Nat) (r : Ring) : (s.setRing blk ring r).ringOf blk ring = r := by
  simp [State.ringOf, State.setRing]

/-- A ring whose waiters were waiters before brings no new waiter. -/
theorem State.WaitsNowhere.setRing {s : State} {blk key ring : Nat} {r : Ring} (h : s.WaitsNowhere blk key)
    (hr : r.waiters ⊆ (s.ringOf blk ring).waiters) : (s.setRing blk ring r).WaitsNowhere blk key := by
  intro p hp x hx
  rw [State.setRing, State.block_updBlock_self] at hp
  rcases SMap.mem_ins.1 hp with rfl | hp
  · exact h.waiter_ne ring x (hr hx)
  · exact h p (SMap.mem_erase.1 hp).1 x hx

/-- A ring operation is done for a wave that waits at no ring: its result is outstanding, the ring is as given, and the wave waits nowhere. -/
structure State.RingDone (s u : State) (core slot ring : Nat) (o : Result) (after : Ring) : Prop where
  wave : u.wave core slot = (s.wave core slot).addOut o
  cur : u.cur = s.cur
  mem : u.mem = s.mem
  ring : u.ringOf (s.wave core slot).blk ring = after
  free : u.WaitsNowhere (s.wave core slot).blk (waveKey core slot)

/-- The result of the wave's own operation. -/
theorem State.ringDone_addScalar {s : State} {core slot : Nat} (ring strand d : Nat) (x : Word) (seq : Nat)
    (h : s.WaitsNowhere (s.wave core slot).blk (waveKey core slot)) :
    s.RingDone (s.addScalar (waveKey core slot) strand d x seq) core slot ring { strand := strand, sca := [(d, x)], seq := seq }
      (s.ringOf (s.wave core slot).blk ring) :=
  ⟨s.waveK_updWaveK_self .., rfl, rfl, rfl, h⟩

/-- The result of the wave's own operation, after the ring has changed. -/
theorem State.ringDone_setRing_addScalar {s : State} {core slot ring : Nat} {r : Ring} (strand d : Nat) (x : Word) (seq : Nat)
    (h : s.WaitsNowhere (s.wave core slot).blk (waveKey core slot)) (hr : r.waiters ⊆ (s.ringOf (s.wave core slot).blk ring).waiters) :
    s.RingDone ((s.setRing (s.wave core slot).blk ring r).addScalar (waveKey core slot) strand d x seq) core slot ring
      { strand := strand, sca := [(d, x)], seq := seq } r :=
  ⟨State.waveK_updWaveK_self .., rfl, rfl, s.ringOf_setRing .., h.setRing hr⟩

theorem State.waveK_updWaveK_of_ne (s : State) {k j : Nat} (f : Wave → Wave) (h : j ≠ k) : (s.updWaveK k f).waveK j = s.waveK j := by
  simp [State.waveK, SMap.get_put_of_ne _ _ _ h]

/-- The result of a waiter of another wave. -/
theorem State.RingDone.addScalar_other {s u : State} {core slot ring : Nat} {o : Result} {after : Ring}
    (h : s.RingDone u core slot ring o after) {key : Nat} (hk : key ≠ waveKey core slot) (strand d : Nat) (x : Word) (seq : Nat) :
    s.RingDone (u.addScalar key strand d x seq) core slot ring o after :=
  ⟨(u.waveK_updWaveK_of_ne _ hk.symm).trans h.wave, h.cur, h.mem, h.ring, h.free⟩

/-- The results of waiters of other waves. -/
theorem State.RingDone.addScalars {s u : State} {core slot ring : Nat} {o : Result} {after : Ring} (l : List (RingWait × Word))
    (h : s.RingDone u core slot ring o after) (hl : ∀ w ∈ l.map (·.1), w.wave ≠ waveKey core slot) :
    s.RingDone (l.foldl (fun s p => s.addScalar p.1.wave p.1.strand p.1.d p.2 p.1.seq) u) core slot ring o after := by
  induction l generalizing u with
  | nil => exact h
  | cons p t ih =>
    exact ih (h.addScalar_other (hl p.1 List.mem_cons_self) ..) fun w hw => hl w (List.mem_cons_of_mem _ hw)

section
variable {s : State} {core slot : Nat} {q : QEntry} {prod : Bool} {ring d : Nat} {n : Word} {r : Ring}
  (hw : s.WaitsNowhere (s.wave core slot).blk (waveKey core slot)) (hr : s.ringOf (s.wave core slot).blk ring = r)
include hw hr

theorem State.ringDone_beyond (h : r.cnt = 0 ∨ (r.cnt : Int) < n.toInt) :
    s.RingDone (s.ringOp core slot q prod ring n d) core slot ring { strand := q.strand, sca := [(d, 0xFFFFFFFF)], seq := q.seq } r := by
  rw [State.ringOp_beyond hr h, ← hr]
  exact State.ringDone_addScalar ring _ _ _ _ hw

theorem State.ringDone_zero (hc : r.cnt ≠ 0) (h : n.toInt = 0) :
    s.RingDone (s.ringOp core slot q prod ring n d) core slot ring { strand := q.strand, sca := [(d, r.pf - r.cc)], seq := q.seq } r := by
  rw [State.ringOp_zero hr hc h, ← hr]
  exact State.ringDone_addScalar ring _ _ _ _ hw

theorem State.ringDone_takes (hn : n.toInt ≤ r.cnt) (h : 0 < n.toInt) (hp : ∀ w ∈ r.waiters, w.prod ≠ prod)
    (hready : r.ready prod n.toInt.toNat = true) :
    let taken := r.take prod n.toInt.toNat (waveKey core slot)
    s.RingDone (s.ringOp core slot q prod ring n d) core slot ring { strand := q.strand, sca := [(d, taken.2)], seq := q.seq } taken.1 := by
  intro taken
  rw [State.ringOp_takes hr hn h hp hready]
  refine State.ringDone_setRing_addScalar _ _ _ _ hw ?_
  rw [hr, Ring.take_waiters]
  exact List.Subset.refl _

theorem State.ringDone_gives (hc : r.cnt ≠ 0) (h : n.toInt < 0) :
    let given := r.give prod n.toInt.natAbs (waveKey core slot)
    let served := given.serve false false r.waiters
    s.RingDone (s.ringOp core slot q prod ring n d) core slot ring { strand := q.strand, sca := [(d, given.pf - given.cc)], seq := q.seq }
      { served.1 with waiters := served.2.1 } := by
  intro given served
  obtain ⟨hleft, hserved⟩ := Ring.serve_subset r.waiters given false false
  rw [State.ringOp_gives hr hc h]
  subst hr
  exact (State.ringDone_setRing_addScalar _ _ _ _ hw hleft).addScalars _ fun w hmem => hw.waiter_ne ring w (hserved hmem)

end

/-! ## The words -/

/-- RINGP or RINGC once it has issued (R204): its entry joins the queue, and the strand waits if its operation does. -/
def State.enterRing (s : State) (i : Instr) (q : QEntry) (t : State) : State :=
  let u := t.issueQ s.cur.1 s.cur.2.1 q
  if u.ringWaits s.cur.1 s.cur.2.1 s.cur.2.2 then u.parkUntil .ring i else u

/-- RINGP and RINGC (R204). -/
theorem State.issueRing_queues {s : State} {i : Instr} {m : Bool} {d a : SReg} {prod : Bool} {ring : BitVec 2} {q : QEntry}
    (hq : s.entryOf i (.ring prod ring.toNat (s.sa a) d.toNat) s.cs.memb true = q) (h : s.Queues i (s.sdest d.toNat 1) [a.toNat] [] q) :
    s.issueRing i m d a prod ring = .next (s.did m (s.enterRing i q)) := by
  subst hq
  rw [State.issueRing]
  exact State.run_issues_space h.toIssues h.room

/-- RINGQ (R205). -/
theorem execRingq_issues {s : State} {m : Bool} {d : SReg} {ring : BitVec 2} (h : s.Issues (.ringq m d ring) (s.sdest d.toNat 1) [] []) :
    execRingq m d ring s = .next (s.wroteS (.ringq m d ring) m d
      (if (s.ringOf s.cw.blk ring.toNat).cnt = 0 then 0xFFFFFFFF
       else (s.ringOf s.cw.blk ring.toNat).pf - (s.ringOf s.cw.blk ring.toNat).cc)) := by
  refine (State.run_result h).trans ?_
  rw [State.wroteS, ← scalarOut_word, apply_ite BitVec.toNat]
  rfl

/-! ## The park marker -/

theorem State.marker_mem (t : State) (m : Bool) : (t.marker m).mem = t.mem := by cases m <;> rfl

theorem State.marker_blocks (t : State) (m : Bool) : (t.marker m).blocks = t.blocks := by cases m <;> rfl

theorem State.marker_cur (t : State) (m : Bool) : (t.marker m).cur = t.cur := by cases m <;> rfl

/-- The marker changes strands alone. -/
theorem State.marker_cw (t : State) (m : Bool) : ∃ l, (t.marker m).cw = { t.cw with strands := l } := by
  cases m with
  | false => exact ⟨t.cw.strands, rfl⟩
  | true =>
    rw [State.marker, if_pos rfl, State.updCs, State.cw_updCw]
    exact ⟨_, rfl⟩

/-- What the marker makes of the issuing strand depends on that strand alone. -/
theorem State.marker_cs_congr {t u : State} (h : t.cs = u.cs) (m : Bool) : (t.marker m).cs = (u.marker m).cs := by
  cases m with
  | false => exact h
  | true => simp only [State.marker, if_true, State.cs_updCs, h]

/-! ## Performed at once -/

/-- The state in which the ring operation of a word is performed as the word issues: the strand has gone on, and the wave has counted its entry. -/
def State.enteredQ (s : State) : State := s.advance.updWave s.cur.1 s.cur.2.1 fun w => { w with nextId := w.nextId + 1 }

/-- The wave there: its issuing strand and the number of its next entry have changed. -/
theorem State.enteredQ_wave (s : State) :
    s.enteredQ.wave s.cur.1 s.cur.2.1 = { s.advance.cw with nextId := s.cw.nextId + 1 } := by
  rw [State.enteredQ, State.wave_updWave_self]
  have hid : s.advance.cw.nextId = s.cw.nextId := by rw [State.advance, State.updCs, State.cw_updCw]; rfl
  rw [← hid]
  rfl

theorem State.advance_cw (s : State) : ∃ f, s.advance.cw = s.cw.updStrand s.cur.2.2 f := ⟨_, s.cw_updCw _⟩

theorem State.enteredQ_blk (s : State) : (s.enteredQ.wave s.cur.1 s.cur.2.1).blk = s.cw.blk := by
  obtain ⟨f, hf⟩ := s.advance_cw
  rw [s.enteredQ_wave, hf]
  rfl

section
variable {s : State} {i : Instr} {q : QEntry} {prod : Bool} {ring d : Nat} {n : Word}

/-- A ring operation that nothing orders behind another one is performed as its word issues. -/
theorem State.issueQ_ring_unordered (hu : s.Unordered) (hw : s.WaitsNowhere s.cw.blk (waveKey s.cur.1 s.cur.2.1))
    (hq : s.entryOf i (.ring prod ring n d) s.cs.memb true = q) :
    s.advance.issueQ s.cur.1 s.cur.2.1 q = s.enteredQ.ringOp s.cur.1 s.cur.2.1
      (q.releasedAs s.cw.nextId (s.cycle s.cw.part)) prod ring n d := by
  obtain ⟨f, hf⟩ := s.advance_cw
  have hwave : s.advance.wave s.cur.1 s.cur.2.1 = s.cw.updStrand s.cur.2.2 f := hf
  have hawake : (s.advance.wave s.cur.1 s.cur.2.1).asleep q.strand = false := by
    subst hq
    rw [hwave]
    rcases hu.awake with h | h
    · simp [Wave.asleep, h]
    · simp [Wave.asleep, State.entryOf, h]
  subst hq
  have h := State.issueQ_ring (q := s.entryOf i (.ring prod ring n d) s.cs.memb true) rfl (by rw [hwave]; exact hu.queue) hu.first hu.old rfl
    hawake (by rw [hwave]; exact hw)
  rw [hwave] at h
  exact h

end

/-! ## The state after a word whose operation is performed at once -/

section
variable {s v : State} {ring : Nat} {o : Result} {after : Ring} (hd : s.enteredQ.RingDone v s.cur.1 s.cur.2.1 ring o after)
include hd

/-- The wave has its strand gone on, its entry counted and its result outstanding. -/
theorem State.RingDone.cw : v.cw = { s.advance.cw with nextId := s.cw.nextId + 1, outs := insertOut o s.advance.cw.outs } := by
  rw [State.cw, hd.cur]
  show v.wave s.cur.1 s.cur.2.1 = _
  rw [hd.wave, s.enteredQ_wave]
  rfl

theorem State.RingDone.cs : v.cs = s.advance.cs := by
  rw [State.cs, hd.cw, hd.cur]
  rfl

/-- The strand that has issued the operation does not wait for it. -/
theorem State.RingDone.ringWaits (strand : Nat) : v.ringWaits s.cur.1 s.cur.2.1 strand = false := by
  refine State.ringWaits_eq_false_iff.2 ?_ strand
  have hblk : (v.wave s.cur.1 s.cur.2.1).blk = (s.enteredQ.wave s.cur.1 s.cur.2.1).blk := by rw [hd.wave]; rfl
  rw [hblk]
  exact hd.free

/-- The word ends with its park marker: no trap is latched. -/
theorem State.RingDone.did (m : Bool) {eff : State → State} (heff : eff s.advance = v) (hcalm : s.cw.latched = none) :
    s.did m eff = v.marker m := by
  obtain ⟨l, hl⟩ := v.marker_cw m
  obtain ⟨f, hf⟩ := s.advance_cw
  rw [State.did, heff]
  refine State.settle_calm ?_
  have hcur : (v.marker m).cur = s.cur := (v.marker_cur m).trans hd.cur
  have hwave : (v.marker m).wave s.cur.1 s.cur.2.1 = (v.marker m).cw := by rw [State.cw, hcur]
  rw [hwave, hl, hd.cw, hf]
  exact hcalm

/-- The strand has gone on, the result is outstanding, the ring is as given, and registers and memory are as they were. -/
theorem State.RingDone.marker (m : Bool) (hready : s.cs.state = .ready) :
    (v.marker m).cs = s.cs.past m (s.cycle s.cw.part) ∧ SameRegs s.cw (v.marker m).cw ∧ (v.marker m).mem = s.mem ∧
      (v.marker m).ringOf s.cw.blk ring = after ∧ (v.marker m).cw.outs = insertOut o s.cw.outs := by
  obtain ⟨l, hl⟩ := v.marker_cw m
  obtain ⟨f, hf⟩ := s.advance_cw
  rw [hl, hd.cw, hf]
  refine ⟨?_, ⟨rfl, rfl, rfl, rfl, rfl, rfl, rfl, rfl, rfl, rfl, rfl, rfl, rfl, rfl, rfl⟩, (v.marker_mem m).trans hd.mem, ?_, rfl⟩
  · rw [State.marker_cs_congr hd.cs, State.marker_advance m hready, State.past, State.cs_updCs]
  · rw [State.ringOf, State.block, State.marker_blocks, ← s.enteredQ_blk]
    exact hd.ring

end

/-- A word whose ring operation is performed at once has done what its operation does. -/
theorem State.did_enterRing {s : State} {i : Instr} {q : QEntry} {prod : Bool} {ring d : Nat} {n : Word} {o : Result} {after : Ring} (m : Bool)
    (hcalm : s.cw.latched = none) (hu : s.Unordered) (hw : s.WaitsNowhere s.cw.blk (waveKey s.cur.1 s.cur.2.1))
    (hq : s.entryOf i (.ring prod ring n d) s.cs.memb true = q)
    (hd : s.enteredQ.RingDone (s.enteredQ.ringOp s.cur.1 s.cur.2.1 (q.releasedAs s.cw.nextId (s.cycle s.cw.part)) prod ring n d)
      s.cur.1 s.cur.2.1 ring o after) :
    s.did m (s.enterRing i q) =
      (s.enteredQ.ringOp s.cur.1 s.cur.2.1 (q.releasedAs s.cw.nextId (s.cycle s.cw.part)) prod ring n d).marker m := by
  refine hd.did m ?_ hcalm
  rw [State.enterRing, State.issueQ_ring_unordered hu hw hq]
  simp only [hd.ringWaits]
  rfl

/-- Settles O34: the issue of the words, and for an operation that is performed at once the four cases of its operand. -/
theorem ringWords : Obligations.RingWords := by
  unfold Obligations.RingWords
  intro m d a ring s
  refine ⟨State.issueRing_queues rfl, State.issueRing_queues rfl, execRingq_issues, ?_⟩
  intro prod i n key gives hq hu hwaits
  have hw : s.WaitsNowhere s.cw.blk (waveKey s.cur.1 s.cur.2.1) := State.ringWaits_eq_false_iff.1 hwaits
  have hexec : exec i s = .next (s.did m (s.enterRing i (s.entryOf i (.ring prod ring.toNat (s.sa a) d.toNat) s.cs.memb true))) := by
    cases prod with
    | true => exact State.issueRing_queues rfl hq
    | false => exact State.issueRing_queues rfl hq
  have hgives {x : Word} {after : Ring} := fun hd =>
    (⟨_, hexec.trans (congrArg _ (State.did_enterRing m hq.calm hu hw rfl hd)), hd.marker m hq.ready⟩ : gives x after)
  have hw' : s.enteredQ.WaitsNowhere (s.enteredQ.wave s.cur.1 s.cur.2.1).blk (waveKey s.cur.1 s.cur.2.1) := by
    rw [s.enteredQ_blk]; exact hw
  have hr' : s.enteredQ.ringOf (s.enteredQ.wave s.cur.1 s.cur.2.1).blk ring.toNat = s.ringOf s.cw.blk ring.toNat := by
    rw [s.enteredQ_blk]; rfl
  exact ⟨fun h => hgives (State.ringDone_beyond hw' hr' h), fun hc h => hgives (State.ringDone_zero hw' hr' hc h),
    fun hn h hp hready => hgives (State.ringDone_takes hw' hr' hn h hp hready),
    fun hc h => hgives (State.ringDone_gives hw' hr' hc h)⟩

end Sys2Proof.Machine
end

section
/-! Decode and encode agree (R53 to R77): what `parse` names is an instruction of the word table, and what it names for the word of a
well-formed instruction is that instruction. -/

namespace Sys2Proof

/-! ## What the decoder names -/

/-- Whatever an option of an instruction holds is an instruction of the word table. -/
def OnlyWords (o : Option Instr) : Prop := ∀ i ∈ o, i.isWord = true

@[simp] theorem onlyWords_none : OnlyWords none := by simp [OnlyWords]

@[simp] theorem onlyWords_some {i : Instr} : OnlyWords (some i) ↔ i.isWord = true := by simp [OnlyWords]

@[simp] theorem onlyWords_bind {α : Type} {o : Option α} {f : α → Option Instr} :
    OnlyWords (o.bind f) ↔ ∀ x ∈ o, OnlyWords (f x) := by
  cases o <;> simp

@[simp] theorem onlyWords_map {α : Type} {o : Option α} {f : α → Instr} : OnlyWords (o.map f) ↔ ∀ x ∈ o, (f x).isWord = true := by
  cases o <;> simp

theorem onlyWords_parse0 (m : Bool) (op : BitVec 4) (ty : FTy) (d a : VReg) (b : Code) : OnlyWords (parse0 m op ty d a b) := by
  unfold parse0; split <;> simp [Instr.isWord]

theorem onlyWords_parse1 (m : Bool) (op : BitVec 4) (ty : ITy) (d a : VReg) (b : Code) : OnlyWords (parse1 m op ty d a b) := by
  unfold parse1; split <;> simp [Instr.isWord]

theorem onlyWords_parse2 (m : Bool) (op : BitVec 6) (d a : BitVec 7) (b : Code) : OnlyWords (parse2 m op d a b) := by
  unfold parse2; split <;> simp [Instr.isWord]

theorem onlyWords_parse3 (m : Bool) (op : BitVec 6) (t a : BitVec 7) (b : BitVec 5) (q : BitVec 3) : OnlyWords (parse3 m op t a b q) := by
  unfold parse3
  split
  case h_16 => split_ifs <;> simp [Instr.isWord]
  all_goals simp [Instr.isWord]

theorem onlyWords_parse4 (m : Bool) (op d a : BitVec 6) (b : SOp) (x : BitVec 9) : OnlyWords (parse4 m op d a b x) := by
  unfold parse4; split <;> simp [Instr.isWord]

theorem onlyWords_parseBar (m : Bool) (kind : BitVec 2) (id : BitVec 5) (d : BitVec 6) : OnlyWords (parseBar m kind id d) := by
  unfold parseBar; split <;> simp [Instr.isWord]

theorem onlyWords_parse5 (m : Bool) (op : BitVec 5) (x : BitVec 23) : OnlyWords (parse5 m op x) := by
  unfold parse5; split <;> simp [Instr.isWord, onlyWords_parseBar]

theorem onlyWords_parse6 (m : Bool) (op d a b : BitVec 6) (f : BitVec 4) (sh : BitVec 4) (acc : BitVec 3) (a5 b5 f5 : BitVec 5)
    (a7 : BitVec 7) (b8 : BitVec 8) : OnlyWords (parse6 m op d a b f sh acc a5 b5 f5 a7 b8) := by
  have hcinv : (if f.getLsbD 0 then Instr.cinvI m d a b else Instr.cinv m d a b).isWord = true := by split <;> rfl
  unfold parse6
  split <;> simp [Instr.isWord]
  exact hcinv

theorem onlyWords_parse7 (m : Bool) (op d a : BitVec 6) (f : BitVec 4) (x : BitVec 22) (d7 a7 : BitVec 7) (b8 : BitVec 8) :
    OnlyWords (parse7 m op d a f x d7 a7 b8) := by
  unfold parse7; split <;> simp [Instr.isWord]

theorem onlyWords_parse (w : Word) : OnlyWords (parse w) := by
  unfold parse
  split <;> simp [onlyWords_parse0, onlyWords_parse1, onlyWords_parse2, onlyWords_parse3, onlyWords_parse4, onlyWords_parse5,
    onlyWords_parse6, onlyWords_parse7]

/-- A word decodes to a well-formed instruction of the word table whose word it is, or to no instruction. -/
theorem decode_cases (w : Word) :
    decode w = .illegalWord w ∨ (decode w).wf = true ∧ (decode w).isWord = true ∧ encode (decode w) = w := by
  unfold decode
  split
  next i hp =>
    split
    next h =>
      obtain ⟨hwf, henc⟩ := by simpa using h
      exact .inr ⟨hwf, onlyWords_parse w i hp, henc⟩
    next => exact .inl rfl
  next => exact .inl rfl

theorem encode_decode (w : Word) : encode (decode w) = w := by
  rcases decode_cases w with h | ⟨-, -, h⟩
  · rw [h]; rfl
  · exact h

/-! ## The round trip -/

/-- The word of every well-formed instruction of the table decodes to it. -/
theorem decode_encode : ∀ i : Instr, Laws.RoundTrip.Statement i
  | .vadd .. => Laws.RoundTrip.vadd _ _ _ _ _
  | .vsub .. => Laws.RoundTrip.vsub _ _ _ _ _
  | .vmul .. => Laws.RoundTrip.vmul _ _ _ _ _
  | .vfma .. => Laws.RoundTrip.vfma _ _ _ _ _
  | .vfnma .. => Laws.RoundTrip.vfnma _ _ _ _ _
  | .vmin .. => Laws.RoundTrip.vmin _ _ _ _ _
  | .vmax .. => Laws.RoundTrip.vmax _ _ _ _ _
  | .vcpsgn .. => Laws.RoundTrip.vcpsgn _ _ _ _ _
  | .vscale .. => Laws.RoundTrip.vscale _ _ _ _ _
  | .vabsd .. => Laws.RoundTrip.vabsd _ _ _ _ _
  | .viadd .. => Laws.RoundTrip.viadd _ _ _ _ _
  | .visub .. => Laws.RoundTrip.visub _ _ _ _ _
  | .vimul .. => Laws.RoundTrip.vimul _ _ _ _ _
  | .vimad .. => Laws.RoundTrip.vimad _ _ _ _ _
  | .vimulhs .. => Laws.RoundTrip.vimulhs _ _ _ _ _
  | .vimulhn .. => Laws.RoundTrip.vimulhn _ _ _ _ _
  | .vimins .. => Laws.RoundTrip.vimins _ _ _ _ _
  | .viminn .. => Laws.RoundTrip.viminn _ _ _ _ _
  | .vimaxs .. => Laws.RoundTrip.vimaxs _ _ _ _ _
  | .vimaxn .. => Laws.RoundTrip.vimaxn _ _ _ _ _
  | .viaddss .. => Laws.RoundTrip.viaddss _ _ _ _ _
  | .viaddsn .. => Laws.RoundTrip.viaddsn _ _ _ _ _
  | .vshl .. => Laws.RoundTrip.vshl _ _ _ _ _
  | .vshr .. => Laws.RoundTrip.vshr _ _ _ _ _
  | .vsra .. => Laws.RoundTrip.vsra _ _ _ _ _
  | .visubss .. => Laws.RoundTrip.visubss _ _ _ _ _
  | .vand .. => Laws.RoundTrip.vand _ _ _ _
  | .vor .. => Laws.RoundTrip.vor _ _ _ _
  | .vxor .. => Laws.RoundTrip.vxor _ _ _ _
  | .vandn .. => Laws.RoundTrip.vandn _ _ _ _
  | .vbfes .. => Laws.RoundTrip.vbfes _ _ _ _
  | .vbfen .. => Laws.RoundTrip.vbfen _ _ _ _
  | .vbfi .. => Laws.RoundTrip.vbfi _ _ _ _
  | .vpopc .. => Laws.RoundTrip.vpopc _ _ _
  | .vclz .. => Laws.RoundTrip.vclz _ _ _
  | .vpermb .. => Laws.RoundTrip.vpermb _ _ _ _
  | .vmov .. => Laws.RoundTrip.vmov _ _ _
  | .vsel .. => Laws.RoundTrip.vsel _ _ _ _
  | .vcvt .. => Laws.RoundTrip.vcvt _ _ _ _ _ _
  | .vqnt .. => Laws.RoundTrip.vqnt _ _ _ _ _ _
  | .vdq .. => Laws.RoundTrip.vdq _ _ _ _ _
  | .vbscale .. => Laws.RoundTrip.vbscale _ _ _ _
  | .vrcp .. => Laws.RoundTrip.vrcp _ _ _
  | .vrsq .. => Laws.RoundTrip.vrsq _ _ _
  | .vsqrt .. => Laws.RoundTrip.vsqrt _ _ _
  | .vex2 .. => Laws.RoundTrip.vex2 _ _ _
  | .vlg2 .. => Laws.RoundTrip.vlg2 _ _ _
  | .vsin .. => Laws.RoundTrip.vsin _ _ _
  | .vcos .. => Laws.RoundTrip.vcos _ _ _
  | .vtanh .. => Laws.RoundTrip.vtanh _ _ _
  | .vlane .. => Laws.RoundTrip.vlane _ _
  | .vshfl .. => Laws.RoundTrip.vshfl _ _ _ _
  | .vbcast .. => Laws.RoundTrip.vbcast _ _ _ _
  | .vscan .. => Laws.RoundTrip.vscan _ _ _ _
  | .vreds .. => Laws.RoundTrip.vreds _ _ _ _
  | .vrdl .. => Laws.RoundTrip.vrdl _ _ _ _
  | .vwrl .. => Laws.RoundTrip.vwrl _ _ _ _
  | .vrdi .. => Laws.RoundTrip.vrdi _ _ _
  | .vwri .. => Laws.RoundTrip.vwri _ _ _
  | .vcmpEqF64 .. => Laws.RoundTrip.vcmpEqF64 _ _ _ _
  | .vcmpNeF64 .. => Laws.RoundTrip.vcmpNeF64 _ _ _ _
  | .vcmpLtF64 .. => Laws.RoundTrip.vcmpLtF64 _ _ _ _
  | .vcmpLeF64 .. => Laws.RoundTrip.vcmpLeF64 _ _ _ _
  | .vcmpGtF64 .. => Laws.RoundTrip.vcmpGtF64 _ _ _ _
  | .vcmpGeF64 .. => Laws.RoundTrip.vcmpGeF64 _ _ _ _
  | .vclassF32 .. => Laws.RoundTrip.vclassF32 _ _ _ _
  | .vcmpF32 .. => Laws.RoundTrip.vcmpF32 _ _ _ _ _
  | .vcmpS32 .. => Laws.RoundTrip.vcmpS32 _ _ _ _ _
  | .vcmpN32 .. => Laws.RoundTrip.vcmpN32 _ _ _ _ _
  | .vldB32 .. => Laws.RoundTrip.vldB32 _ _ _ _ _
  | .vldB64 .. => Laws.RoundTrip.vldB64 _ _ _ _ _
  | .vldB128 .. => Laws.RoundTrip.vldB128 _ _ _ _ _
  | .vldS8 .. => Laws.RoundTrip.vldS8 _ _ _ _ _
  | .vldN8 .. => Laws.RoundTrip.vldN8 _ _ _ _ _
  | .vldS16 .. => Laws.RoundTrip.vldS16 _ _ _ _ _
  | .vldN16 .. => Laws.RoundTrip.vldN16 _ _ _ _ _
  | .vstB32 .. => Laws.RoundTrip.vstB32 _ _ _ _ _
  | .vstB64 .. => Laws.RoundTrip.vstB64 _ _ _ _ _
  | .vstB128 .. => Laws.RoundTrip.vstB128 _ _ _ _ _
  | .vstB8 .. => Laws.RoundTrip.vstB8 _ _ _ _ _
  | .vstB16 .. => Laws.RoundTrip.vstB16 _ _ _ _ _
  | .vpref .. => Laws.RoundTrip.vpref _ _ _ _
  | .fget .. => Laws.RoundTrip.fget _ _ _ _ _
  | .fput .. => Laws.RoundTrip.fput _ _ _ _ _
  | .vatom .. => Laws.RoundTrip.vatom _ _ _ _ _ _
  | .vred .. => Laws.RoundTrip.vred _ _ _ _ _ _
  | .sadd .. => Laws.RoundTrip.sadd _ _ _ _
  | .ssub .. => Laws.RoundTrip.ssub _ _ _ _
  | .smul .. => Laws.RoundTrip.smul _ _ _ _
  | .smulhs .. => Laws.RoundTrip.smulhs _ _ _ _
  | .smulhn .. => Laws.RoundTrip.smulhn _ _ _ _
  | .sand .. => Laws.RoundTrip.sand _ _ _ _
  | .sor .. => Laws.RoundTrip.sor _ _ _ _
  | .sxor .. => Laws.RoundTrip.sxor _ _ _ _
  | .sandn .. => Laws.RoundTrip.sandn _ _ _ _
  | .sshl .. => Laws.RoundTrip.sshl _ _ _ _
  | .sshr .. => Laws.RoundTrip.sshr _ _ _ _
  | .ssra .. => Laws.RoundTrip.ssra _ _ _ _
  | .smins .. => Laws.RoundTrip.smins _ _ _ _
  | .sminn .. => Laws.RoundTrip.sminn _ _ _ _
  | .smaxs .. => Laws.RoundTrip.smaxs _ _ _ _
  | .smaxn .. => Laws.RoundTrip.smaxn _ _ _ _
  | .sslt .. => Laws.RoundTrip.sslt _ _ _ _
  | .ssltn .. => Laws.RoundTrip.ssltn _ _ _ _
  | .sseq .. => Laws.RoundTrip.sseq _ _ _ _
  | .ssne .. => Laws.RoundTrip.ssne _ _ _ _
  | .ssle .. => Laws.RoundTrip.ssle _ _ _ _
  | .sslen .. => Laws.RoundTrip.sslen _ _ _ _
  | .smov .. => Laws.RoundTrip.smov _ _ _
  | .scmov .. => Laws.RoundTrip.scmov _ _ _ _
  | .sadd64 .. => Laws.RoundTrip.sadd64 _ _ _ _
  | .ssub64 .. => Laws.RoundTrip.ssub64 _ _ _ _
  | .sshl64 .. => Laws.RoundTrip.sshl64 _ _ _ _
  | .sshr64 .. => Laws.RoundTrip.sshr64 _ _ _ _
  | .spopc .. => Laws.RoundTrip.spopc _ _ _
  | .sclz .. => Laws.RoundTrip.sclz _ _ _
  | .sbfen .. => Laws.RoundTrip.sbfen _ _ _ _
  | .smulw .. => Laws.RoundTrip.smulw _ _ _ _
  | .kand .. => Laws.RoundTrip.kand _ _ _ _
  | .kor .. => Laws.RoundTrip.kor _ _ _ _
  | .kxor .. => Laws.RoundTrip.kxor _ _ _ _
  | .kandn .. => Laws.RoundTrip.kandn _ _ _ _
  | .kmov .. => Laws.RoundTrip.kmov _ _ _
  | .kpopc .. => Laws.RoundTrip.kpopc _ _ _
  | .kffs .. => Laws.RoundTrip.kffs _ _ _
  | .klane .. => Laws.RoundTrip.klane _ _ _ _
  | .sldB32 .. => Laws.RoundTrip.sldB32 _ _ _ _
  | .sldB64 .. => Laws.RoundTrip.sldB64 _ _ _ _
  | .sldB128 .. => Laws.RoundTrip.sldB128 _ _ _ _
  | .sstB32 .. => Laws.RoundTrip.sstB32 _ _ _ _
  | .sstB64 .. => Laws.RoundTrip.sstB64 _ _ _ _
  | .satomAdd .. => Laws.RoundTrip.satomAdd _ _ _ _
  | .satomCas .. => Laws.RoundTrip.satomCas _ _ _ _
  | .satomExch .. => Laws.RoundTrip.satomExch _ _ _ _
  | .sget .. => Laws.RoundTrip.sget _ _ _
  | .sset .. => Laws.RoundTrip.sset _ _ _
  | .br .. => Laws.RoundTrip.br _ _
  | .brany .. => Laws.RoundTrip.brany _ _ _
  | .brall .. => Laws.RoundTrip.brall _ _ _
  | .brnone .. => Laws.RoundTrip.brnone _ _ _
  | .brnz .. => Laws.RoundTrip.brnz _ _ _
  | .brz .. => Laws.RoundTrip.brz _ _ _
  | .call .. => Laws.RoundTrip.call _ _ _
  | .jmpr .. => Laws.RoundTrip.jmpr _ _
  | .split .. => Laws.RoundTrip.split _ _ _ _
  | .ends .. => Laws.RoundTrip.ends _
  | .pub .. => Laws.RoundTrip.pub _ _ _ _ _
  | .join .. => Laws.RoundTrip.join _ _ _ _
  | .joins .. => Laws.RoundTrip.joins _ _ _ _
  | .joinm .. => Laws.RoundTrip.joinm _
  | .barW .. => Laws.RoundTrip.barW _ _
  | .barA .. => Laws.RoundTrip.barA _ _ _
  | .barD .. => Laws.RoundTrip.barD _ _
  | .barJ .. => Laws.RoundTrip.barJ _ _
  | .barwp .. => Laws.RoundTrip.barwp _ _ _
  | .fence .. => Laws.RoundTrip.fence _ _
  | .qfence .. => Laws.RoundTrip.qfence _ _
  | .twait .. => Laws.RoundTrip.twait _ _
  | .mwait .. => Laws.RoundTrip.mwait _ _
  | .rpoll .. => Laws.RoundTrip.rpoll _ _
  | .vgive .. => Laws.RoundTrip.vgive _ _
  | .vclaim .. => Laws.RoundTrip.vclaim _ _
  | .exit .. => Laws.RoundTrip.exit _
  | .trap .. => Laws.RoundTrip.trap _ _
  | .tret .. => Laws.RoundTrip.tret _
  | .nop .. => Laws.RoundTrip.nop _
  | .acopy .. => Laws.RoundTrip.acopy _ _ _ _ _
  | .gath .. => Laws.RoundTrip.gath _ _ _
  | .scat .. => Laws.RoundTrip.scat _ _ _
  | .mma .. => Laws.RoundTrip.mma _ _ _ _ _ _
  | .mmasp .. => Laws.RoundTrip.mmasp _ _ _ _ _ _
  | .mzacc .. => Laws.RoundTrip.mzacc _ _ _
  | .mstacc .. => Laws.RoundTrip.mstacc _ _ _ _ _ _
  | .mldacc .. => Laws.RoundTrip.mldacc _ _ _ _ _ _
  | .mfence .. => Laws.RoundTrip.mfence _ _
  | .coll .. => Laws.RoundTrip.coll _ _ _
  | .tenq .. => Laws.RoundTrip.tenq _ _ _
  | .tgaina .. => Laws.RoundTrip.tgaina _ _ _
  | .tgainm .. => Laws.RoundTrip.tgainm _ _ _
  | .tgains .. => Laws.RoundTrip.tgains _ _ _
  | .tdone .. => Laws.RoundTrip.tdone _ _
  | .tjset .. => Laws.RoundTrip.tjset _ _ _
  | .hres .. => Laws.RoundTrip.hres _ _ _
  | .ringp .. => Laws.RoundTrip.ringp _ _ _ _
  | .ringc .. => Laws.RoundTrip.ringc _ _ _ _
  | .ringq .. => Laws.RoundTrip.ringq _ _ _
  | .smap .. => Laws.RoundTrip.smap _ _ _ _
  | .sunmap .. => Laws.RoundTrip.sunmap _ _ _ _
  | .cdrop .. => Laws.RoundTrip.cdrop _ _ _ _
  | .cqry .. => Laws.RoundTrip.cqry _ _ _
  | .l2pin .. => Laws.RoundTrip.l2pin _ _ _ _ _
  | .l2unpin .. => Laws.RoundTrip.l2unpin _ _
  | .cinv .. => Laws.RoundTrip.cinv _ _ _ _
  | .cinvI .. => Laws.RoundTrip.cinvI _ _ _ _
  | .cwb .. => Laws.RoundTrip.cwb _ _ _ _
  | .xmod .. => Laws.RoundTrip.xmod _ _ _ _ _ _
  | .limm .. => Laws.RoundTrip.limm _
  | .limmh .. => Laws.RoundTrip.limmh _
  | .limml .. => Laws.RoundTrip.limml _
  | .limmf .. => Laws.RoundTrip.limmf _
  | .sched .. => Laws.RoundTrip.sched _ _
  | .sysld .. => Laws.RoundTrip.sysld _ _ _
  | .sysst .. => Laws.RoundTrip.sysst _ _ _
  | .tlbinv .. => Laws.RoundTrip.tlbinv _ _
  | .cntrd .. => Laws.RoundTrip.cntrd _ _ _
  | .trace .. => Laws.RoundTrip.trace _ _
  | .brkpt .. => Laws.RoundTrip.brkpt _
  | .waiti .. => Laws.RoundTrip.waiti _
  | .metsnap .. => Laws.RoundTrip.metsnap _ _
  | .vidivS32 .. => Laws.RoundTrip.vidivS32 _ _ _ _
  | .emulation .. => Laws.RoundTrip.emulation _ _ _
  | .strandWake .. => Laws.RoundTrip.strandWake _ _ _
  | .resultWrite .. => Laws.RoundTrip.resultWrite _ _ _ _
  | .ssqEntryRelease .. => Laws.RoundTrip.ssqEntryRelease _ _ _
  | .pageWalk .. => Laws.RoundTrip.pageWalk _ _ _
  | .takeTrap .. => Laws.RoundTrip.takeTrap _ _
  | .contextEnd .. => Laws.RoundTrip.contextEnd _ _
  | .waveEnd .. => Laws.RoundTrip.waveEnd _ _
  | .acopyComplete .. => Laws.RoundTrip.acopyComplete _ _
  | .gathScatComplete .. => Laws.RoundTrip.gathScatComplete _
  | .sunmapComplete .. => Laws.RoundTrip.sunmapComplete _ _ _
  | .cdropComplete .. => Laws.RoundTrip.cdropComplete _ _ _
  | .cinvCwbComplete .. => Laws.RoundTrip.cinvCwbComplete _ _ _
  | .metsnapComplete .. => Laws.RoundTrip.metsnapComplete _ _ _
  | .matrixOpComplete .. => Laws.RoundTrip.matrixOpComplete _
  | .batchComplete .. => Laws.RoundTrip.batchComplete _
  | .heapOpPerform .. => Laws.RoundTrip.heapOpPerform _ _
  | .tdoneParentUpdate .. => Laws.RoundTrip.tdoneParentUpdate _ _
  | .turnstilePop .. => Laws.RoundTrip.turnstilePop _ _
  | .heapRunEnd .. => Laws.RoundTrip.heapRunEnd _ _
  | .registerWrite .. => Laws.RoundTrip.registerWrite _ _ _
  | .packetAccept .. => Laws.RoundTrip.packetAccept _ _
  | .packetStart .. => Laws.RoundTrip.packetStart _
  | .grid .. => Laws.RoundTrip.grid _
  | .heapConfigure .. => Laws.RoundTrip.heapConfigure _
  | .heapRun .. => Laws.RoundTrip.heapRun _
  | .heapRelease .. => Laws.RoundTrip.heapRelease _
  | .marker .. => Laws.RoundTrip.marker _
  | .packetComplete .. => Laws.RoundTrip.packetComplete _
  | .ticketDispatch .. => Laws.RoundTrip.ticketDispatch _ _
  | .contextSwitch .. => Laws.RoundTrip.contextSwitch _
  | .schedulingPass .. => Laws.RoundTrip.schedulingPass _ _
  | .partitionReconfigure .. => Laws.RoundTrip.partitionReconfigure _
  | .illegalWord .. => Laws.RoundTrip.illegalWord _
  | .collComplete .. => Laws.RoundTrip.collComplete _ _
  | .notify .. => Laws.RoundTrip.notify _ _ _
  | .hostWrite .. => Laws.RoundTrip.hostWrite _ _ _
  | .hostRead .. => Laws.RoundTrip.hostRead _ _ _
  | .dumpKey .. => Laws.RoundTrip.dumpKey _ _
  | .laneCycleRecord .. => Laws.RoundTrip.laneCycleRecord _ _
  | .remoteAccess .. => Laws.RoundTrip.remoteAccess _ _
  | .dump .. => Laws.RoundTrip.dump _
  | .resume .. => Laws.RoundTrip.resume _ _ _ _ _ _
  | .stop .. => Laws.RoundTrip.stop _ _ _ _ _ _
  | .settrace .. => Laws.RoundTrip.settrace _ _ _ _
  | .getbins .. => Laws.RoundTrip.getbins _
  | .setbin .. => Laws.RoundTrip.setbin _ _ _ _ _
  | .getmemb .. => Laws.RoundTrip.getmemb _
  | .getsnap .. => Laws.RoundTrip.getsnap _
  | .setjob .. => Laws.RoundTrip.setjob _ _
  | .overTemperature .. => Laws.RoundTrip.overTemperature _
  | .linkFailure .. => Laws.RoundTrip.linkFailure _
  | .linkUp .. => Laws.RoundTrip.linkUp _ _ _ _
  | .activationAlert .. => Laws.RoundTrip.activationAlert _ _ _
  | .refreshInterval .. => Laws.RoundTrip.refreshInterval _ _ _
  | .gracePeriodEnd .. => Laws.RoundTrip.gracePeriodEnd _
  | .extentRelease .. => Laws.RoundTrip.extentRelease _ _
  | .extentAdd .. => Laws.RoundTrip.extentAdd _ _ _
  | .sliceEnd .. => Laws.RoundTrip.sliceEnd _
  | .strandCapped .. => Laws.RoundTrip.strandCapped _ _ _
  | .fetchFill .. => Laws.RoundTrip.fetchFill _ _ _
  | .roleToLoader .. => Laws.RoundTrip.roleToLoader _
  | .roleToCompute .. => Laws.RoundTrip.roleToCompute _
  | .powerOverrun .. => Laws.RoundTrip.powerOverrun
  | .settrap .. => Laws.RoundTrip.settrap
  | .setroot .. => Laws.RoundTrip.setroot
  | .group .. => Laws.RoundTrip.group
  | .schedp .. => Laws.RoundTrip.schedp
  | .assign .. => Laws.RoundTrip.assign
  | .resetvi .. => Laws.RoundTrip.resetvi
  | .extdone .. => Laws.RoundTrip.extdone
  | .imggo .. => Laws.RoundTrip.imggo
  | .powerOn .. => Laws.RoundTrip.powerOn

/-- Settles O52: the round trip of every constructor, and what the decoder names. -/
theorem decodeInvertsEncode : Obligations.DecodeInvertsEncode := by
  unfold Obligations.DecodeInvertsEncode
  refine ⟨decode_encode, encode_decode, fun w => ?_⟩
  exact (decode_cases w).imp_right fun ⟨hwf, hword, _⟩ => ⟨hwf, hword⟩

end Sys2Proof
end

section
/-! The vector words of classes 0 to 2 (R79, R80, R135 to R156): each issues as its family does, with the value of its row in every lane. -/

namespace Sys2Proof.Machine

/-! ## Minima and maxima of elements -/

theorem minInt_signed (n x y : Nat) (mx : Bool) :
    minInt n true mx x y = if (decide (sgnOf n x ≤ sgnOf n y) != mx) then x else y := by
  simp only [minInt, sgnOf, Bool.true_and, decide_eq_true_eq]
  rfl

theorem minInt_signed_min (n x y : Nat) : minInt n true false x y = if sgnOf n x ≤ sgnOf n y then x else y := by
  simp [minInt_signed]

theorem minInt_signed_max (n x y : Nat) : minInt n true true x y = if sgnOf n x ≤ sgnOf n y then y else x := by
  rw [minInt_signed]
  by_cases h : sgnOf n x ≤ sgnOf n y <;> simp [h]

theorem minInt_unsigned_min (n x y : Nat) : minInt n false false x y = min x y := by
  simp [minInt, Nat.min_def]

theorem minInt_unsigned_max (n x y : Nat) : minInt n false true x y = max x y := by
  simp only [minInt, Nat.max_def]
  by_cases h : x ≤ y <;> simp [h]

/-! ## Classes 0 and 1 -/

/-- Settles O1: each word issues as every class 0 word does. -/
theorem vectorFloatResults : Obligations.VectorFloatResults := by
  unfold Obligations.VectorFloatResults
  intro m ty d a b s
  exact ⟨State.floatOp_issues, State.floatOp_issues, State.floatOp_issues, State.floatOp_issues, State.floatOp_issues,
    State.floatOp_issues, State.floatOp_issues, State.floatOp_issues, State.floatOp_issues, State.floatOp_issues⟩

/-- A class 1 word whose element operation is given in another form issues as every class 1 word does. -/
theorem State.intOp_issues_as {s : State} {i : Instr} {m : Bool} {ty : ITy} {d a : VReg} {b : Code} {fused : Bool} {f g : IntFn}
    (e : f = g) (h : s.IntIssues i ty d a b) : s.intOp i m ty d a b fused f = .next (s.wrote i m (s.intResult ty d a b fused g)) :=
  e ▸ State.intOp_issues h

/-- Settles O2: each word issues as every class 1 word does; the minima and maxima are those of signed and unsigned elements. -/
theorem vectorIntResults : Obligations.VectorIntResults := by
  unfold Obligations.VectorIntResults
  intro m ty d a b s
  refine ⟨State.intOp_issues, State.intOp_issues, State.intOp_issues, State.intOp_issues, State.intOp_issues, State.intOp_issues,
    State.intOp_issues_as ?_, State.intOp_issues_as ?_, State.intOp_issues_as ?_, State.intOp_issues_as ?_,
    State.intOp_issues, State.intOp_issues, State.intOp_issues⟩
  · funext n x y _; exact minInt_signed_min n x y
  · funext n x y _; exact minInt_unsigned_min n x y
  · funext n x y _; exact minInt_signed_max n x y
  · funext n x y _; exact minInt_unsigned_max n x y

/-- Settles O3: the three shifts are the family's, with their amounts at and above the width as in `shlBits`, `shrBits` and `sraBits`. -/
theorem vectorShifts : Obligations.VectorShifts := by
  unfold Obligations.VectorShifts
  intro m ty d a b s
  exact ⟨State.shiftOp_issues, State.shiftOp_issues, State.shiftOp_issues⟩

/-! ## Class 2 -/

theorem State.vecOne (d : Nat) (l : List Nat) (f : Nat → Nat) :
    ((l.map fun x => (x, f x)).flatMap fun p => laneOut d false p.1 p.2) = l.map fun x => (vkey d x, BitVec.ofNat 32 (f x)) := by
  rw [List.flatMap_map, ← flatMap_single]
  rfl

/-- VSEL (R26, R143). -/
theorem execVsel_issues {s : State} {m : Bool} {d a : VReg} {b : Code} {k : Nat} (hk : s.selector = k)
    (h : s.Issues (.vsel m d a b) (s.vdest d.toNat 1 ++ [s.cw.vrange a.toNat] ++ s.cw.codeRange .raw b) (codeRegs .raw b ++ kregs k) []) :
    exec (.vsel m d a b) s = .next (s.wrote (.vsel m d a b) m
      { strand := 0
        vec := (lanesOf (s.cs.am &&& s.cs.replayMask)).map fun l =>
          (vkey d.toNat l, BitVec.ofNat 32
            (if (s.cw.ktriple s.cur.2.2 k).getLsbD l then (s.cw.vreg a.toNat l).toNat else s.operand .raw b l)) }) := by
  subst hk
  refine (State.run_result h).trans ?_
  rw [State.vecOne]
  rfl

/-- Settles O4: each word issues as every class 2 word with a vector destination does; VSEL takes its lanes from AM. -/
theorem bitWordsAndSelect : Obligations.BitWordsAndSelect := by
  unfold Obligations.BitWordsAndSelect
  refine ⟨fun m d a b s => ?_, fun m d a b s => execVsel_issues rfl⟩
  exact ⟨State.miscOp_issues, State.miscOp_issues, State.miscOp_issues, State.miscOp_issues, State.miscOp_issues, State.miscOp_issues,
    State.miscOp_issues, State.miscOp_issues, State.miscOp_issues, State.miscOp_issues, State.miscOp_issues, State.miscOp_issues,
    State.miscOp_issues, State.miscOp_issues⟩

/-- Settles O5: each word issues as every conversion does. -/
theorem conversions : Obligations.Conversions := by
  unfold Obligations.Conversions
  intro m d a s
  exact ⟨fun pair rnd sel h => (exec_vcvt m d a pair rnd sel s).trans (State.convOp_issues h),
    fun fmt sat slot h => (exec_vqnt m d a fmt sat slot s).trans (State.convOp_issues h),
    fun fmt slot h => (exec_vdq m d a fmt slot s).trans (State.convOp_issues h),
    fun fmt h => (exec_vbscale m d a fmt s).trans (State.convOp_issues h)⟩

/-- Settles O6: each word issues as every word of the special function unit does. -/
theorem specialFunctions : Obligations.SpecialFunctions := by
  unfold Obligations.SpecialFunctions
  intro m d b s
  exact ⟨State.sfuOp_issues, State.sfuOp_issues, State.sfuOp_issues, State.sfuOp_issues, State.sfuOp_issues, State.sfuOp_issues,
    State.sfuOp_issues, State.sfuOp_issues⟩

/-- Settles O7: what a scan gives its lanes, and a reduction its scalar. -/
theorem scansAndReductions : Obligations.ScansAndReductions := by
  unfold Obligations.ScansAndReductions
  intro m op b s
  refine ⟨fun d h => (State.run_result h).trans ?_, fun d h => (State.run_result h).trans ?_⟩
  · congr 3
    rw [← flatMap_single]
    rfl
  · congr 3
    rw [scalarOut]
    congr 4
    beta_reduce
    rw [State.exmAm]
    cases (scanFrom op s.modeNearest (s.cs.am &&& s.cs.replayMask) 0 (s.operand op.kind b) 96 0 none).getLast? <;> rfl

/-- Settles O8: the lane or the register that an index names. -/
theorem indexedLanes : Obligations.IndexedLanes := by
  unfold Obligations.IndexedLanes
  intro m s
  refine ⟨fun d a b h => (State.run_result h).trans ?_, fun d lane b h => State.run_result h, fun d n h => State.run_result h,
    fun n a h => (State.run_result h).trans ?_⟩
  · rw [State.wroteS, ← scalarOut_word, apply_ite BitVec.toNat]
    rfl
  · simp only [laneOut, Bool.false_eq_true, if_false, flatMap_single, State.src, BitVec.ofNat_toNat, BitVec.setWidth_eq]
    rfl

/-- A compare whose condition is given in another form issues as every compare does. -/
theorem State.cmpOp_issues_as {s : State} {i : Instr} {m : Bool} {k : KReg} {a : VReg} {b : Code} {kd : Kind}
    {f g : Nat → Nat → Bool × BitVec 5} (e : f = g) (h : s.CmpIssues i k a b kd) :
    s.cmpOp i m k a b kd f = .next (s.wrote i m (s.cmpResult k a b kd g)) :=
  e ▸ State.cmpOp_issues h

theorem intCond_signed (c : Cond) (x y : Nat) :
    intCond true c x y = match c with
      | .eq => decide (x = y) | .ne => decide (x ≠ y) | .lt => decide (sgnOf 32 x < sgnOf 32 y)
      | .le => decide (sgnOf 32 x ≤ sgnOf 32 y) | .gt => decide (sgnOf 32 y < sgnOf 32 x)
      | .ge => decide (sgnOf 32 y ≤ sgnOf 32 x) := by
  cases c with
  | ne => simp [intCond, bne, beq_eq_decide]
  | _ => rfl

theorem intCond_unsigned (c : Cond) (x y : Nat) :
    intCond false c x y = match c with
      | .eq => decide (x = y) | .ne => decide (x ≠ y) | .lt => decide (x < y)
      | .le => decide (x ≤ y) | .gt => decide (y < x) | .ge => decide (y ≤ x) := by
  cases c with
  | eq => rfl
  | _ => simp [intCond, bne, beq_eq_decide]

theorem testBit_eq_beq (x n : Nat) : (x / 2 ^ n % 2 == 1) = x.testBit n := by
  rw [Nat.testBit_eq_decide_div_mod_eq, beq_eq_decide]

/-- Settles O9: each word issues as every compare does. -/
theorem compares : Obligations.Compares := by
  unfold Obligations.Compares
  intro m k a b s
  refine ⟨State.cmpOp_issues, State.cmpOp_issues, State.cmpOp_issues, State.cmpOp_issues, State.cmpOp_issues, State.cmpOp_issues,
    fun _ => State.cmpOp_issues, fun c h => (exec_vcmpS32 m c k a b s).trans (State.cmpOp_issues_as ?_ h),
    fun c h => (exec_vcmpN32 m c k a b s).trans (State.cmpOp_issues_as ?_ h),
    fun h => (exec_vclassF32 m k a b s).trans (State.cmpOp_issues_as ?_ h)⟩
  · exact funext fun x => funext fun y => congrArg (·, (0 : BitVec 5)) (intCond_signed c x y)
  · exact funext fun x => funext fun y => congrArg (·, (0 : BitVec 5)) (intCond_unsigned c x y)
  · funext x y; rw [testBit_eq_beq]

end Sys2Proof.Machine
end

section
/-! The scalar words of class 4 and the words on mask triples (R14, R110 to R112). -/

namespace Sys2Proof.Machine

/-- A class 4 word whose result is given in another form issues as every class 4 word does. -/
theorem State.scal_issues_as {s : State} {i : Instr} {m : Bool} {d a : SReg} {b : SOp} {f : Word → Word → Word} {r : Word}
    (e : f (s.sa a) (s.sop b) = r) (h : s.ScalIssues i d a b) : s.scal i m d a b f = .next (s.wroteS i m d r) :=
  e ▸ State.scal_issues h

theorem bitField_value (x y : Word) :
    BitVec.ofNat 32 (x.toNat / 2 ^ (y.toNat % 32) % 2 ^ (y.toNat / 256 % 32)) =
      BitVec.ofNat 32 ((x.toNat >>> (y.toNat % 32)) % 2 ^ ((y.toNat >>> 8) % 32)) := by
  rw [Nat.shiftRight_eq_div_pow, Nat.shiftRight_eq_div_pow]

/-- Settles O10: each word issues as every class 4 word does; its operation is that of the words. -/
theorem scalarWords : Obligations.ScalarWords := by
  unfold Obligations.ScalarWords
  intro m d a b s
  exact ⟨fun h => (exec_sadd m d a b s).trans (State.scal_issues h),
    fun h => (exec_ssub m d a b s).trans (State.scal_issues h),
    fun h => (exec_smul m d a b s).trans (State.scal_issues h),
    fun h => (exec_smulhs m d a b s).trans (State.scal_issues_as (smulhs_value _ _) h),
    fun h => (exec_smulhn m d a b s).trans (State.scal_issues_as (smulhn_value _ _) h),
    fun h => (exec_sand m d a b s).trans (State.scal_issues h),
    fun h => (exec_sor m d a b s).trans (State.scal_issues h),
    fun h => (exec_sxor m d a b s).trans (State.scal_issues h),
    fun h => (exec_sandn m d a b s).trans (State.scal_issues h),
    fun h => (exec_sshl m d a b s).trans (State.scal_issues_as (shlBits_value _ _) h),
    fun h => (exec_sshr m d a b s).trans (State.scal_issues_as (shrBits_value _ _) h),
    fun h => (exec_ssra m d a b s).trans (State.scal_issues_as (sraBits_value _ _) h),
    fun h => (exec_smins m d a b s).trans (State.scal_issues h),
    fun h => (exec_sminn m d a b s).trans (State.scal_issues h),
    fun h => (exec_smaxs m d a b s).trans (State.scal_issues h),
    fun h => (exec_smaxn m d a b s).trans (State.scal_issues h),
    fun h => (exec_sslt m d a b s).trans (State.scal_issues_as (ofBit_slt _ _) h),
    fun h => (exec_ssltn m d a b s).trans (State.scal_issues_as (ofBit_ult _ _) h),
    fun h => (exec_sseq m d a b s).trans (State.scal_issues_as (ofBit_eq _ _) h),
    fun h => (exec_ssne m d a b s).trans (State.scal_issues_as (ofBit_ne _ _) h),
    fun h => (exec_ssle m d a b s).trans (State.scal_issues_as (ofBit_sle _ _) h),
    fun h => (exec_sslen m d a b s).trans (State.scal_issues_as (ofBit_ule _ _) h),
    fun h => (exec_sbfen m d a b s).trans (State.scal_issues_as (bitField_value _ _) h)⟩

/-- A word whose result is one scalar. -/
theorem State.run_word {s : State} {i : Instr} {m : Bool} {d : SReg} {static dynamic : List (Option Raise)} {reads : List Nat} {x : Word}
    (h : s.Issues i static reads dynamic) :
    s.run i m static reads dynamic (s.result i { strand := 0, sca := scalarOut d x.toNat }) = .next (s.wroteS i m d x) := by
  rw [State.run_result h, scalarOut_word]
  rfl

theorem State.scalUn_issues_as {s : State} {i : Instr} {m : Bool} {d a : SReg} {f : Word → Nat} {r : Word}
    (e : BitVec.ofNat 32 (f (s.sa a)) = r) (h : s.Issues i (s.sdest d.toNat 1) [a.toNat] []) :
    s.scalUn i m d a f = .next (s.wroteS i m d r) :=
  e ▸ State.scalUn_issues h

theorem State.scal64_issues_as {s : State} {i : Instr} {m : Bool} {d : SReg} {reads : List Nat} {x y : DWord} (e : x = y)
    (h : s.Issues i (s.sdest d.toNat 2) reads []) : s.scal64 i m d reads x = .next (s.wrotePair i m d y) :=
  e ▸ State.scal64_issues h

/-- SCMOV whose condition holds (R110). -/
theorem execScmov_taken {s : State} {m : Bool} {d a : SReg} {b : SOp} (ha : s.sa a ≠ 0)
    (h : s.Issues (.scmov m d a b) [] (a.toNat :: sopRegs b) (s.sdest d.toNat 1)) :
    execScmov m d a b s = .next (s.wroteS (.scmov m d a b) m d (s.sop b)) := by
  have ht : (s.cw.sreg s.cur.2.2 a.toNat != 0) = true := by simpa [State.sa] using ha
  simp only [execScmov, ht, if_true]
  exact State.run_word h

/-- SCMOV whose condition does not hold has no destination (R110). -/
theorem execScmov_not_taken {s : State} {m : Bool} {d a : SReg} {b : SOp} (ha : s.sa a = 0)
    (h : s.Issues (.scmov m d a b) [] (a.toNat :: sopRegs b) []) : execScmov m d a b s = .next (s.past m) := by
  have ht : (s.cw.sreg s.cur.2.2 a.toNat != 0) = false := by simpa [State.sa] using ha
  simp only [execScmov, ht]
  exact State.run_id h

/-- Settles O11: moves, counts and pairs. -/
theorem scalarMovesAndPairs : Obligations.ScalarMovesAndPairs := by
  unfold Obligations.ScalarMovesAndPairs
  refine ⟨fun m d a b s => ⟨State.run_word, execScmov_taken, execScmov_not_taken,
    fun h => (exec_spopc m d a s).trans (State.scalUn_issues_as (congrArg _ (popCount_value _)) h),
    fun h => (exec_sclz m d a s).trans (State.scalUn_issues_as (clz_value _) h)⟩, fun m d a b s => ?_⟩
  exact ⟨State.scal64_issues, State.scal64_issues, fun h => (exec_sshl64 m d a b s).trans (State.scal64_issues_as (shlBits_value _ _) h),
    fun h => (exec_sshr64 m d a b s).trans (State.scal64_issues_as (shrBits_value _ _) h), fun h => (exec_smulw m d a b s).trans (State.scal64_issues_as (smulw_value _ _) h)⟩

/-- The number of lanes of a mask (R112). -/
theorem lanesOf_length (x : Lanes) : (lanesOf x).length = (List.range 96).countP x.getLsbD := List.countP_eq_length_filter.symm

/-- A word on a mask whose result is one scalar (R112). -/
theorem State.run_count {s : State} {i : Instr} {m : Bool} {d : SReg} {static dynamic : List (Option Raise)} {reads : List Nat} {n : Nat}
    {x : Word} (e : BitVec.ofNat 32 n = x) (h : s.Issues i static reads dynamic) :
    s.run i m static reads dynamic (s.result i { strand := 0, sca := scalarOut d n }) = .next (s.wroteS i m d x) := by
  subst e
  exact State.run_result h

theorem State.kop_issues_as {s : State} {i : Instr} {m : Bool} {d : KReg} {reads : List Nat} {x y : Lanes} (e : x = y)
    (h : s.Issues i (s.kdest d.toNat) reads []) : s.kop i m d reads x = .next (s.wroteK i m d y) :=
  e ▸ State.kop_issues h

/-- Settles O12: the words on mask triples. -/
theorem maskWords : Obligations.MaskWords := by
  unfold Obligations.MaskWords
  intro m s
  exact ⟨fun d a b => ⟨State.kop_issues, State.kop_issues, State.kop_issues, State.kop_issues⟩,
    fun d => ⟨fun r => State.kop_issues, fun v => State.kop_issues⟩,
    fun d a b x hx => State.kop_issues_as (maskOf_range_value x _ _ hx),
    fun d a => State.run_count (congrArg _ (lanesOf_length _)),
    fun d a => State.run_count (lowest_lane_value _)⟩

end Sys2Proof.Machine
end

section
/-! The issue of a word that raises a cause of its own, or whose own condition holds as it issues (R17, R209, R299, R301). -/

namespace Sys2Proof.Machine

/-! ## The lowest of several lists of causes -/

theorem NoCause.filterMap {l : List (Option Raise)} (h : NoCause l) : l.filterMap id = [] := by
  rw [List.filterMap_eq_nil_iff]
  exact h

theorem NoCause.lowest_append {l : List (Option Raise)} (h : NoCause l) (k : List (Option Raise)) : lowest (l ++ k) = lowest k := by
  rw [lowest, List.filterMap_append, h.filterMap, List.nil_append, lowest]

theorem NoCause.lowest_append_right {l : List (Option Raise)} (h : NoCause l) (k : List (Option Raise)) : lowest (k ++ l) = lowest k := by
  rw [lowest, List.filterMap_append, h.filterMap, List.append_nil, lowest]

theorem lowest_singleton (r : Raise) : lowest [some r] = some r := rfl

theorem noCause_nil : NoCause [] := fun _ h => absurd h (by simp)

theorem NoCause.left {l k : List (Option Raise)} (h : NoCause (l ++ k)) : NoCause l := fun x hx => h x (List.mem_append_left _ hx)

/-! ## A word that raises a cause -/

section
variable {s : State} {i : Instr} {m : Bool} {static dynamic : List (Option Raise)} {reads : List Nat} {eff : State → State}
  {busy : Option Park} {r : Raise}

/-- A cause of the word itself that stands before the others, of which none is raised. -/
theorem State.run_raises_first (hp : NoCause (pfxFaults i s.cs.pfx)) (hs : NoCause static) :
    s.run i m (some r :: static) reads dynamic eff busy = .next ((s.raised i r).settle s.cur.1 s.cur.2.1) := by
  refine State.run_raises ?_
  rw [hp.lowest_append, ← List.singleton_append, hs.lowest_append_right, lowest_singleton]

/-- A cause that the operands raise, once none is raised before them. -/
theorem State.run_raises_dynamic {l : List (Option Raise)} (h : s.Issues i static reads l) (hd : lowest dynamic = some r) :
    s.run i m static reads dynamic eff busy = .next ((s.raised i r).settle s.cur.1 s.cur.2.1) := by
  have hs : lowest (pfxFaults i s.cs.pfx ++ static) = none := lowest_eq_none.2 (h.group.append h.static)
  have hr : reads.find? s.cw.isPending = none := by simpa using h.tokens
  simp only [State.run, hs, hr, hd]
  rfl

end

/-! ## The strand as it has come to its word's own condition -/

theorem State.advance_parkOn (s : State) (p : Park) (i : Instr) (arg : Word) :
    s.advance.parkOn p i arg = s.updCs fun st =>
      { st with
        pc := st.pc + 4, pfx := none, replay := none, issued := st.issued + 1, issuedAt := s.cycle s.cw.part
        state := .parked, park := p, parkI := some i, parkArg := arg } := by
  rw [State.parkOn, State.advance, State.updCs_updCs]

section
variable (s : State) (p : Park) (i : Instr) (arg : Word)

theorem State.advance_parkOn_cs : (s.advance.parkOn p i arg).cs =
    { s.cs with
      pc := s.cs.pc + 4, pfx := none, replay := none, issued := s.cs.issued + 1, issuedAt := s.cycle s.cw.part
      state := .parked, park := p, parkI := some i, parkArg := arg } := by
  rw [State.advance_parkOn, State.cs_updCs]

theorem State.advance_parkOn_cw : ∃ f, (s.advance.parkOn p i arg).cw = s.cw.updStrand s.cur.2.2 f := by
  rw [State.advance_parkOn]
  exact ⟨_, s.cw_updCw _⟩

/-- A strand that is not parked by an earlier marker can wake as soon as its word's condition is met (R209, R214). -/
theorem State.advance_parkOn_canWake (hawake : s.Awake) (hcalm : s.cw.latched = none)
    (hmet : (s.advance.parkOn p i arg).parkMet s.cur.1 s.cur.2.1 s.cur.2.2 = true) :
    (s.advance.parkOn p i arg).canWake s.cur.1 s.cur.2.1 s.cur.2.2 = true := by
  obtain ⟨f, hf⟩ := s.advance_parkOn_cw p i arg
  have hw : (s.advance.parkOn p i arg).wave s.cur.1 s.cur.2.1 = s.cw.updStrand s.cur.2.2 f := hf
  have hst : ((s.advance.parkOn p i arg).wave s.cur.1 s.cur.2.1).strand s.cur.2.2 = (s.advance.parkOn p i arg).cs := rfl
  have hhalt : (!s.cw.halted || decide (s.cur.2.2 = 8)) = true := by
    rcases hawake.halted with h | h <;> simp [h]
  have hstop : (s.block s.cw.blk).stopped = false := hawake.stopped
  have hdead : (s.block s.cw.blk).dead = false := hawake.dead
  have hblk (b : Nat) : (s.advance.parkOn p i arg).block b = s.block b := rfl
  rw [State.canWake, hmet, hst, State.advance_parkOn_cs, hw, hblk]
  simp only [Wave.updStrand, Wave.setStrand, hhalt, hstop, hdead, hcalm]
  rfl

end

/-- After a word without a marker of its own nor one of an earlier word, the strand is ready. -/
theorem State.afterWord_ready {s : State} {core slot n : Nat} (h : ((s.wave core slot).strand n).parkM = false) :
    s.afterWord core slot n [] false = s.updStrand core slot n fun st => st.wake (s.cycle (s.wave core slot).part) := by
  simp [State.afterWord, h]

/-- The word of a strand whose own condition is met as it issues, once what its wake does is known. -/
theorem State.did_parkUntil {s : State} {m : Bool} {p : Park} {i : Instr} {arg : Word} {eff : State → State} {v : State}
    (hwake : (s.advance.parkOn p i arg).wakeStrand s.cur.1 s.cur.2.1 s.cur.2.2 = v.afterWord s.cur.1 s.cur.2.1 s.cur.2.2 [] false)
    (hv : eff (s.advance.parkOn p i arg) = v) (hcur : v.cur = s.cur) (hparkM : v.cs.parkM = false)
    (hcycle : v.cycle v.cw.part = s.cycle s.cw.part) :
    s.did m (fun t => t.parkUntil p i arg) = s.wentOn m p i arg eff := by
  have hw : v.wave s.cur.1 s.cur.2.1 = v.cw := by rw [State.cw, hcur]
  have hn : (v.wave s.cur.1 s.cur.2.1).strand s.cur.2.2 = v.cs := by rw [hw, State.cs, hcur]
  have hready : v.afterWord s.cur.1 s.cur.2.1 s.cur.2.2 [] false = v.updCs fun st => st.wake (s.cycle s.cw.part) := by
    rw [State.afterWord_ready (by rw [hn]; exact hparkM), hw, hcycle, State.updCs, State.updCw, hcur]
    rfl
  rw [State.wentOn, State.did, State.did, hv, State.parkUntil]
  show (State.marker ((s.advance.parkOn p i arg).wakeStrand s.cur.1 s.cur.2.1 s.cur.2.2) m).settle _ _ = _
  rw [hwake, hready]

/-- A word with a condition of its own that has no other effect. -/
theorem State.did_parkUntil_id {s : State} {m : Bool} {p : Park} {i : Instr} {arg : Word} (hawake : s.Awake)
    (hwake : (s.advance.parkOn p i arg).wakeStrand s.cur.1 s.cur.2.1 s.cur.2.2 =
      (s.advance.parkOn p i arg).afterWord s.cur.1 s.cur.2.1 s.cur.2.2 [] false) :
    s.did m (fun t => t.parkUntil p i arg) = s.wentOn m p i arg id := by
  obtain ⟨f, hf⟩ := s.advance_parkOn_cw p i arg
  refine State.did_parkUntil hwake rfl rfl ?_ ?_
  · rw [State.advance_parkOn_cs]; exact hawake.marker
  · rw [hf]; rfl

end Sys2Proof.Machine
end

section
/-! The control, hint and system words (R17, R18 to R21, R59 to R62, R116, R117, R127 to R134, R206). -/

namespace Sys2Proof.Machine

/-! ## Branches (R117) -/

/-- The park marker leaves the PC alone, so that a jump may stand before or after it. -/
theorem State.marker_setPc_comm (s : State) (m : Bool) (pc : DWord) :
    (s.updCs fun st => { st with pc := pc }).marker m = (s.marker m).updCs fun st => { st with pc := pc } := by
  cases m with
  | false => rfl
  | true =>
    show ((s.updCs _).updCs _) = (s.updCs _).updCs _
    rw [State.updCs_updCs, State.updCs_updCs]
    refine State.updCs_congr ?_
    cases h : s.cs.state <;> simp [h]

/-- A change of the issuing strand's PC after the strand has gone on. -/
theorem State.marker_setPc {s : State} (m : Bool) (pc : DWord) (h : s.cs.state = .ready) :
    (s.advance.updCs fun st => { st with pc := pc }).marker m = s.jumped m pc := by
  rw [State.marker_setPc_comm, State.marker_advance m h]
  rfl

theorem State.jumped_latched (s : State) (m : Bool) (pc : DWord) : (s.jumped m pc).cw.latched = s.cw.latched := by
  rw [State.jumped, State.updCs_eq_updCw, State.cw_updCw]
  exact s.past_latched m

/-- A word whose effect is a jump. -/
theorem State.run_jump {s : State} {i : Instr} {m : Bool} {static dynamic : List (Option Raise)} {reads : List Nat} {pc : DWord}
    (h : s.Issues i static reads dynamic) :
    s.run i m static reads dynamic (fun t => t.updCs fun st => { st with pc := pc }) = .next (s.jumped m pc) := by
  rw [State.run_issues h, State.did, State.marker_setPc m pc h.ready]
  exact congrArg _ (State.settle_calm ((s.jumped_latched m pc).trans h.calm))

theorem State.past_eq_jumped {s : State} (m : Bool) : s.past m = s.jumped m (s.cs.pc + 4) := by
  rw [State.jumped, State.past, State.updCs_updCs]
  exact State.updCs_congr rfl

/-- A branch goes on at its target or at the next word. -/
theorem State.branch_issues {s : State} {i : Instr} {m : Bool} {reads : List Nat} {n : Nat} {field : BitVec n} {taken taken' : Bool}
    (e : taken = taken') (h : s.Issues i [] reads []) :
    s.branch i m reads field taken = .next (s.jumped m (if taken' then s.target field else s.cs.pc + 4)) := by
  subst e
  cases taken with
  | true => exact State.run_jump h
  | false =>
    rw [if_neg (by simp), ← State.past_eq_jumped]
    exact State.run_id h

/-- CALL (R117). -/
theorem execCall_issues {s : State} {m : Bool} {p : SReg} {off : BitVec 17} (h : s.Issues (.call m p off) (s.sdest p.toNat 2) [] []) :
    execCall m p off s = .next ((s.wrotePair (.call m p off) m p (s.cs.pc + 4)).updCs fun u => { u with pc := s.target off }) := by
  unfold execCall
  rw [State.run_issues h, State.did, State.marker_setPc_comm, State.wrotePair, ← pairOut_words]
  have hmark := State.marker_updCw m
    (fun w => { w with outs := w.outs ++ [s.filled (.call m p off) { strand := 0, sca := pairOut p (s.cs.pc + 4) }] }) h.ready
    (fun _ _ => rfl)
  refine congrArg _ ((congrArg (fun t => (State.updCs t fun u => { u with pc := s.target off }).settle s.cur.1 s.cur.2.1) hmark).trans ?_)
  refine State.settle_calm ?_
  show (((s.past m).updCw _).updCs _).cw.latched = none
  rw [State.updCs_eq_updCw, State.cw_updCw, State.cw_updCw]
  exact (s.past_latched m).trans h.calm

/-- The words of an offset that a LIMM extends (R61). -/
theorem shiftLeft_or_setWidth {n : Nat} (x : DWord) (y : BitVec n) :
    x <<< n ||| y.setWidth 64 = x * 2 ^ n + y.setWidth 64 := by
  have hpow : BitVec.twoPow 64 n = (2 : DWord) ^ n := by
    apply BitVec.eq_of_toNat_eq
    simp [BitVec.toNat_twoPow, BitVec.toNat_pow]
  have hdisjoint : x <<< n &&& y.setWidth 64 = 0#64 := by
    apply BitVec.eq_of_getLsbD_eq
    intro i hi
    by_cases h : i < n
    · simp [h]
    · simp [BitVec.getLsbD_of_ge y i (by omega)]
  rw [← BitVec.add_eq_or_of_and_eq_zero _ _ hdisjoint, BitVec.shiftLeft_eq_mul_twoPow, hpow]

theorem shiftLeft_two (x : DWord) : x <<< 2 = 4 * x := by
  rw [BitVec.shiftLeft_eq_mul_twoPow, BitVec.mul_comm]
  rfl

theorem State.target_plain {s : State} {n : Nat} (off : BitVec n) (h : s.cs.wideVal = none) :
    s.target off = s.cs.pc + 4 * off.signExtend 64 := by
  rw [State.target, State.offset, h, shiftLeft_two]

theorem State.target_limm {s : State} {n : Nat} (off : BitVec n) {p : BitVec 22} (h : s.cs.wideVal = some (.limm p)) :
    s.target off = s.cs.pc + 4 * (p.signExtend 64 * 2 ^ n + off.setWidth 64) := by
  rw [State.target, State.offset, h, shiftLeft_two]
  simp only [shiftLeft_or_setWidth]

/-- Settles O17: a taken branch jumps, another goes on; the offset is its field, extended by a LIMM. -/
theorem branches : Obligations.Branches := by
  unfold Obligations.Branches
  intro m s
  refine ⟨fun off h => (exec_br m off s).trans (State.branch_issues rfl h), fun k off => ⟨?_, ?_, ?_⟩, fun r off => ⟨?_, ?_⟩,
    fun p off h => (exec_call m p off s).trans (execCall_issues h), fun p hp h => ?_, fun p hp h => ?_, ?_⟩
  · intro h
    exact (exec_brany m k off s).trans (State.branch_issues (Bool.eq_iff_iff.2 (by simp [State.kval])) h)
  · intro h
    exact (exec_brall m k off s).trans (State.branch_issues (Bool.eq_iff_iff.2 (by simp [State.kval])) h)
  · intro h
    exact (exec_brnone m k off s).trans (State.branch_issues (Bool.eq_iff_iff.2 (by simp [State.kval])) h)
  · intro h
    exact (exec_brnz m r off s).trans (State.branch_issues (Bool.eq_iff_iff.2 (bne_iff_ne.trans decide_eq_true_iff.symm)) h)
  · intro h
    exact (exec_brz m r off s).trans (State.branch_issues (Bool.eq_iff_iff.2 (beq_iff_eq.trans decide_eq_true_iff.symm)) h)
  · have hz : (s.cw.spair s.cur.2.2 p.toNat).toNat % 4 = 0 := hp
    refine (exec_jmpr m p s).trans ?_
    simp only [execJmpr, hz, if_true]
    exact State.run_jump h
  · have hz : ¬ (s.cw.spair s.cur.2.2 p.toNat).toNat % 4 = 0 := hp
    refine (exec_jmpr m p s).trans ?_
    simp only [execJmpr, hz, if_false]
    exact State.run_raises_dynamic h rfl
  · exact ⟨fun off => ⟨State.target_plain off, fun p => State.target_limm off⟩,
      fun off => ⟨State.target_plain off, fun p => State.target_limm off⟩,
      fun off => ⟨State.target_plain off, fun p => State.target_limm off⟩⟩

end Sys2Proof.Machine
end

section
/-! The special registers (R18 to R21, R116). -/

namespace Sys2Proof.Machine

/-! ## Words of double words -/

theorem setWidth_eq_low (x : DWord) : (x.setWidth 32 : Word) = x.extractLsb' 0 32 := by ext i; simp

theorem ushiftRight_eq_high (x : DWord) : ((x >>> 32).setWidth 32 : Word) = x.extractLsb' 32 32 := by ext i; simp

/-- The high part of a vector before another low part. -/
theorem append_of_high {n k : Nat} (x : BitVec (n + k)) (v : BitVec k) :
    x &&& (BitVec.allOnes n ++ 0#k) ||| v.setWidth (n + k) = x.extractLsb' k n ++ v := by
  apply BitVec.eq_of_getLsbD_eq
  intro i hi
  simp only [BitVec.getLsbD_or, BitVec.getLsbD_and, BitVec.getLsbD_append, BitVec.getLsbD_setWidth, BitVec.getLsbD_extractLsb',
    BitVec.getLsbD_zero, BitVec.getLsbD_allOnes]
  by_cases h : i < k
  · simp [h, hi]
  · have h1 : i - k < n := by omega
    have h2 : k + (i - k) = i := by omega
    simp [h, h1, h2, BitVec.getLsbD_of_ge v i (by omega)]

/-- Another high part before the low part of a vector. -/
theorem append_of_low {n k : Nat} (x : BitVec (n + k)) (v : BitVec n) :
    x &&& (0#n ++ BitVec.allOnes k) ||| v.setWidth (n + k) <<< k = v ++ x.extractLsb' 0 k := by
  apply BitVec.eq_of_getLsbD_eq
  intro i hi
  simp only [BitVec.getLsbD_or, BitVec.getLsbD_and, BitVec.getLsbD_append, BitVec.getLsbD_setWidth, BitVec.getLsbD_extractLsb',
    BitVec.getLsbD_zero, BitVec.getLsbD_allOnes, BitVec.getLsbD_shiftLeft]
  by_cases h : i < k
  · simp [h]
  · simp [h, hi, show i - k < n + k by omega]

/-- FMODE as an SSET stores it: an RM of 5, 6 or 7 becomes 0 (R19). -/
theorem fmodeOf_eq (v : Word) : fmodeOf v = if v.extractLsb' 0 3 < 5#3 then v.extractLsb' 0 9 else v.extractLsb' 3 6 ++ 0#3 := by
  have h9 : (v.setWidth 9 : BitVec 9) = v.extractLsb' 0 9 := by ext i; simp
  have h3 : (v.extractLsb' 0 9).extractLsb' 0 3 = v.extractLsb' 0 3 := by ext i hi; simp
  have h6 : (v.extractLsb' 0 9).extractLsb' 3 6 = v.extractLsb' 3 6 := by ext i hi; simp
  have hclear := append_of_high (n := 6) (k := 3) (v.extractLsb' 0 9) 0#3
  rw [h6] at hclear
  simp only [fmodeOf, h9, h3, BitVec.lt_def]
  by_cases h : (v.extractLsb' 0 3).toNat < 5
  · rw [if_neg (by omega)]
    exact (if_pos h).symm
  · rw [if_pos (by omega)]
    refine Eq.trans ?_ (if_neg h).symm
    rw [← hclear]
    simp
theorem clearSticky_eq (old : BitVec 5) (v : Word) : clearSticky old v = old &&& ~~~(v.extractLsb' 0 5) := by
  rw [clearSticky, show (v.setWidth 5 : BitVec 5) = v.extractLsb' 0 5 by ext i; simp]

/-! ## SGET -/

theorem State.special_trap (s : State) : s.special 17 = s.cw.tval.extractLsb' 0 32 ∧ s.special 18 = s.cw.tval.extractLsb' 32 32 ∧
    s.special 19 = s.cw.tpc.extractLsb' 0 32 ∧ s.special 20 = s.cw.tpc.extractLsb' 32 32 :=
  ⟨setWidth_eq_low _, ushiftRight_eq_high _, setWidth_eq_low _, ushiftRight_eq_high _⟩

/-- The issue of a word whose effect on the strand that has gone on is a change of its wave alone. -/
theorem State.run_updCw_as {s : State} {i : Instr} {m : Bool} {static dynamic : List (Option Raise)} {reads : List Nat}
    {eff : State → State} {f g : Wave → Wave} (h : s.Issues i static reads dynamic) (heff : eff s.advance = s.advance.updCw f)
    (hf : ∀ w k, f (w.updStrand s.cur.2.2 k) = (f w).updStrand s.cur.2.2 k) (hl : ∀ w, (f w).latched = w.latched)
    (hg : f (s.past m).cw = g (s.past m).cw) :
    s.run i m static reads dynamic eff = .next ((s.past m).updCw g) := by
  rw [State.run_issues h, ← State.updCw_congr hg]
  have hrun := State.run_updCw (m := m) h hf hl
  rw [State.run_issues h] at hrun
  rw [← hrun, State.did, State.did, heff]

theorem State.special_strand (s : State) :
    s.special 6 = BitVec.ofNat 32 (if s.cur.2.2 = 8 then s.cw.tstrand else s.cur.2.2) := by
  show BitVec.ofNat 32 (s.cw.shownSlot s.cur.2.2) = _
  simp [Wave.shownSlot]

/-- What an SGET of CYCLE does to its wave: its result is outstanding, and CYCLEHI has the high word (R21). -/
def State.latchesCycle (s : State) (i : Instr) (sca : List (Nat × Word)) (w : Wave) : Wave :=
  { w with outs := w.outs ++ [s.filled i { strand := 0, sca := sca }], cycHi := BitVec.ofNat 32 (s.cycle w.part / 2 ^ 32) }

/-- SGET (R116): index 26 also latches the high word of CYCLE. -/
theorem execSget_issues {s : State} {m : Bool} {d : SReg} {x : BitVec 9}
    (h : s.Issues (.sget m d x) (s.trapOnly (.sget m d x) x.toNat ++ s.sdest d.toNat 1) [] []) :
    execSget m d x s = .next (if x = 26 then
        (s.wroteS (.sget m d x) m d (BitVec.ofNat 32 (s.cycle s.cw.part))).updCw fun w =>
          { w with cycHi := BitVec.ofNat 32 (s.cycle s.cw.part / 2 ^ 32) }
      else s.wroteS (.sget m d x) m d (s.special x.toNat)) := by
  unfold execSget
  by_cases hx : x = 26
  · subst hx
    rw [if_pos rfl, State.wroteS, ← scalarOut_word, State.wrote, State.updCw_updCw]
    exact State.run_updCw_as h (f := s.latchesCycle (.sget m d 26) (scalarOut d (s.special 26).toNat)) (State.updCw_updCw ..)
      (fun _ _ => rfl) (fun _ => rfl) (by rw [State.past, State.updCs_eq_updCw, State.cw_updCw]; rfl)
  · simp only [hx, if_false]
    exact State.run_word h

/-! ## SSET -/

/-- The special register that a value is written to keeps what every other one holds (R19, R20, R116). -/
theorem Wave.special_updStrand (w : Wave) (n : Nat) (g : Strand → Strand) (cycle x : Nat) (v : Word) :
    (w.updStrand n g).special cycle x v = (w.special cycle x v).updStrand n g := by
  unfold Wave.special
  split <;> rfl

theorem Wave.special_latched (w : Wave) (cycle x : Nat) (v : Word) : (w.special cycle x v).latched = w.latched := by
  unfold Wave.special
  split <;> rfl

/-- SSET (R116). -/
theorem execSset_issues {s : State} {m : Bool} {a : SReg} {x : BitVec 9}
    (h : s.Issues (.sset m a x) (s.trapOnly (.sset m a x) x.toNat) [a.toNat] []) :
    execSset m a x s = .next ((s.past m).updCw fun w => w.special (s.cycle s.cw.part) x.toNat (s.sa a)) := by
  unfold execSset
  refine State.run_updCw_as (f := fun w => w.special (s.cycle w.part) x.toNat (s.sa a)) h rfl ?_ ?_ ?_
  · exact fun w g => w.special_updStrand ..
  · exact fun w => w.special_latched ..
  · rw [State.past, State.updCs_eq_updCw, State.cw_updCw]
    rfl

/-- What an SSET leaves in its wave. -/
theorem Wave.special_fields (w : Wave) (cycle n : Nat) (v : Word) :
    let u := w.special cycle n v
    u.fmode = (if n = 8 then fmodeOf v else w.fmode) ∧
    u.fstat = (if n = 9 then clearSticky w.fstat v ||| (if w.setAt = cycle then w.setF else 0) else w.fstat) ∧
    u.mstat = (if n = 10 then clearSticky w.mstat v ||| (if w.setAt = cycle then w.setM else 0) else w.mstat) ∧
    u.tpc = (if n = 19 then w.tpc &&& 0xFFFFFFFF00000000 ||| v.setWidth 64
      else if n = 20 then w.tpc &&& 0xFFFFFFFF ||| v.setWidth 64 <<< 32 else w.tpc) ∧
    u.tpcWritten = (w.tpcWritten || n = 19 || n = 20) ∧
    u.v = w.v ∧ u.s = w.s ∧ u.tokens = w.tokens ∧ u.tcause = w.tcause ∧ u.tval = w.tval ∧ u.tskid = w.tskid ∧ u.tlane = w.tlane ∧
    u.tstrand = w.tstrand ∧ u.cycHi = w.cycHi ∧ u.barphase = w.barphase ∧ u.role = w.role ∧ u.vbudget = w.vbudget ∧ u.outs = w.outs := by
  unfold Wave.special
  split <;> simp_all

theorem sregIndex_eq_iff (x : BitVec 9) {n : Nat} (hn : n < 512) : x = BitVec.ofNat 9 n ↔ x.toNat = n := by
  rw [← BitVec.toNat_inj, BitVec.toNat_ofNat, Nat.mod_eq_of_lt hn]

/-- The wave of a strand that has gone on is its wave, with the strand further. -/
theorem State.past_cw (s : State) (m : Bool) : (s.past m).cw = s.cw.updStrand s.cur.2.2 fun st => st.past m (s.cycle s.cw.part) := by
  rw [State.past, State.updCs_eq_updCw, State.cw_updCw]

/-- Settles O16: what each special register shows, what SSET leaves in each, and PRIV outside the trap strand. -/
theorem specialRegisters : Obligations.SpecialRegisters := by
  unfold Obligations.SpecialRegisters
  refine ⟨fun m d x s => ?_, fun m a x s => ?_, fun m d x s hlo hhi htrap => ?_⟩
  · obtain ⟨h17, h18, h19, h20⟩ := s.special_trap
    exact fun h => ⟨(exec_sget m d x s).trans (execSget_issues h), rfl, rfl, rfl, rfl, rfl, rfl, s.special_strand, rfl, rfl, rfl, rfl, rfl, rfl,
      rfl, rfl, rfl, rfl, h17, h18, h19, h20, rfl, rfl, rfl, rfl, rfl, rfl, rfl, rfl⟩
  · intro i v now t h
    have ht : t.cw = (s.past m).cw.special now x.toNat v := State.cw_updCw ..
    obtain ⟨hfmode, hfstat, hmstat, htpc, hwritten, hrest⟩ := (s.past m).cw.special_fields now x.toNat v
    rw [fmodeOf_eq] at hfmode
    rw [clearSticky_eq] at hfstat hmstat
    have hlow := append_of_high (n := 32) (k := 32) (s.past m).cw.tpc v
    have hhigh := append_of_low (n := 32) (k := 32) (s.past m).cw.tpc v
    refine ⟨(exec_sset m a x s).trans (execSset_issues h), ?_⟩
    rw [ht]
    have h8 : x = 8 ↔ x.toNat = 8 := sregIndex_eq_iff x (by decide)
    have h9 : x = 9 ↔ x.toNat = 9 := sregIndex_eq_iff x (by decide)
    have h10 : x = 10 ↔ x.toNat = 10 := sregIndex_eq_iff x (by decide)
    have h19 : x = 19 ↔ x.toNat = 19 := sregIndex_eq_iff x (by decide)
    have h20 : x = 20 ↔ x.toNat = 20 := sregIndex_eq_iff x (by decide)
    simp only [h8, h9, h10, h19, h20]
    rw [State.past_cw] at hfmode hfstat hmstat htpc hwritten hrest hlow hhigh ⊢
    obtain ⟨hv, hs, htok, htc, htv, hsk, htl, hts, hcy, hbp, hro, hvb, ho⟩ := hrest
    refine ⟨hfmode, hfstat, hmstat, htpc.trans ?_, hwritten, hv, hs, htok, htc, htv, hsk, htl, hts, hcy, hbp, hro, hvb, ho,
      ⟨rfl, rfl, rfl, rfl, rfl, rfl, rfl, rfl, rfl, rfl, rfl, rfl, rfl, rfl, rfl, rfl, rfl⟩⟩
    exact congrArg₂ (fun p q => if x.toNat = 19 then p else if x.toNat = 20 then q else s.cw.tpc) hlow hhigh
  · have hpriv (i : Instr) : s.trapOnly i x.toNat = [some ⟨.priv, (encode i).setWidth 64⟩] := by
      simp [State.trapOnly, hlo, hhi, htrap]
    refine ⟨fun h => (exec_sget m d x s).trans ?_, fun _ h => (exec_sset m d x s).trans ?_⟩
    · unfold execSget
      simp only [hpriv]
      exact State.run_raises_first h.group h.static
    · unfold execSset
      simp only [hpriv]
      exact State.run_raises_first h.group noCause_nil

end Sys2Proof.Machine
end

section
/-! The fences, waits, traps and hints, and the system words (R16, R59, R127 to R134, R206, R209, R299). -/

namespace Sys2Proof.Machine

/-! ## What an effect sees -/

/-- Only what an effect does to the strand that has gone on counts. -/
theorem State.did_congr {s : State} {m : Bool} {f g : State → State} (h : f s.advance = g s.advance) : s.did m f = s.did m g := by
  rw [State.did, State.did, h]

theorem State.advance_cs (s : State) : s.advance.cs =
    { s.cs with pc := s.cs.pc + 4, pfx := none, replay := none, issued := s.cs.issued + 1, issuedAt := s.cycle s.cw.part } :=
  s.cs_updCs _

/-- A change of the issuing wave that finds it as it leaves it. -/
theorem State.updCw_fixed {s t : State} {f F : Wave → Wave} (ht : t = s.updCw f) (hF : F t.cw = t.cw) : t.updCw F = t := by
  subst ht
  rw [State.cw_updCw] at hF
  rw [State.updCw_updCw]
  exact State.updCw_congr hF

theorem Wave.updStrand_fixed {w u : Wave} {n : Nat} {f F : Strand → Strand} (hu : u = w.updStrand n f) (h : F (u.strand n) = u.strand n) :
    u.updStrand n F = u := by
  subst hu
  rw [Wave.strand_updStrand_self] at h
  rw [Wave.updStrand_updStrand]
  exact Wave.updStrand_congr h

/-! ## The wake of a word as it issues (R209) -/

section
variable {s : State} {p : Park} {i : Instr} {arg : Word}

theorem State.advance_parkOn_strand (s : State) (p : Park) (i : Instr) (arg : Word) :
    ((s.advance.parkOn p i arg).wave s.cur.1 s.cur.2.1).strand s.cur.2.2 =
      { s.cs with
        pc := s.cs.pc + 4, pfx := none, replay := none, issued := s.cs.issued + 1, issuedAt := s.cycle s.cw.part
        state := .parked, park := p, parkI := some i, parkArg := arg } := s.advance_parkOn_cs p i arg

theorem State.advance_parkOn_pending (s : State) (p : Park) (i : Instr) (arg : Word) (r : Nat) :
    ((s.advance.parkOn p i arg).wave s.cur.1 s.cur.2.1).isPending r = s.cw.isPending r := by
  obtain ⟨f, hf⟩ := s.advance_parkOn_cw p i arg
  exact (congrArg (fun w => Wave.isPending w r) hf).trans rfl

end

/-! ## Fences and waits (R127 to R129) -/

theorem execTwait_parks {s : State} {m : Bool} {r : SReg} (h : s.Issues (.twait m r) [] [] []) :
    execTwait m r s = .next (s.did m fun t => t.parkUntil .token (.twait m r)) := by
  unfold execTwait
  rw [State.run_issues h]

theorem execTwait_goes {s : State} {m : Bool} {r : SReg} (hawake : s.Awake) (hr : s.cw.isPending r.toNat = false)
    (h : s.Issues (.twait m r) [] [] []) : execTwait m r s = .next (s.wentOn m .token (.twait m r) 0 id) := by
  have hmet : (s.advance.parkOn .token (.twait m r) 0).parkMet s.cur.1 s.cur.2.1 s.cur.2.2 = true := by
    simp only [State.parkMet, State.advance_parkOn_strand, State.advance_parkOn_pending, hr]
    rfl
  have hcan := State.advance_parkOn_canWake s .token (.twait m r) 0 hawake h.calm hmet
  unfold execTwait
  rw [State.run_issues h, State.did_parkUntil_id hawake]
  simp only [State.wakeStrand, hcan, State.advance_parkOn_strand]
  rfl

/-- The batch that an MWAIT waits for, as it parks. -/
theorem execMwait_parks {s : State} {m : Bool} {r : SReg} (h : s.Issues (.mwait m r) [] [r.toNat] []) :
    execMwait m r s = .next (s.did m fun t => t.parkUntil .batch (.mwait m r) ((s.block s.cw.blk).waitFor (s.sa r))) := by
  unfold execMwait
  rw [State.run_issues h]
  rfl

/-- An MWAIT that covers no noted error takes none. -/
theorem Wave.filter_matNotes {w : Wave} {x : Word} (h : w.coveredNotes x = []) :
    (w.matNotes.filter fun p => 0 < (p.1 - x).toInt) = w.matNotes := by
  rw [Wave.coveredNotes, List.map_eq_nil_iff, List.filter_eq_nil_iff] at h
  rw [List.filter_eq_self]
  intro p hp
  simpa using h p hp

theorem execMwait_goes {s : State} {m : Bool} {r : SReg} {x : Word} (hx : (s.block s.cw.blk).waitFor (s.sa r) = x) (hawake : s.Awake)
    (hdone : 0 ≤ ((s.block s.cw.blk).batchDone - x).toInt) (hnotes : s.cw.coveredNotes x = [])
    (h : s.Issues (.mwait m r) [] [r.toNat] []) : execMwait m r s = .next (s.wentOn m .batch (.mwait m r) x id) := by
  let t := s.advance.parkOn .batch (.mwait m r) x
  have hst : (t.wave s.cur.1 s.cur.2.1).strand s.cur.2.2 = _ := State.advance_parkOn_strand s .batch (.mwait m r) x
  obtain ⟨f, hf⟩ := s.advance_parkOn_cw .batch (.mwait m r) x
  have hwave : t.wave s.cur.1 s.cur.2.1 = s.cw.updStrand s.cur.2.2 f := hf
  have hcov : (t.wave s.cur.1 s.cur.2.1).coveredNotes x = [] := by rw [hwave]; exact hnotes
  have hmet : t.parkMet s.cur.1 s.cur.2.1 s.cur.2.2 = true := by
    simp only [State.parkMet, hst]
    rw [hwave]
    exact decide_eq_true hdone
  have hcan : t.canWake s.cur.1 s.cur.2.1 s.cur.2.2 = true :=
    State.advance_parkOn_canWake s .batch (.mwait m r) x hawake h.calm hmet
  have hword : t.completeWord s.cur.1 s.cur.2.1 s.cur.2.2 (.mwait m r) = t := by
    have hmat : ((t.wave s.cur.1 s.cur.2.1).matNotes.filter fun p => 0 < (p.1 - x).toInt) = (t.wave s.cur.1 s.cur.2.1).matNotes :=
      Wave.filter_matNotes hcov
    have hnoted : (t.wave s.cur.1 s.cur.2.1).updStrand s.cur.2.2
        (fun st => { st with noted := st.noted ++ (t.wave s.cur.1 s.cur.2.1).coveredNotes st.parkArg }) = t.wave s.cur.1 s.cur.2.1 := by
      refine Wave.updStrand_fixed hwave ?_
      simp only [hst, hcov, List.append_nil]
    refine State.updCw_fixed (State.advance_parkOn s .batch (.mwait m r) x) ?_
    have harg : ((t.wave s.cur.1 s.cur.2.1).strand s.cur.2.2).parkArg = x := by rw [hst]
    show ({ Wave.updStrand (t.wave s.cur.1 s.cur.2.1) s.cur.2.2
        (fun st => { st with noted := st.noted ++ (t.wave s.cur.1 s.cur.2.1).coveredNotes st.parkArg }) with
      matNotes := _ } : Wave) = t.wave s.cur.1 s.cur.2.1
    rw [hnoted, harg]
    exact congrArg (fun l => ({ t.wave s.cur.1 s.cur.2.1 with matNotes := l } : Wave)) hmat
  rw [execMwait_parks h, hx, State.did_parkUntil_id hawake]
  show t.wakeStrand s.cur.1 s.cur.2.1 s.cur.2.2 = t.afterWord s.cur.1 s.cur.2.1 s.cur.2.2 [] false
  simp only [State.wakeStrand, hcan, hst, hcov, hword]
  rfl

/-- Settles O21: each enters the queue or parks on its condition, and goes on at once where the condition holds. -/
theorem fencesAndWaits : Obligations.FencesAndWaits := by
  unfold Obligations.FencesAndWaits
  intro m s
  exact ⟨fun scope h => (exec_fence m scope s).trans (State.runQ_queues h),
    fun mask h => (exec_qfence m mask s).trans (State.runQ_queues h),
    fun r h => (exec_twait m r s).trans (execTwait_parks h), fun r h => (exec_mwait m r s).trans (execMwait_parks h),
    fun hawake => ⟨fun r hr h => (exec_twait m r s).trans (execTwait_goes hawake hr h),
      fun r hdone hnotes h => (exec_mwait m r s).trans (execMwait_goes rfl hawake hdone hnotes h)⟩⟩

end Sys2Proof.Machine
end

section
/-! The traps, the hints and the system words (R16, R59, R134, R206, R209, R299, R343). -/

namespace Sys2Proof.Machine

/-! ## TRAP, BRKPT, NOP and TRET (R134) -/

theorem State.did_raiseAfter {s : State} {m : Bool} {i : Instr} {r : Raise} :
    s.did m (s.raiseAfter i r) = s.did m fun t => t.latch s.cur.1 s.cur.2.1
      ⟨r.cause, r.val, s.cur.2.2, s.cs.pc + 4, s.cs.am, encode i, s.cs.issued + 1, false⟩ := by
  refine State.did_congr ?_
  rw [State.raiseAfter, State.advance_cs]

theorem execTrap_issues {s : State} {m : Bool} {code : BitVec 8} (h : s.Issues (.trap m code) [] [] []) :
    execTrap m code s = .next (s.did m fun t => t.latch s.cur.1 s.cur.2.1
      ⟨.usertrap, code.setWidth 64, s.cur.2.2, s.cs.pc + 4, s.cs.am, encode (.trap m code), s.cs.issued + 1, false⟩) := by
  unfold execTrap
  rw [State.run_issues h, State.did_raiseAfter]

theorem execBrkpt_issues {s : State} {m : Bool} (h : s.Issues (.brkpt m) [] [] []) :
    execBrkpt m s = .next (s.did m fun t => t.latch s.cur.1 s.cur.2.1
      ⟨.break_, 0, s.cur.2.2, s.cs.pc + 4, s.cs.am, encode (.brkpt m), s.cs.issued + 1, false⟩) := by
  unfold execBrkpt
  rw [State.run_issues h, State.did_raiseAfter]

theorem execNop_issues {s : State} {m : Bool} (h : s.Issues (.nop m) [] [] []) : execNop m s = .next (s.past m) := by
  unfold execNop
  exact State.run_id h

theorem execTret_issues {s : State} {m : Bool} (h : s.Issues (.tret m) [] [] []) :
    execTret m s = .next (if s.cs.trap then s.did m fun t => t.returnTrap s.cur.1 s.cur.2.1 (encode (.tret m))
      else (s.raised (.tret m) ⟨.priv, (encode (.tret m)).setWidth 64⟩).settle s.cur.1 s.cur.2.1) := by
  unfold execTret
  cases ht : s.cs.trap with
  | true => exact State.run_issues h
  | false => exact State.run_raises_first h.group noCause_nil

/-- Settles O23: TRAP and BRKPT latch their cause after the word, NOP goes on, TRET needs the trap strand. -/
theorem trapWords : Obligations.TrapWords := by
  unfold Obligations.TrapWords
  refine ⟨fun m s => ⟨fun code h => (exec_trap m code s).trans (execTrap_issues h), fun h => (exec_brkpt m s).trans (execBrkpt_issues h),
    fun h => (exec_nop m s).trans (execNop_issues h)⟩, by decide, by decide, fun m s h => (exec_tret m s).trans (execTret_issues h)⟩

/-! ## Hints (R59) -/

/-- A wave with one ready strand, whose last word issued in cycle 5. -/
def hintState : State := { State.reset with waves := [(0, { strands := [(0, { state := .ready, issuedAt := 5 })] })] }

/-- Refutes O26: a hint also notes the cycle of its issue in its strand, which the statement leaves as it was; here it changes from 5 to 0. -/
theorem not_hints : ¬ Obligations.Hints := by
  unfold Obligations.Hints
  intro ⟨h, _⟩
  obtain ⟨_, hlimm, _⟩ := h hintState
  have hexec := hlimm 0 (by decide)
  have hgoes : exec (.limm 0) hintState = .next (hintState.hint { hintState.cs.pfxNow with wide := some (.limm 0, encode (.limm 0)) }) := rfl
  have hstate := Host.Outcome.next.inj (hgoes.symm.trans hexec)
  have hissued := congrArg (fun s : State => s.cs.issuedAt) hstate
  rw [State.hint, State.cs_updCs, State.cs_updCs] at hissued
  exact absurd hissued (by decide)

/-! ## SCHED, TRACE and CNTRD (R206, R343) -/

/-- A ready strand of a VI whose meter 0 stands at 5, of which 3 have come late from another wave. -/
def lateMeterState : State :=
  { State.reset with
    waves := [(0, { strands := [(0, { state := .ready })] })]
    vis := [(0, { meters := [(0, 5)], late := [(16, 3)] })] }

theorem lateMeterState_issues : lateMeterState.Issues (.cntrd false 0 0) (lateMeterState.sdest 0 2) [] [] where
  ready := by decide
  calm := by decide
  group := by unfold NoCause; decide
  static := by unfold NoCause; decide
  tokens := by decide
  dynamic := noCause_nil

/-- Refutes O27: CNTRD reads the meter without what other waves have added of late; here 2, and not 5. -/
theorem not_openSystemWords : ¬ Obligations.OpenSystemWords := by
  unfold Obligations.OpenSystemWords
  intro h
  obtain ⟨_, _, hcntrd⟩ := h false lateMeterState
  have hexec := hcntrd 0 0 lateMeterState_issues
  have hreads : exec (.cntrd false 0 0) lateMeterState =
      .next (lateMeterState.wrote (.cntrd false 0 0) false { strand := 0, sca := pairOut 0 2 }) :=
    State.run_result lateMeterState_issues
  rw [hreads] at hexec
  have houts := congrArg (fun s : State => s.cw.outs.map (·.sca)) (Host.Outcome.next.inj hexec)
  simp only [State.wrotePair, State.wrote, State.cw_updCw] at houts
  exact absurd houts (by decide)

end Sys2Proof.Machine
end

section
/-! The words of firmware waves, and roles and budgets (R16, R29, R130 to R132, R206, R209). -/

namespace Sys2Proof.Machine

/-! ## A register that becomes a token (R16, R29) -/

/-- Those of some scalar registers that an earlier word of the issuing strand has yet to write. -/
def State.lateOf (s0 s : State) (rs : List Nat) : List Nat :=
  rs.filter fun r => (s.cw.outs.any fun o => o.strand = s0.cur.2.2 && o.keys.contains (20000 + r)) ||
    (s.pendingDests s0.cur.1 s0.cur.2.1 s0.cur.2.2 (s0.cs.issued + 1)).contains (200 + r)

theorem State.overtake_eq (s0 s : State) (rs : List Nat) :
    s0.overtake rs s = s.updCw fun w =>
      { w with shadow := w.shadow ++ (s0.lateOf s rs).map fun r => (s0.cur.2.2, s0.cs.issued + 1, 20000 + r) } := rfl

/-- What a strand has yet to write is seen in the results and the queue of its wave. -/
theorem State.lateOf_congr {s0 s t : State} (rs : List Nat) (hcur : s.cur = s0.cur) (hcur' : t.cur = s0.cur)
    (houts : t.cw.outs = s.cw.outs) (hqueue : t.cw.queue = s.cw.queue)
    (hpart : t.cw.part = s.cw.part) (hblk : t.cw.blk = s.cw.blk) (hparts : t.parts = s.parts) (hblocks : t.blocks = s.blocks) :
    s0.lateOf t rs = s0.lateOf s rs := by
  have hs : s.wave s0.cur.1 s0.cur.2.1 = s.cw := by rw [State.cw, hcur]
  have ht : t.wave s0.cur.1 s0.cur.2.1 = t.cw := by rw [State.cw, hcur']
  have hp (p : Nat) : t.part p = s.part p := by rw [State.part, State.part, hparts]
  have hb (b : Nat) : t.block b = s.block b := by rw [State.block, State.block, hblocks]
  simp only [State.lateOf, State.pendingDests, hs, ht, houts, hqueue, hpart, hblk, hp, hb]

/-- A register that becomes a token, as a change of the wave that leaves strands and causes alone. -/
def Wave.becomesToken (r : Nat) (late : List (Nat × Nat × Nat)) (w : Wave) : Wave :=
  { w.addToken r with shadow := w.shadow ++ late }

theorem State.token_eq {s t : State} (r : Nat) (hcur : t.cur = s.cur) (houts : t.cw.outs = s.cw.outs)
    (hqueue : t.cw.queue = s.cw.queue) (hpart : t.cw.part = s.cw.part) (hblk : t.cw.blk = s.cw.blk) (hparts : t.parts = s.parts)
    (hblocks : t.blocks = s.blocks) :
    s.token r t = t.updCw (Wave.becomesToken r ((s.lateOf s [r]).map fun r => (s.cur.2.2, s.cs.issued + 1, 20000 + r))) := by
  have hcw : (t.updCw fun w => w.addToken r).cw = t.cw.addToken r := State.cw_updCw ..
  have hlate : s.lateOf (t.updCw fun w => w.addToken r) [r] = s.lateOf s [r] :=
    State.lateOf_congr [r] rfl hcur (by rw [hcw]; exact houts) (by rw [hcw]; exact hqueue) (by rw [hcw]; exact hpart)
      (by rw [hcw]; exact hblk) hparts hblocks
  rw [State.token, State.overtake_eq, hlate, State.updCw_updCw]
  rfl

theorem State.token_updCs {s : State} (r : Nat) (f : Strand → Strand) :
    s.token r (s.updCs f) =
      (s.updCs f).updCw (Wave.becomesToken r ((s.lateOf s [r]).map fun r => (s.cur.2.2, s.cs.issued + 1, 20000 + r))) := by
  have hcw : (s.updCs f).cw = s.cw.updStrand s.cur.2.2 f := s.cw_updCw _
  exact State.token_eq r rfl (by rw [hcw]; rfl) (by rw [hcw]; rfl) (by rw [hcw]; rfl) (by rw [hcw]; rfl) rfl rfl

/-- A word that makes a register a token and changes its wave, and neither its strand nor what is latched. -/
theorem State.run_token_updCw {s : State} {i : Instr} {m : Bool} {static dynamic : List (Option Raise)} {reads : List Nat} {r : Nat}
    {f : Wave → Wave} (h : s.Issues i static reads dynamic) (hf : ∀ w g, f (w.updStrand s.cur.2.2 g) = (f w).updStrand s.cur.2.2 g)
    (hl : ∀ w, (f w).latched = w.latched) :
    s.run i m static reads dynamic (fun t => (s.token r t).updCw f) = .next ((s.token r (s.past m)).updCw f) := by
  let g := Wave.becomesToken r ((s.lateOf s [r]).map fun r => (s.cur.2.2, s.cs.issued + 1, 20000 + r))
  have hadvance : (s.token r s.advance).updCw f = s.advance.updCw fun w => f (g w) := by
    rw [State.advance, State.token_updCs, State.updCw_updCw]
  have hpast : (s.token r (s.past m)).updCw f = (s.past m).updCw fun w => f (g w) := by
    rw [State.past, State.token_updCs, State.updCw_updCw]
  rw [State.run_issues h, State.did_congr (g := fun t => t.updCw fun w => f (g w)) hadvance, ← State.run_issues h, hpast]
  exact State.run_updCw h (fun w k => hf (g w) k) (fun w => hl (g w))

/-! ## A cause that comes first (R301) -/

/-- A cause that stands first among causes of no lower code is the one raised. -/
theorem lowest_cons_least {r : Raise} {l : List (Option Raise)} (h : ∀ x, some x ∈ l → r.cause.code ≤ x.cause.code) :
    lowest (some r :: l) = some r := by
  rw [lowest, List.filterMap_cons_some (f := id) (a := some r) rfl, minBy]
  split
  next => rfl
  next x hx =>
    have hmem := minBy_mem hx
    rw [List.mem_filterMap] at hmem
    obtain ⟨y, hy, hyx⟩ := hmem
    exact if_pos (h x (hyx ▸ hy))

/-- The causes of a scalar destination are TOKENWRITE and PUBWRITE. -/
theorem State.sdest_causes {s : State} {r n : Nat} {x : Raise} (h : some x ∈ s.sdest r n) :
    x.cause = .tokenwrite ∨ x.cause = .pubwrite := by
  unfold State.sdest at h
  split at h
  · cases h
  · rcases List.mem_append.1 h with h | h <;> obtain ⟨j, _, hj⟩ := List.mem_map.1 h <;> split at hj <;> cases hj
    · exact .inl rfl
    · exact .inr rfl

/-- Outside firmware waves a firmware word raises PRIV before any other cause of its own (R206, R301). -/
theorem State.run_firmwareOnly {s : State} {i : Instr} {m : Bool} {static dynamic : List (Option Raise)} {reads : List Nat}
    {eff : State → State} {busy : Option Park} (hfw : s.cw.firmware = false) (hgroup : NoCause (pfxFaults i s.cs.pfx))
    (hstatic : ∀ x, some x ∈ static → Cause.priv.code ≤ x.cause.code) :
    s.run i m (s.firmwareOnly i ++ static) reads dynamic eff busy =
      .next ((s.raised i ⟨.priv, (encode i).setWidth 64⟩).settle s.cur.1 s.cur.2.1) := by
  refine State.run_raises ?_
  rw [hgroup.lowest_append, State.firmwareOnly, hfw]
  exact lowest_cons_least hstatic

theorem State.run_firmwareOnly' {s : State} {i : Instr} {m : Bool} {dynamic : List (Option Raise)} {reads : List Nat}
    {eff : State → State} {busy : Option Park} (hfw : s.cw.firmware = false) (hgroup : NoCause (pfxFaults i s.cs.pfx)) :
    s.run i m (s.firmwareOnly i) reads dynamic eff busy =
      .next ((s.raised i ⟨.priv, (encode i).setWidth 64⟩).settle s.cur.1 s.cur.2.1) := by
  rw [← List.append_nil (s.firmwareOnly i)]
  exact State.run_firmwareOnly hfw hgroup (fun _ h => absurd h (by simp))

theorem priv_le_sdest {s : State} {r n : Nat} (x : Raise) (h : some x ∈ s.sdest r n) : Cause.priv.code ≤ x.cause.code := by
  rcases State.sdest_causes h with h | h <;> rw [h] <;> decide

theorem State.firmwareOnly_of {s : State} {i : Instr} (h : s.cw.firmware = true) : s.firmwareOnly i = [] := by
  rw [State.firmwareOnly, h]; rfl

/-! ## The firmware words (R206) -/

section
variable {s : State} {m : Bool}

theorem execSysld_issues {d a : SReg} (hfw : s.cw.firmware = true)
    (h : s.Issues (.sysld m d a) (s.sdest d.toNat 1) (pairRegs a.toNat) []) :
    execSysld m d a s = .next (s.wroteS (.sysld m d a) m d (s.sysWord (s.sa64 a).toNat)) := by
  unfold execSysld
  simp only [State.firmwareOnly_of hfw, List.nil_append]
  rw [State.run_result h, scalarOut_word]
  rfl

/-- What is written to system space lies outside the wave. -/
theorem State.marker_sysmem (s : State) (m : Bool) (x : SMap Word) :
    State.marker { s with sysmem := x } m = { s.marker m with sysmem := x } := by
  cases m <;> rfl

theorem execSysst_issues {d a : SReg} (hfw : s.cw.firmware = true)
    (h : s.Issues (.sysst m d a) [] (d.toNat :: pairRegs a.toNat) []) :
    execSysst m d a s = .next { s.past m with sysmem := SMap.put s.sysmem (s.sa64 a).toNat (s.sa d) } := by
  unfold execSysst
  simp only [State.firmwareOnly_of hfw]
  rw [State.run_issues h, State.did, State.marker_sysmem, State.marker_advance m h.ready]
  exact congrArg _ (State.settle_calm ((s.past_latched m).trans h.calm))

theorem execTlbinv_issues {a : SReg} (hfw : s.cw.firmware = true) (h : s.Issues (.tlbinv m a) [] (pairRegs a.toNat) []) :
    execTlbinv m a s = .next (s.did m fun t =>
      t.tlbInvalidate ((s.sa64 a).toNat / 2 ^ 58) ((s.sa64 a).toNat / 2 ^ 57 % 2 = 1)
        (if (s.sa64 a).toNat / 65536 % 2 ^ 41 * 65536 / 2 ^ 56 = 1 then
          (s.sa64 a).toNat / 65536 % 2 ^ 41 * 65536 + 0xFE00000000000000 else (s.sa64 a).toNat / 65536 % 2 ^ 41 * 65536)) := by
  unfold execTlbinv
  simp only [State.firmwareOnly_of hfw]
  rw [State.run_issues h]
  rfl

theorem execWaiti_issues (hfw : s.cw.firmware = true) (h : s.Issues (.waiti m) [] [] []) :
    execWaiti m s = .next (s.did m fun t => t.parkUntil .interrupt (.waiti m)) := by
  unfold execWaiti
  simp only [State.firmwareOnly_of hfw]
  rw [State.run_issues h]

/-- The core's pending interrupt taken (log entry 86). -/
def State.takeIrq (core : Nat) (s : State) : State := { s with dev := { s.dev with irqs := s.dev.irqs.filter (· != core) } }

theorem execWaiti_goes (hfw : s.cw.firmware = true) (hawake : s.Awake) (hirq : s.dev.irqs.contains s.cur.1 = true)
    (h : s.Issues (.waiti m) [] [] []) : execWaiti m s = .next (s.wentOn m .interrupt (.waiti m) 0 (State.takeIrq s.cur.1)) := by
  have hmet : (s.advance.parkOn .interrupt (.waiti m) 0).parkMet s.cur.1 s.cur.2.1 s.cur.2.2 = true := by
    simp only [State.parkMet, State.advance_parkOn_strand]
    exact hirq
  have hcan := State.advance_parkOn_canWake s .interrupt (.waiti m) 0 hawake h.calm hmet
  rw [execWaiti_issues hfw h]
  refine congrArg _ (State.did_parkUntil (v := State.takeIrq s.cur.1 (s.advance.parkOn .interrupt (.waiti m) 0)) ?_ rfl rfl ?_ ?_)
  · simp only [State.wakeStrand, hcan, State.advance_parkOn_strand]
    rfl
  · show (s.advance.parkOn .interrupt (.waiti m) 0).cs.parkM = false
    rw [State.advance_parkOn_cs]
    exact hawake.marker
  · obtain ⟨f, hf⟩ := s.advance_parkOn_cw .interrupt (.waiti m) 0
    show s.cycle (s.advance.parkOn .interrupt (.waiti m) 0).cw.part = _
    rw [hf]
    rfl

theorem execMetsnap_issues {t : SReg} (hfw : s.cw.firmware = true) (h : s.Issues (.metsnap m t) (s.sdest t.toNat 1) [t.toNat] []) :
    execMetsnap m t s = .next ((s.token t.toNat (s.past m)).updCw fun w =>
      { w with snaps := w.snaps ++ [⟨w.nextId, (s.sa t).toNat, t.toNat⟩], nextId := w.nextId + 1 }) := by
  unfold execMetsnap
  simp only [State.firmwareOnly_of hfw, List.nil_append]
  exact State.run_token_updCw h (fun _ _ => rfl) (fun _ => rfl)

theorem execSysld_bars {d a : SReg} (hfw : s.cw.firmware = false) (hg : NoCause (pfxFaults (.sysld m d a) s.cs.pfx)) :
    execSysld m d a s = .next ((s.raised (.sysld m d a) ⟨.priv, (encode (.sysld m d a)).setWidth 64⟩).settle s.cur.1 s.cur.2.1) := by
  unfold execSysld
  exact State.run_firmwareOnly hfw hg priv_le_sdest

theorem execSysst_bars {d a : SReg} (hfw : s.cw.firmware = false) (hg : NoCause (pfxFaults (.sysst m d a) s.cs.pfx)) :
    execSysst m d a s = .next ((s.raised (.sysst m d a) ⟨.priv, (encode (.sysst m d a)).setWidth 64⟩).settle s.cur.1 s.cur.2.1) := by
  unfold execSysst
  exact State.run_firmwareOnly' hfw hg

theorem execTlbinv_bars {a : SReg} (hfw : s.cw.firmware = false) (hg : NoCause (pfxFaults (.tlbinv m a) s.cs.pfx)) :
    execTlbinv m a s = .next ((s.raised (.tlbinv m a) ⟨.priv, (encode (.tlbinv m a)).setWidth 64⟩).settle s.cur.1 s.cur.2.1) := by
  unfold execTlbinv
  exact State.run_firmwareOnly' hfw hg

theorem execWaiti_bars (hfw : s.cw.firmware = false) (hg : NoCause (pfxFaults (.waiti m) s.cs.pfx)) :
    execWaiti m s = .next ((s.raised (.waiti m) ⟨.priv, (encode (.waiti m)).setWidth 64⟩).settle s.cur.1 s.cur.2.1) := by
  unfold execWaiti
  exact State.run_firmwareOnly' hfw hg

theorem execMetsnap_bars {t : SReg} (hfw : s.cw.firmware = false) (hg : NoCause (pfxFaults (.metsnap m t) s.cs.pfx)) :
    execMetsnap m t s = .next ((s.raised (.metsnap m t) ⟨.priv, (encode (.metsnap m t)).setWidth 64⟩).settle s.cur.1 s.cur.2.1) := by
  unfold execMetsnap
  exact State.run_firmwareOnly hfw hg priv_le_sdest

end

/-- Settles O28: each completes in a firmware wave, and raises PRIV in any other before its other causes. -/
theorem firmwareWords : Obligations.FirmwareWords := by
  unfold Obligations.FirmwareWords
  intro m s
  exact ⟨fun d a hfw h => (exec_sysld m d a s).trans (execSysld_issues hfw h),
    fun d a hfw h => (exec_sysst m d a s).trans (execSysst_issues hfw h),
    fun a hfw h => (exec_tlbinv m a s).trans (execTlbinv_issues hfw h),
    fun hfw h => (exec_waiti m s).trans (execWaiti_issues hfw h),
    fun hfw hawake hirq h => (exec_waiti m s).trans (execWaiti_goes hfw hawake hirq h),
    fun t hfw h => (exec_metsnap m t s).trans (execMetsnap_issues hfw h),
    fun d a => ⟨fun hfw hg => (exec_sysld m d a s).trans (execSysld_bars hfw hg), fun hfw hg => (exec_sysst m d a s).trans (execSysst_bars hfw hg)⟩,
    fun a hfw hg => (exec_tlbinv m a s).trans (execTlbinv_bars hfw hg), fun hfw hg => (exec_waiti m s).trans (execWaiti_bars hfw hg),
    fun t hfw hg => (exec_metsnap m t s).trans (execMetsnap_bars hfw hg)⟩

end Sys2Proof.Machine
end

section
/-! Roles and register budgets (R130 to R132, R209, R292). -/

namespace Sys2Proof.Machine

section
variable {s : State} {m : Bool}

/-! ## RPOLL (R130) -/

theorem State.advance_rpollWord (s : State) (c : Bool) : s.advance.cw.rpollWord c = s.cw.rpollWord c := by
  rw [State.advance, State.updCs_eq_updCw, State.cw_updCw]
  rfl

/-- RPOLL without a change that can be applied only reports. -/
theorem execRpoll_reports {d : SReg}
    (hrole : ∀ role budget, s.cw.pendRole = some (role, budget) → s.roleReady s.cur.1 s.cur.2.1 budget = false)
    (h : s.Issues (.rpoll m d) (s.sdest d.toNat 1) [] []) :
    execRpoll m d s = .next (s.wroteS (.rpoll m d) m d (s.cw.rpollWord false)) := by
  unfold execRpoll
  simp only []
  rw [State.run_issues h, State.did_congr (g := s.result (.rpoll m d) { strand := 0, sca := scalarOut d (s.cw.rpollWord false).toNat }),
    State.did_result m _ h, scalarOut_word]
  · rfl
  · cases hp : s.cw.pendRole with
    | none => simp only [State.advance_rpollWord]
    | some p =>
      obtain ⟨role, budget⟩ := p
      simp only [hrole role budget hp, State.advance_rpollWord]
      rfl

/-- RPOLL applies a pending change whose registers can be had, and reports what holds then. -/
theorem execRpoll_applies {d : SReg} {role budget : Nat} (hrole : s.cw.pendRole = some (role, budget))
    (hready : s.roleReady s.cur.1 s.cur.2.1 budget = true) (h : s.Issues (.rpoll m d) (s.sdest d.toNat 1) [] []) :
    execRpoll m d s = .next (s.did m fun t =>
      s.result (.rpoll m d)
        { strand := 0, sca := if d = 63 then [] else [(d.toNat, (t.applyRole s.cur.1 s.cur.2.1 role budget).cw.rpollWord true)] }
        (t.applyRole s.cur.1 s.cur.2.1 role budget)) := by
  unfold execRpoll
  simp only [hrole, hready, scalarOut_word, if_true]
  exact State.run_issues h

/-! ## VGIVE and VCLAIM (R131) -/

theorem execVgive_issues {n : BitVec 4} (hn : 8 * n.toNat + 8 ≤ s.cw.vbudget) (h : s.Issues (.vgive m n) [] [] []) :
    execVgive m n s = .next (s.did m fun t => t.giveRegs s.cur.1 s.cur.2.1 (8 * n.toNat)) := by
  unfold execVgive
  simp only [if_neg (Nat.not_lt.2 hn)]
  exact State.run_issues h

theorem execVgive_raises {n : BitVec 4} (hn : s.cw.vbudget < 8 * n.toNat + 8) (h : s.Issues (.vgive m n) [] [] []) :
    execVgive m n s = .next ((s.raised (.vgive m n) ⟨.vregrange, BitVec.ofNat 64 (8 * n.toNat)⟩).settle s.cur.1 s.cur.2.1) := by
  unfold execVgive
  simp only [if_pos hn]
  exact State.run_raises_first h.group noCause_nil

theorem execVclaim_issues {n : BitVec 4} (hn : s.cw.vbudget + 8 * n.toNat ≤ 128) (h : s.Issues (.vclaim m n) [] [] []) :
    execVclaim m n s = .next (s.did m fun t => t.parkUntil .pool (.vclaim m n)) := by
  unfold execVclaim
  simp only [if_neg (Nat.not_lt.2 hn)]
  exact State.run_issues h

theorem execVclaim_raises {n : BitVec 4} (hn : 128 < s.cw.vbudget + 8 * n.toNat) (h : s.Issues (.vclaim m n) [] [] []) :
    execVclaim m n s = .next ((s.raised (.vclaim m n) ⟨.vregrange, BitVec.ofNat 64 (8 * n.toNat)⟩).settle s.cur.1 s.cur.2.1) := by
  unfold execVclaim
  simp only [if_pos hn]
  exact State.run_raises_first h.group noCause_nil

/-- Registers claimed leave the strands of the wave as they are. -/
theorem State.takeRegs_cw (t : State) (n : Nat) :
    (t.takeRegs t.cur.1 t.cur.2.1 n).cw = { t.cw.clearFrom t.cw.vbudget with vbudget := t.cw.vbudget + n } := by
  show (t.updCw fun w => { w.clearFrom w.vbudget with vbudget := w.vbudget + n }).cw = _
  rw [State.cw_updCw]

theorem execVclaim_goes {n : BitVec 4} (hn : s.cw.vbudget + 8 * n.toNat ≤ 128) (hawake : s.Awake)
    (hregs : s.regsReady s.cur.1 s.cur.2.1 (8 * n.toNat) = true) (h : s.Issues (.vclaim m n) [] [] []) :
    execVclaim m n s =
      .next (s.wentOn m .pool (.vclaim m n) 0 fun t => t.takeRegs s.cur.1 s.cur.2.1 (8 * n.toNat)) := by
  let t := s.advance.parkOn .pool (.vclaim m n) 0
  have hst : (t.wave s.cur.1 s.cur.2.1).strand s.cur.2.2 = _ := State.advance_parkOn_strand s .pool (.vclaim m n) 0
  obtain ⟨f, hf⟩ := s.advance_parkOn_cw .pool (.vclaim m n) 0
  have hwave : t.wave s.cur.1 s.cur.2.1 = s.cw.updStrand s.cur.2.2 f := hf
  have hbudget : (t.wave s.cur.1 s.cur.2.1).vbudget = s.cw.vbudget := by rw [hwave]; rfl
  have hready : t.regsReady s.cur.1 s.cur.2.1 (8 * n.toNat) = true := by
    rw [State.regsReady, hwave]
    exact hregs
  have hmet : t.parkMet s.cur.1 s.cur.2.1 s.cur.2.2 = true := by
    simp only [State.parkMet, hst, hready, Bool.or_true]
  have hcan : t.canWake s.cur.1 s.cur.2.1 s.cur.2.2 = true := State.advance_parkOn_canWake s _ _ _ hawake h.calm hmet
  have hcw : (t.takeRegs s.cur.1 s.cur.2.1 (8 * n.toNat)).cw = _ := t.takeRegs_cw (8 * n.toNat)
  rw [execVclaim_issues hn h]
  refine congrArg _ (State.did_parkUntil (v := t.takeRegs s.cur.1 s.cur.2.1 (8 * n.toNat)) ?_ rfl rfl ?_ ?_)
  · show t.wakeStrand s.cur.1 s.cur.2.1 s.cur.2.2 = _
    simp only [State.wakeStrand, hcan, hst, hbudget, if_neg (Nat.not_lt.2 hn)]
    rfl
  · show ((t.takeRegs s.cur.1 s.cur.2.1 (8 * n.toNat)).cw.strand s.cur.2.2).parkM = false
    rw [hcw]
    show t.cs.parkM = false
    rw [State.advance_parkOn_cs]
    exact hawake.marker
  · rw [hcw]
    exact (congrArg (fun w : Wave => s.cycle w.part) hf).trans rfl

end

/-- Settles O22: RPOLL reports and applies, VGIVE and VCLAIM keep the budget within 8 and 128 or raise VREGRANGE. -/
theorem rolesAndBudgets : Obligations.RolesAndBudgets := by
  unfold Obligations.RolesAndBudgets
  intro m s
  refine ⟨fun d hrole h => (exec_rpoll m d s).trans (execRpoll_reports ?_ h),
    fun d role budget hrole hready h => (exec_rpoll m d s).trans (execRpoll_reports ?_ h),
    fun d role budget hrole hready h => (exec_rpoll m d s).trans (execRpoll_applies hrole hready h),
    fun n hn h => (exec_vgive m n s).trans (execVgive_issues hn h), fun n hn h => (exec_vclaim m n s).trans (execVclaim_issues hn h),
    fun n hn hawake hregs h => (exec_vclaim m n s).trans (execVclaim_goes hn hawake hregs h),
    fun n => ⟨fun hn h => (exec_vgive m n s).trans (execVgive_raises hn h), fun hn h => (exec_vclaim m n s).trans (execVclaim_raises hn h)⟩⟩
  · intro role budget hsome
    rw [hrole] at hsome
    cases hsome
  · intro role' budget' hsome
    rw [hrole] at hsome
    cases hsome
    exact hready

end Sys2Proof.Machine
end

section
/-! SPLIT: its two forms, its offsets, and the strands that it leaves (R8, R29, R61, R118 to R120, R208). -/

namespace Sys2Proof.Machine

/-! ## The offsets (R61) -/

theorem State.splitOffsets_plain {s : State} (offA offC : BitVec 9) (h : s.cs.wideVal = none) :
    s.splitOffsets offA offC = (offA.signExtend 64, offC.signExtend 64) := by
  rw [State.splitOffsets, h]

theorem State.splitOffsets_limm {s : State} (offA offC : BitVec 9) {p : BitVec 22} (h : s.cs.wideVal = some (.limm p)) :
    s.splitOffsets offA offC =
      ((p.extractLsb' 11 11).signExtend 64 * 2 ^ 9 + offA.setWidth 64, (p.extractLsb' 0 11).signExtend 64 * 2 ^ 9 + offC.setWidth 64) := by
  rw [State.splitOffsets, h]
  exact congrArg₂ Prod.mk (shiftLeft_or_setWidth _ offA) (shiftLeft_or_setWidth _ offC)

/-! ## The two forms (R118, R120) -/

/-- SPLIT runs concurrently: outside serial execution and a trap strand, with the slots that it needs. -/
theorem Wave.splitsConcurrently_iff (w : Wave) (n : Nat) (t f : Lanes) (cycle : Nat) :
    w.splitsConcurrently n t f cycle = true ↔
      (w.strand n).stack = [] ∧ (w.strand n).trap = false ∧ (if t ≠ 0 ∧ f ≠ 0 then 2 else 1) ≤ (w.freeSlots cycle).length := by
  simp only [Wave.splitsConcurrently, Bool.and_eq_true, List.isEmpty_iff, Bool.not_eq_true', decide_eq_true_eq, and_assoc, bne_iff_ne]

section
variable {s : State} {m : Bool} {k : KReg} {offA offC : BitVec 9}

/-- The lanes of the true and of the false side of a SPLIT. -/
def State.sideT (s : State) (k : KReg) : Lanes := s.cs.am &&& s.kval k

/-- The lanes of the false side. -/
def State.sideF (s : State) (k : KReg) : Lanes := s.cs.am &&& ~~~(s.kval k)

theorem execSplit_concurrent (h : s.Issues (.split m k offA offC) [] (kregs k.toNat) [])
    (hconc : s.cw.splitsConcurrently s.cur.2.2 (s.sideT k) (s.sideF k) (s.cycle s.cw.part) = true) :
    execSplit m k offA offC s = .next (s.did m fun u =>
      ((s.setsAm u).updCw fun w => w.splitConcurrent s.cur.2.2 (s.sideT k) (s.sideF k) (s.cs.pc + 4)
        (s.cs.pc + (s.splitOffsets offA offC).1 <<< 2) (s.cs.pc + (s.splitOffsets offA offC).2 <<< 2) (s.cycle s.cw.part)).traceRec
          s.cur.1 s.cur.2.1 4 s.cur.2.2
          (BitVec.ofNat 32 ((s.cw.freeSlots (s.cycle s.cw.part)).headD 0 +
            if s.sideT k ≠ 0 ∧ s.sideF k ≠ 0 then 16 * ((s.cw.freeSlots (s.cycle s.cw.part)).drop 1).headD 0 else 0)) s.cs.pc) := by
  have hif : (if s.sideT k ≠ 0 ∧ s.sideF k ≠ 0 then 16 * ((s.cw.freeSlots (s.cycle s.cw.part)).drop 1).headD 0 else 0) =
      if (s.sideT k != 0 && s.sideF k != 0) = true then 16 * ((s.cw.freeSlots (s.cycle s.cw.part)).drop 1).headD 0 else 0 := by
    simp only [Bool.and_eq_true, bne_iff_ne]
  rw [hif]
  unfold State.sideT State.sideF at hconc ⊢
  unfold execSplit
  simp only [hconc]
  exact State.run_issues h

theorem execSplit_serial (h : s.Issues (.split m k offA offC) [] (kregs k.toNat) [])
    (hconc : s.cw.splitsConcurrently s.cur.2.2 (s.sideT k) (s.sideF k) (s.cycle s.cw.part) = false) (hdepth : s.cs.stack.length ≤ 14) :
    execSplit m k offA offC s = .next (s.did m fun u => (s.setsAm u).updCs fun x =>
      x.splitSerial (s.sideT k) (s.sideF k) (s.cs.pc + 4) (s.cs.pc + (s.splitOffsets offA offC).1 <<< 2)
        (s.cs.pc + (s.splitOffsets offA offC).2 <<< 2)) := by
  unfold State.sideT State.sideF at hconc ⊢
  unfold execSplit
  simp only [hconc, decide_eq_false (Nat.not_lt.2 hdepth), Bool.and_false]
  exact State.run_issues h

theorem execSplit_raises (h : s.Issues (.split m k offA offC) [] (kregs k.toNat) [])
    (hconc : s.cw.splitsConcurrently s.cur.2.2 (s.sideT k) (s.sideF k) (s.cycle s.cw.part) = false) (hdepth : 14 < s.cs.stack.length) :
    execSplit m k offA offC s = .next ((s.raised (.split m k offA offC)
      ⟨.stranddepth, (encode (.split m k offA offC)).setWidth 64⟩).settle s.cur.1 s.cur.2.1) := by
  unfold State.sideT State.sideF at hconc
  unfold execSplit
  simp only [hconc, decide_eq_true hdepth]
  exact State.run_raises_dynamic h (lowest_singleton _)

end

/-! ## What earlier words have yet to write to AM (R29) -/

theorem State.setsAm_cw (s u : State) : (s.setsAm u).cw = { u.cw with
    shadow := u.cw.shadow ++ (s.lateOf u [60, 61, 62]).map fun r => (s.cur.2.2, s.cs.issued + 1, 20000 + r) } := State.cw_updCw ..

theorem State.setsAm_shadow (s u : State) : s.setsAm u = u.updCw fun x => { x with shadow := (s.setsAm u).cw.shadow } := by
  rw [State.setsAm_cw, State.setsAm, State.overtake_eq]
  exact State.updCw_congr rfl

/-- A result of an earlier word of the strand does not land over the AM that a SPLIT sets. -/
theorem State.setsAm_shadowed {s u : State} {r : Result} {j : Nat} (hr : r ∈ u.cw.outs) (hn : r.strand = s.cur.2.2)
    (hseq : r.seq ≤ s.cs.issued) (hj : j < 3) (hkey : 20060 + j ∈ r.keys) : (s.setsAm u).cw.shadowed r (20060 + j) = true := by
  have hlate : 60 + j ∈ s.lateOf u [60, 61, 62] := by
    refine List.mem_filter.2 ⟨?_, ?_⟩
    · interval_cases j <;> simp
    · rw [Bool.or_eq_true]
      refine .inl (List.any_eq_true.2 ⟨r, hr, ?_⟩)
      rw [show 20000 + (60 + j) = 20060 + j by omega, List.contains_iff_mem.2 hkey]
      simp [hn]
  rw [State.setsAm_cw, Wave.shadowed]
  refine List.any_eq_true.2 ⟨(s.cur.2.2, s.cs.issued + 1, 20000 + (60 + j)), List.mem_append_right _ (List.mem_map_of_mem hlate), ?_⟩
  simp [hn, Nat.lt_succ_of_le hseq]
  omega

/-! ## The strands that a concurrent SPLIT leaves (R118) -/

theorem SMap.get_map (d : α) (m : SMap α) (f : α → α) (k : Nat) (hd : f d = d) :
    SMap.get d (m.map fun p => (p.1, f p.2)) k = f (SMap.get d m k) := by
  induction m with
  | nil => exact hd.symm
  | cons p t ih =>
    obtain ⟨a, b⟩ := p
    simp only [List.map_cons, SMap.get]
    split
    · rfl
    · exact ih

/-- Ages that follow one another precede a strand together. -/
def Strand.withAges (x : Word) (new : List Word) (st : Strand) : Strand :=
  if st.before.contains x then { st with before := st.before ++ new } else st

theorem Wave.addAges_strand (w : Wave) (x : Word) (new : List Word) (k : Nat) :
    (w.addAges x new).strand k = (w.strand k).withAges x new :=
  SMap.get_map ({} : Strand) w.strands (Strand.withAges x new) k rfl

theorem Strand.withAges_armT (st : Strand) (x : Word) (new : List Word) : (st.withAges x new).armT = st.armT := by
  unfold Strand.withAges; split <;> rfl

theorem Strand.withAges_armF (st : Strand) (x : Word) (new : List Word) : (st.withAges x new).armF = st.armF := by
  unfold Strand.withAges; split <;> rfl

/-- An arm record names the slot of a strand that has not ended. -/
def Arm.names (r : Arm) (n : Nat) : Prop := r.live = true ∧ r.ended = false ∧ r.slot = n

theorem Strand.renameArm_armT {st : Strand} {n : Nat} (c : Nat) (h : st.armT.names n) :
    st.renameArm n c = { st with armT := { st.armT with slot := c } } := by
  obtain ⟨hlive, hended, hslot⟩ := h
  simp [Strand.renameArm, hlive, hended, hslot]

theorem Strand.renameArm_armF {st : Strand} {n : Nat} (c : Nat) (hT : ¬ st.armT.names n) (h : st.armF.names n) :
    st.renameArm n c = { st with armF := { st.armF with slot := c } } := by
  obtain ⟨hlive, hended, hslot⟩ := h
  have hT' : ¬ (st.armT.live && !st.armT.ended && decide (st.armT.slot = n)) = true := by
    simp only [Bool.and_eq_true, Bool.not_eq_true', decide_eq_true_eq, and_assoc]
    exact hT
  rw [Strand.renameArm, if_neg hT']
  simp [hlive, hended, hslot]

/-- A free slot is none of a live strand, and the free slots differ. -/
theorem Wave.freeSlots_spec {w : Wave} {cycle c : Nat} {rest : List Nat} (h : w.freeSlots cycle = c :: rest) :
    (w.strand c).live = false ∧ c ∉ rest ∧ ∀ a ∈ rest, (w.strand a).live = false := by
  have hfree (k : Nat) (hk : k ∈ c :: rest) : (w.strand k).live = false := by
    rw [← h, Wave.freeSlots, List.mem_filter, Bool.and_eq_true, Bool.not_eq_true'] at hk
    exact hk.2.1
  have hnodup : (c :: rest).Nodup := h ▸ List.nodup_range.filter _
  exact ⟨hfree c List.mem_cons_self, (List.nodup_cons.1 hnodup).1, fun a ha => hfree a (List.mem_cons_of_mem _ ha)⟩

/-- The wave after the ages of a SPLIT's new strands are known and the parent's record names the continuation. -/
def Wave.splitAged (w : Wave) (n c : Nat) (both : Bool) : Wave :=
  let new : List Word := if both then [w.created + 1, w.created + 2] else [w.created + 1]
  let u : Wave := { w with created := if both then w.created + 2 else w.created + 1 }
  let v := match (w.strand n).parent with
    | some p => u.updStrand p fun st => st.renameArm n c
    | none => u
  v.addAges (w.strand n).age new

/-- The continuation of a strand (R118). -/
def Wave.contOf (w : Wave) (n : Nat) (pcC : DWord) (armT armF : Arm) (before : List Word) (old : List (Word × Nat)) (cycle : Nat) : Strand :=
  let x := w.strand n
  { state := .ready, kind := .cont, pc := pcC, memb := x.memb, am := x.am, parent := x.parent, armT := armT, armF := armF,
    pubV := x.pubV, pubS := x.pubS, age := w.created + 1, before := x.before ++ before, old := old, issued := x.issued, readyAt := cycle }

/-- The arm of the true side in a slot of its own (R118). -/
def Wave.armOf (w : Wave) (n c : Nat) (lanes : Lanes) (pc : DWord) (cycle : Nat) : Strand :=
  let x := w.strand n
  { state := .ready, kind := .armT, pc := pc, memb := lanes, am := lanes, parent := some c, pubV := x.pubV, pubS := x.pubS,
    age := w.created + 2, before := x.before, old := (x.age, w.nextId) :: x.old, readyAt := cycle }

/-- The issuing slot as an arm of the continuation (R118). -/
def Strand.asArm (x : Strand) (c : Nat) (kind : SlotKind) (lanes : Lanes) (pc : DWord) : Strand :=
  { x with kind := kind, memb := lanes, am := lanes, parent := some c, armT := {}, armF := {}, pc := pc }

section
variable {w : Wave} {n c : Nat} {t f : Lanes} {pcT pcA pcC : DWord} {cycle : Nat} {rest : List Nat}

/-- With lanes on both sides: the continuation, the arm of the true side, and the issuing slot as the arm of the false side. -/
theorem Wave.splitConcurrent_both (ht : t ≠ 0) (hf : f ≠ 0) (h : w.freeSlots cycle = c :: rest) :
    w.splitConcurrent n t f pcT pcA pcC cycle =
      (((w.splitAged n c true).setStrand c
        (w.contOf n pcC ⟨rest.headD 0, true, false, t⟩ ⟨n, true, false, f⟩ [(w.strand n).age, w.created + 2] (w.strand n).old cycle)).setStrand
          (rest.headD 0) (w.armOf n c t pcT cycle)).setStrand n ((w.strand n).asArm c .armF f pcA) := by
  have htb : (t != 0) = true := bne_iff_ne.2 ht
  have hfb : (f != 0) = true := bne_iff_ne.2 hf
  simp only [Wave.splitConcurrent, h, htb, hfb, ht, hf]
  simp only [Wave.contOf, Wave.armOf, Strand.asArm, Wave.splitAged]
  cases (w.strand n).parent <;> simp [Wave.updStrand, Wave.setStrand, Wave.addAges]

/-- With lanes on the false side alone: the continuation, and the issuing slot as the arm. -/
theorem Wave.splitConcurrent_false (hf : f ≠ 0) (h : w.freeSlots cycle = c :: rest) :
    w.splitConcurrent n 0 f pcT pcA pcC cycle =
      ((w.splitAged n c false).setStrand c
        (w.contOf n pcC ⟨0, false, false, 0⟩ ⟨n, true, false, f⟩ [(w.strand n).age] (w.strand n).old cycle)).setStrand n
          ((w.strand n).asArm c .armF f pcA) := by
  have hfb : (f != 0) = true := bne_iff_ne.2 hf
  simp only [Wave.splitConcurrent, h, hfb, hf]
  simp only [Wave.contOf, Strand.asArm, Wave.splitAged]
  cases (w.strand n).parent <;> simp [Wave.updStrand, Wave.setStrand, Wave.addAges]

/-- With lanes on the true side alone: the continuation, and the issuing slot as the arm. -/
theorem Wave.splitConcurrent_true (ht : t ≠ 0) (h : w.freeSlots cycle = c :: rest) :
    w.splitConcurrent n t 0 pcT pcA pcC cycle =
      ((w.splitAged n c false).setStrand c
        (w.contOf n pcC ⟨n, true, false, t⟩ ⟨0, false, false, 0⟩ [(w.strand n).age] (w.strand n).old cycle)).setStrand n
          ((w.strand n).asArm c .armT t pcT) := by
  have htb : (t != 0) = true := bne_iff_ne.2 ht
  simp only [Wave.splitConcurrent, h, htb, ht]
  simp only [Wave.contOf, Strand.asArm, Wave.splitAged]
  cases (w.strand n).parent <;> simp [Wave.updStrand, Wave.setStrand, Wave.addAges]

/-- Without lanes: the continuation, which takes over what the strand has noted and has under way. -/
theorem Wave.splitConcurrent_none (h : w.freeSlots cycle = c :: rest) :
    w.splitConcurrent n 0 0 pcT pcA pcC cycle =
      ((((w.splitAged n c false).setStrand c
        (w.contOf n pcC ⟨0, false, false, 0⟩ ⟨0, false, false, 0⟩ [] (((w.strand n).age, w.nextId) :: (w.strand n).old) cycle)).handOver n c).updStrand
          c fun st => { st with noted := (w.strand n).noted }).setStrand n {} := by
  simp only [Wave.splitConcurrent, h]
  simp only [Wave.contOf, Wave.splitAged]
  cases (w.strand n).parent <;> simp [Wave.updStrand, Wave.setStrand, Wave.addAges]

/-- The ages aside, the parent's record is what the new strands change of another strand. -/
theorem Wave.splitAged_strand (w : Wave) (n c p : Nat) (both : Bool) (hp : (w.strand n).parent = some p) :
    ((w.splitAged n c both).strand p).armT = ((w.strand p).renameArm n c).armT ∧
      ((w.splitAged n c both).strand p).armF = ((w.strand p).renameArm n c).armF := by
  simp only [Wave.splitAged, hp]
  rw [Wave.addAges_strand, Strand.withAges_armT, Strand.withAges_armF, Wave.strand_updStrand_self]
  exact ⟨rfl, rfl⟩

theorem Wave.splitAged_fields (w : Wave) (n c : Nat) (both : Bool) :
    (w.splitAged n c both).v = w.v ∧ (w.splitAged n c both).s = w.s ∧ (w.splitAged n c both).outs = w.outs := by
  unfold Wave.splitAged
  cases (w.strand n).parent <;> exact ⟨rfl, rfl, rfl⟩

end

end Sys2Proof.Machine
end

section
/-! What a concurrent SPLIT leaves, and the obligation about SPLIT (R8, R118 to R120). -/

namespace Sys2Proof.Machine

/-- A strand as an arm stands: ready, of its kind, at its word, with exactly its lanes, under its continuation. -/
def Strand.holdsArm (st : Strand) (c : Nat) (kind : SlotKind) (pc : DWord) (lanes : Lanes) : Prop :=
  st.state = .ready ∧ st.kind = kind ∧ st.pc = pc ∧ st.am = lanes ∧ st.memb = lanes ∧ st.parent = some c

/-- A strand as the continuation of another one stands. -/
def Strand.holdsCont (st x : Strand) (pc : DWord) (armT armF : Arm) : Prop :=
  st.state = .ready ∧ st.kind = .cont ∧ st.pc = pc ∧ st.am = x.am ∧ st.memb = x.memb ∧ st.parent = x.parent ∧ st.armT = armT ∧ st.armF = armF

theorem Wave.contOf_holds (w : Wave) (n : Nat) (pcC : DWord) (armT armF : Arm) (before : List Word) (old : List (Word × Nat)) (cycle : Nat) :
    (w.contOf n pcC armT armF before old cycle).holdsCont (w.strand n) pcC armT armF := ⟨rfl, rfl, rfl, rfl, rfl, rfl, rfl, rfl⟩

theorem Strand.asArm_holds {x : Strand} (c : Nat) (kind : SlotKind) (lanes : Lanes) (pc : DWord) (h : x.state = .ready) :
    (x.asArm c kind lanes pc).holdsArm c kind pc lanes := ⟨h, rfl, rfl, rfl, rfl, rfl⟩

section
variable {w : Wave} {n c : Nat} {t f : Lanes} {pcT pcA pcC : DWord} {cycle : Nat} {rest : List Nat}

/-- The continuation of a concurrent SPLIT. -/
theorem Wave.splitConcurrent_cont (hready : (w.strand n).state = .ready) (h : w.freeSlots cycle = c :: rest) (hroom : t ≠ 0 ∧ f ≠ 0 → rest ≠ []) :
    ((w.splitConcurrent n t f pcT pcA pcC cycle).strand c).holdsCont (w.strand n) pcC
      (if t = 0 then ⟨0, false, false, 0⟩ else ⟨if t ≠ 0 ∧ f ≠ 0 then rest.headD 0 else n, true, false, t⟩)
      (if f = 0 then ⟨0, false, false, 0⟩ else ⟨n, true, false, f⟩) := by
  obtain ⟨hc, hcrest, _⟩ := Wave.freeSlots_spec h
  have hcn : c ≠ n := fun e => by rw [e, Strand.live, hready] at hc; exact absurd hc (by decide)
  by_cases ht : t = 0 <;> by_cases hf : f = 0
  · subst ht hf
    rw [Wave.splitConcurrent_none h, Wave.strand_setStrand_of_ne _ _ hcn, Wave.strand_updStrand_self]
    show ({ (Wave.strand (Wave.setStrand _ c _) c) with noted := _ } : Strand).holdsCont _ _ _ _
    rw [Wave.strand_setStrand_self]
    exact w.contOf_holds n pcC ⟨0, false, false, 0⟩ ⟨0, false, false, 0⟩ [] (((w.strand n).age, w.nextId) :: (w.strand n).old) cycle
  · subst ht
    rw [Wave.splitConcurrent_false hf h, Wave.strand_setStrand_of_ne _ _ hcn, Wave.strand_setStrand_self, if_pos rfl, if_neg hf]
    exact Wave.contOf_holds ..
  · subst hf
    rw [Wave.splitConcurrent_true ht h, Wave.strand_setStrand_of_ne _ _ hcn, Wave.strand_setStrand_self, if_pos rfl, if_neg ht,
      if_neg (fun b => b.2 rfl)]
    exact Wave.contOf_holds ..
  · have hca : c ≠ rest.headD 0 := by
      cases rest with
      | nil => exact absurd rfl (hroom ⟨ht, hf⟩)
      | cons a l => exact fun e => hcrest (e ▸ List.mem_cons_self)
    rw [Wave.splitConcurrent_both ht hf h, Wave.strand_setStrand_of_ne _ _ hcn, Wave.strand_setStrand_of_ne _ _ hca,
      Wave.strand_setStrand_self, if_neg ht, if_neg hf, if_pos ⟨ht, hf⟩]
    exact Wave.contOf_holds ..

/-- The arm of the true side beside one of the false side. -/
theorem Wave.splitConcurrent_armT (hready : (w.strand n).state = .ready) (h : w.freeSlots cycle = c :: rest) (ht : t ≠ 0) (hf : f ≠ 0)
    (hroom : rest ≠ []) :
    ((w.splitConcurrent n t f pcT pcA pcC cycle).strand (rest.headD 0)).holdsArm c .armT pcT t := by
  obtain ⟨_, _, hrest⟩ := Wave.freeSlots_spec h
  have han : rest.headD 0 ≠ n := by
    cases rest with
    | nil => exact absurd rfl hroom
    | cons a l =>
      intro e
      have ha := hrest a List.mem_cons_self
      rw [show a = n from e, Strand.live, hready] at ha
      exact absurd ha (by decide)
  rw [Wave.splitConcurrent_both ht hf h, Wave.strand_setStrand_of_ne _ _ han, Wave.strand_setStrand_self]
  exact ⟨rfl, rfl, rfl, rfl, rfl, rfl⟩

/-- The issuing slot becomes the arm of the false side, or of the true side where the other is empty. -/
theorem Wave.splitConcurrent_issuing_false (hready : (w.strand n).state = .ready) (h : w.freeSlots cycle = c :: rest) (hf : f ≠ 0) :
    ((w.splitConcurrent n t f pcT pcA pcC cycle).strand n).holdsArm c .armF pcA f := by
  by_cases ht : t = 0
  · subst ht
    rw [Wave.splitConcurrent_false hf h, Wave.strand_setStrand_self]
    exact Strand.asArm_holds c .armF f pcA hready
  · rw [Wave.splitConcurrent_both ht hf h, Wave.strand_setStrand_self]
    exact Strand.asArm_holds c .armF f pcA hready

theorem Wave.splitConcurrent_issuing_true (hready : (w.strand n).state = .ready) (h : w.freeSlots cycle = c :: rest) (ht : t ≠ 0) :
    ((w.splitConcurrent n t 0 pcT pcA pcC cycle).strand n).holdsArm c .armT pcT t := by
  rw [Wave.splitConcurrent_true ht h, Wave.strand_setStrand_self]
  exact Strand.asArm_holds c .armT t pcT hready

theorem Wave.splitConcurrent_issuing_none (h : w.freeSlots cycle = c :: rest) :
    ((w.splitConcurrent n 0 0 pcT pcA pcC cycle).strand n).live = false := by
  rw [Wave.splitConcurrent_none h, Wave.strand_setStrand_self]
  rfl

/-- A strand that the SPLIT neither makes nor frees keeps what the new ages and the parent's record leave of it. -/
theorem Wave.splitConcurrent_other (h : w.freeSlots cycle = c :: rest) {p : Nat} (hn : p ≠ n) (hc : p ≠ c)
    (ha : t ≠ 0 ∧ f ≠ 0 → p ≠ rest.headD 0) :
    ∃ both, (w.splitConcurrent n t f pcT pcA pcC cycle).strand p = (w.splitAged n c both).strand p := by
  by_cases ht : t = 0 <;> by_cases hf : f = 0
  · subst ht hf
    refine ⟨false, ?_⟩
    rw [Wave.splitConcurrent_none h, Wave.strand_setStrand_of_ne _ _ hn, Wave.strand_updStrand_of_ne _ _ hc]
    exact Wave.strand_setStrand_of_ne _ _ hc
  · subst ht
    refine ⟨false, ?_⟩
    rw [Wave.splitConcurrent_false hf h, Wave.strand_setStrand_of_ne _ _ hn, Wave.strand_setStrand_of_ne _ _ hc]
  · subst hf
    refine ⟨false, ?_⟩
    rw [Wave.splitConcurrent_true ht h, Wave.strand_setStrand_of_ne _ _ hn, Wave.strand_setStrand_of_ne _ _ hc]
  · refine ⟨true, ?_⟩
    rw [Wave.splitConcurrent_both ht hf h, Wave.strand_setStrand_of_ne _ _ hn, Wave.strand_setStrand_of_ne _ _ (ha ⟨ht, hf⟩),
      Wave.strand_setStrand_of_ne _ _ hc]

/-- The registers of the wave stay, and so do its outstanding results where an arm goes on with them. -/
theorem Wave.splitConcurrent_regs (h : w.freeSlots cycle = c :: rest) :
    (w.splitConcurrent n t f pcT pcA pcC cycle).v = w.v ∧ (w.splitConcurrent n t f pcT pcA pcC cycle).s = w.s ∧
      (t ≠ 0 ∨ f ≠ 0 → (w.splitConcurrent n t f pcT pcA pcC cycle).outs = w.outs) := by
  by_cases ht : t = 0 <;> by_cases hf : f = 0
  · subst ht hf
    obtain ⟨hv, hs, _⟩ := w.splitAged_fields n c false
    rw [Wave.splitConcurrent_none h]
    exact ⟨hv, hs, fun hne => absurd hne (by simp)⟩
  · subst ht
    obtain ⟨hv, hs, ho⟩ := w.splitAged_fields n c false
    rw [Wave.splitConcurrent_false hf h]
    exact ⟨hv, hs, fun _ => ho⟩
  · subst hf
    obtain ⟨hv, hs, ho⟩ := w.splitAged_fields n c false
    rw [Wave.splitConcurrent_true ht h]
    exact ⟨hv, hs, fun _ => ho⟩
  · obtain ⟨hv, hs, ho⟩ := w.splitAged_fields n c true
    rw [Wave.splitConcurrent_both ht hf h]
    exact ⟨hv, hs, fun _ => ho⟩

/-- The parent's arm record names the continuation's slot in place of the strand's. -/
theorem Wave.splitConcurrent_parent (h : w.freeSlots cycle = c :: rest) {p : Nat} (hp : (w.strand n).parent = some p) (hn : p ≠ n)
    (hc : p ≠ c) (ha : t ≠ 0 ∧ f ≠ 0 → p ≠ rest.headD 0) :
    let u := w.splitConcurrent n t f pcT pcA pcC cycle
    let y := w.strand p
    (y.armT.names n → (u.strand p).armT = { y.armT with slot := c } ∧ (u.strand p).armF = y.armF) ∧
      (¬ y.armT.names n → y.armF.names n → (u.strand p).armT = y.armT ∧ (u.strand p).armF = { y.armF with slot := c }) := by
  obtain ⟨both, hother⟩ := Wave.splitConcurrent_other (pcT := pcT) (pcA := pcA) (pcC := pcC) h hn hc ha
  obtain ⟨hT, hF⟩ := w.splitAged_strand n c p both hp
  simp only [hother, hT, hF]
  refine ⟨fun hnames => ?_, fun hno hnames => ?_⟩
  · rw [Strand.renameArm_armT c hnames]
    exact ⟨rfl, rfl⟩
  · rw [Strand.renameArm_armF c hno hnames]
    exact ⟨rfl, rfl⟩

end

/-- Settles O18: the two forms of SPLIT and its cause, AM's earlier writes overtaken, and the strands of the concurrent form. -/
theorem splitWords : Obligations.SplitWords := by
  unfold Obligations.SplitWords
  refine ⟨fun m k offA offC s => ?_, fun s u => ⟨s.setsAm_shadow u, fun r hr hn hseq j hj hkey => State.setsAm_shadowed hr hn hseq hj hkey⟩,
    fun w n t f pcT pcA pcC cycle c rest hn hready hfree hroom => ?_⟩
  · have hiff := s.cw.splitsConcurrently_iff s.cur.2.2 (s.sideT k) (s.sideF k) (s.cycle s.cw.part)
    refine ⟨State.splitOffsets_plain offA offC, fun p => State.splitOffsets_limm offA offC, fun h => ⟨fun hconc => ?_, fun hconc hdepth => ?_,
      fun hconc hdepth => ?_⟩⟩
    · exact (exec_split m k offA offC s).trans (execSplit_concurrent h (hiff.2 hconc))
    · exact (exec_split m k offA offC s).trans (execSplit_serial h (eq_false_of_ne_true (mt hiff.1 hconc)) hdepth)
    · exact (exec_split m k offA offC s).trans (execSplit_raises h (eq_false_of_ne_true (mt hiff.1 hconc)) hdepth)
  · obtain ⟨hv, hs, ho⟩ := Wave.splitConcurrent_regs (n := n) (t := t) (f := f) (pcT := pcT) (pcA := pcA) (pcC := pcC) hfree
    obtain ⟨hstate, hkind, hpc, ham, hmemb, hparent, harmT, harmF⟩ :=
      Wave.splitConcurrent_cont (t := t) (f := f) (pcT := pcT) (pcA := pcA) (pcC := pcC) hready hfree hroom
    refine ⟨hstate, hkind, hpc, ham, hmemb, hparent, harmT, harmF,
      fun hboth => Wave.splitConcurrent_armT hready hfree hboth.1 hboth.2 (hroom hboth),
      fun hf => Wave.splitConcurrent_issuing_false hready hfree hf, fun hf ht => ?_, fun hf ht => ?_,
      fun p hp hpn hpc hpa => Wave.splitConcurrent_parent hfree hp hpn hpc hpa, hv, hs, ho⟩
    · subst hf
      exact Wave.splitConcurrent_issuing_true hready hfree ht
    · subst hf ht
      exact Wave.splitConcurrent_issuing_none hfree

end Sys2Proof.Machine
end

section
/-! The issue of memory words, scalar and vector, and the causes that come first (R17, R113 to R115, R157, R158, R299, R301). -/

namespace Sys2Proof.Machine

/-! ## A misaligned scalar access (R158) -/

/-- ALIGN of a single access comes before what else its address can raise. -/
theorem State.addrFaults_misaligned {s : State} {kind : MemKind} {addr : DWord} {data : BitVec 128} {cmp : Word}
    (hkind : ∀ l2, kind ≠ .pref l2) (h : addr.toNat % kind.size ≠ 0) :
    lowest (s.addrFaults (scaOp kind addr data cmp)) = some ⟨.align, addr⟩ := by
  unfold State.addrFaults scaOp
  cases kind with
  | pref l2 => exact absurd rfl (hkind l2)
  | _ =>
    simp only [List.map_cons, List.map_nil, if_neg h, List.singleton_append]
    refine lowest_cons_least fun x hx => ?_
    split at hx
    next hbad =>
      simp only [List.any_cons, List.any_nil, Bool.or_false] at hbad
      simp only [hbad, if_true, List.mem_singleton, Option.some.injEq] at hx
      rw [hx]
      exact (by decide : Cause.align.code ≤ Cause.stashrange.code)
    · cases hx

section
variable {s : State} {i : Instr} {m : Bool} {kind : MemKind} {ord : Ordq} {ssq : Bool} {static dynamic : List (Option Raise)} {reads : List Nat}
  {data : BitVec 128} {cmp : Word} {addr : DWord} {eff : State → State} {busy : Option Park}

/-- A scalar access at a misaligned address. -/
theorem State.scaMem_misaligned (hkind : ∀ l2, kind ≠ .pref l2) (hexec : exec i s = s.scaMem i m kind ssq addr static reads data cmp)
    (h : s.Issues i static reads []) (haddr : addr.toNat % kind.size ≠ 0) :
    exec i s = .next ((s.raised i ⟨.align, addr⟩).settle s.cur.1 s.cur.2.1) := by
  rw [hexec, State.scaMem, State.runQ]
  exact State.run_raises_dynamic h (State.addrFaults_misaligned hkind haddr)

/-! ## The lowest cause (R301) -/

/-- A word raises the lowest of its causes: first of those that need no operand, then of those that its operands raise. -/
def State.RaisesLowest (s : State) (i : Instr) (static : List (Option Raise)) (reads : List Nat) (dynamic : List (Option Raise)) : Prop :=
  (∀ r, lowest (pfxFaults i s.cs.pfx ++ static) = some r → exec i s = .next ((s.raised i r).settle s.cur.1 s.cur.2.1)) ∧
  (∀ r, NoCause (pfxFaults i s.cs.pfx ++ static) → (∀ x ∈ reads, s.cw.isPending x = false) → lowest dynamic = some r →
    exec i s = .next ((s.raised i r).settle s.cur.1 s.cur.2.1))

theorem State.raisesLowest_of_run (hexec : exec i s = s.run i m static reads dynamic eff busy) : s.RaisesLowest i static reads dynamic := by
  refine ⟨fun r hr => hexec.trans (State.run_raises hr), fun r hno hreads hr => hexec.trans ?_⟩
  have hfirst : lowest (pfxFaults i s.cs.pfx ++ static) = none := lowest_eq_none.2 hno
  have htoken : reads.find? s.cw.isPending = none := by simpa using hreads
  simp only [State.run, hfirst, htoken, hr]
  rfl

theorem State.raisesLowest_of_scaMem (hexec : exec i s = s.scaMem i m kind ssq addr static reads data cmp) :
    s.RaisesLowest i static reads (s.addrFaults (scaOp kind addr data cmp)) := by
  unfold State.scaMem State.runQ at hexec
  exact State.raisesLowest_of_run hexec

theorem State.raisesLowest_of_vecMem {a : VReg} {b : BitVec 5} {data : Nat → BitVec 128} {cmp : Nat → Word}
    (hexec : exec i s = s.vecMem i m kind ord ssq a b static data cmp) :
    s.RaisesLowest i (static ++ [s.cw.vrange a.toNat]) (pairRegs (2 * b.toNat) ++ s.xmodRegs) (s.addrFaults (s.vecOp kind ord a b data cmp)) := by
  unfold State.vecMem at hexec
  exact State.raisesLowest_of_run hexec

end

/-! ## The wait for a token (R17) -/

/-- A word that parks on a pending token has not issued, and nothing but its strand's state changes. -/
theorem State.parkHere_waits (s : State) (i : Instr) (r : Nat) :
    let t := s.parkHere .token i r
    t.cs.state = .parked ∧ t.cs.park = .token ∧ t.cs.pc = s.cs.pc ∧ t.cs.parkArg = BitVec.ofNat 32 r ∧ t.cs.issued = s.cs.issued ∧
      SameRegs s.cw t.cw ∧ t.cw.outs = s.cw.outs ∧ SameOutside s t := by
  have hcs : (s.parkHere .token i r).cs = _ := s.cs_updCs _
  have hcw : (s.parkHere .token i r).cw = s.cw.updStrand s.cur.2.2 _ := s.cw_updCw _
  simp only [hcs, hcw]
  exact ⟨trivial, trivial, trivial, trivial, trivial, ⟨rfl, rfl, rfl, rfl, rfl, rfl, rfl, rfl, rfl, rfl, rfl, rfl, rfl, rfl, rfl⟩, rfl,
    ⟨rfl, rfl, rfl, rfl, rfl, rfl, rfl, rfl, rfl, rfl, rfl, rfl, rfl, rfl, rfl, rfl, rfl⟩⟩

theorem execSadd_waits {s : State} {m : Bool} {d a : SReg} (hpfx : s.cs.pfx = none) (hdest : NoCause (s.sdest d.toNat 1))
    (ha : s.cw.isPending a.toNat = true) :
    exec (.sadd m d a (.imm 0)) s = .next (s.parkHere .token (.sadd m d a (.imm 0)) a.toNat) := by
  have hgroup : NoCause (pfxFaults (.sadd m d a (.imm 0)) s.cs.pfx) := by
    rw [hpfx]
    unfold NoCause pfxFaults
    simp [codeOf]
  have hfind : (a.toNat :: sopRegs (.imm 0)).find? s.cw.isPending = some a.toNat := by simp [ha]
  rw [exec_sadd, execSadd, State.scal]
  exact State.run_token (lowest_eq_none.2 (hgroup.append hdest)) hfind

theorem exec_sldB32_scaMem (m : Bool) (d a : SReg) (b : SOp) (s : State) :
    exec (.sldB32 m d a b) s = s.scaMem (.sldB32 m d a b) m (.sload 4 d.toNat) false (s.saddr a b 4) (s.sdest d.toNat 1)
      (pairRegs a.toNat ++ sopRegs b) 0 0 := rfl

theorem exec_sldB64_scaMem (m : Bool) (d a : SReg) (b : SOp) (s : State) :
    exec (.sldB64 m d a b) s = s.scaMem (.sldB64 m d a b) m (.sload 8 d.toNat) false (s.saddr a b 8) (s.sdest d.toNat 2)
      (pairRegs a.toNat ++ sopRegs b) 0 0 := rfl

theorem exec_sldB128_scaMem (m : Bool) (d a : SReg) (b : SOp) (s : State) :
    exec (.sldB128 m d a b) s = s.scaMem (.sldB128 m d a b) m (.sload 16 d.toNat) false (s.saddr a b 16) (s.sdest d.toNat 4)
      (pairRegs a.toNat ++ sopRegs b) 0 0 := rfl

/-- Settles O14: each scalar access goes through the queue, or raises ALIGN. -/
theorem scalarMemoryWords : Obligations.ScalarMemoryWords := by
  unfold Obligations.ScalarMemoryWords
  refine ⟨fun m d a s => ⟨fun b => ⟨fun h => (exec_sldB32 m d a b s).trans (State.scaMem_queues h),
      fun h => (exec_sldB64 m d a b s).trans (State.scaMem_queues h), fun h => (exec_sldB128 m d a b s).trans (State.scaMem_queues h),
      fun h => (exec_sstB32 m d a b s).trans (State.scaMem_queues h), fun h => (exec_sstB64 m d a b s).trans (State.scaMem_queues h)⟩,
    fun b => ⟨fun h => (exec_satomAdd m d a b s).trans (State.scaMem_queues h),
      fun h => (exec_satomCas m d a b s).trans (State.scaMem_queues h), fun h => (exec_satomExch m d a b s).trans (State.scaMem_queues h)⟩⟩,
    fun m d a b s => ⟨State.scaMem_misaligned (by simp) (exec_sldB32_scaMem m d a b s), State.scaMem_misaligned (by simp) (exec_sldB64_scaMem m d a b s),
      State.scaMem_misaligned (by simp) (exec_sldB128_scaMem m d a b s), State.scaMem_misaligned (by simp) (exec_sstB32 m d a b s),
      State.scaMem_misaligned (by simp) (exec_sstB64 m d a b s)⟩,
    fun m d a b s => ⟨State.scaMem_misaligned (by simp) (exec_satomAdd m d a b s), State.scaMem_misaligned (by simp) (exec_satomCas m d a b s),
      State.scaMem_misaligned (by simp) (exec_satomExch m d a b s)⟩⟩

theorem State.sadd_raisesLowest (m : Bool) (d a : SReg) (b : SOp) (s : State) :
    s.RaisesLowest (.sadd m d a b) (s.sdest d.toNat 1) (a.toNat :: sopRegs b) [] := by
  have hexec := exec_sadd m d a b s
  unfold execSadd State.scal at hexec
  exact State.raisesLowest_of_run hexec

theorem State.sstB64_raisesLowest (m : Bool) (d a : SReg) (b : SOp) (s : State) :
    s.RaisesLowest (.sstB64 m d a b) [] (pairRegs d.toNat ++ (pairRegs a.toNat ++ sopRegs b))
      (s.addrFaults (scaOp (.sstore 8) (s.saddr a b 8) ((s.sa64 d).setWidth 128) 0)) := by
  rw [← List.append_assoc]
  exact State.raisesLowest_of_scaMem (exec_sstB64 m d a b s)

/-- Settles O25: the lowest cause is raised, and SADD waits for a token that it reads once it raises none. -/
theorem lowestCauseFirst : Obligations.LowestCauseFirst := by
  unfold Obligations.LowestCauseFirst
  refine ⟨fun l r => lowest_spec, fun m s => ⟨fun d a b => ?_, fun d a b => ?_, fun t a b => ?_⟩, fun m d a s hpfx hdest ha => ?_⟩
  · exact ⟨State.sadd_raisesLowest m d a b s, State.raisesLowest_of_scaMem (exec_sldB32_scaMem m d a b s),
      State.raisesLowest_of_scaMem (exec_sldB64_scaMem m d a b s), State.raisesLowest_of_scaMem (exec_sldB128_scaMem m d a b s),
      State.raisesLowest_of_scaMem (exec_sstB32 m d a b s), State.sstB64_raisesLowest m d a b s⟩
  · exact ⟨State.raisesLowest_of_scaMem (exec_satomAdd m d a b s), State.raisesLowest_of_scaMem (exec_satomCas m d a b s),
      State.raisesLowest_of_scaMem (exec_satomExch m d a b s)⟩
  · exact ⟨fun q => ⟨State.raisesLowest_of_vecMem (exec_vldB32 m t a b q s), State.raisesLowest_of_vecMem (exec_vldB64 m t a b q s),
        State.raisesLowest_of_vecMem (exec_vldB128 m t a b q s), State.raisesLowest_of_vecMem (exec_vldS8 m t a b q s),
        State.raisesLowest_of_vecMem (exec_vldN8 m t a b q s), State.raisesLowest_of_vecMem (exec_vldS16 m t a b q s),
        State.raisesLowest_of_vecMem (exec_vldN16 m t a b q s)⟩,
      fun q => ⟨State.raisesLowest_of_vecMem (exec_vstB32 m t a b q s), State.raisesLowest_of_vecMem (exec_vstB64 m t a b q s),
        State.raisesLowest_of_vecMem (exec_vstB128 m t a b q s), State.raisesLowest_of_vecMem (exec_vstB8 m t a b q s),
        State.raisesLowest_of_vecMem (exec_vstB16 m t a b q s)⟩,
      fun acq => State.raisesLowest_of_vecMem (exec_fget m t a b acq s), fun rel => State.raisesLowest_of_vecMem (exec_fput m t a b rel s),
      fun op q => State.raisesLowest_of_vecMem (exec_vatom m op t a b q s), fun op q => State.raisesLowest_of_vecMem (exec_vred m op t a b q s)⟩
  · exact ⟨_, execSadd_waits hpfx hdest ha, s.parkHere_waits _ _⟩

end Sys2Proof.Machine
end

section
/-! The issue of engine, port, matrix and heap words (R16, R29, R172 to R194, R197, R200 to R202). -/

namespace Sys2Proof.Machine

/-! ## Tokens (R16, R29) -/

/-- What a word that makes a register a token adds to what does not land. -/
def State.tokenLate (s u : State) (r : Nat) : List (Nat × Nat × Nat) :=
  (s.lateOf (u.updCw fun w => w.addToken r) [r]).map fun r => (s.cur.2.2, s.cs.issued + 1, 20000 + r)

theorem State.token_updCw_eq (s u : State) (r : Nat) : s.token r u = u.updCw (Wave.becomesToken r (s.tokenLate u r)) := by
  rw [State.token, State.overtake_eq, State.updCw_updCw]
  rfl

theorem State.token_cw (s u : State) (r : Nat) : (s.token r u).cw = u.cw.becomesToken r (s.tokenLate u r) := by
  rw [State.token_updCw_eq, State.cw_updCw]

theorem State.token_shadow (s u : State) (r : Nat) :
    s.token r u = u.updCw fun x => { x with tokens := x.tokens ++ [r], shadow := (s.token r u).cw.shadow } := by
  rw [State.token_cw, State.token_updCw_eq]
  exact State.updCw_congr rfl

/-- A result of an earlier word of the strand does not land over a register that has become a token. -/
theorem State.token_shadowed {s u : State} {r : Nat} {o : Result} (ho : o ∈ u.cw.outs) (hn : o.strand = s.cur.2.2)
    (hseq : o.seq ≤ s.cs.issued) (hkey : 20000 + r ∈ o.keys) : (s.token r u).cw.shadowed o (20000 + r) = true := by
  have houts : (u.updCw fun w => w.addToken r).cw.outs = u.cw.outs := by rw [State.cw_updCw]; rfl
  have hlate : r ∈ s.lateOf (u.updCw fun w => w.addToken r) [r] := by
    refine List.mem_filter.2 ⟨List.mem_singleton_self r, ?_⟩
    rw [Bool.or_eq_true, houts]
    refine .inl (List.any_eq_true.2 ⟨o, ho, ?_⟩)
    rw [List.contains_iff_mem.2 hkey, hn]
    simp
  rw [State.token_cw, Wave.shadowed]
  refine List.any_eq_true.2 ⟨(s.cur.2.2, s.cs.issued + 1, 20000 + r), List.mem_append_right _ (List.mem_map_of_mem hlate), ?_⟩
  simp [hn, Nat.lt_succ_of_le hseq]

/-! ## Engine and port words (R172, R178) -/

section
variable {s : State} {i : Instr} {m : Bool} {d : SReg} {reads : List Nat}

/-- The entry of an engine word. -/
def State.engineEntry (s : State) (i : Instr) (d : SReg) (n : Nat) (op : EngOp) : QEntry :=
  s.entryOf i (.engine n { op := op, token := d.toNat, core := s.cur.1, slot := s.cur.2.1, pc := s.cs.start,
                           opcode := opcodeOf (encode i) }) s.cs.memb true

theorem State.issueEngine_queues {n : Nat} {op : EngOp} (h : s.Queues i (s.sdest d.toNat 1) reads [] (s.engineEntry i d n op)) :
    s.issueEngine i m d reads n op = .next (s.queued m (s.engineEntry i d n op) (s.token d.toNat)) := by
  unfold State.issueEngine
  exact State.runQ_queues h

/-- The entry of a word of the memory port. -/
def State.portEntry (s : State) (i : Instr) (d : SReg) (kind : PortKind) (base : DWord) (len : Nat) : QEntry :=
  s.entryOf i (.port { kind := kind, base := base, len := len, token := d.toNat, pc := s.cs.start, opcode := opcodeOf (encode i) })
    s.cs.memb true

theorem State.issuePort_queues {kind : PortKind} {base : DWord} {len : Nat}
    (h : s.Queues i (s.sdest d.toNat 1) reads [] (s.portEntry i d kind base len)) :
    s.issuePort i m d reads kind base len = .next (s.queued m (s.portEntry i d kind base len) (s.token d.toNat)) := by
  unfold State.issuePort
  exact State.runQ_queues h

end

/-- Settles O29: the register becomes a token that earlier results do not reach, and the entry goes through the queue. -/
theorem engineWords : Obligations.EngineWords := by
  unfold Obligations.EngineWords
  refine ⟨fun r s u => ⟨s.token_shadow u r, fun o ho hn hseq hkey => State.token_shadowed ho hn hseq hkey⟩, fun m d a b s => ?_⟩
  exact ⟨fun q h => (exec_acopy m d a b q s).trans (State.issueEngine_queues h), fun h => (exec_gath m d a s).trans (State.issueEngine_queues h),
    fun h => (exec_scat m d a s).trans (State.issueEngine_queues h), fun h => (exec_coll m d a s).trans (State.issueEngine_queues h)⟩

theorem execL2pin_queues {s : State} {m : Bool} {ways a b : SReg} {slot : BitVec 3} (hbase : (s.sa64 a).toNat % 128 = 0)
    (hsize : (s.sa b).toNat % 128 = 0)
    (h : s.Queues (.l2pin m ways a b slot) [] (pairRegs a.toNat ++ [b.toNat]) []
      (s.entryOf (.l2pin m ways a b slot) (.pin slot.toNat ways.toNat (s.sa64 a) (s.sa b).toNat) s.cs.memb true)) :
    execL2pin m ways a b slot s =
      .next (s.queued m (s.entryOf (.l2pin m ways a b slot) (.pin slot.toNat ways.toNat (s.sa64 a) (s.sa b).toNat) s.cs.memb true)) := by
  have hbase' : (s.sp a.toNat).toNat % 128 = 0 := hbase
  have hsize' : (s.sr b.toNat).toNat % 128 = 0 := hsize
  unfold execL2pin
  simp only [hbase', hsize']
  exact State.runQ_queues h

theorem execL2unpin_queues {s : State} {m : Bool} {slot : BitVec 3}
    (h : s.Queues (.l2unpin m slot) [] [] [] (s.entryOf (.l2unpin m slot) (.pin slot.toNat 0 0 0) s.cs.memb true)) :
    execL2unpin m slot s = .next (s.queued m (s.entryOf (.l2unpin m slot) (.pin slot.toNat 0 0 0) s.cs.memb true)) := by
  unfold execL2unpin
  exact State.runQ_queues h

/-- Settles O31: each goes through the queue, with a pending token where it has one. -/
theorem portWords : Obligations.PortWords := by
  unfold Obligations.PortWords
  refine ⟨fun m d a b s => ⟨fun wb h => (exec_sunmap m d a wb s).trans (State.issuePort_queues h),
      fun h => (exec_cdrop m d a b s).trans (State.issuePort_queues h), fun h => (exec_cinv m d a b s).trans (State.issuePort_queues h),
      fun h => (exec_cinvI m d a b s).trans (State.issuePort_queues h), fun h => (exec_cwb m d a b s).trans (State.issuePort_queues h)⟩,
    fun m s => ⟨fun ways a b slot hbase hsize h => (exec_l2pin m ways a b slot s).trans (execL2pin_queues hbase hsize h),
      fun slot h => (exec_l2unpin m slot s).trans (execL2unpin_queues h)⟩⟩

end Sys2Proof.Machine
end

section
/-! The issue of matrix and heap words (R185 to R194, R200 to R202). -/

namespace Sys2Proof.Machine

/-! ## Matrix words (R185) -/

/-- A change of a block commutes with the park marker. -/
theorem State.marker_updBlock (s : State) (m : Bool) (b : Nat) (f : Block → Block) : (s.updBlock b f).marker m = (s.marker m).updBlock b f := by
  cases m <;> rfl

/-- A word that leaves one result outstanding and changes a block. -/
theorem State.did_result_updBlock {s : State} {i j : Instr} {static dynamic : List (Option Raise)} {reads : List Nat} (m : Bool) (r : Result)
    (b : Nat) (f : Block → Block) (h : s.Issues i static reads dynamic) :
    s.did m (fun t => s.result j r (t.updBlock b f)) = (s.wrote j m r).updBlock b f := by
  have hmark : (s.result j r s.advance).marker m = s.wrote j m r := State.marker_updCw m _ h.ready fun _ _ => rfl
  have hcalm : (s.wrote j m r).cw.latched = none := by
    rw [State.wrote, State.cw_updCw]
    exact (s.past_latched m).trans h.calm
  show (((s.result j r s.advance).updBlock b f).marker m).settle s.cur.1 s.cur.2.1 = _
  rw [State.marker_updBlock, hmark]
  exact State.settle_calm hcalm

theorem NoCause.of_subset {l k : List (Option Raise)} (h : NoCause l) (hs : ∀ x ∈ k, x = none ∨ x ∈ l) : NoCause k := by
  intro x hx
  rcases hs x hx with h' | h'
  · exact h'
  · exact h x h'

section
variable {s : State} {i : Instr} {m : Bool} {sh : Shape} {acc : BitVec 3} {reads : List Nat} {early : List (Option Raise)} {need : Need}
  {ranges : List (Nat × Nat)} {lines : Bool} {kind : MatKind}

/-- The entry of a matrix word whose pages are translated. -/
def State.matrixEntry (s : State) (i : Instr) (sh : Shape) (acc : BitVec 3) (need : Need) (ranges : List (Nat × Nat)) (lines : Bool)
    (kind : MatKind) : QEntry :=
  let pins := (s.matCheck s.cur.1 s.cw.blk need ranges).2.1
  s.entryOf i (.matrix
    { kind := kind, shape := sh, acc := acc.toNat, core := s.cur.1, slot := s.cur.2.1, pc := s.cs.start, word := encode i, pins := pins,
      lines := if lines then s.operandLines s.cw.vi pins ranges else [] }) s.cs.memb true

/-- A matrix word without a cause enters the wave's queue for mq. -/
theorem State.issueMatrix_queues (hcheck : (s.matCheck s.cur.1 s.cw.blk need ranges).1 = []) (hearly : NoCause early)
    (h : s.Queues i [] reads (s.matFaults i sh acc) (s.matrixEntry i sh acc need ranges lines kind)) :
    s.issueMatrix i m sh acc reads early need ranges lines kind =
      .next (s.queued m (s.matrixEntry i sh acc need ranges lines kind) fun t => (t.matCheck s.cur.1 s.cw.blk need ranges).2.2) := by
  have hclean : (early.filterMap id).isEmpty = true := by rw [hearly.filterMap]; rfl
  have hdynamic : NoCause (s.matFaults i sh acc ++ early ++ []) := (h.dynamic.append hearly).append noCause_nil
  have hissues : s.Issues i [] reads (s.matFaults i sh acc ++ early ++ []) :=
    { ready := h.ready, calm := h.calm, group := h.group, static := h.static, tokens := h.tokens, dynamic := hdynamic }
  unfold State.issueMatrix
  simp only [hclean, if_true, hcheck, List.foldl_nil, ite_self, List.map_nil, List.isEmpty_nil, Bool.and_true]
  exact State.runQ_queues { hissues with room := h.room }

end

/-- The alignment rule of a multiply's operands (R187). -/
def mmaAligned (pa pb : DWord) (fb : FmtBlock) : Option Raise :=
  firstUnaligned ([(pa.toNat, 32), (pb.toNat, 32), (fb.astr, 32), (fb.bstr, 32)] ++
    if fb.afmt ≤ 3 then [(fb.ascl.toNat, 2), (fb.bscl.toNat, 2)] else [])

/-- The registers that a multiply reads (R187). -/
def mmaReads (a b : BitVec 5) (f : BitVec 3) : List Nat :=
  pairRegs (2 * a.toNat) ++ pairRegs (2 * b.toNat) ++ blockRegs (8 * f.toNat) 8

/-- The metadata registers of a sparse multiply (R191). -/
def State.mmaWords (s : State) (f : BitVec 3) : Nat := (s.fmtBlock (8 * f.toNat)).kg * (256 / matWidth (s.fmtBlock (8 * f.toNat)).afmt) / 16

/-- The kind of a multiply, dense or with the metadata that a register and a row group name (R189, R191). -/
def State.mmaKind (s : State) (sh : Shape) (a b : BitVec 5) (f : BitVec 3) : Option (Nat × Nat) → MatKind
  | none => .mma (s.sp (2 * a.toNat)) (s.sp (2 * b.toNat)) (s.fmtBlock (8 * f.toNat))
  | some (v, rg) => .mmasp (s.sp (2 * a.toNat)) (s.sp (2 * b.toNat)) (s.fmtBlock (8 * f.toNat)) ((List.range sh.rows).map fun r =>
      (List.range (s.mmaWords f)).map fun k => s.cw.vreg (v + k) ((16 * rg + r) % 96))

/-- What a multiply reads (R189). -/
def State.mmaReadRanges (s : State) (sh : Shape) (a b : BitVec 5) (f : BitVec 3) (sparse : Bool) : List (Nat × Nat) :=
  mmaRanges sh (s.sp (2 * a.toNat)) (s.sp (2 * b.toNat)) (s.fmtBlock (8 * f.toNat)) sparse

section
variable {s : State} {i : Instr} {m : Bool} {sh : Shape} {acc : BitVec 3} {a b : BitVec 5} {f : BitVec 3}

/-- A dense multiply enters the queue. -/
theorem execMma_queues (hfmt : s.fmtBad (8 * f.toNat) false = false)
    (hcheck : (s.matCheck s.cur.1 s.cw.blk .rd (s.mmaReadRanges sh a b f false)).1 = [])
    (hearly : NoCause [mmaAligned (s.sp (2 * a.toNat)) (s.sp (2 * b.toNat)) (s.fmtBlock (8 * f.toNat))])
    (h : s.Queues (.mma m sh acc a b f) [] (mmaReads a b f) (s.matFaults (.mma m sh acc a b f) sh acc)
      (s.matrixEntry (.mma m sh acc a b f) sh acc .rd (s.mmaReadRanges sh a b f false) true (s.mmaKind sh a b f none))) :
    execMma m sh acc a b f s = .next (s.queued m
      (s.matrixEntry (.mma m sh acc a b f) sh acc .rd (s.mmaReadRanges sh a b f false) true (s.mmaKind sh a b f none))
      fun t => (t.matCheck s.cur.1 s.cw.blk .rd (s.mmaReadRanges sh a b f false)).2.2) := by
  unfold execMma State.issueMma
  simp only [Option.isSome_none, hfmt, List.nil_append]
  refine State.issueMatrix_queues hcheck (hearly.of_subset fun x hx => ?_) h
  simpa [mmaAligned] using hx

/-- A sparse multiply enters the queue. -/
theorem execMmasp_queues {x : XMod} (hx : s.cs.xmod = some x) (hfmt : s.fmtBad (8 * f.toNat) true = false)
    (hcheck : (s.matCheck s.cur.1 s.cw.blk .rd (s.mmaReadRanges sh a b f true)).1 = [])
    (hearly : NoCause (s.cw.vranges x.v4.toNat (max 1 (s.mmaWords f)) ++
      [mmaAligned (s.sp (2 * a.toNat)) (s.sp (2 * b.toNat)) (s.fmtBlock (8 * f.toNat))]))
    (h : s.Queues (.mmasp m sh acc a b f) [] (mmaReads a b f) (s.matFaults (.mmasp m sh acc a b f) sh acc)
      (s.matrixEntry (.mmasp m sh acc a b f) sh acc .rd (s.mmaReadRanges sh a b f true) true
        (s.mmaKind sh a b f (some (x.v4.toNat, x.aux.toNat))))) :
    execMmasp m sh acc a b f s = .next (s.queued m
      (s.matrixEntry (.mmasp m sh acc a b f) sh acc .rd (s.mmaReadRanges sh a b f true) true
        (s.mmaKind sh a b f (some (x.v4.toNat, x.aux.toNat))))
      fun t => (t.matCheck s.cur.1 s.cw.blk .rd (s.mmaReadRanges sh a b f true)).2.2) := by
  unfold execMmasp State.issueMma
  simp only [hx, Option.map_some, Option.getD_some, Option.isSome_some, hfmt]
  refine State.issueMatrix_queues hcheck (hearly.of_subset fun y hy => ?_) h
  simpa [mmaAligned, State.mmaWords, or_left_comm] using hy

/-- What the accumulator words check before their pages (R193). -/
def accAligned (s : State) (a b : BitVec 5) (fmt : AccFmt) : Option Raise :=
  firstUnaligned [((s.sp (2 * a.toNat)).toNat, fmt.bytes), ((s.sr (2 * b.toNat)).toNat, fmt.bytes)]

/-- The rows of an accumulator in memory (R193). -/
def accRanges (s : State) (sh : Shape) (a b : BitVec 5) (fmt : AccFmt) : List (Nat × Nat) :=
  (List.range sh.rows).map fun r => (((s.sp (2 * a.toNat)).toNat + r * (s.sr (2 * b.toNat)).toNat) % 2 ^ 64, sh.cols * fmt.bytes)

/-- An accumulator word enters the queue. -/
theorem State.issueAcc_queues {fmt : AccFmt} {store : Bool} {need : Need} {kind : MatKind}
    (hneed : (if store then .wr else .rd) = need)
    (hkind : (if store then .mstacc (s.sp (2 * a.toNat)) (s.sr (2 * b.toNat)).toNat fmt
      else .mldacc (s.sp (2 * a.toNat)) (s.sr (2 * b.toNat)).toNat fmt) = kind) (hhigh : s.sr (2 * b.toNat + 1) = 0)
    (hcheck : (s.matCheck s.cur.1 s.cw.blk need (accRanges s sh a b fmt)).1 = []) (hearly : NoCause [accAligned s a b fmt])
    (h : s.Queues i [] (pairRegs (2 * a.toNat) ++ pairRegs (2 * b.toNat)) (s.matFaults i sh acc)
      (s.matrixEntry i sh acc need (accRanges s sh a b fmt) false kind)) :
    s.issueAcc i m sh acc a b fmt store = .next (s.queued m (s.matrixEntry i sh acc need (accRanges s sh a b fmt) false kind)
      fun t => (t.matCheck s.cur.1 s.cw.blk need (accRanges s sh a b fmt)).2.2) := by
  unfold State.issueAcc
  simp only [hhigh, if_true, hneed, hkind]
  refine State.issueMatrix_queues hcheck (hearly.of_subset fun x hx => ?_) h
  simpa [accAligned] using hx

/-- MFENCE (R194). -/
theorem execMfence_issues {d : SReg} (h : s.Issues (.mfence m d) (s.sdest d.toNat 1) [] []) :
    execMfence m d s = .next ((s.wroteS (.mfence m d) m d (s.block s.cw.blk).batch).updBlock s.cw.blk fun b =>
      { b with batch := (s.block s.cw.blk).batch + 1 }) := by
  unfold execMfence
  simp only []
  rw [State.run_issues h, State.did_result_updBlock m _ _ _ h, scalarOut_word]
  rfl

end

/-- Settles O32: a matrix word without a cause enters the queue with its pinned pages, and MFENCE closes the batch. -/
theorem matrixWords : Obligations.MatrixWords := by
  unfold Obligations.MatrixWords
  intro m sh acc s
  refine ⟨fun hcheck hearly h => (exec_mzacc m sh acc s).trans (State.issueMatrix_queues hcheck hearly h), fun a b f => ⟨?_, ?_⟩,
    fun a b fmt hhigh => ⟨?_, ?_⟩, fun d h => (exec_mfence m d s).trans (execMfence_issues h)⟩
  · exact fun hfmt hcheck hearly h => (exec_mma m sh acc a b f s).trans (execMma_queues hfmt hcheck hearly h)
  · exact fun x hx hfmt hcheck hearly h => (exec_mmasp m sh acc a b f s).trans (execMmasp_queues hx hfmt hcheck hearly h)
  · exact fun hcheck hearly h => (exec_mstacc m sh acc a b fmt s).trans (State.issueAcc_queues rfl rfl hhigh hcheck hearly h)
  · exact fun hcheck hearly h => (exec_mldacc m sh acc a b fmt s).trans (State.issueAcc_queues rfl rfl hhigh hcheck hearly h)

/-! ## Heap words (R200, R202) -/

section
variable {s : State} {i : Instr} {m : Bool} {a : VReg} {b : Code}

/-- The entry of a heap word with an operand. -/
def State.heapEntry (s : State) (i : Instr) (a : VReg) (b : Code) (kind : HeapKind) (k : Kind) : QEntry :=
  s.entryOf i (.heap kind ((lanesOf s.exm).map fun l => (l, s.cw.vreg a.toNat l, BitVec.ofNat 32 (s.operand k b l)))) s.exm true

theorem State.issueHeap_queues {kind : HeapKind} {k : Kind}
    (h : s.Queues i (s.cw.vrange a.toNat :: s.cw.codeRange k b) (codeRegs k b) [] (s.heapEntry i a b kind k)) :
    s.issueHeap i m a kind k (some b) = .next (s.queued m (s.heapEntry i a b kind k)) := by
  unfold State.issueHeap
  exact State.runQ_queues h

/-- The entry of a TDONE. -/
def State.doneEntry (s : State) (i : Instr) (a : VReg) : QEntry :=
  s.entryOf i (.heap .tdone ((lanesOf s.exm).map fun l => (l, s.cw.vreg a.toNat l, 0))) s.exm true

theorem State.issueDone_queues (h : s.Queues i [s.cw.vrange a.toNat] [] [] (s.doneEntry i a)) :
    s.issueHeap i m a .tdone .i32 none = .next (s.queued m (s.doneEntry i a)) := by
  unfold State.issueHeap
  exact State.runQ_queues h

/-- HRES at a configured heap arrives at its controller. -/
theorem execHres_arrives {d : SReg} {heap : BitVec 6} (hheap : (s.heap s.cw.part heap.toNat).isSome = true)
    (h : s.Issues (.hres m d heap) (s.sdest d.toNat 2) [] []) :
    execHres m d heap s = .next (s.did m fun t =>
      (t.updHeap t.cw.part heap.toNat fun x => { x with arrivals := x.arrivals ++
        [⟨s.cur.1, s.cur.2.1, s.cur.2.2, 0, .hres, BitVec.setWidth 32 heap <<< 26, 0, d.toNat, s.cs.pc + 4, encode (.hres m d heap),
          s.cs.issued + 1⟩] }).updCw fun w => { w with heapOut := w.heapOut ++ [s.cur.2.2] }) := by
  unfold execHres
  simp only []
  rw [State.run_issues h]
  refine congrArg _ (State.did_congr (if_pos ?_))
  rw [State.advance, State.updCs_eq_updCw, State.cw_updCw]
  exact hheap

/-- HRES at a heap that is not configured notes HEAPERR. -/
theorem execHres_notes {d : SReg} {heap : BitVec 6} (hheap : (s.heap s.cw.part heap.toNat).isSome = false)
    (h : s.Issues (.hres m d heap) (s.sdest d.toNat 2) [] []) :
    execHres m d heap s = .next (s.did m fun t =>
      t.note s.cur.1 s.cur.2.1 s.cur.2.2 ⟨.heaperr, (BitVec.setWidth 32 heap <<< 26 : Word).setWidth 64, s.exm, encode (.hres m d heap)⟩) := by
  unfold execHres
  simp only []
  rw [State.run_issues h]
  refine congrArg _ (State.did_congr (if_neg ?_))
  rw [State.advance, State.updCs_eq_updCw, State.cw_updCw]
  exact ne_true_of_eq_false hheap

end

/-- Settles O33: one operation for each lane goes through the queue; HRES arrives at its heap, or notes HEAPERR. -/
theorem heapWords : Obligations.HeapWords := by
  unfold Obligations.HeapWords
  intro m a b s
  exact ⟨fun h => (exec_tenq m a b s).trans (State.issueHeap_queues h), fun h => (exec_tgaina m a b s).trans (State.issueHeap_queues h),
    fun h => (exec_tgainm m a b s).trans (State.issueHeap_queues h), fun h => (exec_tgains m a b s).trans (State.issueHeap_queues h),
    fun h => (exec_tjset m a b s).trans (State.issueHeap_queues h), fun h => (exec_tdone m a s).trans (State.issueDone_queues h),
    fun d heap h => ⟨fun hheap => (exec_hres m d heap s).trans (execHres_arrives hheap h),
      fun hheap => (exec_hres m d heap s).trans (execHres_notes hheap h)⟩⟩

end Sys2Proof.Machine
end

section
/-! Known words, what reset leaves, and waves at their start (R24, R25, R277, R328). -/

namespace Sys2Proof.Machine

/-- Settles O53: each word decodes to its instruction. -/
theorem knownWords : Obligations.KnownWords := by
  unfold Obligations.KnownWords
  decide

/-! ## Reset (R277, R328) -/

theorem State.reset_viRead (vi off : Nat) : State.reset.viRead vi off = if off = 0x1104 then 5000 else 0 := by
  have hvi : State.reset.vi vi = {} := rfl
  have hparts : State.reset.parts = [] := rfl
  by_cases hqueue : off < 0x400
  · have hslice : off ≠ 0x1104 := by omega
    simp only [State.viRead, hqueue, if_true, hslice, if_false, hvi, hparts, SMap.get]
    split <;> rfl
  · simp only [State.viRead, hqueue, if_false, hvi, SMap.get]
    split
    case h_8 hne =>
      rw [if_neg hne]
      split
      · split <;> rfl
      · rfl
    all_goals rfl

theorem State.reset_pfRead (off : Nat) : State.reset.pfRead off = if off = 0x18 then 0x3FF else 0 := by
  unfold State.pfRead
  split
  case h_4 => rfl
  case h_9 hne _ _ _ _ => rw [if_neg hne]
  all_goals rfl

/-- Settles O55: every register reads what its column of reset says. -/
theorem resetState : Obligations.ResetState := by
  unfold Obligations.ResetState
  exact ⟨State.reset_viRead, State.reset_pfRead, rfl, rfl, rfl, rfl⟩

/-! ## Registers set one after another -/

section
variable {β : Type} {step : SMap Word → β → SMap Word} {sets : β → Nat → Option Word}

/-- A register that no element of a list sets keeps its value. -/
theorem SMap.get_foldl_none (hstep : ∀ m x k, SMap.get 0 (step m x) k = (sets x k).getD (SMap.get 0 m k)) (l : List β) (m : SMap Word)
    (k : Nat) (h : ∀ x ∈ l, sets x k = none) : SMap.get 0 (l.foldl step m) k = SMap.get 0 m k := by
  induction l generalizing m with
  | nil => rfl
  | cons x t ih =>
    rw [List.foldl_cons, ih _ fun y hy => h y (List.mem_cons_of_mem _ hy), hstep, h x List.mem_cons_self]
    rfl

/-- A register that the elements of a list set to one value has it. -/
theorem SMap.get_foldl_some (hstep : ∀ m x k, SMap.get 0 (step m x) k = (sets x k).getD (SMap.get 0 m k)) (l : List β) (m : SMap Word)
    (k : Nat) (v : Word) (h : ∀ x ∈ l, sets x k = none ∨ sets x k = some v) (hsome : ∃ x ∈ l, sets x k = some v) :
    SMap.get 0 (l.foldl step m) k = v := by
  induction l generalizing m with
  | nil => obtain ⟨x, hx, _⟩ := hsome; cases hx
  | cons x t ih =>
    have ht : ∀ y ∈ t, sets y k = none ∨ sets y k = some v := fun y hy => h y (List.mem_cons_of_mem _ hy)
    rw [List.foldl_cons]
    by_cases hlater : ∃ y ∈ t, sets y k = some v
    · exact ih _ ht hlater
    · have hnone : ∀ y ∈ t, sets y k = none := fun y hy => (ht y hy).resolve_right fun e => hlater ⟨y, hy, e⟩
      obtain ⟨y, hy, hyv⟩ := hsome
      have hx : sets x k = some v := by
        rcases List.mem_cons.1 hy with rfl | hyt
        · exact hyv
        · rw [hnone y hyt] at hyv; cases hyv
      rw [SMap.get_foldl_none hstep t _ k hnone, hstep, hx]
      rfl

end

theorem SMap.get_set (m : SMap Word) (a k : Nat) (v : Word) :
    SMap.get 0 (SMap.set 0 m a v) k = (if k = a then some v else none).getD (SMap.get 0 m k) := by
  split
  next h => rw [h, SMap.get_set_self]; rfl
  next h => rw [SMap.get_set_of_ne 0 m v h]; rfl

/-- The lanes below a bound. -/
theorem getLsbD_lanesBelow (n l : Nat) (hl : l < 96) : (BitVec.ofNat 96 (2 ^ min 96 n - 1)).getLsbD l = decide (l < n) := by
  rw [BitVec.getLsbD_ofNat, Nat.testBit_two_pow_sub_one, decide_eq_true hl, Bool.true_and, decide_eq_decide]
  omega

theorem vkey_inj {r r' l l' : Nat} (hl : l < 96) (hl' : l' < 96) : vkey r l = vkey r' l' ↔ r = r' ∧ l = l' := by
  unfold vkey
  omega

/-! ## Kernel waves (R24) -/

section
variable (p : Packet) (b : Block) (blk i cycle : Nat)

theorem kernelWave_vreg_zero {l : Nat} (hl : l < 96) : (kernelWave p b blk i cycle).vreg 0 l = BitVec.ofNat 32 (96 * i + l) := by
  refine SMap.get_foldl_some (sets := fun l k => if k = vkey 0 l then some (BitVec.ofNat 32 (96 * i + l)) else none)
    (fun m x k => SMap.get_set m (vkey 0 x) k _) _ _ _ _ (fun x hx => ?_) ⟨l, List.mem_range.2 hl, if_pos rfl⟩
  by_cases h : vkey 0 l = vkey 0 x
  · have hlx := ((vkey_inj hl (List.mem_range.1 hx)).1 h).2
    subst hlx
    exact .inr (if_pos rfl)
  · exact .inl (if_neg h)

theorem kernelWave_vreg_pos {r l : Nat} (hr : 0 < r) (hl : l < 96) : (kernelWave p b blk i cycle).vreg r l = 0 := by
  refine (SMap.get_foldl_none (sets := fun l k => if k = vkey 0 l then some (BitVec.ofNat 32 (96 * i + l)) else none)
    (fun m x k => SMap.get_set m (vkey 0 x) k _) _ _ _ fun x hx => if_neg fun h => ?_).trans rfl
  have hr0 := ((vkey_inj hl (List.mem_range.1 hx)).1 h).1
  omega

/-- What a kernel wave's scalar registers start with (R24). -/
def kernelSregs (p : Packet) (b : Block) (i : Nat) : List (Nat × Word) :=
  [(0, p.args.setWidth 32), (1, (p.args >>> 32).setWidth 32), (2, b.x), (3, b.y), (4, b.z), (5, BitVec.ofNat 32 i)]

theorem kernelWave_sreg {r : Nat} (hr : r < 60) :
    (kernelWave p b blk i cycle).sreg 0 r = SMap.get 0 ((kernelSregs p b i).foldl (fun m x => SMap.set 0 m x.1 x.2) []) r := by
  rw [Wave.sreg, if_neg (by omega), if_neg (by omega)]
  rfl

/-- The value of a register that a list of pairs names. -/
def pairSets (x : Nat × Word) (k : Nat) : Option Word := if k = x.1 then some x.2 else none

theorem kernelWave_sreg_of_mem {r : Nat} {v : Word} (h : (r, v) ∈ kernelSregs p b i) : (kernelWave p b blk i cycle).sreg 0 r = v := by
  have hfirst (x : Nat × Word) (hx : x ∈ kernelSregs p b i) : x.1 = r → x.2 = v := by
    simp only [kernelSregs, List.mem_cons, List.not_mem_nil, or_false, Prod.mk.injEq] at h hx
    intro e
    rcases hx with rfl | rfl | rfl | rfl | rfl | rfl <;> subst e <;> simpa [eq_comm] using h
  have hr : r < 60 := by
    simp only [kernelSregs, List.mem_cons, List.not_mem_nil, or_false, Prod.mk.injEq] at h
    omega
  rw [kernelWave_sreg p b blk i cycle hr]
  refine SMap.get_foldl_some (sets := pairSets) (fun m x k => SMap.get_set m x.1 k x.2) _ _ _ _ (fun x hx => ?_) ⟨(r, v), h, if_pos rfl⟩
  by_cases e : r = x.1
  · exact .inr (by rw [pairSets, if_pos e, hfirst x hx e.symm])
  · exact .inl (if_neg e)

theorem kernelWave_sreg_high {r : Nat} (hlo : 6 ≤ r) (hhi : r < 60) : (kernelWave p b blk i cycle).sreg 0 r = 0 := by
  rw [kernelWave_sreg p b blk i cycle hhi]
  refine (SMap.get_foldl_none (sets := pairSets) (fun m x k => SMap.get_set m x.1 k x.2) _ _ _ fun x hx => if_neg fun h => ?_).trans rfl
  simp only [kernelSregs, List.mem_cons, List.not_mem_nil, or_false] at hx
  rcases hx with rfl | rfl | rfl | rfl | rfl | rfl <;> simp only at h <;> omega

end

/-! ## Task waves (R25) -/

/-- The handle of a task of a heap. -/
def taskHandle (heap i : Nat) : Word := BitVec.ofNat 32 (heap * 2 ^ 26 + i)

/-- What a task sets in the vector registers of its wave. -/
def taskSets (heap : Nat) (p : (Nat × TaskRec) × Nat) (k : Nat) : Option Word :=
  if k = vkey 2 p.2 then some (taskHandle heap p.1.1)
  else if k = vkey 1 p.2 then some ((p.1.2.frame >>> 32).setWidth 32)
  else if k = vkey 0 p.2 then some (p.1.2.frame.setWidth 32) else none

section
variable (h : Heap) (part heap blk cycle : Nat) (d : UnitDesc) (l : List (Nat × TaskRec))

theorem taskWave_step (v : SMap Word) (p : (Nat × TaskRec) × Nat) (k : Nat) :
    SMap.get 0 (SMap.set 0 (SMap.set 0 (SMap.set 0 v (vkey 0 p.2) (p.1.2.frame.setWidth 32)) (vkey 1 p.2) ((p.1.2.frame >>> 32).setWidth 32))
      (vkey 2 p.2) (taskHandle heap p.1.1)) k = (taskSets heap p k).getD (SMap.get 0 v k) := by
  rw [SMap.get_set, SMap.get_set, SMap.get_set, taskSets]
  split
  · rfl
  · split
    · rfl
    · split <;> rfl

theorem taskSets_vkey {p : (Nat × TaskRec) × Nat} {r k : Nat} (hp : p.2 < 96) (hk : k < 96) :
    taskSets heap p (vkey r k) = if p.2 = k then
      (if r = 2 then some (taskHandle heap p.1.1) else if r = 1 then some ((p.1.2.frame >>> 32).setWidth 32)
        else if r = 0 then some (p.1.2.frame.setWidth 32) else none) else none := by
  simp only [taskSets, vkey_inj hk hp]
  by_cases e : p.2 = k
  · simp [e]
  · simp [e, Ne.symm e]

/-- A register that each task sets for its lane. -/
theorem taskWave_vreg_of_task (hlen : l.length ≤ 96) {k r : Nat} {t : Nat × TaskRec} {v : Word} (ht : l[k]? = some t)
    (hv : taskSets heap (t, k) (vkey r k) = some v) : (taskWave h part heap blk cycle d l).vreg r k = v := by
  have hk : k < l.length := (List.getElem?_eq_some_iff.1 ht).1
  refine SMap.get_foldl_some (sets := taskSets heap) (taskWave_step heap) _ _ _ _ (fun x hx => ?_)
    ⟨(t, k), List.mem_zipIdx_iff_getElem?.2 ht, hv⟩
  have hx' : l[x.2]? = some x.1 := List.mem_zipIdx_iff_getElem?.1 hx
  have hx2 : x.2 < l.length := (List.getElem?_eq_some_iff.1 hx').1
  by_cases e : x.2 = k
  · have hxt : x = (t, k) := Prod.ext (Option.some.inj ((e ▸ hx').symm.trans ht)) e
    exact .inr (hxt ▸ hv)
  · exact .inl (by rw [taskSets_vkey heap (by omega) (by omega), if_neg e])

theorem taskWave_vreg_other (hlen : l.length ≤ 96) {k r : Nat} (hk : k < 96) (hr : 3 ≤ r ∨ l.length ≤ k) :
    (taskWave h part heap blk cycle d l).vreg r k = 0 := by
  refine (SMap.get_foldl_none (sets := taskSets heap) (taskWave_step heap) _ _ _ fun x hx => ?_).trans rfl
  have hx2 : x.2 < l.length := (List.getElem?_eq_some_iff.1 (List.mem_zipIdx_iff_getElem?.1 hx)).1
  rw [taskSets_vkey heap (by omega) hk]
  rcases hr with hr | hr
  · rw [if_neg (by omega : r ≠ 2), if_neg (by omega : r ≠ 1), if_neg (by omega : r ≠ 0), ite_self]
  · exact if_neg (by omega)

theorem taskWave_sreg {r : Nat} (hr : r < 60) :
    (taskWave h part heap blk cycle d l).sreg 0 r =
      SMap.get 0 (SMap.set 0 (SMap.set 0 [] 0 (h.hdesc.setWidth 32)) 1 ((h.hdesc >>> 32).setWidth 32)) r := by
  rw [Wave.sreg, if_neg (by omega), if_neg (by omega)]
  rfl

end

/-- Settles O50: what the registers of a kernel wave and of a task wave hold at its start. -/
theorem waveStart : Obligations.WaveStart := by
  unfold Obligations.WaveStart
  refine ⟨fun p b blk i cycle => ?_, fun h part heap blk cycle d l hlen => ?_⟩
  · have hs {r : Nat} {v : Word} := kernelWave_sreg_of_mem p b blk i cycle (r := r) (v := v)
    exact ⟨fun l hl => kernelWave_vreg_zero p b blk i cycle hl, fun r l hr hl => kernelWave_vreg_pos p b blk i cycle hr hl,
      hs (by simp [kernelSregs]), hs (by simp [kernelSregs]), hs (by simp [kernelSregs]), hs (by simp [kernelSregs]),
      hs (by simp [kernelSregs]), hs (by simp [kernelSregs]), fun r hlo hhi => kernelWave_sreg_high p b blk i cycle hlo hhi,
      rfl, rfl, rfl, fun l hl => getLsbD_lanesBelow _ _ hl, rfl, rfl, rfl⟩
  · refine ⟨fun k t ht => ?_, fun r k hk hr => taskWave_vreg_other h part heap blk cycle d l hlen hk hr, ?_, ?_, fun r hlo hhi => ?_, rfl, rfl,
      fun k hk => getLsbD_lanesBelow _ _ hk, rfl⟩
    · have hk : k < 96 := Nat.lt_of_lt_of_le (List.getElem?_eq_some_iff.1 ht).1 hlen
      have hv {r : Nat} {v : Word} := taskWave_vreg_of_task h part heap blk cycle d l hlen (r := r) (v := v) ht
      refine ⟨hv ?_, hv ?_, hv ?_⟩ <;> rw [taskSets_vkey heap hk hk, if_pos rfl] <;> rfl
    · rw [taskWave_sreg (hr := by decide), SMap.get_set_of_ne _ _ _ (by decide), SMap.get_set_self]
    · rw [taskWave_sreg (hr := by decide), SMap.get_set_self]
    · rw [taskWave_sreg (hr := hhi), SMap.get_set_of_ne _ _ _ (by omega), SMap.get_set_of_ne _ _ _ (by omega)]
      rfl

end Sys2Proof.Machine
end

section
/-! A step runs the word at the PC, or the event of the agenda (R215, R216, R221). -/

namespace Sys2Proof.Machine

/-! ## Every step answers a next state -/

theorem exec_next (i : Instr) (s : State) : ∃ t, exec i s = .next t := by
  cases i
  case kmov m d b => cases b <;> exact ⟨_, rfl⟩
  all_goals exact ⟨_, rfl⟩

theorem State.issueWord_next (s : State) (i : Instr) : ∃ t, s.issueWord i = .next t := by
  obtain ⟨u, hu⟩ := exec_next i (s.account i)
  rw [State.issueWord, hu]
  show ∃ t, (if u.stalls then exec i s else .next u) = .next t
  split
  · exact exec_next i s
  · exact ⟨u, rfl⟩

theorem State.issueNext_next (s : State) (core slot n : Nat) : ∃ t, s.issueNext core slot n = .next t := by
  unfold State.issueNext
  split
  · exact ⟨_, rfl⟩
  · simp only []
    split
    · exact ⟨_, rfl⟩
    · exact State.issueWord_next ..

theorem State.choose_next (s : State) (c : Choice) : ∃ t, s.choose c = .next t := by
  cases c
  case issue core slot n => exact s.issueNext_next core slot n
  case event i =>
    show ∃ t, (if Instr.isEvent i then exec i s else .next s) = .next t
    split
    · exact exec_next i s
    · exact ⟨s, rfl⟩
  all_goals exact ⟨_, rfl⟩

theorem State.issueMove_next {s : State} {ws : List (Nat × Nat × Wave)} {o : Host.Outcome State Fault Refusal} (h : s.issueMove ws = some o) :
    ∃ t, o = .next t := by
  unfold State.issueMove at h
  split at h
  next core slot n _ =>
    obtain ⟨t, ht⟩ := s.issueNext_next core slot n
    exact ⟨t, (Option.some.inj h).symm.trans ht⟩
  · split at h
    · simp only [] at h
      split at h
      next core slot n _ =>
        obtain ⟨t, ht⟩ := (s.served.tick 1).issueNext_next core slot n
        exact ⟨t, (Option.some.inj h).symm.trans ht⟩
      · exact ⟨_, (Option.some.inj h).symm⟩
    · cases h

theorem State.auto_next (s : State) : ∃ t, s.auto = .next t := by
  unfold State.auto
  simp only []
  split
  · exact ⟨_, rfl⟩
  · split
    · exact ⟨_, rfl⟩
    · split
      next o ho => exact State.issueMove_next ho
      · split <;> exact ⟨_, rfl⟩

theorem step_next (s : State) : ∃ t, step s = .next t := by
  unfold step State.stepOnce
  split
  · exact State.choose_next ..
  · exact s.auto_next

/-! ## The counts of an issue (R215, R216, R302) -/

/-- What the counts of an issue leave of a strand. -/
structure Strand.OnlyCounts (x y : Strand) : Prop where
  pc : y.pc = x.pc
  am : y.am = x.am
  memb : y.memb = x.memb
  pfx : y.pfx = x.pfx
  state : y.state = x.state

/-- What the counts of an issue leave of a wave. -/
structure Wave.OnlyCounts (w u : Wave) : Prop where
  regs : SameRegs w u
  outs : u.outs = w.outs
  queue : u.queue = w.queue
  strands : ∀ n, (w.strand n).OnlyCounts (u.strand n)

/-- What the counts of an issue leave of the state. -/
structure State.OnlyCounts (s t : State) : Prop where
  cur : t.cur = s.cur
  mem : t.mem = s.mem
  blocks : t.blocks = s.blocks
  waves : ∀ k, (s.waveK k).OnlyCounts (t.waveK k)

theorem SameRegs.refl (w : Wave) : SameRegs w w := ⟨rfl, rfl, rfl, rfl, rfl, rfl, rfl, rfl, rfl, rfl, rfl, rfl, rfl, rfl, rfl⟩

theorem SameRegs.trans {w u v : Wave} (h : SameRegs w u) (g : SameRegs u v) : SameRegs w v :=
  ⟨g.v.trans h.v, g.s.trans h.s, g.tokens.trans h.tokens, g.fmode.trans h.fmode, g.fstat.trans h.fstat, g.mstat.trans h.mstat,
    g.vbudget.trans h.vbudget, g.role.trans h.role, g.barphase.trans h.barphase, g.tcause.trans h.tcause, g.tval.trans h.tval,
    g.tpc.trans h.tpc, g.tskid.trans h.tskid, g.tlane.trans h.tlane, g.tstrand.trans h.tstrand⟩

theorem Strand.OnlyCounts.refl (x : Strand) : x.OnlyCounts x := ⟨rfl, rfl, rfl, rfl, rfl⟩

theorem Strand.OnlyCounts.trans {x y z : Strand} (h : x.OnlyCounts y) (g : y.OnlyCounts z) : x.OnlyCounts z :=
  ⟨g.pc.trans h.pc, g.am.trans h.am, g.memb.trans h.memb, g.pfx.trans h.pfx, g.state.trans h.state⟩

theorem Wave.OnlyCounts.refl (w : Wave) : w.OnlyCounts w := ⟨.refl w, rfl, rfl, fun _ => .refl _⟩

theorem Wave.OnlyCounts.trans {w u v : Wave} (h : w.OnlyCounts u) (g : u.OnlyCounts v) : w.OnlyCounts v :=
  ⟨h.regs.trans g.regs, g.outs.trans h.outs, g.queue.trans h.queue, fun n => (h.strands n).trans (g.strands n)⟩

theorem State.OnlyCounts.refl (s : State) : s.OnlyCounts s := ⟨rfl, rfl, rfl, fun _ => .refl _⟩

theorem State.OnlyCounts.trans {s t u : State} (h : s.OnlyCounts t) (g : t.OnlyCounts u) : s.OnlyCounts u :=
  ⟨g.cur.trans h.cur, g.mem.trans h.mem, g.blocks.trans h.blocks, fun k => (h.waves k).trans (g.waves k)⟩

theorem State.updWave_onlyCounts (s : State) (core slot : Nat) (f : Wave → Wave) (hf : ∀ w : Wave, w.OnlyCounts (f w)) : s.OnlyCounts (s.updWave core slot f) := by
  refine ⟨rfl, rfl, rfl, fun k => ?_⟩
  by_cases hk : k = waveKey core slot
  · subst hk
    have hself : (s.updWave core slot f).waveK (waveKey core slot) = f (s.waveK (waveKey core slot)) := s.wave_updWave_self core slot f
    rw [hself]
    exact hf _
  · rw [State.waveK_updWave_of_ne s f hk]
    exact .refl _

theorem State.updCw_onlyCounts (s : State) (f : Wave → Wave) (hf : ∀ w : Wave, w.OnlyCounts (f w)) : s.OnlyCounts (s.updCw f) :=
  s.updWave_onlyCounts _ _ f hf

/-- The strands of a wave, each with counts of its own. -/
theorem Wave.mapStrands_onlyCounts (w : Wave) (f : Nat → Strand → Strand) (hf : ∀ n x, Strand.OnlyCounts x (f n x)) :
    w.OnlyCounts { w with strands := w.strands.map fun p => (p.1, f p.1 p.2) } := by
  refine ⟨⟨rfl, rfl, rfl, rfl, rfl, rfl, rfl, rfl, rfl, rfl, rfl, rfl, rfl, rfl, rfl⟩, rfl, rfl, fun n => ?_⟩
  show (SMap.get {} w.strands n).OnlyCounts (SMap.get {} (w.strands.map fun p => (p.1, f p.1 p.2)) n)
  induction w.strands with
  | nil => exact .refl _
  | cons p t ih =>
    obtain ⟨a, x⟩ := p
    simp only [List.map_cons, SMap.get]
    split
    · exact hf a x
    · exact ih

theorem State.OnlyCounts.foldl {f : State → β → State} (h : ∀ s x, State.OnlyCounts s (f s x)) (l : List β) (s : State) :
    s.OnlyCounts (l.foldl f s) := by
  induction l generalizing s with
  | nil => exact .refl s
  | cons a t ih => exact (h s a).trans (ih _)

/-- The wait count of a strand after an issue: cleared, one more, or as it was (R216). -/
def Strand.withWaits (st : Strand) (issuing ages : Bool) : Strand :=
  if issuing then { st with waits := 0, cappedAt := none } else if ages then { st with waits := st.waits + 1 } else st

theorem Strand.withWaits_onlyCounts (st : Strand) (issuing ages : Bool) : st.OnlyCounts (st.withWaits issuing ages) := by
  unfold Strand.withWaits
  split
  · exact ⟨rfl, rfl, rfl, rfl, rfl⟩
  · split <;> exact ⟨rfl, rfl, rfl, rfl, rfl⟩

theorem State.countWaits_onlyCounts (s : State) : s.OnlyCounts s.countWaits := by
  unfold State.countWaits
  refine State.OnlyCounts.foldl (fun t k => ?_) _ s
  simp only []
  split
  · exact State.updWave_onlyCounts _ _ _ _ fun w => w.mapStrands_onlyCounts
      (fun n x => x.withWaits (16 * quarterOf t.cur.2.1 + k = t.cur.2.1 && n = t.cur.2.2) (w.ages n)) fun n x => x.withWaits_onlyCounts _ _
  · exact .refl t

theorem Wave.stopSkid_onlyCounts (w : Wave) (n : Nat) : w.OnlyCounts { w with stopSkid := n } :=
  ⟨⟨rfl, rfl, rfl, rfl, rfl, rfl, rfl, rfl, rfl, rfl, rfl, rfl, rfl, rfl, rfl⟩, rfl, rfl, fun _ => .refl _⟩

theorem Wave.sinceHalt_onlyCounts (w : Wave) (n : Nat) : w.OnlyCounts { w with sinceHalt := n } :=
  ⟨⟨rfl, rfl, rfl, rfl, rfl, rfl, rfl, rfl, rfl, rfl, rfl, rfl, rfl, rfl, rfl⟩, rfl, rfl, fun _ => .refl _⟩

theorem State.countSkid_onlyCounts (s : State) : s.OnlyCounts s.countSkid := by
  have hstop : s.OnlyCounts (if (s.block s.cw.blk).stopping then s.updCw fun w => { w with stopSkid := w.stopSkid + 1 } else s) := by
    split
    · exact s.updCw_onlyCounts _ fun w => w.stopSkid_onlyCounts _
    · exact .refl s
  unfold State.countSkid
  generalize (if (s.block s.cw.blk).stopping then s.updCw fun w => { w with stopSkid := w.stopSkid + 1 } else s) = t at hstop
  simp only []
  split
  · exact hstop.trans (State.updCw_onlyCounts _ _ fun w => w.sinceHalt_onlyCounts _)
  · exact hstop

theorem State.updCore_onlyCounts (s : State) (c : Nat) (f : Core → Core) : s.OnlyCounts (s.updCore c f) :=
  ⟨rfl, rfl, rfl, fun _ => .refl _⟩

theorem State.account_onlyCounts (s : State) (i : Instr) : s.OnlyCounts (s.account i) := by
  unfold State.account
  simp only []
  exact (s.updCore_onlyCounts _ _).trans ((State.countWaits_onlyCounts _).trans (State.countSkid_onlyCounts _))

/-! ## The word at the PC (R215, R221) -/

/-- The word that a line holds at an aligned offset. -/
theorem wordOfBytes_line (line : LineData) (o : Nat) :
    wordOfBytes (line.extractLsb' (8 * (o + 0)) 8) (line.extractLsb' (8 * (o + 1)) 8) (line.extractLsb' (8 * (o + 2)) 8)
      (line.extractLsb' (8 * (o + 3)) 8) = BitVec.ofNat 32 (lineGet line o 4) := by
  apply BitVec.eq_of_getLsbD_eq
  intro i hi
  simp only [wordOfBytes, BitVec.getLsbD_append, BitVec.getLsbD_extractLsb', BitVec.getLsbD_ofNat, lineGet, Nat.testBit_mod_two_pow,
    Nat.testBit_div_two_pow, hi, decide_true, Bool.true_and, BitVec.testBit_toNat]
  split_ifs <;> rw [decide_eq_true (by omega), Bool.true_and] <;> congr 1 <;> omega

theorem State.stepOnce_cons {s : State} {c : Choice} {rest : List Choice} (h : s.agenda = c :: rest) :
    step s = ({ s with agenda := rest } : State).choose c := by
  unfold step State.stepOnce
  rw [h]

/-- The word of a strand whose line is in the instruction cache. -/
theorem State.nextWord_cached {s : State} {core slot n : Nat} {line : LineData}
    (hcanon : canonical (((s.wave core slot).strand n).pc.toNat) = true)
    (hline : SMap.find? (s.core core).icache (icacheKey (s.wave core slot).vi ((s.wave core slot).strand n).pc.toNat) = some line) :
    s.nextWord core slot n = some (BitVec.ofNat 32 (lineGet line (((s.wave core slot).strand n).pc.toNat % 128) 4)) := by
  simp only [State.nextWord, hcanon, if_true, State.cachedWord, hline, Option.map_some]

/-- A picked strand issues the word at its PC, or waits at it. -/
theorem State.issueNext_picked {s : State} {core slot n : Nat} {line : LineData} {i : Instr} {v : State}
    (hnext : (s.nextWord core slot n).isSome = true) (hpick : (s.issueCycle core slot).pick core (quarterOf slot) = some (slot, n))
    (hword : ((s.issueCycle core slot).nextWord core slot n) = some (BitVec.ofNat 32 (lineGet line
      ((((s.issueCycle core slot).wave core slot).strand n).pc.toNat % 128) 4)))
    (hdecode : decode (BitVec.ofNat 32 (lineGet line ((((s.issueCycle core slot).wave core slot).strand n).pc.toNat % 128) 4)) = i)
    (hexec : exec i (({ s.issueCycle core slot with cur := (core, slot, n) } : State).account i) = .next v) :
    s.issueNext core slot n =
      if v.cs.state = .parked ∧ v.cs.retries = true then exec i { s.issueCycle core slot with cur := (core, slot, n) } else .next v := by
  have hsome : ¬ (s.nextWord core slot n).isNone = true := by simpa [Option.isSome_iff_ne_none] using hnext
  have hstalls : (v.stalls = true) = (v.cs.state = .parked ∧ v.cs.retries = true) := by simp [State.stalls]
  rw [State.issueNext, if_neg hsome]
  simp only [hpick, bne_self_eq_false, Bool.false_eq_true, if_false, hword, Option.getD_some, hdecode]
  rw [State.issueWord, hexec]
  simp only [hstalls]

/-- A strand whose next word is not in the instruction cache fetches its line. -/
theorem State.issueNext_fetches {s u : State} {core slot n : Nat} {x : Xlat}
    (hnone : s.nextWord core slot n = none) (hmay : s.mayIssue core slot n = true)
    (hx : ({ s with cur := (core, slot, n) } : State).translate core (s.wave core slot).vi ((s.wave core slot).strand n).pc.toNat .fetch =
      .ok (x, u)) (hbad : s.bad.contains x.line = false) :
    s.issueNext core slot n = .next (({ s with cur := (core, slot, n) } : State).fetchFill core (s.wave core slot).vi
      ((s.wave core slot).strand n).pc.toNat) := by
  have hfetch : ({ s with cur := (core, slot, n) } : State).fetch =
      .ok (({ s with cur := (core, slot, n) } : State).fetchFill core (s.wave core slot).vi ((s.wave core slot).strand n).pc.toNat) := by
    show (match ({ s with cur := (core, slot, n) } : State).translate core (s.wave core slot).vi
      ((s.wave core slot).strand n).pc.toNat .fetch with | .error r => _ | .ok (x, _) => _) = _
    rw [hx]
    show (if s.bad.contains x.line then _ else _) = _
    rw [hbad]
    rfl
  rw [State.issueNext, hnone]
  show Host.Outcome.next (s.fetchNext core slot n) = _
  simp only [State.fetchNext, hmay, hfetch]
  rfl

/-- Settles O54: the word at the PC, the fetch, the counts, the events, and a next state in every case. -/
theorem stepRunsTheWord : Obligations.StepRunsTheWord := by
  unfold Obligations.StepRunsTheWord
  refine ⟨fun s core slot n rest line i v hagenda hnext hpick hcanon hline _ _ _ hbytes hexec => ?_,
    fun s u core slot n rest x hagenda hcore hnone hmay hx hbad => ?_, fun i u => ?_, fun s i rest hagenda hword hill => ?_, exec_next, step_next⟩
  · have hdecode := Option.some.inj hbytes
    rw [wordOfBytes_line] at hdecode
    rw [State.stepOnce_cons hagenda]
    exact State.issueNext_picked hnext hpick (State.nextWord_cached hcanon hline) hdecode hexec
  · rw [State.stepOnce_cons hagenda, exec_fetchFill]
    refine (State.issueNext_fetches (s := { s with agenda := rest }) hnone hmay hx hbad).trans ?_
    rw [execFetchFill, if_pos hcore]
    rfl
  · have h := u.account_onlyCounts i
    have hw : u.cw.OnlyCounts (u.account i).cw := by
      rw [show (u.account i).cw = (u.account i).wave u.cur.1 u.cur.2.1 by rw [← h.cur]; rfl]
      exact h.waves _
    have hs : u.cs.OnlyCounts (u.account i).cs := by
      rw [show (u.account i).cs = (u.account i).cw.strand u.cur.2.2 by rw [← h.cur]; rfl]
      exact hw.strands _
    exact ⟨h.cur, h.mem, by rw [h.blocks], hw.regs, hw.outs, hw.queue, hs.pc, hs.am, hs.memb, hs.pfx, hs.state⟩
  · rw [State.stepOnce_cons hagenda]
    have hevent : Instr.isEvent i = true := by
      unfold Instr.isEvent
      rw [hword]
      cases i
      case illegalWord w => exact absurd rfl (hill w)
      all_goals rfl
    exact if_pos hevent

end Sys2Proof.Machine
end

section
/-! SUPPORT. The frame of the words of registers (R29, R107, R135): such a word changes its strand, the list of outstanding results and the
shadow of CYCLE, and, where it raises a cause, what is latched or pending of it. -/

namespace Sys2Proof.Machine

/-! ## A change of the issuing wave that keeps its registers -/

/-- A wave that differs from another in one strand, in its outstanding results, to which a list is added, and in nothing that a register
reads. -/
structure Wave.RegChange (n : Nat) (o : List Result) (w u : Wave) : Prop where
  regs : SameRegs w u
  queue : u.queue = w.queue
  latched : u.latched = w.latched
  strands : ∀ k, k ≠ n → u.strand k = w.strand k
  outs : u.outs = w.outs ++ o

/-- What the words of registers keep of their wave (R29, R301): a strand whose fault was latched may take it back as a pending one. -/
structure Wave.RegFrame (n : Nat) (w u : Wave) : Prop where
  regs : SameRegs w u
  queue : u.queue = w.queue
  strands : ∀ k, k ≠ n → (∀ g, w.latched = some g → g.strand ≠ k) → u.strand k = w.strand k
  outs : u.outs = w.outs ∨ ∃ r, u.outs = w.outs ++ [r]

/-- A state that differs from another in the issuing wave alone, in a way that a relation of waves allows. -/
def State.OnlyWave (s t : State) (P : Wave → Wave → Prop) : Prop := ∃ f, t = s.updCw f ∧ P s.cw (f s.cw)

/-- The registers of a wave do not read its strands, its outstanding results, its trap logic and the shadow of CYCLE. -/
theorem SameRegs.of_unread (w : Wave) (strands : SMap Strand) (outs : List Result) (latched : Option FaultRec) (at' : Nat) (cyc : Word) :
    SameRegs w { w with strands := strands, outs := outs, latched := latched, latchedAt := at', cycHi := cyc } :=
  ⟨rfl, rfl, rfl, rfl, rfl, rfl, rfl, rfl, rfl, rfl, rfl, rfl, rfl, rfl, rfl⟩

theorem Wave.RegChange.updStrand {n : Nat} {o : List Result} {w u : Wave} (h : Wave.RegChange n o w u) (g : Strand → Strand) :
    Wave.RegChange n o w (u.updStrand n g) :=
  ⟨h.regs.trans (SameRegs.of_unread ..), h.queue, h.latched, fun k hk => (Wave.strand_updStrand_of_ne u g hk).trans (h.strands k hk),
    h.outs⟩

theorem Wave.RegChange.refl (n : Nat) (w : Wave) : Wave.RegChange n [] w w :=
  ⟨SameRegs.refl w, rfl, rfl, fun _ _ => rfl, (List.append_nil _).symm⟩

theorem Wave.RegChange.frame {n : Nat} {o : List Result} {w u : Wave} (h : Wave.RegChange n o w u) (ho : o.length ≤ 1) :
    Wave.RegFrame n w u := by
  refine ⟨h.regs, h.queue, fun k hk _ => h.strands k hk, ?_⟩
  match o, ho with
  | [], _ => exact .inl (h.outs.trans (List.append_nil _))
  | [r], _ => exact .inr ⟨r, h.outs⟩

/-- A strand of a fault that reaches the trap logic is the one that raises it, or the one whose latched fault gives way (R301). -/
theorem Wave.latchFault_frame {w u : Wave} (cycle : Nat) (f : FaultRec) (h : Wave.RegChange f.strand [] w u) :
    Wave.RegFrame f.strand w (u.latchFault cycle f) := by
  have hpend := (h.updStrand fun st => (st.addPend f).parkPend).frame (Nat.zero_le 1)
  unfold Wave.latchFault
  dsimp only
  split
  · exact hpend
  · split
    · exact ⟨h.regs.trans (SameRegs.of_unread ..), h.queue, fun k hk _ => h.strands k hk, .inl (h.outs.trans (List.append_nil _))⟩
    · next g hg =>
      split
      · refine ⟨h.regs.trans (SameRegs.of_unread ..), h.queue, fun k hk hl => ?_, .inl (h.outs.trans (List.append_nil _))⟩
        exact (Wave.strand_updStrand_of_ne _ _ (hl g (h.latched.symm.trans hg)).symm).trans (h.strands k hk)
      · exact hpend

/-! ## The effects of the words of registers -/

namespace State.OnlyWave

variable {s t : State} {o : List Result}

/-- The change by the words of registers, of the wave and the strand that issue. -/
abbrev Regs (s t : State) (o : List Result) : Prop := s.OnlyWave t (Wave.RegChange s.cur.2.2 o)

theorem updCs (h : Regs s t o) (g : Strand → Strand) : Regs s (t.updCs g) o := by
  obtain ⟨f, rfl, hf⟩ := h
  exact ⟨_, State.updCw_updCw s f _, hf.updStrand g⟩

theorem of_updCs (s : State) (g : Strand → Strand) : Regs s (s.updCs g) [] :=
  ⟨fun w => w.updStrand s.cur.2.2 g, rfl, (Wave.RegChange.refl s.cur.2.2 s.cw).updStrand g⟩

theorem advance (s : State) : Regs s s.advance [] := of_updCs s _

theorem cycHi (h : Regs s t o) (g : Wave → Word) : Regs s (t.updCw fun w => { w with cycHi := g w }) o := by
  obtain ⟨f, rfl, hf⟩ := h
  exact ⟨_, State.updCw_updCw s f _, hf.regs.trans (SameRegs.of_unread ..), hf.queue, hf.latched, hf.strands, hf.outs⟩

theorem marker (h : Regs s t o) (m : Bool) : Regs s (t.marker m) o := by
  unfold State.marker
  split
  · exact h.updCs _
  · exact h

/-- A result is one more outstanding result, and nothing else of its wave changes. -/
theorem result (h : Regs s t []) (i : Instr) (r : Result) : Regs s (s.result i r t) [s.filled i r] := by
  obtain ⟨f, rfl, hf⟩ := h
  exact ⟨_, State.updCw_updCw s f _, hf.regs.trans (SameRegs.of_unread ..), hf.queue, hf.latched, hf.strands,
    congrArg (· ++ _) (hf.outs.trans (List.append_nil _))⟩

theorem frame (h : Regs s t o) (ho : o.length ≤ 1) : s.OnlyWave t (Wave.RegFrame s.cur.2.2) := by
  obtain ⟨f, ht, hf⟩ := h
  exact ⟨f, ht, hf.frame ho⟩

end State.OnlyWave

/-! ## The issue of a word of registers -/

section
variable {s : State} {i : Instr} {m : Bool} {static dynamic : List (Option Raise)} {reads : List Nat}

/-- The outcome of a word is a next state that differs in the issuing wave alone, as the words of registers may. -/
def State.RegOutcome (s : State) (x : Host.Outcome State Fault Refusal) : Prop :=
  ∃ t, x = .next t ∧ s.OnlyWave t (Wave.RegFrame s.cur.2.2)

/-- A raised cause (R299, R301), with traps taken by TAKE_TRAP (log entry 5). -/
theorem State.raiseHere_regs (hd : s.deferTraps = true) (r : Raise) : s.OnlyWave (s.raiseHere i r) (Wave.RegFrame s.cur.2.2) := by
  have h : s.raiseHere i r = (s.updCs fun st => { st with pc := st.start, pfx := none, replay := none }).latch s.cur.1 s.cur.2.1
      ⟨r.cause, r.val, s.cur.2.2, s.cs.start, s.maskFor i, encode i, s.cs.issued, false⟩ := State.settle_deferred hd
  rw [h]
  exact ⟨_, State.updCw_updCw s _ _, Wave.latchFault_frame _ ⟨r.cause, r.val, s.cur.2.2, _, _, _, _, _⟩
    ((Wave.RegChange.refl s.cur.2.2 s.cw).updStrand _)⟩

theorem State.raiseHere_regOutcome (hd : s.deferTraps = true) (r : Raise) : s.RegOutcome (.next (s.raiseHere i r)) :=
  ⟨_, rfl, State.raiseHere_regs hd r⟩

theorem State.hint_regOutcome (p : Pfx) : s.RegOutcome (.next (s.hint p)) :=
  ⟨_, rfl, (State.OnlyWave.of_updCs s _).frame (Nat.zero_le 1)⟩

/-- A word that issues by `State.run` raises a cause, waits, or has its effect. -/
theorem State.run_regs {eff : State → State} {o : List Result} (hd : s.deferTraps = true)
    (he : State.OnlyWave.Regs s (eff s.advance) o) (ho : o.length ≤ 1) : s.RegOutcome (s.run i m static reads dynamic eff) := by
  refine ⟨_, rfl, ?_⟩
  dsimp only
  split
  · exact State.raiseHere_regs hd _
  · split
    · exact (State.OnlyWave.of_updCs s _).frame (Nat.zero_le 1)
    · split
      · exact State.raiseHere_regs hd _
      · have hm := (he.marker m).frame ho
        obtain ⟨f, ht, hf⟩ := hm
        have hs : (((eff s.advance).marker m).settle s.cur.1 s.cur.2.1) = (eff s.advance).marker m :=
          State.settle_deferred ((congrArg State.deferTraps ht).trans hd)
        exact ⟨f, hs.trans ht, hf⟩

/-- A word whose effect is one result. -/
theorem State.run_result_regs (hd : s.deferTraps = true) {j : Instr} {r : Result} :
    s.RegOutcome (s.run i m static reads dynamic (s.result j r)) :=
  State.run_regs hd ((State.OnlyWave.advance s).result j r) (Nat.le_refl 1)

end

/-! ## The families of the words of registers -/

section
variable {s : State} (hd : s.deferTraps = true)
include hd

theorem State.floatOp_regs (i : Instr) (m : Bool) (ty : FTy) (d a : VReg) (b : Code) (fused : Bool) (f : FloatFn) :
    s.RegOutcome (s.floatOp i m ty d a b fused f) := by
  unfold State.floatOp
  exact State.run_result_regs hd

theorem State.intOp_regs (i : Instr) (m : Bool) (ty : ITy) (d a : VReg) (b : Code) (fused : Bool) (f : IntFn) :
    s.RegOutcome (s.intOp i m ty d a b fused f) := by
  unfold State.intOp
  exact State.run_result_regs hd

theorem State.shiftOp_regs (i : Instr) (m : Bool) (ty : ITy) (d a : VReg) (b : Code) (f : Nat → Nat → Nat → Nat) :
    s.RegOutcome (s.shiftOp i m ty d a b f) := by
  unfold State.shiftOp
  exact State.run_result_regs hd

theorem State.miscOp_regs (i : Instr) (m : Bool) (d : VReg) (srcs : List VReg) (k : Kind) (b : Option Code) (f : Nat → Nat) :
    s.RegOutcome (s.miscOp i m d srcs k b f) := by
  unfold State.miscOp
  exact State.run_result_regs hd

theorem State.convOp_regs (i : Instr) (m : Bool) (d a : VReg) (sw dw : Bool) (f : Nat → Nat → FRes) :
    s.RegOutcome (s.convOp i m d a sw dw f) := by
  unfold State.convOp
  exact State.run_result_regs hd

theorem State.sfuOp_regs (i : Instr) (m : Bool) (d : VReg) (b : Code) (f : FVal → FRes) : s.RegOutcome (s.sfuOp i m d b f) := by
  unfold State.sfuOp
  exact State.run_result_regs hd

theorem State.cmpOp_regs (i : Instr) (m : Bool) (k : KReg) (a : VReg) (b : Code) (kd : Kind) (f : Nat → Nat → Bool × BitVec 5) :
    s.RegOutcome (s.cmpOp i m k a b kd f) := by
  unfold State.cmpOp
  exact State.run_result_regs hd

theorem State.scal_regs (i : Instr) (m : Bool) (d a : SReg) (b : SOp) (f : Word → Word → Word) :
    s.RegOutcome (s.scal i m d a b f) := by
  unfold State.scal
  exact State.run_result_regs hd

theorem State.scalUn_regs (i : Instr) (m : Bool) (d a : SReg) (f : Word → Nat) : s.RegOutcome (s.scalUn i m d a f) := by
  unfold State.scalUn
  exact State.run_result_regs hd

theorem State.scal64_regs (i : Instr) (m : Bool) (d : SReg) (reads : List Nat) (x : DWord) :
    s.RegOutcome (s.scal64 i m d reads x) := by
  unfold State.scal64
  exact State.run_result_regs hd

theorem State.kop_regs (i : Instr) (m : Bool) (d : KReg) (reads : List Nat) (x : Lanes) : s.RegOutcome (s.kop i m d reads x) := by
  unfold State.kop
  exact State.run_result_regs hd

theorem State.branch_regs {n : Nat} (i : Instr) (m : Bool) (reads : List Nat) (off : BitVec n) (taken : Bool) :
    s.RegOutcome (s.branch i m reads off taken) := by
  unfold State.branch
  refine State.run_regs (o := []) hd ?_ (Nat.zero_le 1)
  cases taken
  · exact State.OnlyWave.advance s
  · exact (State.OnlyWave.advance s).updCs _

theorem State.wideHint_regs (i : Instr) (w : Wide) : s.RegOutcome (s.wideHint i w) := by
  unfold State.wideHint
  dsimp only
  split
  · exact State.raiseHere_regOutcome hd _
  · exact State.hint_regOutcome _

theorem execXmod_regs (k : BitVec 5) (z : Bool) (rnd : BitVec 3) (v4 : VReg) (v4ok : Bool) (aux : BitVec 5) :
    s.RegOutcome (execXmod k z rnd v4 v4ok aux s) := by
  unfold execXmod
  dsimp only
  split
  · exact State.raiseHere_regOutcome hd _
  · exact State.hint_regOutcome _

theorem execLimml_regs (h : BitVec 16) : s.RegOutcome (execLimml h s) := by
  unfold execLimml
  dsimp only
  split
  · exact State.hint_regOutcome _
  · exact State.raiseHere_regOutcome hd _

theorem execScmov_regs (m : Bool) (d a : SReg) (b : SOp) : s.RegOutcome (execScmov m d a b s) := by
  unfold execScmov
  dsimp only
  split
  · exact State.run_result_regs hd
  · exact State.run_regs (o := []) hd (State.OnlyWave.advance s) (Nat.zero_le 1)

theorem execKmov_regs (m : Bool) (d : KReg) (b : SOp) : s.RegOutcome (execKmov m d b s) := by
  unfold execKmov State.kop
  cases b with
  | reg r => exact State.run_result_regs hd
  | imm v => exact State.run_result_regs hd

theorem execSget_regs (m : Bool) (d : SReg) (x : BitVec 9) : s.RegOutcome (execSget m d x s) := by
  unfold execSget
  let r : Result := { strand := 0, sca := scalarOut d (s.special x.toNat).toNat }
  have h := (State.OnlyWave.advance s).result (.sget m d x) r
  refine State.run_regs (o := [s.filled (.sget m d x) r]) hd ?_ (Nat.le_refl 1)
  dsimp only
  split
  · exact h.cycHi _
  · exact h

theorem execCall_regs (m : Bool) (p : SReg) (off : BitVec 17) : s.RegOutcome (execCall m p off s) := by
  unfold execCall
  have h := (State.OnlyWave.advance s).result (.call m p off) { strand := 0, sca := pairOut p (s.cs.pc + 4) }
  exact State.run_regs hd (h.updCs _) (Nat.le_refl 1)

theorem execJmpr_regs (m : Bool) (p : SReg) : s.RegOutcome (execJmpr m p s) := by
  unfold execJmpr
  refine State.run_regs (o := []) hd ?_ (Nat.zero_le 1)
  exact (State.OnlyWave.advance s).updCs _

theorem execSched_regs (m : Bool) (lvl : BitVec 3) : s.RegOutcome (execSched m lvl s) := by
  unfold execSched
  refine State.run_regs (o := []) hd ?_ (Nat.zero_le 1)
  exact (State.OnlyWave.advance s).updCs _

theorem execNop_regs (m : Bool) : s.RegOutcome (execNop m s) := by
  unfold execNop
  exact State.run_regs (o := []) hd (State.OnlyWave.advance s) (Nat.zero_le 1)

end

/-! ## The frame -/

/-- What the frame of a word of registers says of the next state. -/
def State.RegWordFrame (s t : State) : Prop :=
  SameOutside s t ∧ SameMemory s t ∧ SameRegs s.cw t.cw ∧ t.cw.queue = s.cw.queue ∧ t.cur = s.cur ∧ t.agenda = s.agenda ∧
    (∀ k, k ≠ waveKey s.cur.1 s.cur.2.1 → t.waveK k = s.waveK k) ∧
    (∀ n, n ≠ s.cur.2.2 → (∀ g, s.cw.latched = some g → g.strand ≠ n) → t.cw.strand n = s.cw.strand n) ∧
    (t.cw.outs = s.cw.outs ∨ ∃ r, t.cw.outs = s.cw.outs ++ [r])

theorem State.OnlyWave.regWordFrame {s t : State} (h : s.OnlyWave t (Wave.RegFrame s.cur.2.2)) : s.RegWordFrame t := by
  obtain ⟨f, rfl, hregs, hqueue, hstrands, houts⟩ := h
  refine ⟨⟨rfl, rfl, rfl, rfl, rfl, rfl, rfl, rfl, rfl, rfl, rfl, rfl, rfl, rfl, rfl, rfl, rfl⟩, fun _ => rfl, ?_, ?_, rfl, rfl,
    fun k hk => State.waveK_updCw_of_ne s f hk, ?_, ?_⟩
  all_goals rw [State.cw_updCw]
  · exact hregs
  · exact hqueue
  · exact hstrands
  · exact houts

theorem State.RegOutcome.regWordFrame {s t : State} {x : Host.Outcome State Fault Refusal} (h : s.RegOutcome x) (hx : x = .next t) :
    s.RegWordFrame t := by
  obtain ⟨u, rfl, hu⟩ := h
  obtain rfl : u = t := Host.Outcome.next.inj hx
  exact hu.regWordFrame

/-- Every word of registers changes the issuing wave alone, as the words of registers may. -/
theorem exec_regOutcome {s : State} (hd : s.deferTraps = true) (i : Instr) (h : registerOnly i = true) : s.RegOutcome (exec i s) := by
  cases i with
  | vadd | vsub | vmul | vfma | vfnma | vmin | vmax | vcpsgn | vscale | vabsd => exact State.floatOp_regs hd ..
  | viadd | visub | vimul | vimad | vimulhs | vimulhn | vimins | viminn | vimaxs | vimaxn | viaddss | viaddsn | visubss =>
    exact State.intOp_regs hd ..
  | vshl | vshr | vsra => exact State.shiftOp_regs hd ..
  | vand | vor | vxor | vandn | vbfes | vbfen | vbfi | vpopc | vclz | vpermb | vmov | vlane | vshfl | vbcast =>
    exact State.miscOp_regs hd ..
  | vcvt | vqnt | vdq | vbscale => unfold exec; exact State.convOp_regs hd ..
  | vrcp | vrsq | vsqrt | vex2 | vlg2 | vsin | vcos | vtanh =>
    unfold exec; exact State.sfuOp_regs hd ..
  | vcmpEqF64 | vcmpNeF64 | vcmpLtF64 | vcmpLeF64 | vcmpGtF64 | vcmpGeF64 | vclassF32 | vcmpF32 | vcmpS32 | vcmpN32 =>
    unfold exec; exact State.cmpOp_regs hd ..
  | sadd | ssub | smul | smulhs | smulhn | sand | sor | sxor | sandn | sshl | sshr | ssra | smins | sminn | smaxs | smaxn |
    sslt | ssltn | sseq | ssne | ssle | sslen | sbfen =>
    unfold exec; exact State.scal_regs hd ..
  | scmov => exact execScmov_regs hd ..
  | sadd64 | ssub64 | sshl64 | sshr64 | smulw =>
    unfold exec; exact State.scal64_regs hd ..
  | spopc | sclz =>
    unfold exec; exact State.scalUn_regs hd ..
  | kand | kor | kxor | kandn | klane =>
    unfold exec; exact State.kop_regs hd ..
  | kmov => exact execKmov_regs hd ..
  | sget => exact execSget_regs hd ..
  | br => unfold exec execBr; exact State.branch_regs hd ..
  | brany => unfold exec execBrany; exact State.branch_regs hd ..
  | brall => unfold exec execBrall; exact State.branch_regs hd ..
  | brnone => unfold exec execBrnone; exact State.branch_regs hd ..
  | brnz => unfold exec execBrnz; exact State.branch_regs hd ..
  | brz => unfold exec execBrz; exact State.branch_regs hd ..
  | call => exact execCall_regs hd ..
  | jmpr => exact execJmpr_regs hd ..
  | nop => exact execNop_regs hd ..
  | xmod => exact execXmod_regs hd ..
  | limm | limmh | limmf => exact State.wideHint_regs hd ..
  | limml => exact execLimml_regs hd ..
  | sched => exact execSched_regs hd ..
  | vidivS32 | emulation | illegalWord => exact State.raiseHere_regOutcome hd _
  | vsel => unfold exec execVsel; exact State.run_result_regs hd
  | vscan => unfold exec execVscan; exact State.run_result_regs hd
  | vreds => unfold exec execVreds; exact State.run_result_regs hd
  | vrdl => unfold exec execVrdl; exact State.run_result_regs hd
  | vwrl => unfold exec execVwrl; exact State.run_result_regs hd
  | vrdi => unfold exec execVrdi; exact State.run_result_regs hd
  | vwri => unfold exec execVwri; exact State.run_result_regs hd
  | smov => unfold exec execSmov; exact State.run_result_regs hd
  | kpopc => unfold exec execKpopc; exact State.run_result_regs hd
  | kffs => unfold exec execKffs; exact State.run_result_regs hd
  | cntrd => unfold exec execCntrd; exact State.run_result_regs hd
  | _ => exact Bool.noConfusion h

/-- Settles O58: a word of registers issues by `State.run`, or raises a cause, or grows its prefix; each changes the issuing wave alone. -/
theorem registerWordsFrame : Obligations.RegisterWordsFrame := by
  unfold Obligations.RegisterWordsFrame
  intro i s t hreg hd hexec
  exact (exec_regOutcome hd i hreg).regWordFrame hexec

end Sys2Proof.Machine
end

section
/-! SUPPORT. What lands of a result (R10, R29): the statement of O57 fails where a result names a scalar register that does not exist. -/

namespace Sys2Proof.Machine

/-- A wave whose one strand has all 96 lanes, with an outstanding result for s62, the last word of AM, and for a scalar 64 behind it. -/
def highScalarState : State :=
  { State.reset with
    waves := [(0, {
      strands := [(0, { state := .ready, memb := BitVec.allOnes 96 })]
      outs := [{ strand := 0, sca := [(62, 1), (64, 0)] }] })] }

/-- Lane 64 is the lowest lane of s62: it is cleared by the write of 64, which the model takes for the last word of AM. -/
theorem highScalarState_am : (((highScalarState.land 0 0 0 0).wave 0 0).strand 0).am.getLsbD 64 = false := by decide

/-- Refutes O57: a write of AM by s62 is overwritten by one of a scalar numbered 64, which the first clause on AM does not leave out. -/
theorem not_resultsLand : ¬ Obligations.ResultsLand := by
  unfold Obligations.ResultsLand
  intro h
  obtain ⟨_, _, _, _, _, _, _, hlast⟩ := h 0 0 0 0 highScalarState { strand := 0, sca := [(62, 1), (64, 0)] } rfl
  obtain ⟨_, _, hscalars, _⟩ := hlast (fun _ hp => absurd hp List.not_mem_nil)
  obtain ⟨_, _, ham⟩ := hscalars (.inr rfl)
  have hbit := (ham 64 (by decide)).1 1 ⟨by decide, fun y hy => ?_, by decide⟩
  · exact absurd (highScalarState_am.symm.trans hbit) (by decide)
  · simpa using hy

end Sys2Proof.Machine
end

section
/-! SUPPORT. Taking a trap and ending a context (R302, R303, R311). -/

namespace Sys2Proof.Machine

/-- The context of a wave with a latched cause ends where no handler takes the cause (R303, R311). -/
theorem State.endsContext_iff {s : State} {core slot : Nat} {f : FaultRec} (h : (s.wave core slot).latched = some f) :
    s.endsContext core slot = true ↔ f.cause.kind = .terminal ∨ f.strand = 8 ∨ (s.vi (s.wave core slot).vi).tba = 0 := by
  simp [State.endsContext, h, or_assoc]

theorem State.takeTrap_ends {s : State} {core slot : Nat} {f : FaultRec} (h : (s.wave core slot).latched = some f)
    (he : f.cause.kind = .terminal ∨ f.strand = 8 ∨ (s.vi (s.wave core slot).vi).tba = 0) :
    s.takeTrap core slot = s.endBlock core slot f (((s.wave core slot).strand f.strand).issued - f.seq) := by
  have hc : (f.cause.kind = .terminal || f.strand = 8 || (s.vi (s.wave core slot).vi).tba = 0) = true := by
    simpa [or_assoc] using he
  unfold State.takeTrap
  simp only [h]
  exact if_pos hc

/-- The handler's start leaves the cause registers. -/
theorem State.startHandler_causes {s : State} {core slot skid : Nat} {f g : FaultRec} (h : (s.wave core slot).Causes f skid) :
    ((s.startHandler core slot g).wave core slot).Causes f skid := by
  rw [State.startHandler, State.wave_updWave_self]
  exact ⟨h.latched, h.tcause, h.tval, h.tpc, h.tskid, h.tlane, h.tstrand⟩

section
variable {s : State} {core slot : Nat} (hs : slot < 64) (hr : s.trapReady core slot = true)
include hs hr

theorem execTakeTrap_ready (he : s.endsContext core slot = false) : execTakeTrap core slot s = .next (s.takeTrap core slot) := by
  simp [execTakeTrap, hs, hr, he]

theorem execContextEnd_ready (he : s.endsContext core slot = true) : execContextEnd core slot s = .next (s.takeTrap core slot) := by
  simp [execContextEnd, hs, hr, he]

end

theorem execTakeTrap_other {s : State} {core slot : Nat} (he : s.endsContext core slot = true) : execTakeTrap core slot s = .next s := by
  simp [execTakeTrap, he]

theorem execContextEnd_other {s : State} {core slot : Nat} (he : s.endsContext core slot = false) :
    execContextEnd core slot s = .next s := by
  simp [execContextEnd, he]

/-- What follows the halt of a block for a trap: the handler's start where the frames are written, else the end of the context. -/
def State.startedBy (t : State) (core slot vi skid : Nat) (f : FaultRec) (x : Except Raise State) : State :=
  match x with
  | .error r => (t.walkedFor core vi r).endBlock core slot { f with cause := r.cause, val := r.val } skid
  | .ok u => (u.traceRec core slot 2 f.strand (f.val.setWidth 32) f.tpc f.cause.code).startHandler core slot f

theorem State.startedBy_ok {t u : State} {core slot vi skid : Nat} {f : FaultRec} {x : Except Raise State} (h : x = .ok u) :
    t.startedBy core slot vi skid f x = (u.traceRec core slot 2 f.strand (f.val.setWidth 32) f.tpc f.cause.code).startHandler core slot f := by
  rw [h, State.startedBy]

theorem State.startedBy_error {t : State} {core slot vi skid : Nat} {f : FaultRec} {x : Except Raise State} {r : Raise}
    (h : x = .error r) :
    t.startedBy core slot vi skid f x =
      (t.walkedFor core vi r).endBlock core slot { f with cause := r.cause, val := r.val } skid := by
  rw [h, State.startedBy]

theorem State.takeTrap_halts {s : State} {core slot : Nat} {f : FaultRec} (h : (s.wave core slot).latched = some f)
    (hn : ¬(f.cause.kind = .terminal ∨ f.strand = 8 ∨ (s.vi (s.wave core slot).vi).tba = 0)) :
    s.takeTrap core slot =
      (s.haltForTrap core slot f (((s.wave core slot).strand f.strand).issued - f.seq)).startedBy core slot (s.wave core slot).vi
        (((s.wave core slot).strand f.strand).issued - f.seq) f
        ((s.haltForTrap core slot f (((s.wave core slot).strand f.strand).issued - f.seq)).writeFrames core slot
          (s.block (s.wave core slot).blk).waves) := by
  have hc : ¬(f.cause.kind = .terminal || f.strand = 8 || (s.vi (s.wave core slot).vi).tba = 0) = true := by
    simpa [or_assoc] using hn
  unfold State.takeTrap
  simp only [h]
  rw [if_neg hc]
  generalize State.writeFrames _ core slot _ = x
  cases x with
  | error r => exact (State.startedBy_error rfl).symm
  | ok u => exact (State.startedBy_ok rfl).symm

/-- A trap with a handler, whose frames are written. -/
theorem State.takeTrap_handler {s u : State} {core slot : Nat} {f : FaultRec} (h : (s.wave core slot).latched = some f)
    (hn : ¬(f.cause.kind = .terminal ∨ f.strand = 8 ∨ (s.vi (s.wave core slot).vi).tba = 0))
    (hu : (s.haltForTrap core slot f (((s.wave core slot).strand f.strand).issued - f.seq)).writeFrames core slot
      (s.block (s.wave core slot).blk).waves = .ok u) :
    s.takeTrap core slot = (u.traceRec core slot 2 f.strand (f.val.setWidth 32) f.tpc f.cause.code).startHandler core slot f ∧
      ((u.traceRec core slot 2 f.strand (f.val.setWidth 32) f.tpc f.cause.code).wave core slot).Causes f
        (((s.wave core slot).strand f.strand).issued - f.seq) := by
  refine ⟨?_, State.causes_after ((State.writeFrames_causes hu).trans (State.traceRec_causes ..))⟩
  rw [State.takeTrap_halts h hn]
  exact State.startedBy_ok hu

/-- A trap with a handler, of which a frame cannot be written. -/
theorem State.takeTrap_noFrame {s : State} {core slot : Nat} {f : FaultRec} {r : Raise} (h : (s.wave core slot).latched = some f)
    (hn : ¬(f.cause.kind = .terminal ∨ f.strand = 8 ∨ (s.vi (s.wave core slot).vi).tba = 0))
    (hu : (s.haltForTrap core slot f (((s.wave core slot).strand f.strand).issued - f.seq)).writeFrames core slot
      (s.block (s.wave core slot).blk).waves = .error r) :
    s.takeTrap core slot =
      ((s.haltForTrap core slot f (((s.wave core slot).strand f.strand).issued - f.seq)).walkedFor core (s.wave core slot).vi r).endBlock
        core slot { f with cause := r.cause, val := r.val } (((s.wave core slot).strand f.strand).issued - f.seq) := by
  rw [State.takeTrap_halts h hn]
  exact State.startedBy_error hu

/-- Settles O36: which of TAKE_TRAP and CONTEXT_END takes a cause, and what each leaves. -/
theorem trapEvents : Obligations.TrapEvents := by
  unfold Obligations.TrapEvents
  intro core slot s f w skid ends t hs hr hl
  have hiff : s.endsContext core slot = true ↔ ends := State.endsContext_iff hl
  have hno : ¬ends → s.endsContext core slot = false := fun hn => Bool.eq_false_iff.2 (mt hiff.1 hn)
  refine ⟨fun hn u hu => ?_, fun hn r hu => ?_, fun hn => ?_, fun he => ⟨?_, ?_⟩⟩
  · obtain ⟨hx, hcauses⟩ := State.takeTrap_handler hl hn hu
    obtain ⟨hlatched, hcause, hval, hpc, hskid, hlane, hstrand⟩ := State.startHandler_causes (g := f) hcauses
    rw [exec_takeTrap, execTakeTrap_ready hs hr (hno hn), hx]
    exact ⟨rfl, hlatched, hcause, hval, hpc, hskid, hlane, hstrand⟩
  · rw [exec_takeTrap, execTakeTrap_ready hs hr (hno hn), State.takeTrap_noFrame hl hn hu]
  · rw [exec_contextEnd, execContextEnd_other (hno hn)]
  · rw [exec_contextEnd, execContextEnd_ready hs hr (hiff.2 he), State.takeTrap_ends hl he]
  · rw [exec_takeTrap, execTakeTrap_other (hiff.2 he)]

end Sys2Proof.Machine
end

section
/-! SUPPORT. The fields of a record of bytes, and the trap frame field by field (R304, R305). -/

namespace Sys2Proof.Machine

/-! ## Fields of bytes -/

theorem length_leBytes (n v : Nat) : (leBytes n v).length = n := by
  induction n generalizing v with
  | zero => rfl
  | succ n ih => rw [leBytes, List.length_cons, ih]

theorem leNat_leBytes (n v : Nat) : leNat (leBytes n v) = v % 256 ^ n := by
  induction n generalizing v with
  | zero => rw [leBytes, leNat, Nat.pow_zero, Nat.mod_one]
  | succ n ih =>
    have h : v % 256 ^ (n + 1) = v % 256 + 256 * (v / 256 % 256 ^ n) := by rw [Nat.pow_succ', Nat.mod_mul]
    rw [leBytes, leNat, ih, BitVec.toNat_ofNat, h]

theorem leNat_replicate_zero (n : Nat) : leNat (List.replicate n 0#8) = 0 := by
  induction n with
  | zero => rfl
  | succ n ih => rw [List.replicate_succ, leNat, ih]; rfl

theorem leBytes_zero (n : Nat) : leBytes n 0 = List.replicate n 0#8 := by
  induction n with
  | zero => rfl
  | succ n ih => rw [leBytes, Nat.zero_div, ih, List.replicate_succ]

theorem field_leBytes (n v : Nat) : field (leBytes n v) 0 n = v % 256 ^ n := by
  rw [field, List.drop_zero, List.take_of_length_le (Nat.le_of_eq (length_leBytes n v)), leNat_leBytes]

theorem field_leBytes_of_lt {n v : Nat} (h : v < 256 ^ n) : field (leBytes n v) 0 n = v := by
  rw [field_leBytes, Nat.mod_eq_of_lt h]

theorem field_zeros (m off n : Nat) : field (leBytes m 0) off n = 0 := by
  rw [field, leBytes_zero, List.drop_replicate, List.take_replicate, leNat_replicate_zero]

theorem field_append_left {l r : List Byte} {off n : Nat} (h : off + n ≤ l.length) : field (l ++ r) off n = field l off n := by
  rw [field, field, List.drop_append_of_le_length (by omega), List.take_append_of_le_length (by rw [List.length_drop]; omega)]

theorem field_append_right {l r : List Byte} {off n : Nat} (h : l.length ≤ off) : field (l ++ r) off n = field r (off - l.length) n := by
  rw [field, field, List.drop_append, List.drop_of_length_le h, List.nil_append]

theorem length_flatMap_const {g : α → List Byte} {b : Nat} (hg : ∀ x, (g x).length = b) (l : List α) :
    (l.flatMap g).length = b * l.length := by
  induction l with
  | nil => rfl
  | cons x t ih => rw [List.flatMap_cons, List.length_append, ih, hg, List.length_cons, Nat.mul_add, Nat.mul_one, Nat.add_comm]

/-- A field within the record of one element of a list of records of one size. -/
theorem field_flatMap {g : α → List Byte} {b off n : Nat} (hg : ∀ x, (g x).length = b) (ho : off + n ≤ b) (l : List α) (i : Nat) (x : α)
    (hx : l[i]? = some x) : field (l.flatMap g) (b * i + off) n = field (g x) off n := by
  induction l generalizing i with
  | nil => cases hx
  | cons y t ih =>
    rw [List.flatMap_cons]
    cases i with
    | zero =>
      obtain rfl : y = x := Option.some.inj hx
      rw [Nat.mul_zero, Nat.zero_add]
      exact field_append_left ((hg y).symm ▸ ho)
    | succ i =>
      have hle : (g y).length ≤ b * (i + 1) + off := by rw [hg, Nat.mul_add]; omega
      rw [field_append_right hle, hg, Nat.mul_add, Nat.mul_one, Nat.add_right_comm, Nat.add_sub_cancel]
      exact ih i hx

theorem field_flatMap_range {g : Nat → List Byte} {b off n k i : Nat} (hg : ∀ x, (g x).length = b) (hi : i < k) (ho : off + n ≤ b) :
    field ((List.range k).flatMap g) (b * i + off) n = field (g i) off n :=
  field_flatMap hg ho _ i i (by rw [List.getElem?_range hi])

theorem Wave.length_sregs (w : Wave) (n r c : Nat) : (w.sregs n r c).length = c := by
  induction c generalizing r with
  | zero => rfl
  | succ c ih => rw [Wave.sregs, List.length_cons, ih]

theorem Wave.getElem?_sregs (w : Wave) (n r c i : Nat) (h : i < c) : (w.sregs n r c)[i]? = some (w.sreg n (r + i)) := by
  induction c generalizing r i with
  | zero => omega
  | succ c ih =>
    rw [Wave.sregs]
    cases i with
    | zero => rfl
    | succ i => rw [List.getElem?_cons_succ, ih _ _ (by omega), Nat.add_right_comm, Nat.add_assoc]

/-! ## The parts of a frame -/

/-- The first 128 bytes of a frame: s0 to s15, the AM of the faulting strand, FSTAT and the cause registers. -/
def Wave.frameHead (w : Wave) : List Byte :=
  (w.sregs 0 0 16).flatMap (fun x => leBytes 4 x.toNat) ++
  (leBytes 12 (w.strand w.tstrand).am.toNat ++ (leBytes 4 w.fstat.toNat ++ (leBytes 4 w.tcause ++ (leBytes 4 w.tstrand ++
  (leBytes 8 w.tval.toNat ++ (leBytes 8 (canonPc w.tpc) ++ (leBytes 4 w.tskid ++ (leBytes 4 0 ++ (leBytes 12 w.tlane.toNat ++
  leBytes 4 0)))))))))

/-- The lanes of v0 to v7 in a frame. -/
def Wave.frameVregs (w : Wave) : List Byte :=
  (List.range 8).flatMap fun r => (List.range 96).flatMap fun l => leBytes 4 (w.vreg r l).toNat

theorem Wave.frame_parts (w : Wave) :
    w.frame = w.frameHead ++ ((List.range 8).flatMap (fun n => (w.strand n).snapshot) ++
      ((List.range 8).flatMap (fun n => (w.strand n).armBytes) ++ (leBytes 192 0 ++
      ((List.range 8).flatMap (fun n => (w.strand n).stackBytes) ++ (w.frameVregs ++ leBytes 1024 0))))) := by
  simp only [Wave.frame, Wave.frameHead, Wave.frameVregs, List.append_assoc]

theorem Wave.length_frameHead (w : Wave) : w.frameHead.length = 128 := by
  simp [Wave.frameHead, length_leBytes, length_flatMap_const (fun x : Word => length_leBytes 4 x.toNat), Wave.length_sregs]

theorem Wave.length_frameVregs (w : Wave) : w.frameVregs.length = 3072 := by
  have h (r : Nat) : ((List.range 96).flatMap fun l => leBytes 4 (w.vreg r l).toNat).length = 384 := by
    rw [length_flatMap_const (fun l => length_leBytes 4 (w.vreg r l).toNat), List.length_range]
  rw [Wave.frameVregs, length_flatMap_const h, List.length_range]

theorem Strand.length_snapshot (st : Strand) : st.snapshot.length = 64 := by
  unfold Strand.snapshot
  split <;> simp [length_leBytes]

theorem Strand.length_armBytes (st : Strand) : st.armBytes.length = 24 := by
  unfold Strand.armBytes
  split <;> simp [length_leBytes]

/-- The state of an entry of a serial stack as a frame codes it (R305). -/
def SerEntry.code (e : SerEntry) : Nat := match e.state with | .fPending => 0 | .fRunning => 1 | .cPending => 2 | .cRunning => 3

/-- The 24 bytes of an entry of a serial stack (R305). -/
def SerEntry.bytes (e : SerEntry) : List Byte := leBytes 8 (canonPc e.pc) ++ (leBytes 12 e.lanes.toNat ++ leBytes 4 e.code)

theorem SerEntry.length_bytes (e : SerEntry) : e.bytes.length = 24 := by simp [SerEntry.bytes, length_leBytes]

theorem SerEntry.code_lt (e : SerEntry) : e.code < 256 ^ 4 := by unfold SerEntry.code; split <;> decide

theorem Strand.stackBytes_eq (st : Strand) :
    st.stackBytes = st.stack.reverse.flatMap SerEntry.bytes ++ leBytes (384 - (st.stack.reverse.flatMap SerEntry.bytes).length) 0 := by
  have h : (fun e : SerEntry => leBytes 8 (canonPc e.pc) ++ leBytes 12 e.lanes.toNat ++ leBytes 4 e.code) = SerEntry.bytes := by
    funext e
    rw [SerEntry.bytes, List.append_assoc]
  rw [← h]
  rfl

theorem Strand.length_stackBytes {st : Strand} (h : st.stack.length ≤ 16) : st.stackBytes.length = 384 := by
  rw [Strand.stackBytes_eq, List.length_append, length_leBytes, length_flatMap_const SerEntry.length_bytes, List.length_reverse]
  omega

/-! ## Where a field of a frame stands -/

/-- A field of the records of a list of one size, where only the records in question have that size. -/
theorem field_flatMap_range_of {g : Nat → List Byte} {b off n k i : Nat} (hg : ∀ x, x < k → (g x).length = b) (hi : i < k)
    (ho : off + n ≤ b) : field ((List.range k).flatMap g) (b * i + off) n = field (g i) off n := by
  have h : (List.range k).flatMap g = (List.range k).flatMap fun x => if x < k then g x else leBytes b 0 := by
    refine List.flatMap_congr fun x hx => ?_
    rw [if_pos (List.mem_range.1 hx)]
  have hlen (x : Nat) : (if x < k then g x else leBytes b 0).length = b := by
    split
    next hx => exact hg x hx
    · exact length_leBytes b 0
  rw [h, field_flatMap_range hlen hi ho, if_pos hi]

theorem length_flatMap_range_of {g : Nat → List Byte} {b k : Nat} (hg : ∀ x, x < k → (g x).length = b) :
    ((List.range k).flatMap g).length = b * k := by
  have h : (List.range k).flatMap g = (List.range k).flatMap fun x => if x < k then g x else leBytes b 0 := by
    refine List.flatMap_congr fun x hx => ?_
    rw [if_pos (List.mem_range.1 hx)]
  have hlen (x : Nat) : (if x < k then g x else leBytes b 0).length = b := by
    split
    next hx => exact hg x hx
    · exact length_leBytes b 0
  rw [h, length_flatMap_const hlen, List.length_range]

section
variable (w : Wave)

theorem Wave.length_snapshots : ((List.range 8).flatMap fun n => (w.strand n).snapshot).length = 512 := by
  rw [length_flatMap_const (fun n => (w.strand n).length_snapshot), List.length_range]

theorem Wave.length_armSets : ((List.range 8).flatMap fun n => (w.strand n).armBytes).length = 192 := by
  rw [length_flatMap_const (fun n => (w.strand n).length_armBytes), List.length_range]

theorem Wave.field_frameHead {off k : Nat} (h : off + k ≤ 128) : field w.frame off k = field w.frameHead off k := by
  rw [Wave.frame_parts]
  exact field_append_left (w.length_frameHead.symm ▸ h)

theorem Wave.field_snapshot {n off k : Nat} (hn : n < 8) (h : off + k ≤ 64) :
    field w.frame (0x80 + 64 * n + off) k = field (w.strand n).snapshot off k := by
  rw [Wave.frame_parts, field_append_right (by rw [w.length_frameHead]; omega), w.length_frameHead,
    field_append_left (by rw [w.length_snapshots]; omega), Nat.add_assoc, Nat.add_sub_cancel_left]
  exact field_flatMap_range (fun n => (w.strand n).length_snapshot) hn h

theorem Wave.field_armSets {n off k : Nat} (hn : n < 8) (h : off + k ≤ 24) :
    field w.frame (0x280 + 24 * n + off) k = field (w.strand n).armBytes off k := by
  rw [Wave.frame_parts, field_append_right (by rw [w.length_frameHead]; omega), w.length_frameHead,
    field_append_right (by rw [w.length_snapshots]; omega), w.length_snapshots,
    field_append_left (by rw [w.length_armSets]; omega)]
  have e : 0x280 + 24 * n + off - 128 - 512 = 24 * n + off := by omega
  rw [e]
  exact field_flatMap_range (fun n => (w.strand n).length_armBytes) hn h

theorem Wave.field_gap : field w.frame 0x340 192 = 0 := by
  rw [Wave.frame_parts, field_append_right (by rw [w.length_frameHead]; omega), w.length_frameHead,
    field_append_right (by rw [w.length_snapshots]; omega), w.length_snapshots,
    field_append_right (by rw [w.length_armSets]), w.length_armSets, field_append_left (by rw [length_leBytes]), field_zeros]

variable (hs : ∀ n, n < 8 → (w.strand n).stack.length ≤ 16)
include hs

theorem Wave.length_stacks : ((List.range 8).flatMap fun n => (w.strand n).stackBytes).length = 3072 :=
  length_flatMap_range_of fun n hn => Strand.length_stackBytes (hs n hn)

theorem Wave.length_frame : w.frame.length = 8192 := by
  simp only [Wave.frame_parts, List.length_append, w.length_frameHead, w.length_snapshots, w.length_armSets, w.length_stacks hs,
    w.length_frameVregs, length_leBytes]

theorem Wave.field_stacks {n off k : Nat} (hn : n < 8) (h : off + k ≤ 384) :
    field w.frame (0x400 + 384 * n + off) k = field (w.strand n).stackBytes off k := by
  rw [Wave.frame_parts, field_append_right (by rw [w.length_frameHead]; omega), w.length_frameHead,
    field_append_right (by rw [w.length_snapshots]; omega), w.length_snapshots,
    field_append_right (by rw [w.length_armSets]; omega), w.length_armSets,
    field_append_right (by rw [length_leBytes]; omega), length_leBytes, field_append_left (by rw [w.length_stacks hs]; omega)]
  have e : 0x400 + 384 * n + off - 128 - 512 - 192 - 192 = 384 * n + off := by omega
  rw [e]
  exact field_flatMap_range_of (fun n hn => Strand.length_stackBytes (hs n hn)) hn h

theorem Wave.field_vregs {off k : Nat} (h : off + k ≤ 3072) : field w.frame (0x1000 + off) k = field w.frameVregs off k := by
  rw [Wave.frame_parts, field_append_right (by rw [w.length_frameHead]; omega), w.length_frameHead,
    field_append_right (by rw [w.length_snapshots]; omega), w.length_snapshots,
    field_append_right (by rw [w.length_armSets]; omega), w.length_armSets,
    field_append_right (by rw [length_leBytes]; omega), length_leBytes,
    field_append_right (by rw [w.length_stacks hs]; omega), w.length_stacks hs,
    field_append_left (by rw [w.length_frameVregs]; omega)]
  have e : 0x1000 + off - 128 - 512 - 192 - 192 - 3072 = off := by omega
  rw [e]

theorem Wave.field_end : field w.frame 0x1C00 1024 = 0 := by
  rw [Wave.frame_parts, field_append_right (by rw [w.length_frameHead]; omega), w.length_frameHead,
    field_append_right (by rw [w.length_snapshots]; omega), w.length_snapshots,
    field_append_right (by rw [w.length_armSets]; omega), w.length_armSets,
    field_append_right (by rw [length_leBytes]; omega), length_leBytes,
    field_append_right (by rw [w.length_stacks hs]; omega), w.length_stacks hs,
    field_append_right (by rw [w.length_frameVregs]), w.length_frameVregs, field_zeros]

theorem Wave.field_vreg {r l : Nat} (hr : r < 8) (hl : l < 96) : field w.frame (0x1000 + 384 * r + 4 * l) 4 = (w.vreg r l).toNat := by
  have hlen (r : Nat) : ((List.range 96).flatMap fun l => leBytes 4 (w.vreg r l).toNat).length = 384 := by
    rw [length_flatMap_const (fun l => length_leBytes 4 (w.vreg r l).toNat), List.length_range]
  rw [Nat.add_assoc, w.field_vregs hs (by omega), Wave.frameVregs, field_flatMap_range hlen hr (by omega)]
  rw [← Nat.add_zero (4 * l), field_flatMap_range (fun l => length_leBytes 4 (w.vreg r l).toNat) hl (by omega)]
  exact field_leBytes_of_lt (w.vreg r l).isLt

end
/-! ## The fields of the head -/

section
variable (w : Wave)

theorem Wave.length_frameScalars : ((w.sregs 0 0 16).flatMap fun x => leBytes 4 x.toNat).length = 64 := by
  rw [length_flatMap_const (fun x : Word => length_leBytes 4 x.toNat), w.length_sregs]

theorem Wave.field_scalar {n : Nat} (h : n < 16) : field w.frame (4 * n) 4 = (w.sreg 0 n).toNat := by
  rw [w.field_frameHead (by omega), Wave.frameHead, field_append_left (by rw [w.length_frameScalars]; omega), ← Nat.add_zero (4 * n),
    field_flatMap (fun x : Word => length_leBytes 4 x.toNat) (by omega) _ n (w.sreg 0 n)
      ((w.getElem?_sregs 0 0 16 n h).trans (by rw [Nat.zero_add]))]
  exact field_leBytes_of_lt (w.sreg 0 n).isLt

/-- The fields of the head behind the scalars. -/
theorem Wave.field_causes :
    field w.frame 0x40 12 = (w.strand w.tstrand).am.toNat ∧ field w.frame 0x4C 4 = w.fstat.toNat ∧
    field w.frame 0x50 4 = w.tcause % 2 ^ 32 ∧ field w.frame 0x54 4 = w.tstrand % 2 ^ 32 ∧ field w.frame 0x58 8 = w.tval.toNat ∧
    field w.frame 0x60 8 = canonPc w.tpc ∧ field w.frame 0x68 4 = w.tskid % 2 ^ 32 ∧ field w.frame 0x6C 4 = 0 ∧
    field w.frame 0x70 12 = w.tlane.toNat ∧ field w.frame 0x7C 4 = 0 := by
  have hpc : canonPc w.tpc < 256 ^ 8 := BitVec.isLt _
  have hf : w.fstat.toNat < 256 ^ 4 := Nat.lt_of_lt_of_le w.fstat.isLt (by decide)
  refine ⟨?_, ?_, ?_, ?_, ?_, ?_, ?_, ?_, ?_, ?_⟩
  all_goals
    rw [w.field_frameHead (by decide), Wave.frameHead]
    simp only [field_append_right, field_append_left, length_leBytes, w.length_frameScalars, Nat.reduceAdd, Nat.reduceLeDiff,
      Nat.reduceSub, Nat.le_refl, field_leBytes]
  · exact Nat.mod_eq_of_lt (w.strand w.tstrand).am.isLt
  · exact Nat.mod_eq_of_lt hf
  · rfl
  · rfl
  · exact Nat.mod_eq_of_lt w.tval.isLt
  · exact Nat.mod_eq_of_lt hpc
  · rfl
  · rfl
  · exact Nat.mod_eq_of_lt w.tlane.isLt
  · rfl

end

/-! ## The fields of a slot -/

theorem Park.code_le (p : Park) : p.code ≤ 12 := by cases p <;> decide

/-- A flag as a bit of a record. -/
def flagBit (b : Bool) : Nat := if b = true then 1 else 0

theorem flagBit_le (b : Bool) : flagBit b ≤ 1 := by cases b <;> decide

theorem flagBit_shift (b : Bool) (x : Nat) : (if b = true then x else 0) = x * flagBit b := by
  cases b <;> simp [flagBit]

/-- The state of a slot as its snapshot codes it (R305). -/
def SlotState.code (x : SlotState) : Nat := match x with | .free => 0 | .ready => 1 | .parked => 2 | .ended => 3

/-- The kind of a slot as its snapshot codes it (R305). -/
def SlotKind.code (x : SlotKind) : Nat := match x with | .root => 0 | .armT => 1 | .armF => 2 | .cont => 3

section
variable (st : Strand)

/-- The park condition of a slot as its snapshot codes it (R305). -/
def Strand.parkCode : Nat := if st.state = .parked then st.park.code else 0

theorem Strand.parkCode_le : st.parkCode ≤ 12 := by
  unfold Strand.parkCode
  split
  · exact st.park.code_le
  · omega

/-- The parent of a slot as its snapshot codes it (R305). -/
def parentField (p : Option Nat) : Nat := match p with | some p => 16 * (p % 8) + 128 | none => 0

/-- The first word of a snapshot is the sum of its fields, each at its place. -/
theorem Strand.snapHead_eq :
    st.snapHead = st.state.code + 4 * st.kind.code + (16 * (st.parent.getD 0 % 8) + 128 * flagBit st.parent.isSome) +
      (256 * (st.armT.slot % 8) + 2048 * flagBit st.armT.live + 4096 * flagBit st.armT.ended) +
      (8192 * (st.armF.slot % 8) + 65536 * flagBit st.armF.live + 131072 * flagBit st.armF.ended) +
      262144 * st.stack.length + 8388608 * flagBit st.trap + 16777216 * st.parkCode := by
  have hparent : parentField st.parent = 16 * (st.parent.getD 0 % 8) + 128 * flagBit st.parent.isSome := by cases st.parent <;> rfl
  have hpark : (if st.state = .parked then st.park.code * 2 ^ 24 else 0) = 16777216 * st.parkCode := by
    unfold Strand.parkCode
    split <;> omega
  have h : st.snapHead = st.state.code + 4 * st.kind.code + parentField st.parent +
      (st.armT.slot % 8 * 2 ^ 8 + (if st.armT.live then 2 ^ (8 + 3) else 0) + (if st.armT.ended then 2 ^ (8 + 4) else 0)) +
      (st.armF.slot % 8 * 2 ^ 13 + (if st.armF.live then 2 ^ (13 + 3) else 0) + (if st.armF.ended then 2 ^ (13 + 4) else 0)) +
      st.stack.length * 2 ^ 18 + (if st.trap then 2 ^ 23 else 0) +
      (if st.state = .parked then st.park.code * 2 ^ 24 else 0) := rfl
  rw [h, hparent, hpark]
  simp only [flagBit_shift]
  omega

theorem SlotState.code_le (x : SlotState) : x.code ≤ 3 := by cases x <;> decide

theorem SlotKind.code_le (x : SlotKind) : x.code ≤ 3 := by cases x <;> decide

/-- The fields of a snapshot's first word (R305). -/
theorem Strand.snapHead_fields (h : st.stack.length ≤ 16) :
    st.snapHead < 2 ^ 28 ∧ st.snapHead / 2 ^ 0 % 2 ^ 2 = st.state.code ∧ st.snapHead / 2 ^ 2 % 2 ^ 2 = st.kind.code ∧
    st.snapHead / 2 ^ 4 % 2 ^ 3 = st.parent.getD 0 % 8 ∧ st.snapHead / 2 ^ 7 % 2 ^ 1 = flagBit st.parent.isSome ∧
    st.snapHead / 2 ^ 8 % 2 ^ 3 = st.armT.slot % 8 ∧ st.snapHead / 2 ^ 11 % 2 ^ 1 = flagBit st.armT.live ∧
    st.snapHead / 2 ^ 12 % 2 ^ 1 = flagBit st.armT.ended ∧ st.snapHead / 2 ^ 13 % 2 ^ 3 = st.armF.slot % 8 ∧
    st.snapHead / 2 ^ 16 % 2 ^ 1 = flagBit st.armF.live ∧ st.snapHead / 2 ^ 17 % 2 ^ 1 = flagBit st.armF.ended ∧
    st.snapHead / 2 ^ 18 % 2 ^ 5 = st.stack.length ∧ st.snapHead / 2 ^ 23 % 2 ^ 1 = flagBit st.trap ∧
    st.snapHead / 2 ^ 24 % 2 ^ 4 = st.parkCode := by
  have hhead := st.snapHead_eq
  have hstate := st.state.code_le
  have hkind := st.kind.code_le
  have hparent := flagBit_le st.parent.isSome
  have hTlive := flagBit_le st.armT.live
  have hTended := flagBit_le st.armT.ended
  have hFlive := flagBit_le st.armF.live
  have hFended := flagBit_le st.armF.ended
  have htrap := flagBit_le st.trap
  have hpark := st.parkCode_le
  have hp8 := Nat.mod_lt (st.parent.getD 0) (show 0 < 8 by decide)
  have hT8 := Nat.mod_lt st.armT.slot (show 0 < 8 by decide)
  have hF8 := Nat.mod_lt st.armF.slot (show 0 < 8 by decide)
  generalize st.snapHead = x at *
  generalize st.parent.getD 0 % 8 = p8 at *
  generalize st.armT.slot % 8 = t8 at *
  generalize st.armF.slot % 8 = f8 at *
  refine ⟨by omega, ?_⟩
  simp only [Nat.reducePow]
  refine ⟨?_, ?_, ?_, ?_, ?_, ?_, ?_, ?_, ?_, ?_, ?_, ?_, ?_⟩ <;> omega

variable {st}

theorem Strand.field_snapshot_free (h : st.state = .free) : field st.snapshot 0 64 = 0 := by
  rw [Strand.snapshot, if_pos h, field_zeros]

/-- The fields of the snapshot of a slot that is not free (R305). -/
theorem Strand.field_snapshot_used (h : st.state ≠ .free) (hs : st.snapHead < 2 ^ 28) :
    field st.snapshot 0 4 = st.snapHead ∧ field st.snapshot 4 4 = st.age.toNat ∧ field st.snapshot 8 8 = canonPc st.standPc ∧
    field st.snapshot 16 12 = st.memb.toNat ∧ field st.snapshot 28 12 = st.am.toNat ∧
    field st.snapshot 40 16 = (if st.state = .ended then 2 ^ 128 - 1 else st.pubV.toNat) ∧
    field st.snapshot 56 8 = (if st.state = .ended then 2 ^ 64 - 1 else st.pubS.toNat) := by
  have hpc : canonPc st.standPc < 256 ^ 8 := BitVec.isLt _
  have hv : (if st.state = .ended then 2 ^ 128 - 1 else st.pubV.toNat) < 256 ^ 16 := by
    split
    · decide
    · exact st.pubV.isLt
  have hp : (if st.state = .ended then 2 ^ 64 - 1 else st.pubS.toNat) < 256 ^ 8 := by
    split
    · decide
    · exact st.pubS.isLt
  have hparts : st.snapshot = leBytes 4 st.snapHead ++ (leBytes 4 st.age.toNat ++ (leBytes 8 (canonPc st.standPc) ++
      (leBytes 12 st.memb.toNat ++ (leBytes 12 st.am.toNat ++ (leBytes 16 (if st.state = .ended then 2 ^ 128 - 1 else st.pubV.toNat) ++
      leBytes 8 (if st.state = .ended then 2 ^ 64 - 1 else st.pubS.toNat)))))) := by
    rw [Strand.snapshot, if_neg h]
    simp only [List.append_assoc]
  rw [hparts]
  refine ⟨?_, ?_, ?_, ?_, ?_, ?_, ?_⟩
  all_goals
    simp only [field_append_right, field_append_left, length_leBytes, Nat.reduceLeDiff, Nat.reduceSub, Nat.le_refl, field_leBytes, Nat.zero_add]
  · exact Nat.mod_eq_of_lt (by omega)
  · exact Nat.mod_eq_of_lt st.age.isLt
  · exact Nat.mod_eq_of_lt hpc
  · exact Nat.mod_eq_of_lt st.memb.isLt
  · exact Nat.mod_eq_of_lt st.am.isLt
  · exact Nat.mod_eq_of_lt hv
  · exact Nat.mod_eq_of_lt hp

/-- The arm lane sets of a slot: those of a continuation's arms, else 0 (R304). -/
theorem Strand.field_armBytes :
    field st.armBytes 0 12 = (if st.kind = .cont ∧ st.state ≠ .free then st.armT.lanes.toNat else 0) ∧
    field st.armBytes 12 12 = (if st.kind = .cont ∧ st.state ≠ .free then st.armF.lanes.toNat else 0) := by
  unfold Strand.armBytes
  by_cases h : st.kind = .cont ∧ st.state ≠ .free
  · have hc : (st.kind = .cont && st.state != .free) = true := by simpa using h
    rw [if_pos hc, if_pos h, if_pos h]
    refine ⟨?_, ?_⟩
    · rw [field_append_left (by rw [length_leBytes]), field_leBytes_of_lt st.armT.lanes.isLt]
    · rw [field_append_right (by rw [length_leBytes]), length_leBytes, Nat.sub_self, field_leBytes_of_lt st.armF.lanes.isLt]
  · have hc : ¬(st.kind = .cont && st.state != .free) = true := by simpa using h
    rw [if_neg hc, if_neg h, if_neg h]
    exact ⟨field_zeros .., field_zeros ..⟩

/-- The entries of a serial stack, the first pushed first (R305). -/
theorem Strand.field_stackBytes {e off k : Nat} {x : SerEntry} (hx : st.stack.reverse[e]? = some x) (h : off + k ≤ 24) :
    field st.stackBytes (24 * e + off) k = field x.bytes off k := by
  have he : e < st.stack.reverse.length := (List.getElem?_eq_some_iff.1 hx).1
  rw [Strand.stackBytes_eq, field_append_left (by rw [length_flatMap_const SerEntry.length_bytes]; omega)]
  exact field_flatMap SerEntry.length_bytes h _ e x hx

theorem SerEntry.field_bytes (x : SerEntry) :
    field x.bytes 0 8 = canonPc x.pc ∧ field x.bytes 8 12 = x.lanes.toNat ∧ field x.bytes 20 4 = x.code := by
  have hpc : canonPc x.pc < 256 ^ 8 := BitVec.isLt _
  unfold SerEntry.bytes
  refine ⟨?_, ?_, ?_⟩
  all_goals
    simp only [field_append_right, field_append_left, length_leBytes, Nat.reduceLeDiff, Nat.reduceSub, Nat.le_refl, field_leBytes, Nat.zero_add]
  · exact Nat.mod_eq_of_lt hpc
  · exact Nat.mod_eq_of_lt x.lanes.isLt
  · exact Nat.mod_eq_of_lt x.code_lt

end

end Sys2Proof.Machine
end

section
/-! SUPPORT. The handler's start and the return from it (R306, R308, R309). -/

namespace Sys2Proof.Machine

/-! ## What the resumption of a block keeps -/

/-- Two waves agree in their registers, and in where their strands stand. -/
structure Wave.SameStands (w u : Wave) : Prop where
  s : u.s = w.s
  v : u.v = w.v
  fstat : u.fstat = w.fstat
  strands : ∀ n, (u.strand n).state = (w.strand n).state ∧ (u.strand n).pc = (w.strand n).pc ∧ (u.strand n).replay = (w.strand n).replay

/-- Two states agree in memory, and their waves in their registers and in where their strands stand. -/
structure State.SameStands (s t : State) : Prop where
  mem : t.mem = s.mem
  waves : ∀ k, (s.waveK k).SameStands (t.waveK k)

theorem Wave.SameStands.refl (w : Wave) : w.SameStands w := ⟨rfl, rfl, rfl, fun _ => ⟨rfl, rfl, rfl⟩⟩

theorem Wave.SameStands.trans {w u x : Wave} (h : w.SameStands u) (g : u.SameStands x) : w.SameStands x where
  s := g.s.trans h.s
  v := g.v.trans h.v
  fstat := g.fstat.trans h.fstat
  strands n := by
    obtain ⟨hst, hpc, hr⟩ := h.strands n
    obtain ⟨gst, gpc, gr⟩ := g.strands n
    exact ⟨gst.trans hst, gpc.trans hpc, gr.trans hr⟩

theorem State.SameStands.refl (s : State) : s.SameStands s := ⟨rfl, fun k => Wave.SameStands.refl (s.waveK k)⟩

theorem State.SameStands.trans {s t u : State} (h : s.SameStands t) (g : t.SameStands u) : s.SameStands u :=
  ⟨g.mem.trans h.mem, fun k => (h.waves k).trans (g.waves k)⟩

theorem State.SameStands.foldl {f : State → β → State} (h : ∀ (s : State) x, s.SameStands (f s x)) (l : List β) (s : State) :
    s.SameStands (l.foldl f s) := by
  induction l generalizing s with
  | nil => exact .refl s
  | cons x t ih => exact (h s x).trans (ih _)

theorem State.SameStands.updWaveK {f : Wave → Wave} (h : ∀ w : Wave, w.SameStands (f w)) (s : State) (k : Nat) :
    s.SameStands (s.updWaveK k f) := by
  refine ⟨rfl, fun j => ?_⟩
  by_cases hj : j = k
  · rw [hj, State.waveK_updWaveK_self]
    exact h _
  · rw [State.waveK_updWaveK_of_ne _ _ hj]
    exact .refl _

/-- A pending fault that a strand gives up leaves it where it stands. -/
theorem Wave.SameStands.erasePend (w : Wave) (n : Nat) (f : FaultRec) (latched : Option FaultRec) (at' : Nat) :
    w.SameStands { w.updStrand n (fun st => { st with pend := st.pend.erase f }) with latched := latched, latchedAt := at' } := by
  refine ⟨rfl, rfl, rfl, fun k => ?_⟩
  have hk : ∀ x : Wave, Wave.strand { x with latched := latched, latchedAt := at' } k = x.strand k := fun _ => rfl
  rw [hk]
  by_cases h : k = n
  · rw [h, Wave.strand_updStrand_self]
    exact ⟨rfl, rfl, rfl⟩
  · rw [Wave.strand_updStrand_of_ne _ _ h]
    exact ⟨rfl, rfl, rfl⟩

theorem Wave.SameStands.unhalt (w : Wave) : w.SameStands { w with halted := false, sinceHalt := 0 } :=
  ⟨rfl, rfl, rfl, fun _ => ⟨rfl, rfl, rfl⟩⟩

theorem State.resumeBlock_stands (s : State) (blk : Nat) : s.SameStands (s.resumeBlock blk) := by
  unfold State.resumeBlock
  dsimp only
  have hblock : s.SameStands (s.updBlock blk fun b => { b with halted := false }) := ⟨rfl, fun k => .refl (s.waveK k)⟩
  have hwaves (l : List Nat) (u : State) :
      u.SameStands (l.foldl (fun s k => s.updWaveK k fun w => { w with halted := false, sinceHalt := 0 }) u) :=
    State.SameStands.foldl (fun s k => State.SameStands.updWaveK Wave.SameStands.unhalt s k) l u
  split
  · exact hblock.trans (hwaves _ _)
  · exact (hblock.trans (hwaves _ _)).trans (State.SameStands.updWaveK (fun w => Wave.SameStands.erasePend w _ _ _ _) _ _)

/-! ## The registers that a frame restores (R308) -/

theorem Wave.setVregs_eq (w : Wave) (l : List (Nat × Word)) :
    w.setVregs l = { w with v := l.foldl (fun m p => SMap.set 0 m p.1 p.2) w.v } := by
  induction l generalizing w with
  | nil => rfl
  | cons p t ih => rw [Wave.setVregs, ih]; rfl

/-- A word of a frame. -/
def frameWord (f : List Byte) (off : Nat) : Word := BitVec.ofNat 32 (field f off 4)

/-- The lanes of v0 to v7 that a frame gives, by key. -/
def frameLanes (f : List Byte) : List (Nat × Word) :=
  (List.range 8).flatMap fun n => (List.range 96).map fun l => (vkey n l, frameWord f (0x1000 + 384 * n + 4 * l))

theorem Wave.restore_eq (w : Wave) (f : List Byte) :
    w.restore f = { w with
      s := (List.range 16).foldl (fun m n => SMap.set 0 m n (frameWord f (4 * n))) w.s
      fstat := (frameWord f 0x4C).setWidth 5
      v := (frameLanes f).foldl (fun m p => SMap.set 0 m p.1 p.2) w.v } := by
  unfold Wave.restore
  dsimp only
  rw [Wave.setVregs_eq]
  rfl

theorem mem_frameLanes {f : List Byte} {p : Nat × Word} :
    p ∈ frameLanes f ↔ ∃ n l, n < 8 ∧ l < 96 ∧ (vkey n l, frameWord f (0x1000 + 384 * n + 4 * l)) = p := by
  simp [frameLanes]

section
variable (m : SMap Word) (f : List Byte)

theorem get_frameScalars {n : Nat} (h : n < 16) :
    SMap.get 0 ((List.range 16).foldl (fun m n => SMap.set 0 m n (frameWord f (4 * n))) m) n = frameWord f (4 * n) := by
  refine SMap.get_foldl_some (sets := fun x k => if k = x then some (frameWord f (4 * x)) else none)
    (fun m x k => SMap.get_set m x k _) _ _ _ _ (fun x _ => ?_) ⟨n, List.mem_range.2 h, if_pos rfl⟩
  by_cases e : n = x
  · exact .inr (by rw [if_pos e, e])
  · exact .inl (if_neg e)

theorem get_frameScalars_high {n : Nat} (h : 16 ≤ n) :
    SMap.get 0 ((List.range 16).foldl (fun m n => SMap.set 0 m n (frameWord f (4 * n))) m) n = SMap.get 0 m n := by
  refine SMap.get_foldl_none (sets := fun x k => if k = x then some (frameWord f (4 * x)) else none)
    (fun m x k => SMap.get_set m x k _) _ _ _ fun x hx => if_neg fun e => ?_
  have hlt := List.mem_range.1 hx
  omega

theorem get_frameLanes {r l : Nat} (hr : r < 8) (hl : l < 96) :
    SMap.get 0 ((frameLanes f).foldl (fun m p => SMap.set 0 m p.1 p.2) m) (vkey r l) = frameWord f (0x1000 + 384 * r + 4 * l) := by
  refine SMap.get_foldl_some (sets := pairSets) (fun m p k => SMap.get_set m p.1 k p.2) _ m _ _ (fun p hp => ?_)
    ⟨_, mem_frameLanes.2 ⟨r, l, hr, hl, rfl⟩, if_pos rfl⟩
  obtain ⟨n, k, _, hk, rfl⟩ := mem_frameLanes.1 hp
  by_cases e : vkey r l = vkey n k
  · obtain ⟨rfl, rfl⟩ := (vkey_inj hl hk).1 e
    exact .inr (if_pos rfl)
  · exact .inl (if_neg e)

theorem get_frameLanes_high {r l : Nat} (hr : 8 ≤ r) (hl : l < 96) :
    SMap.get 0 ((frameLanes f).foldl (fun m p => SMap.set 0 m p.1 p.2) m) (vkey r l) = SMap.get 0 m (vkey r l) := by
  refine SMap.get_foldl_none (sets := pairSets) (fun m p k => SMap.get_set m p.1 k p.2) _ m _ fun p hp => if_neg fun e => ?_
  obtain ⟨n, k, hn, hk, rfl⟩ := mem_frameLanes.1 hp
  obtain ⟨rfl, rfl⟩ := (vkey_inj hl hk).1 e
  omega

end

/-! ## The return (R308) -/

/-- A wave with other scalar registers, vector registers and FSTAT, at the end of its trap. -/
def Wave.withRegs (w : Wave) (m v : SMap Word) (fl : BitVec 5) : Wave := { w with frameAt := none, s := m, fstat := fl, v := v }

/-- A wave with the registers that a frame gives it. -/
def Wave.fromFrame (w : Wave) (f : List Byte) : Wave := { w with frameAt := none }.restore f

theorem Wave.fromFrame_eq (w : Wave) (f : List Byte) :
    w.fromFrame f = w.withRegs ((List.range 16).foldl (fun m n => SMap.set 0 m n (frameWord f (4 * n))) w.s)
      ((frameLanes f).foldl (fun m p => SMap.set 0 m p.1 p.2) w.v) ((frameWord f 0x4C).setWidth 5) := Wave.restore_eq ..

/-- The faulting wave after TRET: its registers restored, the trap slot free, the faulting strand at TPC. -/
def Wave.returned (w : Wave) (f : List Byte) (cyc : Nat) : Wave :=
  ((w.fromFrame f).setStrand 8 {}).updStrand w.tstrand fun st => (st.resumeAt w cyc).dropLater w.tskid

section
variable (w : Wave) (m v : SMap Word) (fl : BitVec 5)

/-- The cause registers stand as before in the wave with other registers. -/
theorem Wave.resumed_withRegs (cyc : Nat) :
    (let u := (w.withRegs m v fl).setStrand 8 {}
     u.updStrand u.tstrand fun st => (st.resumeAt u cyc).dropLater u.tskid) =
    ((w.withRegs m v fl).setStrand 8 {}).updStrand w.tstrand fun st => (st.resumeAt w cyc).dropLater w.tskid := rfl

theorem Wave.withRegs_strand (n : Nat) : (w.withRegs m v fl).strand n = w.strand n := rfl

end

theorem Wave.returned_restores (w : Wave) (f : List Byte) (cyc : Nat) :
    (let u := (w.fromFrame f).setStrand 8 {}
     u.updStrand u.tstrand fun st => (st.resumeAt u cyc).dropLater u.tskid) = w.returned f cyc := by
  rw [Wave.returned, Wave.fromFrame_eq]
  exact Wave.resumed_withRegs ..

theorem State.returnTrap_eq {s t : State} {core slot : Nat} {word : Word} {f : List Byte}
    (hl : ((s.drainWave core slot).wave core slot).latched = none)
    (hf : (s.drainWave core slot).loadBytes core slot 128 64 ((s.drainWave core slot).frameAddr core slot) = .ok (f, t)) :
    s.returnTrap core slot word =
      ((t.traceRec core slot 3 8 0 (((s.wave core slot).strand 8).pc - 4)).updWave core slot fun w =>
        w.returned f (t.cycle (s.wave core slot).part)).resumeBlock (s.wave core slot).blk := by
  have hn : ¬((s.drainWave core slot).wave core slot).latched.isSome = true := by rw [hl]; exact Bool.false_ne_true
  unfold State.returnTrap
  dsimp only
  rw [if_neg hn, hf]
  refine congrArg (fun g => State.resumeBlock (State.updWave _ core slot g) _) (funext fun w => ?_)
  exact Wave.returned_restores w f _

section
variable (w : Wave) (f : List Byte) (cyc : Nat)

theorem Wave.returned_s : (w.returned f cyc).s = (List.range 16).foldl (fun m n => SMap.set 0 m n (frameWord f (4 * n))) w.s := by
  rw [Wave.returned, Wave.fromFrame_eq, Wave.updStrand_s, Wave.setStrand_s, Wave.withRegs]

theorem Wave.returned_v : (w.returned f cyc).v = (frameLanes f).foldl (fun m p => SMap.set 0 m p.1 p.2) w.v := by
  rw [Wave.returned, Wave.fromFrame_eq, Wave.updStrand_v, Wave.setStrand_v, Wave.withRegs]

theorem Wave.returned_fstat : (w.returned f cyc).fstat = (frameWord f 0x4C).setWidth 5 := by
  rw [Wave.returned, Wave.fromFrame_eq, Wave.updStrand_fstat, Wave.setStrand_fstat, Wave.withRegs]

theorem Wave.fromFrame_strand (n : Nat) : (w.fromFrame f).strand n = w.strand n := by
  rw [Wave.fromFrame_eq, Wave.withRegs_strand]

theorem Wave.returned_strand_of_ne {n : Nat} (h : n ≠ w.tstrand) (h8 : n ≠ 8) : (w.returned f cyc).strand n = w.strand n := by
  rw [Wave.returned, Wave.strand_updStrand_of_ne _ _ h, Wave.strand_setStrand_of_ne _ _ h8, Wave.fromFrame_strand]

theorem Wave.returned_strand_trap (h : w.tstrand < 8) : (w.returned f cyc).strand 8 = {} := by
  rw [Wave.returned, Wave.strand_updStrand_of_ne _ _ (show 8 ≠ w.tstrand by omega), Wave.strand_setStrand_self]

theorem Wave.returned_strand_self (h : w.tstrand < 8) :
    (w.returned f cyc).strand w.tstrand = ((w.strand w.tstrand).resumeAt w cyc).dropLater w.tskid := by
  rw [Wave.returned, Wave.strand_updStrand_self, Wave.strand_setStrand_of_ne _ _ (show w.tstrand ≠ 8 by omega), Wave.fromFrame_strand]

end

theorem Strand.dropLater_stands (st : Strand) (skid : Nat) :
    (st.dropLater skid).state = st.state ∧ (st.dropLater skid).pc = st.pc ∧ (st.dropLater skid).replay = st.replay := by
  unfold Strand.dropLater
  split <;> exact ⟨rfl, rfl, rfl⟩

end Sys2Proof.Machine
end

section
/-! SUPPORT. The trap frame, the handler's start and the return from it, together (R303 to R309). -/

namespace Sys2Proof.Machine

theorem Wave.sreg_low (w : Wave) (n : Nat) {r : Nat} (h : r < 60) : w.sreg n r = SMap.get 0 w.s r := by
  rw [Wave.sreg, if_neg (by omega), if_neg (by omega)]

/-! ## The handler's start (R306) -/

/-- The trap strand at its start, with the lanes of the faulting strand. -/
def Strand.handler (st : Strand) (tba : DWord) (cyc : Nat) : Strand :=
  { state := .ready, kind := .root, pc := tba, memb := st.memb, am := st.am, trap := true, readyAt := cyc }

/-- The wave whose handler starts. -/
def Wave.inHandler (w : Wave) (f : FaultRec) (a cyc : Nat) (tba : DWord) : Wave :=
  { w.setStrand 8 ((w.strand f.strand).handler tba cyc) with
    frameAt := some a
    tpcWritten := false
    s := SMap.set 0 (SMap.set 0 (SMap.set 0 w.s 0 (BitVec.ofNat 32 a)) 1 (BitVec.ofNat 32 (a / 2 ^ 32))) 2 (BitVec.ofNat 32 w.tcause) }

theorem State.startHandler_wave (s : State) (core slot : Nat) (f : FaultRec) :
    (s.startHandler core slot f).wave core slot = (s.wave core slot).inHandler f (s.frameAddr core slot)
      (s.cycle (s.wave core slot).part) (s.vi (s.wave core slot).vi).tba := by
  rw [State.startHandler, State.wave_updWave_self]
  rfl

section
variable (w : Wave) (f : FaultRec) (a cyc : Nat) (tba : DWord)

theorem Wave.inHandler_strand_trap : (w.inHandler f a cyc tba).strand 8 = (w.strand f.strand).handler tba cyc :=
  Wave.strand_setStrand_self ..

theorem Wave.inHandler_strand {n : Nat} (h : n < 8) : (w.inHandler f a cyc tba).strand n = w.strand n :=
  Wave.strand_setStrand_of_ne w _ (show n ≠ 8 by omega)

theorem Wave.inHandler_s : (w.inHandler f a cyc tba).s =
    SMap.set 0 (SMap.set 0 (SMap.set 0 w.s 0 (BitVec.ofNat 32 a)) 1 (BitVec.ofNat 32 (a / 2 ^ 32))) 2 (BitVec.ofNat 32 w.tcause) := rfl

theorem Wave.inHandler_sregs :
    (w.inHandler f a cyc tba).sreg 8 0 = BitVec.ofNat 32 a ∧ (w.inHandler f a cyc tba).sreg 8 1 = BitVec.ofNat 32 (a / 2 ^ 32) ∧
    (w.inHandler f a cyc tba).sreg 8 2 = BitVec.ofNat 32 w.tcause ∧
    ∀ r, 3 ≤ r → r < 60 → (w.inHandler f a cyc tba).sreg 8 r = w.sreg 8 r := by
  refine ⟨?_, ?_, ?_, fun r hlo hhi => ?_⟩
  · rw [Wave.sreg_low _ _ (by decide), Wave.inHandler_s, SMap.get_set_of_ne _ _ _ (by decide), SMap.get_set_of_ne _ _ _ (by decide),
      SMap.get_set_self]
  · rw [Wave.sreg_low _ _ (by decide), Wave.inHandler_s, SMap.get_set_of_ne _ _ _ (by decide), SMap.get_set_self]
  · rw [Wave.sreg_low _ _ (by decide), Wave.inHandler_s, SMap.get_set_self]
  · rw [Wave.sreg_low _ _ hhi, Wave.sreg_low _ _ hhi, Wave.inHandler_s, SMap.get_set_of_ne _ _ _ (by omega),
      SMap.get_set_of_ne _ _ _ (by omega), SMap.get_set_of_ne _ _ _ (by omega)]

end

/-! ## The strand that resumes (R308, R309) -/

/-- The causes after which the lanes of TLANE run the word again (R309). -/
def replayedCauses : List Cause :=
  [.illegal, .emulate, .priv, .xmoduse, .badop, .vregrange, .tokenwrite, .stranddepth, .pubwrite, .joinctx, .barstrand, .mmarole,
    .mfmt, .align, .translate, .protect, .region, .stashrange, .extentgone]

/-- A cause is precise or restartable and one that a handler may have mended. -/
def replaysAfter (c : Nat) : Bool :=
  (Cause.mcheck :: replayedCauses).any fun d => d.code = c && (d.kind = .precise || d.kind = .restartable)

theorem Strand.resumeAt_replay (st : Strand) (w : Wave) (cyc : Nat) :
    (st.resumeAt w cyc).replay = if replaysAfter w.tcause && !w.tpcWritten && !w.tNoted then some w.tlane else none := rfl

theorem replaysAfter_code (c : Cause) (h : c ∈ replayedCauses) : replaysAfter c.code = true := by
  revert h
  cases c <;> decide

theorem not_replaysAfter_code (c : Cause)
    (h : c ∈ [.overread, .uncounted, .heaperr, .fpexc, .usertrap, .break_, .dbghalt, .blockhalt, .mcheck]) :
    replaysAfter c.code = false := by
  revert h
  cases c <;> decide

/-- TPC with its low two bits 0. -/
theorem word_aligned (x : DWord) : x &&& ~~~3 = x.extractLsb' 2 62 ++ (0#2) := by
  have h3 : ∀ i : Fin 64, (3#64).getLsbD i.val = decide (i.val < 2) := by decide
  refine BitVec.eq_of_getLsbD_eq fun i hi => ?_
  have hbit : BitVec.getLsbD (3 : BitVec (62 + 2)) i = decide (i < 2) := h3 ⟨i, hi⟩
  rw [BitVec.getLsbD_and, BitVec.getLsbD_not, hbit, BitVec.getLsbD_append]
  by_cases h : i < 2
  · simp [h]
  · have hx : 2 + (i - 2) = i := by omega
    simp [h, hi, hx]
    omega

theorem Strand.resumeAt_pc (st : Strand) (w : Wave) (cyc : Nat) : (st.resumeAt w cyc).pc = w.tpc.extractLsb' 2 62 ++ (0#2) :=
  word_aligned w.tpc

/-- What the faulting strand replays after each kind of cause (R309). -/
theorem Strand.resumeAt_replays (st : Strand) (w : Wave) (cyc : Nat) (c : Cause) (hc : w.tcause = c.code) :
    (c ∈ replayedCauses → w.tpcWritten = false → w.tNoted = false → (st.resumeAt w cyc).replay = some w.tlane) ∧
    (c ∈ [.overread, .uncounted, .heaperr, .fpexc, .usertrap, .break_, .dbghalt, .blockhalt, .mcheck] →
      (st.resumeAt w cyc).replay = none) ∧
    ((w.tpcWritten = true ∨ w.tNoted = true) → (st.resumeAt w cyc).replay = none) := by
  rw [Strand.resumeAt_replay, hc]
  refine ⟨fun h hw hn => ?_, fun h => ?_, fun h => if_neg ?_⟩
  · rw [replaysAfter_code c h, hw, hn]
    rfl
  · rw [not_replaysAfter_code c h]
    rfl
  · rcases h with h | h <;> simp [h]

/-! ## The frame by slots (R304, R305) -/

section
variable (w : Wave) (hs : ∀ n, n < 8 → (w.strand n).stack.length ≤ 16) {n : Nat} (hn : n < 8)
include hs hn

theorem Wave.field_slot_used (h : (w.strand n).state ≠ .free) :
    field w.frame (0x80 + 64 * n) 4 = (w.strand n).snapHead ∧
    field w.frame (0x80 + 64 * n + 4) 4 = (w.strand n).age.toNat ∧
    field w.frame (0x80 + 64 * n + 8) 8 = canonPc (w.strand n).standPc ∧
    field w.frame (0x80 + 64 * n + 16) 12 = (w.strand n).memb.toNat ∧
    field w.frame (0x80 + 64 * n + 28) 12 = (w.strand n).am.toNat ∧
    field w.frame (0x80 + 64 * n + 40) 16 = (if (w.strand n).state = .ended then 2 ^ 128 - 1 else (w.strand n).pubV.toNat) ∧
    field w.frame (0x80 + 64 * n + 56) 8 = (if (w.strand n).state = .ended then 2 ^ 64 - 1 else (w.strand n).pubS.toNat) := by
  obtain ⟨hhead, hage, hpc, hmemb, ham, hv, hp⟩ := Strand.field_snapshot_used h ((w.strand n).snapHead_fields (hs n hn)).1
  exact ⟨(w.field_snapshot (off := 0) hn (by decide)).trans hhead, (w.field_snapshot hn (by decide)).trans hage,
    (w.field_snapshot hn (by decide)).trans hpc, (w.field_snapshot hn (by decide)).trans hmemb,
    (w.field_snapshot hn (by decide)).trans ham, (w.field_snapshot hn (by decide)).trans hv, (w.field_snapshot hn (by decide)).trans hp⟩

theorem Wave.field_entry {e : Nat} {x : SerEntry} (hx : (w.strand n).stack.reverse[e]? = some x) :
    field w.frame (0x400 + 384 * n + 24 * e) 8 = canonPc x.pc ∧ field w.frame (0x400 + 384 * n + 24 * e + 8) 12 = x.lanes.toNat ∧
    field w.frame (0x400 + 384 * n + 24 * e + 20) 4 = x.code := by
  have he : e < (w.strand n).stack.reverse.length := (List.getElem?_eq_some_iff.1 hx).1
  have h16 := hs n hn
  rw [List.length_reverse] at he
  obtain ⟨hpc, hlanes, hcode⟩ := x.field_bytes
  refine ⟨?_, ?_, ?_⟩
  · exact (w.field_stacks hs hn (by omega)).trans ((Strand.field_stackBytes (off := 0) hx (by decide)).trans hpc)
  · rw [Nat.add_assoc (0x400 + 384 * n)]
    exact (w.field_stacks hs hn (by omega)).trans ((Strand.field_stackBytes hx (by decide)).trans hlanes)
  · rw [Nat.add_assoc (0x400 + 384 * n)]
    exact (w.field_stacks hs hn (by omega)).trans ((Strand.field_stackBytes hx (by decide)).trans hcode)

end

theorem Wave.field_arms (w : Wave) {n : Nat} (hn : n < 8) :
    field w.frame (0x280 + 24 * n) 12 =
      (if (w.strand n).kind = .cont ∧ (w.strand n).state ≠ .free then (w.strand n).armT.lanes.toNat else 0) ∧
    field w.frame (0x28C + 24 * n) 12 =
      (if (w.strand n).kind = .cont ∧ (w.strand n).state ≠ .free then (w.strand n).armF.lanes.toNat else 0) := by
  obtain ⟨hT, hF⟩ := Strand.field_armBytes (st := w.strand n)
  have e : 0x28C + 24 * n = 0x280 + 24 * n + 12 := by omega
  rw [e]
  exact ⟨(w.field_armSets (off := 0) hn (by decide)).trans hT, (w.field_armSets hn (by decide)).trans hF⟩

/-! ## After the return -/

section
variable {s t : State} {core slot : Nat} {word : Word} {f : List Byte}

/-- What TRET leaves, before the pending faults of the block are looked at. -/
theorem State.returnTrap_stands
    (hl : ((s.drainWave core slot).wave core slot).latched = none)
    (hf : (s.drainWave core slot).loadBytes core slot 128 64 ((s.drainWave core slot).frameAddr core slot) = .ok (f, t)) :
    let y := t.traceRec core slot 3 8 0 (((s.wave core slot).strand 8).pc - 4)
    (s.returnTrap core slot word).mem = y.mem ∧
    ((y.wave core slot).returned f (t.cycle (s.wave core slot).part)).SameStands ((s.returnTrap core slot word).wave core slot) := by
  intro y
  rw [State.returnTrap_eq hl hf]
  have h := State.resumeBlock_stands (y.updWave core slot fun w => w.returned f (t.cycle (s.wave core slot).part)) (s.wave core slot).blk
  have hw := h.waves (waveKey core slot)
  have hself : (y.updWave core slot fun w => w.returned f (t.cycle (s.wave core slot).part)).waveK (waveKey core slot) =
      (y.wave core slot).returned f (t.cycle (s.wave core slot).part) := State.wave_updWave_self ..
  rw [hself] at hw
  exact ⟨h.mem, hw⟩

end

section
variable {w x : Wave} {f : List Byte} {cyc : Nat} (h : (w.returned f cyc).SameStands x)
include h

theorem Wave.SameStands.returned_sregs :
    (∀ n, n < 16 → x.sreg 0 n = BitVec.ofNat 32 (field f (4 * n) 4)) ∧ ∀ n, 16 ≤ n → n < 60 → x.sreg 0 n = w.sreg 0 n := by
  refine ⟨fun n hn => ?_, fun n hlo hhi => ?_⟩
  · rw [Wave.sreg_low _ _ (by omega), h.s, Wave.returned_s, get_frameScalars _ _ hn, frameWord]
  · rw [Wave.sreg_low _ _ hhi, Wave.sreg_low _ _ hhi, h.s, Wave.returned_s, get_frameScalars_high _ _ hlo]

theorem Wave.SameStands.returned_vregs :
    (∀ r l, r < 8 → l < 96 → x.vreg r l = BitVec.ofNat 32 (field f (0x1000 + 384 * r + 4 * l) 4)) ∧
    ∀ r l, 8 ≤ r → l < 96 → x.vreg r l = w.vreg r l := by
  refine ⟨fun r l hr hl => ?_, fun r l hr hl => ?_⟩
  · rw [Wave.vreg, h.v, Wave.returned_v, get_frameLanes _ _ hr hl, frameWord]
  · rw [Wave.vreg, h.v, Wave.returned_v, get_frameLanes_high _ _ hr hl, Wave.vreg]

theorem Wave.SameStands.returned_strands (ht : w.tstrand < 8) :
    (x.strand 8).state = .free ∧ (x.strand w.tstrand).state = .ready ∧
    (x.strand w.tstrand).pc = ((w.strand w.tstrand).resumeAt w cyc).pc ∧
    (x.strand w.tstrand).replay = ((w.strand w.tstrand).resumeAt w cyc).replay ∧
    ∀ n, n < 8 → n ≠ w.tstrand → (x.strand n).state = (w.strand n).state ∧ (x.strand n).pc = (w.strand n).pc := by
  obtain ⟨htrap, _, _⟩ := h.strands 8
  obtain ⟨hstate, hpc, hreplay⟩ := h.strands w.tstrand
  rw [Wave.returned_strand_trap w f cyc ht] at htrap
  rw [Wave.returned_strand_self w f cyc ht] at hstate hpc hreplay
  obtain ⟨dstate, dpc, dreplay⟩ := ((w.strand w.tstrand).resumeAt w cyc).dropLater_stands w.tskid
  refine ⟨htrap, hstate.trans dstate, hpc.trans dpc, hreplay.trans dreplay, fun n hn hne => ?_⟩
  obtain ⟨nstate, npc, _⟩ := h.strands n
  rw [Wave.returned_strand_of_ne w f cyc hne (by omega)] at nstate npc
  exact ⟨nstate, npc⟩

end

/-! ## The statement -/

/-- Settles O37: the handler's start, the strand that resumes, the frame field by field, the addresses of the frames, and the return. -/
theorem trapEntryAndReturn : Obligations.TrapEntryAndReturn := by
  unfold Obligations.TrapEntryAndReturn
  refine ⟨fun core slot s f hf => ?_, fun st w cyc c hc => ?_, fun w hs => ?_, fun core slot s ks hat => ?_,
    fun core slot s t word f hl hload => ?_⟩
  · intro t w a
    have ht : t = w.inHandler f a (s.cycle w.part) (s.vi w.vi).tba := State.startHandler_wave ..
    rw [ht, Wave.inHandler_strand_trap]
    obtain ⟨h0, h1, h2, hrest⟩ := w.inHandler_sregs f a (s.cycle w.part) (s.vi w.vi).tba
    exact ⟨rfl, rfl, rfl, rfl, rfl, rfl, h0, h1, h2, hrest, fun n hn => w.inHandler_strand f a _ _ hn, rfl, rfl, rfl⟩
  · exact ⟨rfl, rfl, rfl, st.resumeAt_pc w cyc, rfl, rfl, st.resumeAt_replays w cyc c hc⟩
  · obtain ⟨ham, hfl, hcause, hstrand, hval, hpc, hskid, hz, hlane, hz'⟩ := w.field_causes
    refine ⟨w.length_frame hs, fun n hn => w.field_scalar hn, ham, hfl, hcause, hstrand, hval, hpc, hskid, hz, hlane, hz', w.field_gap,
      w.field_end hs, fun r l hr hl => w.field_vreg hs hr hl, fun n hn => ?_⟩
    obtain ⟨hT, hF⟩ := w.field_arms hn
    refine ⟨fun hfree => ?_, fun hused => w.field_slot_used hs hn hused, ?_, hT, hF, fun e x hx => ?_⟩
    · exact (w.field_snapshot (off := 0) hn (by decide)).trans (Strand.field_snapshot_free hfree)
    · exact (w.strand n).snapHead_fields (hs n hn)
    · exact w.field_entry hs hn hx
  · have haddr : s.frameAddr core slot = (s.vi (s.wave core slot).vi).tfb.toNat + (64 * core + slot) * 8192 := by
      rw [State.frameAddr, hat]
      rfl
    refine ⟨haddr, rfl, ?_⟩
    unfold State.siblingHeader
    simp only [List.isEmpty_iff]
  · obtain ⟨hmem, hstands⟩ := State.returnTrap_stands (word := word) hl hload
    obtain ⟨hlow, hhigh⟩ := hstands.returned_sregs
    obtain ⟨vlow, vhigh⟩ := hstands.returned_vregs
    refine ⟨hmem, hlow, hhigh, ?_, vlow, vhigh, fun ht => hstands.returned_strands ht⟩
    exact hstands.fstat.trans (Wave.returned_fstat ..)

end Sys2Proof.Machine
end

section
/-! SUPPORT. The requests of the host (R329). -/

namespace Sys2Proof.Machine

section
variable {s : State} {vi code : Nat} {l : List Byte} {f : State → Nat → List Byte → Nat × State}

/-- A request of the ring with a code is answered with the status, and in the state, that its effect gives. -/
theorem State.serve_asks (h : s.asks code vi l) {status : Nat} {t : State} (hf : f s vi l = (status, t)) :
    s.serve code f = s.answered t status := by
  obtain ⟨hnext, hcode, hvi, hlt⟩ := h
  unfold State.serve
  simp only [hnext, hcode, hvi, bne_self_eq_false, Bool.false_eq_true, if_false, Nat.not_le.2 hlt, hf]
  rfl

theorem State.serve_next (h : s.asks code vi l) {status : Nat} {t : State} (hf : f s vi l = (status, t)) :
    (.next (s.serve code f) : Host.Outcome State Fault Refusal) = .next (s.answered t status) :=
  congrArg _ (State.serve_asks h hf)

end

theorem State.fetchVirt_error {s : State} {part vi va n : Nat} {r : Raise} (h : s.readVirt vi va n = .error r) :
    s.fetchVirt part vi va n = ((s.fetchVirt part vi va n).1, none) := by
  unfold State.fetchVirt
  simp only [h]

theorem State.fetchVirt_ok {s : State} {part vi va n : Nat} {d : List Byte} (h : s.readVirt vi va n = .ok d) :
    s.fetchVirt part vi va n = ((s.fetchVirt part vi va n).1, some d) := by
  unfold State.fetchVirt
  simp only [h]

/-! ## What each request does -/

section
variable {s : State} {vi : Nat} {l : List Byte}

theorem execSettrap_ok (h : s.asks 1 vi l) (hok : field l 16 8 % 8192 = 0) :
    execSettrap s = .next (s.answered (s.updVi vi fun v =>
      { v with tba := BitVec.ofNat 64 (field l 8 8), tfb := BitVec.ofNat 64 (field l 16 8) }) 0) :=
  State.serve_next h (by simp only [hok, bne_self_eq_false, Bool.false_eq_true, if_false])

theorem execSettrap_bad (h : s.asks 1 vi l) (hbad : field l 16 8 % 8192 ≠ 0) : execSettrap s = .next (s.answered s 1) :=
  State.serve_next h (if_pos (bne_iff_ne.2 hbad))

theorem execSetroot_ok (h : s.asks 2 vi l) (hok : field l 8 8 % 4096 = 0) :
    execSetroot s = .next (s.answered ((s.tlbInvalidate vi true 0).updVi vi fun v =>
      { v with root := BitVec.ofNat 64 (field l 8 8) }) 0) :=
  State.serve_next h (by simp only [hok, bne_self_eq_false, Bool.false_eq_true, if_false])

theorem execSetroot_bad (h : s.asks 2 vi l) (hbad : field l 8 8 % 4096 ≠ 0) : execSetroot s = .next (s.answered s 1) :=
  State.serve_next h (if_pos (bne_iff_ne.2 hbad))

theorem execSchedp_ok (h : s.asks 4 vi l) (hok : field l 8 4 ≤ 7 ∧ 100 ≤ field l 12 4 ∧ field l 12 4 ≤ 50000) :
    execSchedp s = .next (s.answered (s.updVi vi fun v => { v with prio := field l 8 4, slice := field l 12 4 }) 0) := by
  refine State.serve_next h (if_neg ?_)
  simp only [Bool.or_eq_true, decide_eq_true_eq]
  omega

theorem execSchedp_bad (h : s.asks 4 vi l) (hbad : 7 < field l 8 4 ∨ field l 12 4 < 100 ∨ 50000 < field l 12 4) :
    execSchedp s = .next (s.answered s 1) := by
  refine State.serve_next h (if_pos ?_)
  simp only [Bool.or_eq_true, decide_eq_true_eq]
  omega

theorem execAssign_ok (h : s.asks 5 vi l) (hsize : (s.part (field l 8 4)).size ≠ 0) (hidle : s.idleVi vi = true) :
    execAssign s = .next (s.answered (s.assignVi vi (field l 8 4)) 0) :=
  State.serve_next h (by simp [hsize, hidle])

theorem execAssign_none (h : s.asks 5 vi l) (hsize : (s.part (field l 8 4)).size = 0) : execAssign s = .next (s.answered s 1) :=
  State.serve_next h (if_pos hsize)

theorem execAssign_busy (h : s.asks 5 vi l) (hsize : (s.part (field l 8 4)).size ≠ 0) (hbusy : s.idleVi vi = false) :
    execAssign s = .next (s.answered s 2) :=
  State.serve_next h (by simp [hsize, hbusy])

theorem execResetvi_ok (h : s.asks 6 vi l) : execResetvi s = .next (s.answered (s.resetVi vi) 0) := State.serve_next h rfl

theorem execExtdone_none (h : s.asks 7 vi l)
    (hnone : (s.dev.extents.find? fun e => e.base = field l 8 8 && e.vi = vi && e.pending) = none) :
    execExtdone s = .next (s.answered s 1) :=
  State.serve_next h (by simp only [hnone])

theorem execExtdone_some {e : Extent} (h : s.asks 7 vi l)
    (hsome : (s.dev.extents.find? fun e => e.base = field l 8 8 && e.vi = vi && e.pending) = some e) :
    execExtdone s = .next (s.answered (s.fenceExtent e) 0) :=
  State.serve_next h (by simp only [hsome])

/-! ## GROUP -/

/-- The entries of a member list that was read. -/
def memberList (l d : List Byte) : List Nat := (List.range (field l 10 2)).map fun i => field d (8 * i) 8

theorem memberList_any {l d : List Byte} : ((memberList l d).any fun e => 2 ^ 32 ≤ e) = true ↔ ∃ e ∈ memberList l d, 2 ^ 32 ≤ e := by
  simp only [List.any_eq_true, decide_eq_true_eq]

theorem memberList_all {l d : List Byte} (h : ∀ e ∈ memberList l d, e < 2 ^ 32) :
    ¬((memberList l d).any fun e => 2 ^ 32 ≤ e) = true := by
  rw [memberList_any]
  exact fun ⟨e, he, hle⟩ => absurd (h e he) (Nat.not_lt.2 hle)

/-- The state after the reading of a member list. -/
def State.listRead (s : State) (vi : Nat) (l : List Byte) : State := (s.fetchVirt (s.viPart vi) vi (field l 16 8) (8 * field l 10 2)).1

theorem execGroup_place (h : s.asks 3 vi l) (hbad : field l 10 2 ≤ field l 12 2) : execGroup s = .next (s.answered s 1) :=
  State.serve_next h (if_pos hbad)

variable (hplace : field l 12 2 < field l 10 2)
include hplace

theorem execGroup_unread (h : s.asks 3 vi l) {r : Raise} (hr : s.readVirt vi (field l 16 8) (8 * field l 10 2) = .error r) :
    execGroup s = .next (s.answered (s.listRead vi l) 1) := by
  refine State.serve_next h ?_
  dsimp only
  rw [if_neg (Nat.not_le.2 hplace), State.fetchVirt_error hr]
  rfl

variable {d : List Byte} (hd : s.readVirt vi (field l 16 8) (8 * field l 10 2) = .ok d)
include hd

theorem execGroup_entry (h : s.asks 3 vi l) (hbad : ∃ e ∈ memberList l d, 2 ^ 32 ≤ e) :
    execGroup s = .next (s.answered (s.listRead vi l) 1) := by
  refine State.serve_next h ?_
  dsimp only
  rw [if_neg (Nat.not_le.2 hplace), State.fetchVirt_ok hd]
  exact if_pos (memberList_any.2 hbad)

theorem execGroup_busy (h : s.asks 3 vi l) (hok : ∀ e ∈ memberList l d, e < 2 ^ 32)
    (hbusy : (s.listRead vi l).groupBusy vi (field l 8 2) = true) : execGroup s = .next (s.answered (s.listRead vi l) 2) := by
  refine State.serve_next h ?_
  dsimp only
  rw [if_neg (Nat.not_le.2 hplace), State.fetchVirt_ok hd]
  exact (if_neg (memberList_all hok)).trans (if_pos hbusy)

theorem execGroup_ok (h : s.asks 3 vi l) (hok : ∀ e ∈ memberList l d, e < 2 ^ 32)
    (hfree : (s.listRead vi l).groupBusy vi (field l 8 2) = false) :
    execGroup s = .next (s.answered ((s.listRead vi l).updVi vi fun v => { v with
      groups := SMap.put v.groups (field l 8 2) ⟨field l 10 2, field l 12 2, (memberList l d).map (BitVec.ofNat 64)⟩ }) 0) := by
  refine State.serve_next h ?_
  dsimp only
  rw [if_neg (Nat.not_le.2 hplace), State.fetchVirt_ok hd]
  exact (if_neg (memberList_all hok)).trans (if_neg (Bool.eq_false_iff.1 hfree))

end

/-- Settles O39: each request is served with the status and the effect that its rules give. -/
theorem requests : Obligations.Requests := by
  unfold Obligations.Requests
  intro s vi l
  refine ⟨fun h hok => execSettrap_ok h hok, fun h hbad => execSettrap_bad h hbad, fun h hok => execSetroot_ok h hok,
    fun h hbad => execSetroot_bad h hbad, fun h hok => execSchedp_ok h hok, fun h hbad => execSchedp_bad h hbad,
    fun h hok => execAssign_ok h hok.1 hok.2, fun h hnone => execAssign_none h hnone, fun h hbusy => execAssign_busy h hbusy.1 hbusy.2,
    fun h _ => execResetvi_ok h, ⟨fun h hbad => execGroup_place h hbad, fun r h hplace hr => execGroup_unread hplace h hr,
      fun d hd => ⟨fun h hplace hbad => execGroup_entry hplace hd h hbad, fun h hplace hok => execGroup_busy hplace hd h hok.1 hok.2,
        fun h hplace hok => execGroup_ok hplace hd h hok.1 hok.2⟩⟩,
    fun h hnone => execExtdone_none h hnone, fun e he h _ => execExtdone_some h he⟩

end Sys2Proof.Machine
end

section
/-! SUPPORT. Management messages (R340). -/

namespace Sys2Proof.Machine

section
variable {s : State} {vi : Nat}

theorem State.message_none (h : 64 ≤ vi) (f : State → State) : s.message vi f = s.reply 1 := if_pos h

theorem State.message_busy (h : vi < 64) (hbusy : (s.vi vi).part.any (fun p => (s.part p).resetting) = true) (f : State → State) :
    s.message vi f = s.reply 2 := (if_neg (Nat.not_le.2 h)).trans (if_pos hbusy)

theorem State.message_free (h : vi < 64) (hfree : ¬(s.vi vi).part.any (fun p => (s.part p).resetting) = true) (f : State → State) :
    s.message vi f = f s := (if_neg (Nat.not_le.2 h)).trans (if_neg hfree)

/-- What answers every message of a VI that does not exist, or whose partition is being reset. -/
theorem State.message_refused (f : State → State) :
    (64 ≤ vi → (.next (s.message vi f) : Host.Outcome State Fault Refusal) = .next (s.reply 1)) ∧
    (vi < 64 → (s.vi vi).part.any (fun p => (s.part p).resetting) = true →
      (.next (s.message vi f) : Host.Outcome State Fault Refusal) = .next (s.reply 2)) :=
  ⟨fun h => congrArg _ (State.message_none h f), fun h hb => congrArg _ (State.message_busy h hb f)⟩

variable (h : vi < 64) (hfree : ¬(s.vi vi).part.any (fun p => (s.part p).resetting) = true)
include h hfree

theorem State.message_next {f : State → State} {t : State} (ht : f s = t) :
    (.next (s.message vi f) : Host.Outcome State Fault Refusal) = .next t :=
  congrArg _ ((State.message_free h hfree f).trans ht)

theorem execSetjob_free (job : DWord) :
    execSetjob vi job s = .next (((s.updVi vi fun v => { v with job := job }).formMemb vi).reply 0) := State.message_next h hfree rfl

theorem execGetsnap_taken {p : Nat} {t : State} (hp : (s.vi vi).part = some p) (ht : s.snapshot p vi 1 = some t) :
    execGetsnap vi s = .next ((t.tick 1).reply 0 (SMap.get [] ((t.tick 1).part p).snaps vi)) := by
  refine State.message_next h hfree ?_
  have hnow : s.snapNow vi 1 = some (t.tick 1) := by simp [State.snapNow, hp, ht]
  simp only [hnow, State.viPart, hp, Option.getD_some]

theorem execGetsnap_refused {p : Nat} (hp : (s.vi vi).part = some p) (ht : s.snapshot p vi 1 = none) :
    execGetsnap vi s = .next (s.reply 1) := by
  refine State.message_next h hfree ?_
  have hnow : s.snapNow vi 1 = none := by simp [State.snapNow, hp, ht]
  simp only [hnow]

theorem execGetsnap_none (hp : (s.vi vi).part = none) : execGetsnap vi s = .next (s.reply 1) := by
  refine State.message_next h hfree ?_
  have hnow : s.snapNow vi 1 = none := by simp [State.snapNow, hp]
  simp only [hnow]

theorem execGetmemb_free : execGetmemb vi s = .next (s.reply 0 (s.vi vi).memb) := State.message_next h hfree rfl

theorem execGetbins_some {p : Nat} (hp : (s.vi vi).part = some p) : execGetbins vi s =
    .next (s.reply 0 ((List.range 16).flatMap fun n => (SMap.get {} (s.part p).bins n : Bin).bytes)) :=
  State.message_next h hfree (by simp only [hp])

theorem execGetbins_none (hp : (s.vi vi).part = none) : execGetbins vi s = .next (s.reply 1) :=
  State.message_next h hfree (by simp only [hp])

theorem execSetbin_some {p bin binVi : Nat} {base limit : DWord} (hp : (s.vi vi).part = some p) (hbin : bin < 16) :
    execSetbin vi bin base limit binVi s =
      .next ((s.updPart p fun p => { p with bins := SMap.put p.bins bin { base := base, limit := limit, vi := binVi } }).reply 0) :=
  State.message_next h hfree (by simp only [hp]; exact if_neg (Nat.not_le.2 hbin))

theorem execSetbin_none {bin binVi : Nat} {base limit : DWord} (hbad : (s.vi vi).part = none ∨ 16 ≤ bin) :
    execSetbin vi bin base limit binVi s = .next (s.reply 1) := by
  refine State.message_next h hfree ?_
  rcases hbad with hp | hbin
  · simp only [hp]
  · split
    · exact if_pos hbin
    · rfl

theorem execSettrace_free {base : DWord} {size : Nat} {kinds : BitVec 8} : execSettrace vi base size kinds s =
    .next ((s.updVi vi fun v => { v with trace := { v.trace with base := base, size := size, kinds := kinds } }).reply 0) :=
  State.message_next h hfree rfl

end

/-- Settles O41: each message of a VI whose partition is not being reset, and the refusals of all of them. -/
theorem managementMessages : Obligations.ManagementMessages := by
  unfold Obligations.ManagementMessages
  intro s vi
  refine ⟨fun h hfree => ?_, fun key hpart => congrArg _ (if_pos hpart), fun job base limit size kinds bin binVi q idx x y z target e he => ?_⟩
  · exact ⟨execSetjob_free h hfree, fun p t hp ht => execGetsnap_taken h hfree hp ht, fun p hp ht => execGetsnap_refused h hfree hp ht,
      execGetsnap_none h hfree, execGetmemb_free h hfree, fun p hp => execGetbins_some h hfree hp,
      fun p bin base limit binVi hp hbin => execSetbin_some h hfree hp hbin, fun bin base limit binVi hbad => execSetbin_none h hfree hbad,
      execGetbins_none h hfree, fun base size kinds => execSettrace_free h hfree⟩
  · simp only [List.mem_cons, List.not_mem_nil, or_false] at he
    rcases he with rfl | rfl | rfl | rfl | rfl | rfl | rfl | rfl | rfl
    all_goals exact State.message_refused _

end Sys2Proof.Machine
end

section
/-! SUPPORT. POWER_ON, IMGGO and the steps of the boot (R337). -/

namespace Sys2Proof.Machine

theorem State.imageGood_iff (s : State) : s.imageGood = true ↔
    s.dev.imgBase.toNat % 4096 = 0 ∧ s.dev.imgLen ≤ 2 ^ 26 ∧ Config.imageOk s.imageBytes = true := by
  simp only [State.imageGood, Bool.and_eq_true, decide_eq_true_eq, and_assoc]

theorem State.imgGo_begins {s : State} (h : s.dev.stage = 2 ∨ s.dev.stage = 15) :
    s.imgGo = { s with dev := { s.dev with stage := 1, failCode := 0, hostImage := true } } :=
  if_pos (by simpa using h)

theorem State.imgGo_notes {s : State} (h2 : s.dev.stage ≠ 2) (h15 : s.dev.stage ≠ 15) :
    s.imgGo = { s with dev := { s.dev with checked := some s.imageGood } } :=
  if_neg (by simp [h2, h15])

theorem State.step_boot {s : State} {rest : List Choice} (h : s.agenda = .boot :: rest) :
    step s = .next { s with agenda := rest }.bootMove := by
  rw [step, State.stepOnce, h]
  rfl

section
variable {t : State}

/-- The verification of the image of the flash. -/
theorem State.bootMove_flash (h : t.dev.stage = 1) (hhost : t.dev.hostImage = false) :
    t.bootMove = if Config.flashImageOk then t.training Config.flashMeasure Config.flashVersion
      else { t with dev := { t.dev with checked := some false, stage := 2 } } := by
  have h3 : ¬t.dev.stage = 3 := by omega
  have h1 : ¬(t.dev.stage != 1) = true := by simp [h]
  rw [State.bootMove, if_neg h3, if_neg h1, if_neg (Bool.eq_false_iff.1 hhost)]

/-- The verification of the host's image. -/
theorem State.bootMove_host (h : t.dev.stage = 1) (hhost : t.dev.hostImage = true) :
    t.bootMove =
      if t.dev.imgBase.toNat % 4096 = 0 ∧ t.dev.imgLen ≤ 2 ^ 26 ∧ Config.imageOk t.imageBytes = true then
        t.training (sha256 t.imageBytes) (Config.imageVersion t.imageBytes)
      else { t with dev := { t.dev with checked := some false, stage := 15, failCode := Config.failureCode.toNat } } := by
  have h3 : ¬t.dev.stage = 3 := by omega
  have h1 : ¬(t.dev.stage != 1) = true := by simp [h]
  rw [State.bootMove, if_neg h3, if_neg h1, if_pos hhost]
  exact if_congr t.imageGood_iff rfl rfl

theorem State.bootMove_ready (h : t.dev.stage = 3) : t.bootMove = t.ready := if_pos h

theorem State.bootMove_idle (h1 : t.dev.stage ≠ 1) (h3 : t.dev.stage ≠ 3) : t.bootMove = t := by
  rw [State.bootMove, if_neg h3, if_pos (by simpa using h1)]

end

/-- Two outcomes that differ in the device alone, by a test. -/
theorem next_dev_ite (t : State) {c : Prop} [Decidable c] (a b : Device) :
    (.next (if c then { t with dev := a } else { t with dev := b }) : Host.Outcome State Fault Refusal) =
      .next { t with dev := if c then a else b } := by
  split <;> rfl

/-- Settles O40: POWER_ON, IMGGO by the stage, and the step of the boot by the stage. -/
theorem boot : Obligations.Boot := by
  unfold Obligations.Boot
  refine ⟨fun s => ⟨exec_powerOn s, fun h => congrArg _ (State.imgGo_begins h), fun h2 h15 => congrArg _ (State.imgGo_notes h2 h15)⟩,
    fun s rest hagenda => ?_⟩
  have hstep := State.step_boot hagenda
  refine ⟨fun h hhost => ?_, fun h hhost => ?_, fun h => ?_, fun h1 h3 => ?_⟩
  · rw [hstep, State.bootMove_flash h hhost]
    exact next_dev_ite ..
  · rw [hstep, State.bootMove_host h hhost]
    exact next_dev_ite ..
  · rw [hstep, State.bootMove_ready h]
    rfl
  · rw [hstep, State.bootMove_idle h1 h3]

end Sys2Proof.Machine
end

section
/-! SUPPORT. STOP, RESUME, DUMP and the lane-cycle record (R347, R351 to R354). -/

namespace Sys2Proof.Machine

section
variable {s : State} {bs : List Nat}

theorem State.stopBlocks_waits (h : s.midPrefix (bs.flatMap s.blockWaves) = true) : s.stopBlocks bs = s := if_pos h

/-- The blocks after they have stopped: their takeable traps are taken, their waves stop, and the answer goes out. -/
def State.halted (s : State) (bs : List Nat) : State :=
  let u := s.takeTraps (bs.flatMap s.blockWaves)
  let v := (bs.flatMap u.blockWaves).foldl (fun s k => s.stopWave k) u
  (bs.foldl (fun s b =>
    if (SMap.find? s.blocks b).isSome then s.updBlock b fun b => { b with stopped := true, stopping := false } else s) v).reply 0

theorem State.stopBlocks_stops (h : s.midPrefix (bs.flatMap s.blockWaves) = false) : s.stopBlocks bs = s.halted bs :=
  if_neg (Bool.eq_false_iff.1 h)

theorem State.stopDue_stops {blk : Nat} {b : Block} (hb : b.stopping = true)
    (h : s.midPrefix ((blk :: b.peer.toList).flatMap s.blockWaves) = false) :
    s.stopDue blk b = some (s.halted (blk :: b.peer.toList)) := by
  have hc : (b.stopping && !s.midPrefix ((blk :: b.peer.toList).flatMap s.blockWaves)) = true := by rw [hb, h]; rfl
  exact (if_pos hc).trans (congrArg some (State.stopBlocks_stops h))

end

section
variable {s : State} {vi : Nat} (h : vi < 64) (hfree : (s.vi vi).part.any (fun p => (s.part p).resetting) = false)
include h hfree

theorem State.message_runs {f : State → State} {t : State} (ht : f s = t) :
    (.next (s.message vi f) : Host.Outcome State Fault Refusal) = .next t :=
  State.message_next h (Bool.eq_false_iff.1 hfree) ht

section
variable {q idx x y z : Nat}

theorem execStop_none (hbs : s.namedBlocks vi q idx x y z = []) : execStop vi q idx x y z s = .next (s.reply 1) :=
  State.message_runs h hfree (by simp only [hbs])

variable {bs : List Nat} (hbs : s.namedBlocks vi q idx x y z = bs) (hne : bs ≠ [])
include hbs hne

theorem execStop_stopped (hs : ∃ b ∈ bs, (s.block b).stopped = true) : execStop vi q idx x y z s = .next (s.reply 0) := by
  obtain ⟨b, l, rfl⟩ := List.exists_cons_of_ne_nil hne
  refine State.message_runs h hfree ?_
  simp only [hbs]
  exact if_pos (List.any_eq_true.2 hs)

/-- The blocks at the first STOP that names them: they are stopping, and their waves count their words from here. -/
def State.marked (s : State) (bs : List Nat) : State :=
  bs.foldl (fun s b => s.updBlock b fun b => { b with stopping := true })
    ((bs.flatMap s.blockWaves).foldl (fun s k => s.updWaveK k fun w => { w with stopSkid := 0 }) s)

theorem execStop_first (hs : ∀ b ∈ bs, (s.block b).stopped = false) (hg : ∀ b ∈ bs, (s.block b).stopping = false) :
    execStop vi q idx x y z s = .next ((s.marked bs).stopBlocks bs) := by
  have hstopped : ¬(bs.any fun b => (s.block b).stopped) = true := by simpa using hs
  have hstopping : ¬(bs.any fun b => (s.block b).stopping) = true := by simpa using hg
  obtain ⟨b, l, rfl⟩ := List.exists_cons_of_ne_nil hne
  refine State.message_runs h hfree ?_
  simp only [hbs]
  exact (if_neg hstopped).trans (if_neg hstopping)

theorem execStop_again (hs : ∀ b ∈ bs, (s.block b).stopped = false) (hg : ∃ b ∈ bs, (s.block b).stopping = true) :
    execStop vi q idx x y z s = .next (s.stopBlocks bs) := by
  have hstopped : ¬(bs.any fun b => (s.block b).stopped) = true := by simpa using hs
  obtain ⟨b, l, rfl⟩ := List.exists_cons_of_ne_nil hne
  refine State.message_runs h hfree ?_
  simp only [hbs]
  exact (if_neg hstopped).trans (if_pos (List.any_eq_true.2 hg))

end

section
variable {q idx x y z : Nat}

theorem execResume_none (hbs : (s.namedBlocks vi q idx x y z).filter (fun b => (s.block b).stopped) = []) :
    execResume vi q idx x y z s = .next (s.reply 1) :=
  State.message_runs h hfree (by simp only [hbs])

theorem execResume_some {cs : List Nat} (hbs : (s.namedBlocks vi q idx x y z).filter (fun b => (s.block b).stopped) = cs) (hne : cs ≠ []) :
    execResume vi q idx x y z s = .next ((cs.foldl (fun s b => s.updBlock b fun b => { b with stopped := false })
      ((cs.flatMap s.blockWaves).foldl (fun s k => s.updWaveK k fun w => { w with stop := none }) s)).reply 0) := by
  obtain ⟨b, l, rfl⟩ := List.exists_cons_of_ne_nil hne
  refine State.message_runs h hfree ?_
  simp only [hbs]

end

section
variable {p : Nat} {key : BitVec 256} (hp : (s.vi vi).part = some p) (hkey : (s.vi vi).key = some key)
include hp hkey

theorem execDump_refused (target : DumpTarget)
    (hr : (s.part p).resident = some vi ∧ (s.blocks.any fun b => b.2.vi = vi && !b.2.stopped) = true) :
    execDump ⟨vi, target⟩ s = .next (s.reply 2) := by
  refine State.message_runs h hfree ?_
  simp only [hp, hkey]
  exact if_pos (by simpa using hr)

theorem execDump_sends (target : DumpTarget)
    (hr : ¬((s.part p).resident = some vi ∧ (s.blocks.any fun b => b.2.vi = vi && !b.2.stopped) = true)) :
    execDump ⟨vi, target⟩ s = .next (({ s with dev := { s.dev with dumpSeq := s.dev.dumpSeq + 1 } }.reply 0).sendDump target
      (s.sealedDump vi (s.dev.dumpSeq + 1) key)) := by
  refine State.message_runs h hfree ?_
  simp only [hp, hkey]
  exact if_neg (by simpa using hr)

end

theorem execDump_none (target : DumpTarget) (hn : (s.vi vi).part = none ∨ (s.vi vi).key = none) :
    execDump ⟨vi, target⟩ s = .next (s.reply 1) := by
  refine State.message_runs h hfree ?_
  dsimp only
  split
  · next p key hp hkey => rcases hn with hn | hn <;> simp [hn] at hp hkey
  · rfl

end

/-! ## The lane-cycle record -/

theorem State.laneCycle_skips {s : State} {core quarter : Nat}
    (h : s.partOf core = noPart ∨ ((SMap.get {} (s.core core).quarters quarter) : Quarter).recorded = some (s.cycle (s.partOf core))) :
    s.laneCycle core quarter = s := if_pos (by simpa using h)

/-- The bins of a partition changed: no core changes its partition, and no cycle. -/
theorem State.updPart_bins_part (s : State) (p k : Nat) (f : SMap Bin → SMap Bin) :
    (((s.updPart p fun x => { x with bins := f x.bins }).part k).size = (s.part k).size) ∧
    ((s.updPart p fun x => { x with bins := f x.bins }).part k).cycle = (s.part k).cycle := by
  by_cases h : k = p
  · rw [h, State.part_updPart_self]
    exact ⟨rfl, rfl⟩
  · have hk : (s.updPart p fun x => { x with bins := f x.bins }).part k = s.part k := by
      rw [State.part, State.updPart, SMap.get_upd_of_ne _ _ _ h, State.part]
    rw [hk]
    exact ⟨rfl, rfl⟩

/-- Once recorded, the slot of a quarter is not counted again in its cycle. -/
theorem State.laneCycle_once (s : State) (core quarter : Nat) :
    (s.laneCycle core quarter).laneCycle core quarter = s.laneCycle core quarter := by
  by_cases hskip : s.partOf core = noPart ∨
      ((SMap.get {} (s.core core).quarters quarter) : Quarter).recorded = some (s.cycle (s.partOf core))
  · rw [State.laneCycle_skips hskip, State.laneCycle_skips hskip]
  · refine State.laneCycle_skips (.inr ?_)
    have hc : ¬(s.partOf core = noPart || ((SMap.get {} (s.core core).quarters quarter) : Quarter).recorded =
        some (s.cycle (s.partOf core))) = true := by simpa using hskip
    obtain ⟨f, hf⟩ : ∃ f : SMap Bin → SMap Bin, s.laneCycle core quarter =
        (s.updPart (s.partOf core) fun x => { x with bins := f x.bins }).updCore core fun k =>
          { k with quarters := SMap.upd {} k.quarters quarter fun q => { q with recorded := some (s.cycle (s.partOf core)) } } :=
      ⟨_, if_neg hc⟩
    rw [hf]
    have hpart (k : Nat) := s.updPart_bins_part (s.partOf core) k f
    have hof : State.partOf ((s.updPart (s.partOf core) fun x => { x with bins := f x.bins }).updCore core fun k =>
          { k with quarters := SMap.upd {} k.quarters quarter fun q => { q with recorded := some (s.cycle (s.partOf core)) } }) core =
        s.partOf core := by
      refine congrArg (fun l : List Nat => l.headD noPart) (List.filter_congr fun k _ => ?_)
      have hsize : (State.part ((s.updPart (s.partOf core) fun x => { x with bins := f x.bins }).updCore core fun k =>
          { k with quarters := SMap.upd {} k.quarters quarter fun q => { q with recorded := some (s.cycle (s.partOf core)) } }) k).size =
          (s.part k).size := (hpart k).1
      rw [hsize]
    rw [hof, State.core_updCore_self, SMap.get_upd_self]
    exact congrArg some (hpart _).2.symm

theorem execLaneCycleRecord_none {core quarter : Nat} (h : 160 ≤ core ∨ 4 ≤ quarter) (s : State) :
    execLaneCycleRecord core quarter s = .next s := by
  refine congrArg _ (if_neg ?_)
  simp only [Bool.and_eq_true, decide_eq_true_eq]
  omega

theorem execLaneCycleRecord_some {core quarter : Nat} (hc : core < 160) (hq : quarter < 4) (s : State) :
    execLaneCycleRecord core quarter s = .next (s.laneCycle core quarter) :=
  congrArg _ (if_pos (by simp [hc, hq]))

/-- Settles O42: STOP and RESUME by the blocks that they name, DUMP by its target, and the lane-cycle record. -/
theorem stopAndDump : Obligations.StopAndDump := by
  unfold Obligations.StopAndDump
  intro s vi q idx x y z core quarter
  refine ⟨fun blk b hb h => State.stopDue_stops hb h, fun h hfree => ⟨fun hbs => execStop_none h hfree hbs,
      fun hne hs => execStop_stopped h hfree rfl hne hs, fun hne hs => ⟨fun hg => ?_, fun hg => ?_⟩,
      fun hbs => execResume_none h hfree hbs, fun hne => execResume_some h hfree rfl hne,
      fun p key hp hkey => ⟨fun hr port => execDump_sends h hfree hp hkey _ hr, fun hr a => execDump_sends h hfree hp hkey _ hr,
        fun hr target => execDump_refused h hfree hp hkey target hr⟩,
      fun hn target => execDump_none h hfree target hn⟩,
    fun h => execLaneCycleRecord_none h s, fun hc hq => ⟨execLaneCycleRecord_some hc hq s, s.laneCycle_once core quarter⟩⟩
  · have hexec := execStop_first h hfree rfl hne hs hg
    exact ⟨fun hm => hexec.trans (congrArg _ (State.stopBlocks_waits hm)), fun hm => hexec.trans (congrArg _ (State.stopBlocks_stops hm))⟩
  · have hexec := execStop_again h hfree rfl hne hs hg
    exact ⟨fun hm => hexec.trans (congrArg _ (State.stopBlocks_waits hm)), fun hm => hexec.trans (congrArg _ (State.stopBlocks_stops hm))⟩

end Sys2Proof.Machine
end

section
/-! SUPPORT. The events of the device: extents, refresh, power, links (R330 to R335, R339). -/

namespace Sys2Proof.Machine

/-! ## Extents (R330) -/

section
variable {s : State} {base len vi : Nat}

/-- An extent in use has bytes in common with a range. -/
def Extent.clashes (base len : Nat) (x : Extent) : Bool := x.base < base + len && base < x.base + x.len

theorem execExtentAdd_adds (hlen : len ≠ 0) (hend : base + len ≤ 2 ^ 44) (hvi : vi < 64)
    (hfree : ∀ x ∈ s.dev.extents, x.clashes base len = true → x.gone = true) :
    execExtentAdd base len vi s = .next (({ s with dev := { s.dev with
      extents := s.dev.extents.filter (fun x => !x.clashes base len) ++ [{ base := base, len := len, vi := vi }] } } : State).rekey
        vi base len) := by
  refine congrArg _ (if_neg ?_)
  have hany : ¬(s.dev.extents.any fun e => e.clashes base len && !e.gone) = true := by
    simp only [List.any_eq_true, Bool.and_eq_true, not_exists, not_and]
    intro x hx hc
    rw [hfree x hx hc]
    decide
  simp only [Bool.or_eq_true, decide_eq_true_eq]
  rintro (((h | h) | h) | h)
  · exact hlen h
  · omega
  · omega
  · exact hany h

theorem execExtentAdd_refuses (h : len = 0 ∨ 2 ^ 44 < base + len ∨ 64 ≤ vi ∨ ∃ x ∈ s.dev.extents, x.clashes base len = true ∧ x.gone = false) :
    execExtentAdd base len vi s = .next s := by
  refine congrArg _ (if_pos ?_)
  have hany : (∃ x ∈ s.dev.extents, x.clashes base len = true ∧ x.gone = false) →
      (s.dev.extents.any fun e => e.clashes base len && !e.gone) = true := by
    rintro ⟨x, hx, hc, hg⟩
    exact List.any_eq_true.2 ⟨x, hx, by rw [hc, hg]; rfl⟩
  simp only [Bool.or_eq_true, decide_eq_true_eq]
  rcases h with h | h | h | h
  · exact .inl (.inl (.inl h))
  · exact .inl (.inl (.inr h))
  · exact .inl (.inr h)
  · exact .inr (hany h)

theorem execExtentRelease_forced {e : Extent} (h : (s.dev.extents.find? fun e => e.base = base && !e.gone) = some e) :
    execExtentRelease base true s =
      .next (((if e.pending then s else s.extentRecord e.vi e.base 3).extentRecord e.vi e.base 2).fenceExtent e) := by
  unfold execExtentRelease
  simp only [Bool.true_or, Bool.and_true, h, if_true]

/-- An extent's grace period begins. -/
def State.pendExtent (s : State) (e : Extent) : State :=
  let t := s.extentRecord e.vi e.base 3
  { t with dev := { t.dev with extents := t.dev.extents.map fun x => if x = e then { x with pending := true } else x } }

theorem execExtentRelease_grace {e : Extent} (h : (s.dev.extents.find? fun e => e.base = base && !e.gone && !e.pending) = some e) :
    execExtentRelease base false s = .next (s.pendExtent e) := by
  have hp := List.find?_some h
  simp only [Bool.and_eq_true, Bool.not_eq_true'] at hp
  unfold execExtentRelease
  simp only [Bool.false_or, h, hp.2, Bool.false_eq_true, if_false]
  rfl

theorem execGracePeriodEnd_some {e : Extent} (h : (s.dev.extents.find? fun e => e.base = base && e.pending) = some e) :
    execGracePeriodEnd base s = .next ((s.extentRecord e.vi e.base 2).fenceExtent e) := by
  unfold execGracePeriodEnd
  simp only [h]

end

/-! ## Refresh (R332) -/

section
variable {s : State} {stack chan bank : Nat}

theorem isChan_true (hs : stack < 12) (hc : chan < 32) : isChan stack chan = true := by simp [isChan, hs, hc]

theorem isChan_false (h : 12 ≤ stack ∨ 32 ≤ chan) : isChan stack chan = false := by
  rw [Bool.eq_false_iff]
  simp only [isChan, ne_eq, Bool.and_eq_true, decide_eq_true_eq]
  omega

theorem execRefreshInterval_chan (hs : stack < 12) (hc : chan < 32) :
    execRefreshInterval stack chan bank s = .next (s.updPart (s.chanPart stack chan) fun p => { p with
      refresh := SMap.set 0 p.refresh (bankKey stack chan bank) (min 8 (SMap.get 0 p.refresh (bankKey stack chan bank) + 1)) }) :=
  congrArg _ (if_neg (by rw [isChan_true hs hc]; decide))

theorem execActivationAlert_acts (hs : stack < 12) (hc : chan < 32)
    (ha : SMap.get 0 (s.part (s.chanPart stack chan)).acts (bankKey stack chan bank) ≠ 0) :
    execActivationAlert stack chan bank s = .next (s.updPart (s.chanPart stack chan) fun p => { p with
      refresh := SMap.set 0 p.refresh (bankKey stack chan bank) 0
      acts := SMap.set 0 p.acts (bankKey stack chan bank) 0 }) := by
  refine congrArg _ (if_neg ?_)
  simp [isChan_true hs hc, ha]

theorem execActivationAlert_idle (ha : SMap.get 0 (s.part (s.chanPart stack chan)).acts (bankKey stack chan bank) = 0) :
    execActivationAlert stack chan bank s = .next s := by
  refine congrArg _ (if_pos ?_)
  simp [ha]

theorem execRefreshInterval_none (h : 12 ≤ stack ∨ 32 ≤ chan) : execRefreshInterval stack chan bank s = .next s :=
  congrArg _ (if_pos (by rw [isChan_false h]; rfl))

theorem execActivationAlert_none (h : 12 ≤ stack ∨ 32 ≤ chan) : execActivationAlert stack chan bank s = .next s :=
  congrArg _ (if_pos (by rw [isChan_false h]; rfl))

end

/-! ## Links (R334, R335) -/

/-- A record of membership changes the registers of its VI alone. -/
theorem State.formMembs_keeps (s : State) (port : Nat) : KeepsAll s (s.formMembs port) :=
  KeepsAll.foldl (fun s v => s.updVi_keeps v _) _ s

theorem State.formMembs_mem (s : State) (port : Nat) : (s.formMembs port).mem = s.mem := by
  unfold State.formMembs
  dsimp only
  generalize ((s.vis.filter fun v => v.2.part = some (s.partOf (10 * port))).map (·.1)) = l
  induction l generalizing s with
  | nil => rfl
  | cons v t ih => exact ih (s.formMemb v)

theorem State.postError_causes (s : State) (vi : Nat) (r : ErrRec) : KeepsCauses s (s.postError vi r) := by
  unfold State.postError
  refine KeepsCauses.trans (KeepsAll.causes ?_) (State.wakeFutures_causes _)
  split
  · exact s.putError_keeps vi r
  · exact (s.putError_keeps vi r).trans (State.homeVirt_keeps ..)

theorem State.part_congr {s t : State} (h : t.parts = s.parts) (p : Nat) : t.part p = s.part p := by rw [State.part, State.part, h]

/-- A port serves the domains of a partition. -/
def State.serves (s : State) (part n : Nat) : Prop := part ≤ n / 2 ∧ n / 2 < part + (s.part part).size

theorem State.mem_portsOf {s : State} {part : Nat} {q : Port} :
    q ∈ s.portsOf part ↔ ∃ n, n < 16 ∧ s.serves part n ∧ SMap.get {} s.dev.ports n = q := by
  simp [State.portsOf, State.serves, and_assoc]

/-- A partner that a port of the partition reaches is not lost. -/
theorem State.lostTo_eq_false {s : State} {part dev : Nat} (h : ∃ p ∈ s.portsOf part, p.up = true ∧ p.dev = dev) :
    s.lostTo part dev = false := by
  obtain ⟨p, hp, hup, hdev⟩ := h
  have h1 : ((s.portsOf part).any fun p => p.up) = true := List.any_eq_true.2 ⟨p, hp, hup⟩
  have h2 : ((s.portsOf part).any fun p => p.up && p.dev = dev) = true :=
    List.any_eq_true.2 ⟨p, hp, by rw [hup, hdev]; simp⟩
  simp only [State.lostTo, h1, h2, Bool.not_true, Bool.and_false, Bool.or_self]

/-- A partner that only a failed port of the partition reached is lost. -/
theorem State.lostTo_eq_true {s : State} {part dev : Nat} (hf : ∃ p ∈ s.portsOf part, p.failed = true ∧ p.dev = dev)
    (hu : ∀ p ∈ s.portsOf part, p.up = true → p.dev ≠ dev) : s.lostTo part dev = true := by
  obtain ⟨p, hp, hfail, hdev⟩ := hf
  have h1 : ((s.portsOf part).any fun p => p.failed && p.dev = dev) = true :=
    List.any_eq_true.2 ⟨p, hp, by rw [hfail, hdev]; simp⟩
  have h2 : ((s.portsOf part).any fun p => p.up && p.dev = dev) = false := by
    rw [List.any_eq_false]
    intro q hq
    simpa using hu q hq
  simp only [State.lostTo, h1, h2, Bool.not_false, Bool.and_true, Bool.or_true]

/-- The device after LINK_UP. -/
def Device.linked (d : Device) (port partner partnerPort : Nat) (ident : BitVec 256) : Device :=
  { d with
    ports := SMap.upd {} d.ports port fun p => { p with up := true, failed := false, dev := partner, port := partnerPort, ident := ident }
    devNum := Config.deviceNumber.toNat }

section
variable (d : Device) (port partner partnerPort : Nat) (ident : BitVec 256)

theorem Device.linked_port : SMap.get {} (d.linked port partner partnerPort ident).ports port =
    ({ (SMap.get {} d.ports port : Port) with up := true, failed := false, dev := partner, port := partnerPort, ident := ident } : Port) := by
  rw [Device.linked, SMap.get_upd_self]

theorem Device.linked_devNum : (d.linked port partner partnerPort ident).devNum = Config.deviceNumber.toNat := rfl

end

section
variable {s : State} {port part partner partnerPort : Nat} {ident : BitVec 256}

theorem execLinkUp_links (hp : port < 16) (hd : partner < 1024) (hpp : partnerPort < 16) :
    execLinkUp port partner partnerPort ident s =
      .next (({ s with dev := s.dev.linked port partner partnerPort ident } : State).formMembs port) := by
  refine congrArg _ (if_neg ?_)
  simp only [Bool.or_eq_true, decide_eq_true_eq]
  omega

theorem execLinkUp_none (h : 16 ≤ port ∨ 1024 ≤ partner ∨ 16 ≤ partnerPort) : execLinkUp port partner partnerPort ident s = .next s := by
  refine congrArg _ (if_pos ?_)
  simp only [Bool.or_eq_true, decide_eq_true_eq]
  omega

theorem State.linkUp_serves (hp : port < 16) (hm : s.serves part port) {t : State}
    (ht : t.dev = s.dev.linked port partner partnerPort ident) (hparts : t.parts = s.parts) : t.lostTo part partner = false := by
  refine State.lostTo_eq_false ⟨SMap.get {} t.dev.ports port, State.mem_portsOf.2 ⟨port, hp, ?_, rfl⟩, ?_⟩
  · rw [State.serves, State.part_congr hparts]
    exact hm
  · rw [ht, Device.linked, SMap.get_upd_self]
    exact ⟨rfl, rfl⟩

theorem execLinkFailure_idle (h : (SMap.get {} s.dev.ports port : Port).up = false) : execLinkFailure port s = .next s := by
  refine congrArg _ (if_pos ?_)
  rw [h]
  rfl

/-- The device after LINK_FAILURE of a port. -/
def Device.unlinked (d : Device) (port : Nat) : Device :=
  { d with ports := SMap.put d.ports port { (SMap.get {} d.ports port : Port) with up := false, failed := true } }

/-- LINK_FAILURE of a port that is up: the port goes down, and what follows leaves the device and the partitions. -/
theorem execLinkFailure_fails (h : (SMap.get {} s.dev.ports port : Port).up = true) :
    ∃ t, execLinkFailure port s = .next t ∧ t.dev = s.dev.unlinked port ∧ t.parts = s.parts := by
  have hc : ¬(!(SMap.get {} s.dev.ports port : Port).up) = true := by rw [h]; decide
  refine ⟨_, congrArg Host.Outcome.next (if_neg hc), ?_⟩
  have hk (l : List Nat) (r : ErrRec) (u : State) : KeepsCauses u ((l.foldl (fun s v => s.postError v r) u).formMembs port) :=
    (KeepsCauses.foldl (fun s v => s.postError_causes v r) l u).trans (State.formMembs_keeps _ port).causes
  exact ⟨(hk _ _ _).dev, (hk _ _ _).parts⟩

theorem State.linkFailure_loses (hp : port < 16) (hm : s.serves part port) {t : State} (ht : t.dev = s.dev.unlinked port)
    (hparts : t.parts = s.parts)
    (hothers : ∀ n, n < 16 → n ≠ port → s.serves part n → (SMap.get {} s.dev.ports n : Port).up = true →
      (SMap.get {} s.dev.ports n : Port).dev ≠ (SMap.get {} s.dev.ports port : Port).dev) :
    t.lostTo part (SMap.get {} s.dev.ports port : Port).dev = true := by
  have hserves (n : Nat) : t.serves part n ↔ s.serves part n := by rw [State.serves, State.serves, State.part_congr hparts]
  refine State.lostTo_eq_true ⟨SMap.get {} t.dev.ports port, State.mem_portsOf.2 ⟨port, hp, (hserves port).2 hm, rfl⟩, ?_⟩ fun q hq hup => ?_
  · rw [ht, Device.unlinked, SMap.get_put_self]
    exact ⟨rfl, rfl⟩
  · obtain ⟨n, hn, hs, rfl⟩ := State.mem_portsOf.1 hq
    rw [ht, Device.unlinked] at hup ⊢
    by_cases he : n = port
    · rw [he, SMap.get_put_self] at hup
      cases hup
    · rw [SMap.get_put_of_ne _ _ _ he] at hup ⊢
      exact hothers n hn he ((hserves n).1 hs) hup

end

/-! ## Power (R339) -/

/-- OVER_TEMPERATURE of a partition. -/
theorem execOverTemperature_resets {s : State} {part : Nat} (h : (s.part part).size ≠ 0) :
    ∃ t, execOverTemperature part s = .next t ∧ t.part part = { size := (s.part part).size, lent := (s.part part).lent } := by
  refine ⟨_, congrArg Host.Outcome.next (if_neg h), ?_⟩
  have hvis (l : List Nat) (u : State) (f : Vi → Vi) : (l.foldl (fun s v => s.updVi v f) u).parts = u.parts :=
    (KeepsAll.foldl (fun s v => s.updVi_keeps v f) l u).parts
  rw [State.part_congr (hvis _ _ _), State.part, SMap.get_put_self]

/-- Settles O43: each event of the device by what it finds. -/
theorem deviceEvents : Obligations.DeviceEvents := by
  unfold Obligations.DeviceEvents
  refine ⟨fun s base len vi stack chan bank e => ⟨⟨fun hlen hend hvi hfree => execExtentAdd_adds hlen hend hvi hfree,
      fun h => execExtentAdd_refuses h⟩, fun h => execExtentRelease_forced h, fun h => execExtentRelease_grace h,
      fun h => execGracePeriodEnd_some h, fun hs hc => ⟨_, execRefreshInterval_chan hs hc, ?_, rfl⟩,
      fun hs hc => ⟨fun ha => ⟨_, execActivationAlert_acts hs hc ha, ?_, ?_, rfl⟩, fun ha => execActivationAlert_idle ha⟩,
      fun h => ⟨execRefreshInterval_none h, execActivationAlert_none h⟩, rfl⟩,
    fun s port part partner partnerPort ident => ⟨fun hp hd hpp => ⟨_, execLinkUp_links hp hd hpp, ?_, ?_, fun hm => ?_, ?_⟩,
      fun hp hup => ?_, fun h => execLinkUp_none h, fun h => execLinkFailure_idle h, fun h => ?_⟩⟩
  · dsimp only
    rw [State.part_updPart_self, SMap.get_set_self]
  · dsimp only
    rw [State.part_updPart_self, SMap.get_set_self]
  · rw [State.part_updPart_self, SMap.get_set_self]
  · rw [(State.formMembs_keeps _ port).dev]
    exact s.dev.linked_port port partner partnerPort ident
  · rw [(State.formMembs_keeps _ port).dev]
    exact s.dev.linked_devNum port partner partnerPort ident
  · exact State.linkUp_serves hp hm (State.formMembs_keeps _ port).dev (State.formMembs_keeps _ port).parts
  · exact State.formMembs_mem _ port
  · obtain ⟨t, hexec, hdev, hparts⟩ := execLinkFailure_fails hup
    refine ⟨t, hexec, ?_, fun hm hothers => State.linkFailure_loses hp hm hdev hparts hothers⟩
    rw [hdev]
    exact SMap.get_put_self ..
  · obtain ⟨t, hexec, ht⟩ := execOverTemperature_resets h
    exact ⟨t, hexec, by rw [ht], by rw [ht], by rw [ht], by rw [ht]⟩

end Sys2Proof.Machine
end

section
/-!
# Events of a task heap

The clause that an operation whose record cannot be read fails, and nothing else, leaves out the page walk that the
model makes for the record's address: the walk reads its table entries through L2 (R314), which then holds their lines.
-/
namespace Sys2Proof.Machine

/-- One operation for the record at place 0 of a heap of one record, left to the memory of reset, where no translation of
the record's address stands. -/
def unreadHeap : Heap := { vi := 0, cap := 1, arrivals := [⟨0, 64, 0, 0, .tenq, 0, 0, 0, 0, 0, 0⟩] }

def unreadHeapState : State := { State.reset with parts := [(0, { size := 1, heaps := [(0, unreadHeap)] })] }

/-- The number of lines that L2 holds once the step is done. -/
def Outcome.l2Lines : Host.Outcome State Fault Refusal → Nat
  | .next t => t.l2.length
  | _ => 0

theorem unreadHeapState_perform_l2 : Outcome.l2Lines (exec (.heapOpPerform 0 0) unreadHeapState) = 1 := by decide +kernel

theorem unreadHeapState_taskRead :
    (unreadHeapState.updHeap 0 0 fun h => { h with arrivals := [] }).taskRead unreadHeap 0 = none := by decide +kernel

/-- Refutes O47: an operation for a record that cannot be read does not only fail; its page walk has read the table
entries through L2, which holds their line afterwards. -/
theorem not_heapEvents : ¬ Obligations.HeapEvents := by
  unfold Obligations.HeapEvents
  intro h
  obtain ⟨hop, -, -, -⟩ := h 0 0 unreadHeapState unreadHeap rfl
  obtain ⟨-, hunread, -, -⟩ := hop _ [] rfl
  have hfails := hunread (by decide) unreadHeapState_taskRead
  have hl2 := unreadHeapState_perform_l2
  rw [hfails] at hl2
  exact absurd hl2 (by decide)

end Sys2Proof.Machine
end

section
/-!
# Register writes and notifies

One lemma for each register of a virtual interface and of the physical function, from the definition of the write by
offset, and the notify word by cases of its write.
-/
namespace Sys2Proof.Machine

namespace State

variable (s : State) (v q : Nat) (x : DWord)

theorem viWrite_queue {off : Nat} (h : off < 0x400) : s.viWrite v off x =
    match off % 0x40 with
    | 0x00 => s.updQueue v (off / 0x40) fun l => { l with base := x &&& ~~~127 }
    | 0x08 => s.updQueue v (off / 0x40) fun l =>
        { l with size := x.toNat % 16, enable := x.getLsbD 31 && 4 ≤ x.toNat % 16 && x.toNat % 16 ≤ 12 }
    | 0x10 => s.updQueue v (off / 0x40) fun l => { l with word := x &&& ~~~7 }
    | _ => s := by
  unfold viWrite
  exact if_pos h

theorem viWrite_queueBase (hq : q < 16) : s.viWrite v (64 * q) x = s.updQueue v q fun l => { l with base := x &&& ~~~127#64 } := by
  rw [viWrite_queue s v x (by omega), show 64 * q % 0x40 = 0 by omega, show 64 * q / 0x40 = q by omega]
  rfl

theorem viWrite_queueSize (hq : q < 16) : s.viWrite v (64 * q + 8) x = s.updQueue v q fun l =>
    { l with size := x.toNat % 16, enable := x.getLsbD 31 && decide (4 ≤ x.toNat % 16 ∧ x.toNat % 16 ≤ 12) } := by
  rw [viWrite_queue s v x (by omega), show (64 * q + 8) % 0x40 = 8 by omega, show (64 * q + 8) / 0x40 = q by omega]
  simp only [Bool.decide_and, Bool.and_assoc]

theorem viWrite_queueWord (hq : q < 16) : s.viWrite v (64 * q + 16) x = s.updQueue v q fun l => { l with word := x &&& ~~~7#64 } := by
  rw [viWrite_queue s v x (by omega), show (64 * q + 16) % 0x40 = 16 by omega, show (64 * q + 16) / 0x40 = q by omega]
  rfl

theorem viWrite_queueOther {off : Nat} (h : off < 0x400) (h0 : off % 64 ≠ 0) (h8 : off % 64 ≠ 8) (h16 : off % 64 ≠ 16) :
    s.viWrite v off x = s := by
  rw [viWrite_queue s v x h]
  split
  · exact absurd ‹_› h0
  · exact absurd ‹_› h8
  · exact absurd ‹_› h16
  · rfl

theorem viWrite_notify (hq : q < 16) : s.viWrite v (0x800 + 8 * q) x = s.notify v q (x.setWidth 32) := by
  unfold viWrite
  rw [if_neg (by omega), if_pos (by simp; omega), show (0x800 + 8 * q - 0x800) / 8 = q by omega]

theorem viWrite_other {off : Nat} (h : 0x400 ≤ off) (hn : ∀ k, k < 16 → off ≠ 0x800 + 8 * k) (h0 : off ≠ 0x1000)
    (h8 : off ≠ 0x1008) (h16 : off ≠ 0x1010) : s.viWrite v off x = s := by
  unfold viWrite
  rw [if_neg (by omega), if_neg]
  · split
    · exact absurd rfl h0
    · exact absurd rfl h8
    · exact absurd rfl h16
    · rfl
  · have := hn ((off - 0x800) / 8)
    simp
    omega

theorem pfWrite_other {off : Nat} (h8 : off ≠ 8) (h10 : off ≠ 0x10) (h14 : off ≠ 0x14) (h100 : off ≠ 0x100)
    (h108 : off ≠ 0x108) (h10C : off ≠ 0x10C) : s.pfWrite off x = s := by
  unfold pfWrite
  split
  · exact absurd rfl h8
  · exact absurd rfl h10
  · exact absurd rfl h14
  · exact absurd rfl h100
  · exact absurd rfl h108
  · exact absurd rfl h10C
  · rfl

/-- The state once the notify word is written, or its write has walked only. -/
def notified (idx : Word) : State :=
  (s.postVirt (s.viPart v) v (SMap.get {} (s.vi v).queues q : LQueue).word.toNat (leBytes 4 idx.toNat)).wakeFutures

theorem notified_eq (idx : Word) : s.notified v q idx =
    (match s.writeVirt v (SMap.get {} (s.vi v).queues q : LQueue).word.toNat (leBytes 4 idx.toNat) with
      | .ok t => t.homeVirt (s.viPart v) v (SMap.get {} (s.vi v).queues q : LQueue).word.toNat 4 true
      | .error _ => s.walkVirt (s.viPart v) v (SMap.get {} (s.vi v).queues q : LQueue).word.toNat 4).wakeFutures := by
  unfold notified postVirt
  rw [length_leBytes] <;> rfl

/-- The notified index in the queue's slot, or the queue pending where it has none. -/
def giveNotify (idx : Word) : State :=
  match (s.vi v).part with
  | none => s.updQueue v q fun l => { l with pending := true }
  | some p =>
    match (s.part p).slotOf v q with
    | some k => s.updPart p fun y => { y with slots := SMap.put y.slots k ⟨v, q, idx⟩ }
    | none => s.updQueue v q fun l => { l with pending := true }

theorem notify_eq (idx : Word) (hq : q < 16) (hv : v < 64) : s.notify v q idx = (s.notified v q idx).giveNotify v q idx := by
  unfold notify
  rw [if_neg (by simp; omega)]
  rfl

variable {s v q}

theorem giveNotify_unassigned {idx : Word} (h : (s.vi v).part = none) :
    s.giveNotify v q idx = s.updQueue v q fun l => { l with pending := true } := by
  unfold giveNotify
  rw [h]

theorem giveNotify_unmapped {idx : Word} {p : Nat} (h : (s.vi v).part = some p) (hk : (s.part p).slotOf v q = none) :
    s.giveNotify v q idx = s.updQueue v q fun l => { l with pending := true } := by
  unfold giveNotify
  simp only [h, hk]

theorem giveNotify_slot {idx : Word} {p k : Nat} (h : (s.vi v).part = some p) (hk : (s.part p).slotOf v q = some k) :
    s.giveNotify v q idx = s.updPart p fun y => { y with slots := SMap.put y.slots k ⟨v, q, idx⟩ } := by
  unfold giveNotify
  simp only [h, hk]

theorem notify_none {idx : Word} (h : 64 ≤ v ∨ 16 ≤ q) : s.notify v q idx = s := by
  unfold notify
  rw [if_pos (by simp; omega)]

/-- What a write of a register of an existing virtual interface does. -/
theorem registerWrite_vi (hv : v < 64) (off : Nat) : exec (.registerWrite (.vi v) off x) s = .next (s.viWrite v off x) := by
  rw [exec_registerWrite]
  exact congrArg Host.Outcome.next (if_pos hv)

theorem registerWrite_vi_none (hv : 64 ≤ v) (off : Nat) : exec (.registerWrite (.vi v) off x) s = .next s := by
  rw [exec_registerWrite]
  exact congrArg Host.Outcome.next (if_neg (by omega))

end State

/-- Settles O48, by cases of the offset of the write, and of the slot of the notified queue. -/
theorem registersAndNotifies : Obligations.RegistersAndNotifies := by
  unfold Obligations.RegistersAndNotifies
  refine ⟨fun s v q x hv hq => ?_, fun s v q off x idx => ⟨fun hv => State.registerWrite_vi_none x hv off, fun h => ?_⟩⟩
  · have vi (off : Nat) {t : State} (h : s.viWrite v off x = t) : exec (.registerWrite (.vi v) off x) s = .next t :=
      (State.registerWrite_vi x hv off).trans (congrArg _ h)
    refine ⟨vi _ (s.viWrite_queueBase v q x hq), vi _ (s.viWrite_queueSize v q x hq), vi _ (s.viWrite_queueWord v q x hq),
      vi _ rfl, vi _ rfl, vi _ rfl, vi _ (s.viWrite_notify v q x hq),
      fun off h h0 h8 h16 => vi _ (s.viWrite_queueOther v x h h0 h8 h16),
      fun off h hn h0 h8 h16 => vi _ (s.viWrite_other v x h hn h0 h8 h16), rfl, rfl, rfl, rfl, rfl, rfl,
      fun off h8 h10 h14 h100 h108 h10C => congrArg Host.Outcome.next (s.pfWrite_other x h8 h10 h14 h100 h108 h10C),
      fun idx => ?_⟩
    have notified {t : State} (h : (s.notified v q idx).giveNotify v q idx = t) : exec (.notify v q idx) s = .next t :=
      congrArg Host.Outcome.next ((s.notify_eq v q idx hq hv).trans h)
    intro word u
    have hu : s.notified v q idx = u := s.notified_eq v q idx
    rw [← hu]
    exact ⟨fun h => notified (State.giveNotify_unassigned h), fun p h hk => notified (State.giveNotify_unmapped h hk),
      fun p k h hk => notified (State.giveNotify_slot h hk)⟩
  · exact congrArg Host.Outcome.next (State.notify_none h)

end Sys2Proof.Machine
end

section
/-!
# The heads of the copy, gather and collective queues

Each run of a head, said once as an equation; then what a copy of one piece within the stashes does.
-/
namespace Sys2Proof.Machine

namespace State

variable {s : State} {blk q : Nat} {e : EngEntry} {rest : List EngEntry}

theorem headOpen_of (hq : SMap.get [] (s.block blk).queues q = e :: rest) (hg : s.gateOpen e.core e.slot e.gate = true) :
    s.headOpen blk q = true := by
  unfold headOpen
  rw [hq]
  exact hg

/-- A copy that has begun, from its reservations on. -/
def copyOn (s : State) (blk q : Nat) (g : Agent) (pix dst src len cnt n : Nat) : State :=
  match s.reserveSome blk q g.part ((n + 127) / 128) with
  | none => (s.stopFill blk q g.part).endEntry blk q 1
  | some (false, s) => s
  | some (true, s) =>
    let (pix, r, s) := s.copyFrom g dst src len cnt (s.fillStop blk q) (len / 4 + 1) n pix
    let s := s.setPix blk q pix
    match r with
    | some r => (s.stopFill blk q g.part).failEntry blk q r
    | none => if len ≤ pix then (s.stopFill blk q g.part).endEntry blk q 0 else s

theorem runAcopy_eq {d r : DWord} {len cnt : Nat} (n : Nat) (hq : SMap.get [] (s.block blk).queues q = e :: rest)
    (hg : s.gateOpen e.core e.slot e.gate = true) (ho : e.op = .acopy d r len cnt) :
    s.runAcopy blk q n = if len = 0 then s.endEntry blk q 0
      else match s.startCopy blk q (s.engAgent blk e) e d.toNat r.toNat len cnt with
        | .error st => s.endEntry blk q st
        | .ok t => t.copyOn blk q (s.engAgent blk e) e.pix d.toNat r.toNat len cnt n := by
  unfold runAcopy
  rw [hq]
  simp only [ho, headOpen_of hq hg, Bool.not_true, Bool.false_eq_true, if_false]
  rfl

theorem acopyComplete_eq (hrun : s.enginesRun blk = true) (h3 : q ≤ 3) :
    exec (.acopyComplete blk q) s = .next (s.runAcopy blk q (2 ^ 24)) := by
  rw [exec_acopyComplete]
  exact congrArg Host.Outcome.next (if_pos (by simp [hrun, h3]))

theorem acopyComplete_empty {d r : DWord} {cnt : Nat} (hrun : s.enginesRun blk = true) (h3 : q ≤ 3)
    (hq : SMap.get [] (s.block blk).queues q = e :: rest) (hg : s.gateOpen e.core e.slot e.gate = true)
    (ho : e.op = .acopy d r 0 cnt) : exec (.acopyComplete blk q) s = .next (s.endEntry blk q 0) := by
  rw [acopyComplete_eq hrun h3, runAcopy_eq _ hq hg ho, if_pos rfl]

section

variable {d r : DWord} {len cnt : Nat} (hrun : s.enginesRun blk = true) (h3 : q ≤ 3)
  (hq : SMap.get [] (s.block blk).queues q = e :: rest) (hg : s.gateOpen e.core e.slot e.gate = true)
  (ho : e.op = .acopy d r len cnt) (hlen : len ≠ 0)
include hrun h3 hq hg ho hlen

theorem acopyComplete_refused {st : Nat}
    (h : s.startCopy blk q (s.engAgent blk e) e d.toNat r.toNat len cnt = .error st) :
    exec (.acopyComplete blk q) s = .next (s.endEntry blk q st) := by
  rw [acopyComplete_eq hrun h3, runAcopy_eq _ hq hg ho, if_neg hlen, h]

theorem acopyComplete_begun {t : State}
    (h : s.startCopy blk q (s.engAgent blk e) e d.toNat r.toNat len cnt = .ok t) :
    exec (.acopyComplete blk q) s = .next (t.copyOn blk q (s.engAgent blk e) e.pix d.toNat r.toNat len cnt (2 ^ 24)) := by
  rw [acopyComplete_eq hrun h3, runAcopy_eq _ hq hg ho, if_neg hlen, h]

end

theorem startCopy_range {g : Agent} {dst src len cnt : Nat} (hb : e.begun = false) (hr : s.acopyRange blk dst src len cnt = true) :
    s.startCopy blk q g e dst src len cnt = .error 4 := by
  unfold startCopy
  rw [if_neg (by simp [hb]), if_pos hr]

section

variable {g : Agent} {pix dst src len cnt n : Nat}

theorem copyOn_refused (h : s.reserveSome blk q g.part ((n + 127) / 128) = none) :
    s.copyOn blk q g pix dst src len cnt n = (s.stopFill blk q g.part).endEntry blk q 1 := by
  unfold copyOn
  rw [h]

variable {u v : State} {pix' : Nat} (hr : s.reserveSome blk q g.part ((n + 127) / 128) = some (true, u))
include hr

theorem copyOn_done (hc : u.copyFrom g dst src len cnt (u.fillStop blk q) (len / 4 + 1) n pix = (pix', none, v)) (hl : len ≤ pix') :
    s.copyOn blk q g pix dst src len cnt n = ((v.setPix blk q pix').stopFill blk q g.part).endEntry blk q 0 := by
  unfold copyOn
  simp only [hr, hc, if_pos hl]

theorem copyOn_stopped {x : Raise} (hc : u.copyFrom g dst src len cnt (u.fillStop blk q) (len / 4 + 1) n pix = (pix', some x, v)) :
    s.copyOn blk q g pix dst src len cnt n = ((v.setPix blk q pix').stopFill blk q g.part).failEntry blk q x := by
  unfold copyOn
  simp only [hr, hc]

end

/-! ## A copy of one piece from stash to stash -/

theorem wakeFutures_of_none (h : (s.waves.any fun k => k.2.queue.any QEntry.atHome) = false) : s.wakeFutures = s := by
  unfold wakeFutures
  rw [h]
  rfl

/-- The blocks of two states have the same stashes, sizes and peers. -/
def SameStash (s t : State) : Prop := ∀ k, (t.block k).stash = (s.block k).stash ∧ (t.block k).desc = (s.block k).desc ∧
  (t.block k).peer = (s.block k).peer ∧ (t.block k).bad = (s.block k).bad ∧ (t.block k).counts = (s.block k).counts ∧
  (t.block k).countVa = (s.block k).countVa

theorem SameStash.stashAt {t : State} (h : s.SameStash t) (off n : Nat) : t.stashAt blk off n = s.stashAt blk off n := by
  unfold State.stashAt
  obtain ⟨-, hdesc, hpeer, -, -, -⟩ := h blk
  simp only [hdesc, hpeer]
  split
  · rfl
  · split
    · obtain ⟨-, hp, -, -, -, -⟩ := h ‹_›
      rw [hp]
    · rfl

theorem SameStash.trans {t u : State} (h : s.SameStash t) (h' : t.SameStash u) : s.SameStash u := by
  intro k
  obtain ⟨a, b, c, d, e, f⟩ := h k
  obtain ⟨a', b', c', d', e', f'⟩ := h' k
  exact ⟨a'.trans a, b'.trans b, c'.trans c, d'.trans d, e'.trans e, f'.trans f⟩

theorem updHead_sameStash (s : State) (blk q : Nat) (f : EngEntry → EngEntry) : s.SameStash (s.updHead blk q f) := by
  intro k
  by_cases hk : k = blk
  · subst hk
    simp [updHead]
  · simp [updHead, block_updBlock_of_ne s _ hk]

theorem updHead_queue (f : EngEntry → EngEntry) (hq : SMap.get [] (s.block blk).queues q = e :: rest) :
    SMap.get [] ((s.updHead blk q f).block blk).queues q = f e :: rest := by
  simp [updHead, hq]

theorem engReads_stash {g : Agent} {va n y v p : Nat} (hn : n ≠ 0) (hle : n ≤ toLineEnd va) (ho : stashOff va = some y)
    (ha : s.stashAt g.blk y n = some (v, p)) (hbad : (s.block v).bad.contains (p / 128) = false) :
    s.engReads g 2 va n = .ok (Memory.read (s.block v).stash p n, s) := by
  have hr : s.engRead g va n = .ok (Memory.read (s.block v).stash p n, s) := by
    unfold engRead
    simp only [ho, ha, hbad, Bool.false_eq_true, if_false]
  unfold engReads
  simp only [if_neg hn, Nat.min_eq_left hle, hr, Nat.sub_self, engReads, if_true, Nat.mul_zero, Nat.add_zero]

/-- The write of a copy's one piece: the bytes, and in a counted fill the line's count. -/
def pieceWritten (s : State) (w o len cnt v : Nat) : State :=
  s.updBlock w fun b =>
    if cnt = 0 then { b with stash := Memory.write b.stash o len v }
    else
      { b with
        stash := Memory.write b.stash o 128 v
        bad := b.bad.filter (· != o / 128)
        counts := SMap.put b.counts (o / 128) (.live cnt)
        countVa := SMap.put b.countVa (o / 128) (BitVec.ofNat 64 (stashBase + o)) }

/-- The write of one piece of a copy to a stash, counted or not. -/
def pieceStep (s : State) (g : Agent) (va len cnt v : Nat) : Except Raise State :=
  if cnt = 0 then s.engWrite g va len v else s.fillLine g va cnt v

theorem pieceStep_stash {g : Agent} {va len cnt v x w o : Nat} (ho : stashOff va = some x) (ha : s.stashAt g.blk x len = some (w, o))
    (hcnt : cnt ≠ 0 → len = 128) (hf : (s.waves.any fun k => k.2.queue.any QEntry.atHome) = false) :
    s.pieceStep g va len cnt v = .ok (s.pieceWritten w o len cnt v) := by
  unfold pieceStep pieceWritten
  split
  · unfold engWrite
    simp only [ho, ha]
    exact congrArg Except.ok (wakeFutures_of_none hf)
  · next hc =>
    rw [hcnt hc] at ha
    unfold fillLine
    simp only [ho, ha]
    exact congrArg Except.ok (wakeFutures_of_none hf)

theorem pieceWritten_stash (s : State) {w o len cnt v : Nat} (hcnt : cnt ≠ 0 → len = 128) :
    ((s.pieceWritten w o len cnt v).block w).stash = Memory.write (s.block w).stash o len v := by
  unfold pieceWritten
  rw [block_updBlock_self]
  split
  · rfl
  · next h => rw [hcnt h]

theorem pieceWritten_block_of_ne (s : State) {w o len cnt v k : Nat} (h : k ≠ w) :
    (s.pieceWritten w o len cnt v).block k = s.block k := block_updBlock_of_ne s _ h

theorem pieceWritten_counts (s : State) {w o len v k : Nat} : ((s.pieceWritten w o len 0 v).block k).counts = (s.block k).counts := by
  by_cases h : k = w
  · subst h
    unfold pieceWritten
    rw [block_updBlock_self]
    rfl
  · rw [pieceWritten_block_of_ne s h]

theorem pieceWritten_live (s : State) {w o len cnt v : Nat} (h : cnt ≠ 0) :
    SMap.get .none ((s.pieceWritten w o len cnt v).block w).counts (o / 128) = .live cnt ∧
      SMap.find? ((s.pieceWritten w o len cnt v).block w).countVa (o / 128) = some (BitVec.ofNat 64 (stashBase + o)) := by
  unfold pieceWritten
  rw [block_updBlock_self, if_neg h]
  exact ⟨SMap.get_put_self .., SMap.find?_put_self ..⟩

/-- A copy of one piece stops behind it. -/
theorem copyFrom_piece {g : Agent} {dst src len cnt fuel n v : Nat} {t : State} (hlen : len ≠ 0) (hn : len ≤ n)
    (hd : len ≤ toLineEnd dst) (hs : len ≤ toLineEnd src) (hcnt : cnt ≠ 0 → len = 128)
    (hread : s.engReads g 2 src len = .ok (v, s)) (hstep : s.pieceStep g dst len cnt v = .ok t) :
    s.copyFrom g dst src len cnt none (fuel + 1) n 0 = (len, none, t) := by
  have hk : (if cnt = 0 then copyPiece dst src (min n len) else 128) = len := by
    split
    · unfold copyPiece
      omega
    · next h => exact (hcnt h).symm
  have hend : t.copyFrom g dst src len cnt none fuel (n - min n len) (0 + len) = (len, none, t) := by
    cases fuel with
    | zero => rw [copyFrom, Nat.zero_add]
    | succ fuel => rw [copyFrom, if_pos (by simp), Nat.zero_add]
  unfold copyFrom
  unfold pieceStep at hstep
  rw [if_neg (by simp; omega), if_neg (by simp)]
  simp only [Nat.add_zero, Nat.sub_zero, hk, hread, hstep]
  exact hend

/-! ## The whole copy of one piece -/

theorem stashPart_isSome {a n x : Nat} (h : stashOff a = some x) (hn : n ≠ 0) : (stashPart a n).isSome = true := by
  unfold stashOff at h
  split at h
  case isTrue ha =>
    simp only [Bool.and_eq_true, decide_eq_true_eq] at ha
    have hlt : max a stashBase < min (a + n) (stashBase + 0x200000) := by
      unfold stashBase
      omega
    unfold stashPart
    rw [if_pos hlt]
    rfl
  case isFalse => cases h

/-- A copy into a stash that may begin reserves nothing and stops nowhere. -/
def copyBegun (s : State) (blk q : Nat) : State := s.updHead blk q fun e => { e with begun := true, todo := [], stop := none }

theorem startCopy_stash {g : Agent} {dst src len cnt x : Nat} (hb : e.begun = false)
    (hr : s.acopyRange blk dst src len cnt = false) (hlen : len ≠ 0) (ho : stashOff dst = some x)
    (hlive : cnt ≠ 0 → s.stashLive g.blk dst len = false) :
    s.startCopy blk q g e dst src len cnt = .ok (s.copyBegun blk q) := by
  have hstart : (if cnt = 0 then .ok ([], none, s) else s.startFill g dst len :
      Except Nat (List Nat × Option (Nat × Raise) × State)) = .ok ([], none, s) := by
    split
    · rfl
    · next hc =>
      unfold startFill
      rw [if_pos (stashPart_isSome ho hlen), if_neg (by simp [hlive hc])]
  unfold startCopy
  rw [if_neg (by simp [hb]), if_neg (by simp [hr]), hstart]
  rfl

/-- Nothing to reserve is reserved at once. -/
def copyReserved (s : State) (blk q n : Nat) : State :=
  s.updHead blk q fun e => { e with todo := e.todo.drop n, held := e.held ++ [] }

theorem reserveSome_nothing {part n : Nat} (hq : SMap.get [] (s.block blk).queues q = e :: rest) (ht : e.todo = []) :
    s.reserveSome blk q part n = some (true, s.copyReserved blk q n) := by
  unfold reserveSome
  rw [hq]
  simp only [ht, List.take_nil, List.drop_nil, List.isEmpty_nil, reserveAll, Option.map_some]
  unfold copyReserved updHead
  rfl

theorem fillStop_eq (hq : SMap.get [] (s.block blk).queues q = e :: rest) : s.fillStop blk q = e.stop := by
  unfold fillStop
  rw [hq]
  rfl

theorem stopFill_nothing {part : Nat} (hq : SMap.get [] (s.block blk).queues q = e :: rest) (hh : e.held = []) :
    s.stopFill blk q part = s := by
  unfold stopFill
  rw [hq]
  simp only [hh, List.filter_nil]
  rfl

theorem pieceWritten_queues (s : State) {w o len cnt v : Nat} : ((s.pieceWritten w o len cnt v).block blk).queues = (s.block blk).queues := by
  by_cases h : blk = w
  · subst h
    unfold pieceWritten
    rw [block_updBlock_self]
    split <;> rfl
  · rw [pieceWritten_block_of_ne s h]

/-- What a copy of one piece within the stashes leaves, before its entry leaves its queue. -/
structure PieceCopied (s u : State) (w o v p len cnt : Nat) : Prop where
  mem : u.mem = s.mem
  waves : u.waves = s.waves
  dst : (u.block w).stash = Memory.write (s.block w).stash o len (Memory.read (s.block v).stash p len)
  others : ∀ k, k ≠ w → (u.block k).stash = (s.block k).stash
  uncounted : cnt = 0 → ∀ k, (u.block k).counts = (s.block k).counts
  counted : cnt ≠ 0 → SMap.get .none (u.block w).counts (o / 128) = .live cnt ∧
    SMap.find? (u.block w).countVa (o / 128) = some (BitVec.ofNat 64 (stashBase + o))

theorem pieceCopied_of {t u : State} {w o v p len cnt : Nat} (ht : s.SameStash t) (hm : t.mem = s.mem) (hw : t.waves = s.waves)
    (hcnt : cnt ≠ 0 → len = 128)
    (hu : (t.pieceWritten w o len cnt (Memory.read (t.block v).stash p len)).SameStash u)
    (hum : u.mem = t.mem) (huw : u.waves = t.waves) : PieceCopied s u w o v p len cnt := by
  obtain ⟨hdst, -, -, -, hcounts, hva⟩ := hu w
  obtain ⟨hsrc, -, -, -, -, -⟩ := ht v
  obtain ⟨hold, -, -, -, -, -⟩ := ht w
  refine ⟨hum.trans hm, huw.trans hw, ?_, fun k hk => ?_, fun hc k => ?_, fun hc => ?_⟩
  · rw [hdst, pieceWritten_stash t hcnt, hold, hsrc]
  · obtain ⟨h, -, -, -, -, -⟩ := hu k
    obtain ⟨h', -, -, -, -, -⟩ := ht k
    rw [h, pieceWritten_block_of_ne t hk, h']
  · obtain ⟨-, -, -, -, h, -⟩ := hu k
    obtain ⟨-, -, -, -, h', -⟩ := ht k
    subst hc
    rw [h, pieceWritten_counts, h']
  · rw [hcounts, hva]
    exact pieceWritten_live t hc

/-- A copy within the stashes whose bytes lie in one line on either side moves them in one piece. -/
theorem acopyComplete_piece {d r : DWord} {len cnt x y w o v p : Nat} (hrun : s.enginesRun blk = true) (h3 : q ≤ 3)
    (hq : SMap.get [] (s.block blk).queues q = e :: rest) (hg : s.gateOpen e.core e.slot e.gate = true)
    (hop : e.op = .acopy d r len cnt) (hlen : len ≠ 0) (hb : e.begun = false) (hpix : e.pix = 0) (hheld : e.held = [])
    (hbad : s.acopyRange blk d.toNat r.toNat len cnt = false) (hlive : cnt ≠ 0 → s.stashLive blk d.toNat len = false)
    (hd : len ≤ toLineEnd d.toNat) (hr : len ≤ toLineEnd r.toNat)
    (hx : stashOff d.toNat = some x) (hxa : s.stashAt blk x len = some (w, o))
    (hy : stashOff r.toNat = some y) (hya : s.stashAt blk y len = some (v, p))
    (hf : (s.waves.any fun k => k.2.queue.any QEntry.atHome) = false) (hecc : (s.block v).bad.contains (p / 128) = false) :
    ∃ u : State, exec (.acopyComplete blk q) s = .next (u.endEntry blk q 0) ∧ PieceCopied s u w o v p len cnt := by
  have hcnt : cnt ≠ 0 → len = 128 := by
    intro hc
    unfold acopyRange at hbad
    unfold toLineEnd at hd
    simp [hc] at hbad
    omega
  let g := s.engAgent blk e
  let t := (s.copyBegun blk q).copyReserved blk q (2 ^ 17)
  have hqb : SMap.get [] ((s.copyBegun blk q).block blk).queues q = { e with begun := true, todo := [], stop := none } :: rest :=
    updHead_queue (fun e => { e with begun := true, todo := [], stop := none }) hq
  have hqt : SMap.get [] (t.block blk).queues q = { e with begun := true, todo := [], stop := none, held := e.held ++ [] } :: rest :=
    updHead_queue (fun e => { e with todo := e.todo.drop (2 ^ 17), held := e.held ++ [] }) hqb
  have hst : s.SameStash t := SameStash.trans (updHead_sameStash _ _ _ _) (updHead_sameStash _ _ _ _)
  obtain ⟨hsrc, -, -, hbadv, -, -⟩ := hst v
  have hread : t.engReads g 2 r.toNat len = .ok (Memory.read (t.block v).stash p len, t) :=
    engReads_stash hlen hr hy ((hst.stashAt ..).trans hya) (by rw [hbadv]; exact hecc)
  have hstep := pieceStep_stash (s := t) (g := g) (v := Memory.read (t.block v).stash p len) hx ((hst.stashAt ..).trans hxa) hcnt hf
  let z := t.pieceWritten w o len cnt (Memory.read (t.block v).stash p len)
  have hcopy : t.copyFrom g d.toNat r.toNat len cnt (t.fillStop blk q) (len / 4 + 1) (2 ^ 24) e.pix = (len, none, z) := by
    rw [fillStop_eq hqt, hpix]
    exact copyFrom_piece hlen (by unfold toLineEnd at hd; omega) hd hr hcnt hread hstep
  have hqz : SMap.get [] (z.block blk).queues q = _ := (congrArg (SMap.get [] · q) (pieceWritten_queues t)).trans hqt
  have hstop : (z.setPix blk q len).stopFill blk q g.part = z.setPix blk q len :=
    stopFill_nothing (updHead_queue _ hqz) (by simp [hheld])
  refine ⟨z.setPix blk q len, ?_, pieceCopied_of hst rfl rfl hcnt (updHead_sameStash _ _ _ _) rfl rfl⟩
  rw [acopyComplete_begun hrun h3 hq hg hop hlen (startCopy_stash hb hbad hlen hx hlive),
    copyOn_done (reserveSome_nothing hqb rfl) hcopy (Nat.le_refl len), hstop]

end State

end Sys2Proof.Machine
end

section
/-!
# The heads of gq and xq, and the obligation on engine completions
-/
namespace Sys2Proof.Machine

namespace State

variable {s : State} {blk : Nat} {e : EngEntry} {rest : List EngEntry}

/-- The positions of a GATH or SCAT from its progress index on, once its operands are checked. -/
def gathOn (s : State) (blk : Nat) (e : EngEntry) (table index arr n es iw : Nat) (op : Option Nat) (m : Nat) : State :=
  let (pix, r, t) := (s.updHead blk 4 fun e => { e with begun := true }).gathFrom (s.engAgent blk e) table index arr n es iw op
    (min m n) e.pix
  let t := t.setPix blk 4 pix
  match r with
  | some r => t.failEntry blk 4 r
  | none => if n ≤ pix then t.endEntry blk 4 0 else t

/-- An entry of gq with its operands: no operation for a GATH. -/
def gathOp (table index arr : DWord) (n es iw : Nat) (ok : Bool) : Option Nat → EngOp
  | none => .gath table index arr n es iw ok
  | some op => .scat table index arr n op es iw ok

section

variable {table index arr : DWord} {n es iw : Nat} {ok : Bool} {sc : Option Nat}
  (hq : SMap.get [] (s.block blk).queues 4 = e :: rest) (hg : s.gateOpen e.core e.slot e.gate = true)
  (ho : e.op = gathOp table index arr n es iw ok sc)
include hq hg ho

theorem runGath_eq (m : Nat) : s.runGath blk m =
    if !e.begun && s.gathRange blk table.toNat index.toNat arr.toNat n es iw (sc.getD 0) ok then s.endEntry blk 4 4
    else s.gathOn blk e table.toNat index.toNat arr.toNat n es iw sc m := by
  unfold runGath
  rw [hq]
  cases sc <;>
  · simp only [gathOp] at ho
    simp only [ho, headOpen_of hq hg, Bool.not_true, Bool.false_eq_true, if_false]
    rfl

variable (hrun : s.enginesRun blk = true)
include hrun

theorem gathScatComplete_range (hb : e.begun = false)
    (hr : s.gathRange blk table.toNat index.toNat arr.toNat n es iw (sc.getD 0) ok = true) :
    exec (.gathScatComplete blk) s = .next (s.endEntry blk 4 4) := by
  rw [exec_gathScatComplete]
  refine congrArg Host.Outcome.next ((if_pos hrun).trans ?_)
  rw [runGath_eq hq hg ho, if_pos (by simp [hb, hr])]

theorem gathScatComplete_on
    (hr : e.begun = false → s.gathRange blk table.toNat index.toNat arr.toNat n es iw (sc.getD 0) ok = false) :
    exec (.gathScatComplete blk) s = .next (s.gathOn blk e table.toNat index.toNat arr.toNat n es iw sc (2 ^ 24)) := by
  rw [exec_gathScatComplete]
  refine congrArg Host.Outcome.next ((if_pos hrun).trans ?_)
  rw [runGath_eq hq hg ho, if_neg (by cases hb : e.begun <;> simp [hb, hr])]

end

section

variable {table index arr n es iw pix m : Nat} {op : Option Nat} {u : State}

theorem gathOn_done (h : (s.updHead blk 4 fun e => { e with begun := true }).gathFrom (s.engAgent blk e) table index arr n es iw op
    (min m n) e.pix = (pix, none, u)) (hn : n ≤ pix) :
    s.gathOn blk e table index arr n es iw op m = (u.setPix blk 4 pix).endEntry blk 4 0 := by
  unfold gathOn
  simp only [h, if_pos hn]

theorem gathOn_stopped {x : Raise} (h : (s.updHead blk 4 fun e => { e with begun := true }).gathFrom (s.engAgent blk e) table index arr n
    es iw op (min m n) e.pix = (pix, some x, u)) :
    s.gathOn blk e table index arr n es iw op m = (u.setPix blk 4 pix).failEntry blk 4 x := by
  unfold gathOn
  simp only [h]

end

/-! ## Collectives -/

/-- The work of a COLL whose operands obey the rules, in a group. -/
def collOn (s : State) (blk : Nat) (g : Agent) (sd rv n root redop ty op : Nat) (grp : Group) : CollInput → State
  | .disagree => s.endEntry blk 6 4
  | .lost => s.failEntry blk 6 ⟨.mcheck, 0⟩ true
  | .sends data order =>
    let sz := collSize ty
    let (ls, lr) := collLens op n grp.m sz
    if data.length != grp.m || !isOrder grp.m order || data.any (fun d => d.length != ls) then s
    else
      match s.collRead g (ls / 128 + 2) sd (if op = 3 && grp.q != root then 0 else ls) with
      | .error r => s.failEntry blk 6 r
      | .ok (own, s) =>
        let vals := collData data grp.q own
        let out := ((List.range (lr / sz)).map fun i => 2 ^ (8 * sz * i) * collElem vals order n grp.q root redop ty op i).foldl
          (· + ·) 0
        match s.collWrite g (lr / 128 + 2) rv lr out with
        | .error r => s.failEntry blk 6 r
        | .ok s => (s.addMeter g.vi 15 (if grp.m < 2 then 0 else Config.collBytes op n sz grp.m grp.q)).endEntry blk 6 0

section

variable {sd rv : DWord} {n gid root redop ty op : Nat} {ok : Bool}
  (hrun : s.enginesRun blk = true) (hq : SMap.get [] (s.block blk).queues 6 = e :: rest) (hg : s.gateOpen e.core e.slot e.gate = true)
  (ho : e.op = .coll sd rv n gid root redop ty op ok)
include hrun hq hg ho

theorem collComplete_eq (inp : CollInput) : exec (.collComplete blk inp) s = .next
    (if collRange (SMap.find? (s.vi (s.engAgent blk e).vi).groups gid) sd.toNat rv.toNat n root ty op ok then s.endEntry blk 6 4
      else s.collOn blk (s.engAgent blk e) sd.toNat rv.toNat n root redop ty op
        ((SMap.find? (s.vi (s.engAgent blk e).vi).groups gid).getD {}) inp) := by
  rw [exec_collComplete]
  refine congrArg Host.Outcome.next ((if_pos hrun).trans ?_)
  unfold runColl
  rw [hq]
  simp only [ho, headOpen_of hq hg, Bool.not_true, Bool.false_eq_true, if_false]
  cases inp <;> rfl

theorem collComplete_range (inp : CollInput)
    (h : collRange (SMap.find? (s.vi (s.engAgent blk e).vi).groups gid) sd.toNat rv.toNat n root ty op ok = true) :
    exec (.collComplete blk inp) s = .next (s.endEntry blk 6 4) := by
  rw [collComplete_eq hrun hq hg ho, if_pos h]

theorem collComplete_on (inp : CollInput)
    (h : collRange (SMap.find? (s.vi (s.engAgent blk e).vi).groups gid) sd.toNat rv.toNat n root ty op ok = false) :
    exec (.collComplete blk inp) s = .next (s.collOn blk (s.engAgent blk e) sd.toNat rv.toNat n root redop ty op
      ((SMap.find? (s.vi (s.engAgent blk e).vi).groups gid).getD {}) inp) := by
  rw [collComplete_eq hrun hq hg ho, if_neg (by simp [h])]

end

/-- The bytes that a member of a group sends, as its meter counts them. -/
def collSent (op n ty : Nat) (x : Group) : Nat := if x.m < 2 then 0 else Config.collBytes op n (collSize ty) x.m x.q

theorem collOn_sends {g : Agent} {sd rv n root redop ty op own : Nat} {x : Group} {data : List (List Byte)} {order : List Nat} {t u : State}
    (hd : data.length = x.m) (hord : isOrder x.m order = true) (hl : ∀ l ∈ data, l.length = (collLens op n x.m (collSize ty)).1)
    (hr : s.collRead g ((collLens op n x.m (collSize ty)).1 / 128 + 2) sd
      (if op = 3 ∧ x.q ≠ root then 0 else (collLens op n x.m (collSize ty)).1) = .ok (own, t))
    (hw : t.collWrite g ((collLens op n x.m (collSize ty)).2 / 128 + 2) rv (collLens op n x.m (collSize ty)).2
      (((List.range ((collLens op n x.m (collSize ty)).2 / collSize ty)).map fun i =>
        2 ^ (8 * collSize ty * i) * collElem (collData data x.q own) order n x.q root redop ty op i).foldl (· + ·) 0) = .ok u) :
    s.collOn blk g sd rv n root redop ty op x (.sends data order) = (u.addMeter g.vi 15 (collSent op n ty x)).endEntry blk 6 0 := by
  have hcond : (data.length != x.m || !isOrder x.m order || data.any fun d => d.length != (collLens op n x.m (collSize ty)).1) = false := by
    simpa [hd, hord] using hl
  have hroot : (if (decide (op = 3) && x.q != root) = true then 0 else (collLens op n x.m (collSize ty)).1) =
      if op = 3 ∧ x.q ≠ root then 0 else (collLens op n x.m (collSize ty)).1 := by simp
  unfold collOn
  simp only [hcond, Bool.false_eq_true, if_false, hroot, hr, hw]
  rfl

/-- A barrier moves no data. -/
theorem collOn_barrier {g : Agent} {sd rv n root redop ty : Nat} {x : Group} {order : List Nat} (hord : isOrder x.m order = true) :
    s.collOn blk g sd rv n root redop ty 4 x (.sends (List.replicate x.m []) order) =
      (s.addMeter g.vi 15 (collSent 4 n ty x)).endEntry blk 6 0 := by
  refine collOn_sends (own := 0) (t := s) (List.length_replicate ..) hord (fun l hl => ?_) ?_ ?_
  · rw [List.eq_of_mem_replicate hl]
    rfl
  · simp [collLens, collRead]
  · simp [collLens, collWrite]

end State

/-- Settles O44, by the entry at the head of its queue, and for each the outcome of its checks and of its transfer. -/
theorem engineCompletions : Obligations.EngineCompletions := by
  unfold Obligations.EngineCompletions
  intro blk s e rest hrun hg heads g
  refine ⟨fun q d r len cnt h3 hq ho => ?_, fun table index arr n es iw ok sc hq ho => ?_,
    fun sd rv n gid root redop ty op ok hq ho => ?_⟩
  · refine ⟨fun hl => ?_, fun hl hb hbad => State.acopyComplete_refused hrun h3 hq hg ho hl (State.startCopy_range hb hbad),
      fun st hl h => State.acopyComplete_refused hrun h3 hq hg ho hl h, fun t hl h => ?_, ?_⟩
    · subst hl
      exact State.acopyComplete_empty hrun h3 hq hg ho
    · have hon := State.acopyComplete_begun hrun h3 hq hg ho hl h
      exact ⟨fun hr => hon.trans (congrArg _ (State.copyOn_refused hr)),
        fun u pix v hr hc hp => hon.trans (congrArg _ (State.copyOn_done hr hc hp)),
        fun u pix x v hr hc => hon.trans (congrArg _ (State.copyOn_stopped hr hc))⟩
    · intro x y w v o p hl hb hpix hheld hbad hlive hd hr hx hxa hy hya hf hecc
      obtain ⟨u, hu, hmem, hwaves, hdst, hothers, huncounted, hcounted⟩ :=
        State.acopyComplete_piece hrun h3 hq hg ho hl hb hpix hheld hbad hlive hd hr hx hxa hy hya hf hecc
      exact ⟨u, hu, hmem, hwaves, hdst, hothers, huncounted, hcounted⟩
  · have hop : e.op = State.gathOp table index arr n es iw ok sc := by cases sc <;> exact ho
    exact ⟨fun hb hbad => State.gathScatComplete_range hq hg hop hrun hb hbad,
      fun pix u hr h hn => (State.gathScatComplete_on hq hg hop hrun hr).trans (congrArg _ (State.gathOn_done h hn)),
      fun pix x u hr h => (State.gathScatComplete_on hq hg hop hrun hr).trans (congrArg _ (State.gathOn_stopped h))⟩
  · have hon {x : Group} (hx : SMap.find? (s.vi (s.engAgent blk e).vi).groups gid = some x) :
        (SMap.find? (s.vi (s.engAgent blk e).vi).groups gid).getD {} = x := by rw [hx]; rfl
    refine ⟨fun inp hbad => State.collComplete_range hrun hq hg ho inp hbad,
      fun hok => ⟨State.collComplete_on hrun hq hg ho _ hok, State.collComplete_on hrun hq hg ho _ hok⟩,
      fun x data order own t u hx hok hd hord hl hr hw => ?_, fun x order hx hok hop hord => ?_⟩
    · rw [State.collComplete_on hrun hq hg ho _ hok, hon hx]
      exact congrArg Host.Outcome.next (State.collOn_sends hd hord hl hr hw)
    · subst hop
      rw [State.collComplete_on hrun hq hg ho _ hok, hon hx]
      exact congrArg Host.Outcome.next (State.collOn_barrier hord)

end Sys2Proof.Machine
end

section
/-!
# Completions of the memory port and of METSNAP
-/
namespace Sys2Proof.Machine

/-- Which event completes an operation of the memory port. -/
def PortKind.completion (core slot id : Nat) : PortKind → Instr
  | .sunmap _ => .sunmapComplete core slot id
  | .cdrop => .cdropComplete core slot id
  | _ => .cinvCwbComplete core slot id

/-- The kinds of operations that the completion of one of a kind is for. -/
def PortKind.own : PortKind → PortKind → Bool
  | .sunmap _ => fun k => match k with | .sunmap _ => true | _ => false
  | .cdrop => fun k => k = .cdrop
  | _ => fun k => k = .cinv || k = .cinvI || k = .cwb

theorem PortKind.own_self (k : PortKind) : k.own k = true := by cases k <;> rfl

theorem exec_completion (k : PortKind) (core slot id : Nat) (s : State) :
    exec (k.completion core slot id) s = .next (s.completePort core slot id k.own) := by cases k <;> rfl

namespace State

variable {s : State} {core slot id : Nat}

/-- METSNAP's token register has its status. -/
def endSnap (s : State) (core slot id token : Nat) (status : Word) : State :=
  s.updWave core slot fun w => { w.completeToken token status with snaps := w.snaps.filter fun y => y.id != id }

section

variable {x : SnapOp} (hslot : slot < 64) (hx : ((s.wave core slot).snaps.find? fun y => y.id = id) = some x)
include hslot hx

theorem metsnapComplete_none (h : s.snapNow x.vi 0 = none) :
    exec (.metsnapComplete core slot id) s = .next (s.endSnap core slot id x.token 2) := by
  rw [exec_metsnapComplete]
  unfold execMetsnapComplete
  rw [if_neg (by omega), hx]
  simp only [h]
  rfl

theorem metsnapComplete_some {t : State} (h : s.snapNow x.vi 0 = some t) :
    exec (.metsnapComplete core slot id) s = .next (t.endSnap core slot id x.token 0) := by
  rw [exec_metsnapComplete]
  unfold execMetsnapComplete
  rw [if_neg (by omega), hx]
  simp only [h]
  rfl

end

theorem snapNow_unassigned {vi trigger : Nat} (h : (s.vi vi).part = none) : s.snapNow vi trigger = none := by
  unfold snapNow
  rw [h]
  rfl

theorem snapNow_of {vi trigger p : Nat} (h : (s.vi vi).part = some p) :
    s.snapNow vi trigger = (s.snapshot p vi trigger).map fun t => t.tick 1 := by
  unfold snapNow
  rw [h]
  rfl

/-! ## The memory port -/

theorem find?_eq_of_unique {α : Type} {p : α → Bool} {l : List α} {a : α} (ha : a ∈ l) (hp : p a = true)
    (hu : ∀ x ∈ l, p x = true → x = a) : l.find? p = some a := by
  cases h : l.find? p with
  | none => exact absurd hp (List.find?_eq_none.mp h a ha)
  | some b => rw [hu b (List.mem_of_find?_eq_some h) (List.find?_some h)]

theorem portBehind_false {w : Wave} {op : PortOp} (h : ∀ x ∈ w.port.takeWhile (fun x => x.id != op.id), x.lanes &&& op.lanes = 0) :
    w.portBehind op = false := by
  unfold Wave.portBehind
  rw [List.any_eq_false]
  intro x hx
  simp [h x hx]

section

variable {op : PortOp} (hslot : slot < 64) (hop : op ∈ (s.wave core slot).port) (hid : op.id = id)
  (huniq : ∀ x ∈ (s.wave core slot).port, x.id = id → x = op)
  (hfirst : ∀ x ∈ (s.wave core slot).port.takeWhile (fun x => x.id != id), x.lanes &&& op.lanes = 0)
include hslot hop hid huniq hfirst

theorem completePort_eq (own : PortKind → Bool) (hown : own op.kind = true) : s.completePort core slot id own =
    if s.isStopped core slot then s
    else (s.actPort core slot op).2.endPort core slot (s.actPort core slot op).1 := by
  have hfind : (s.wave core slot).port.find? (fun x => decide (x.id = id) && own x.kind) = some op := by
    refine find?_eq_of_unique hop (by simp [hid, hown]) fun x hx h => huniq x hx ?_
    simp only [Bool.and_eq_true, decide_eq_true_eq] at h
    exact h.1
  have hbehind : (s.wave core slot).portBehind op = false := portBehind_false (by rw [hid]; exact hfirst)
  unfold completePort
  simp only [if_neg (show ¬ 64 ≤ slot by omega), hfind, hbehind, Bool.false_or]

theorem completion_stopped (h : s.isStopped core slot = true) : exec (op.kind.completion core slot id) s = .next s := by
  rw [exec_completion, completePort_eq hslot hop hid huniq hfirst _ op.kind.own_self, if_pos h]

theorem completion_runs (h : s.isStopped core slot = false) {r : PortOp × State} (hr : s.actPort core slot op = r) :
    exec (op.kind.completion core slot id) s = .next (r.2.endPort core slot r.1) := by
  rw [exec_completion, completePort_eq hslot hop hid huniq hfirst _ op.kind.own_self, if_neg (by simp [h]), hr]

end

/-! ## What an operation of the port does -/

section

variable {op : PortOp}

theorem actPort_acted (h : op.acted = true) : s.actPort core slot op = (op, s) := by
  unfold actPort
  rw [if_pos h]

theorem actPort_sunmap {wb : Bool} (h : op.acted = false) (hk : op.kind = .sunmap wb) :
    s.actPort core slot op = ({ (s.sunmap (s.wave core slot).blk op wb).1 with acted := true }, (s.sunmap (s.wave core slot).blk op wb).2) := by
  unfold actPort
  rw [if_neg (by simp [h]), hk]

theorem sunmap_unmapped {blk : Nat} {wb : Bool} (h : SMap.find? (s.block blk).wins op.base.toNat = none) :
    s.sunmap blk op wb = ({ op with status := 4 }, s) := by
  unfold sunmap
  simp only [h]

/-- The dirty lines of a window. -/
def dirtyLines (x : StashWin) : List Nat := x.lines.filterMap fun p => if p.2 = .dirty then some p.1 else none

theorem sunmap_mapped {blk : Nat} {wb : Bool} {x : StashWin} (h : SMap.find? (s.block blk).wins op.base.toNat = some x) :
    s.sunmap blk op wb =
      ((if wb = true then s.wbLines blk op.base.toNat op x.base (dirtyLines x) else (op, s)).1,
       (if wb = true then s.wbLines blk op.base.toNat op x.base (dirtyLines x) else (op, s)).2.dropWin blk op.base.toNat) := by
  unfold sunmap
  simp only [h]
  rfl

/-- The lines that an operation of the port reaches, one after the other. -/
def portLines (s : State) (core slot : Nat) (op : PortOp) : Option (Nat × Raise) × State :=
  let base := op.base.toNat
  let first := base - base % 128
  s.maintain (s.agentOf core slot .normal) op.kind (if op.len = 0 then first else base + op.len) (op.len / 128 + 2) first

/-- What an operation over lines has done, from how far it came. -/
def portDone (core vi : Nat) (op : PortOp) : Option (Nat × Raise) × State → PortOp × State
  | (none, u) => ({ op with acted := true }, u)
  | (some (va, r), u) =>
    ({ op with acted := true, status := statusOf r.cause, va := r.val, cause := r.cause.code, pix := va - op.base.toNat },
      u.walkedFor core vi r)

theorem actPort_lines (h : op.acted = false) (hk : ∀ wb, op.kind ≠ .sunmap wb) :
    s.actPort core slot op = portDone core (s.agentOf core slot .normal).vi op (s.portLines core slot op) := by
  unfold actPort portLines
  rw [if_neg (by simp [h])]
  split
  · exact absurd ‹_› (hk _)
  · dsimp only
    generalize s.maintain (s.agentOf core slot .normal) op.kind (if op.len = 0 then op.base.toNat - op.base.toNat % 128 else op.base.toNat + op.len) (op.len / 128 + 2) (op.base.toNat - op.base.toNat % 128) = x
    rcases x with ⟨_ | ⟨va, r⟩, u⟩ <;> rfl

theorem updBlock_congr {b : Nat} {f g : Block → Block} (h : f (s.block b) = g (s.block b)) : s.updBlock b f = s.updBlock b g := by
  have hput : SMap.upd {} s.blocks b f = SMap.upd {} s.blocks b g := congrArg (SMap.put s.blocks b) h
  unfold updBlock
  rw [hput]

/-- A CDROP within one counting stash line makes it spent. -/
theorem portLines_cdrop {off owner o n : Nat} (hk : op.kind = .cdrop) (hpos : 0 < op.len) (hle : op.base.toNat % 128 + op.len ≤ 128)
    (hoff : stashOff (op.base.toNat - op.base.toNat % 128) = some off)
    (hat : s.stashAt (s.wave core slot).blk off 1 = some (owner, o)) (hlive : SMap.get .none (s.block owner).counts (o / 128) = .live n) :
    s.portLines core slot op = (none, s.updBlock owner fun b => { b with counts := SMap.put b.counts (o / 128) .spent }) := by
  have hdrop : s.dropCount (s.agentOf core slot .normal) (op.base.toNat - op.base.toNat % 128) =
      .ok (s.updBlock owner fun b => { b with counts := SMap.put b.counts (o / 128) .spent }) := by
    unfold dropCount
    rw [hoff]
    change (match s.stashAt (s.wave core slot).blk off 1 with | none => _ | some (owner, o) => _) = _
    rw [hat]
    refine congrArg Except.ok (updBlock_congr ?_)
    rw [hlive]
  have hline (u : State) (fuel : Nat) :
      u.maintain (s.agentOf core slot .normal) op.kind (op.base.toNat + op.len) fuel (op.base.toNat - op.base.toNat % 128 + 128) =
        (none, u) := by
    cases fuel with
    | zero => rfl
    | succ fuel => rw [maintain, if_pos (by omega)]
  unfold portLines
  simp only [if_neg (show ¬ op.len = 0 by omega)]
  rw [maintain, if_neg (by omega)]
  unfold maintainLine
  simp only [hk] at hline ⊢
  simp only [hdrop, hline]

theorem wbLines_cons_ok {blk win j : Nat} {x : DWord} {l : List Nat} {t : State} (h : s.winWriteBack blk win j = .ok t) :
    s.wbLines blk win op x (j :: l) = t.wakeFutures.wbLines blk win op x l := by
  rw [wbLines, h]

theorem wbLines_cons_error {blk win j : Nat} {x : DWord} {l : List Nat} {r : Raise} (h : s.winWriteBack blk win j = .error r) :
    s.wbLines blk win op x (j :: l) =
      ({ op with status := statusOf r.cause, va := x + BitVec.ofNat 64 (128 * j), cause := r.cause.code, pix := 128 * j },
        s.walkedFor (s.block blk).core (s.block blk).vi r) := by
  rw [wbLines, h]

theorem endPort_ok (h : op.status = 0) : s.endPort core slot op = s.updWave core slot fun w =>
    { w.completeToken op.token 0 with port := w.port.filter fun x => x.id != op.id } := by
  unfold endPort
  simp [h]

end

end State

/-- Settles O45, by the kind of the operation and what stops it. -/
theorem portCompletions : Obligations.PortCompletions := by
  unfold Obligations.PortCompletions
  intro core slot id s hslot w
  refine ⟨fun x hx => ⟨fun h => ?_, fun p h hs => ?_, fun p t h hs => ?_⟩, fun op hop hid huniq hfirst => ?_⟩
  · exact State.metsnapComplete_none hslot hx (State.snapNow_unassigned h)
  · exact State.metsnapComplete_none hslot hx (by rw [State.snapNow_of h, hs]; rfl)
  · exact State.metsnapComplete_some hslot hx (by rw [State.snapNow_of h, hs]; rfl)
  · intro g base first ends run i
    have hi : i = op.kind.completion core slot id := by cases hk : op.kind <;> simp [i, hk, PortKind.completion]
    rw [hi]
    refine ⟨State.completion_stopped hslot hop hid huniq hfirst, fun hs => ?_, State.endPort_ok, fun win j x l =>
      ⟨fun t ht => State.wbLines_cons_ok ht, fun r hr => State.wbLines_cons_error hr⟩⟩
    have runs {r : PortOp × State} (hr : s.actPort core slot op = r) :
        exec (op.kind.completion core slot id) s = .next (r.2.endPort core slot r.1) :=
      State.completion_runs hslot hop hid huniq hfirst hs hr
    refine ⟨fun ha => runs (State.actPort_acted ha), fun ha => ⟨fun wb hk => ⟨fun h => ?_, fun x h => ?_⟩, fun hk => ⟨fun u hr => ?_,
      fun va r u hr => ?_⟩, fun off owner o n hk hpos hle hoff hat hlive => ?_⟩⟩
    · exact runs ((State.actPort_sunmap ha hk).trans (by rw [State.sunmap_unmapped h]))
    · refine (runs (State.actPort_sunmap ha hk)).trans ?_
      rw [State.sunmap_mapped h]
      rfl
    · exact runs ((State.actPort_lines ha hk).trans (congrArg (State.portDone core g.vi op) hr))
    · exact runs ((State.actPort_lines ha hk).trans (congrArg (State.portDone core g.vi op) hr))
    · exact runs ((State.actPort_lines ha fun wb h => by rw [hk] at h; cases h).trans
        (congrArg (State.portDone core g.vi op) (State.portLines_cdrop hk hpos hle hoff hat hlive)))

end Sys2Proof.Machine
end

section
/-!
# Matrix operations and batches
-/
namespace Sys2Proof.Machine

namespace State

variable {s : State} {blk : Nat} {e : MatEntry} {rest : List MatEntry}

/-! ## The head of mq -/

/-- The head of mq has left it, and joins that are now ready complete. -/
def endMatrix (s : State) (blk : Nat) (rest : List MatEntry) : State := (s.updBlock blk fun b => { b with mq := rest }).clearJoins blk 128

/-- A multiply with its lines pinned, where it begins. -/
def pinned (s : State) (blk : Nat) (e : MatEntry) : MatEntry × State :=
  if e.pix = 0 then s.pinAll (s.block blk).part (s.block blk).vi e else (e, s)

/-- A multiply advanced by k groups, its pins given back. -/
def multiplied (s : State) (part blk : Nat) (e : MatEntry) (a b : DWord) (f : FmtBlock) (ws : Option (List (List Word))) (k : Nat) :
    MatEntry × State :=
  let r := s.performMma blk e a b f ws k
  ({ r.1 with pinned := [], fetched := [] }, r.2.unpinLines part r.1.pinned)

/-- A multiply that reaches its last group ends, one that does not stays the head. -/
def multiplyOn (r : MatEntry × State) (blk : Nat) (rest : List MatEntry) (f : FmtBlock) (groups : Nat) : State :=
  if r.1.pix < groups then r.2.updBlock blk fun b => { b with mq := r.1 :: rest }
  else (r.2.endMma blk r.1 f).endMatrix blk rest

/-- What an operation of mq does at its head, advanced by k groups. -/
def matrixStep (s : State) (blk : Nat) (e : MatEntry) (rest : List MatEntry) (k : Nat) : MatKind → State
  | .mma a b f => multiplyOn ((s.pinned blk e).2.multiplied (s.block blk).part blk (s.pinned blk e).1 a b f none k) blk rest f (mmaGroups f false)
  | .mmasp a b f ws =>
    multiplyOn ((s.pinned blk e).2.multiplied (s.block blk).part blk (s.pinned blk e).1 a b f (some ws) k) blk rest f (mmaGroups f true)
  | .mzacc => (s.performZero blk e).endMatrix blk rest
  | .mstacc a st fmt => (s.performAcc blk e a st fmt true).endMatrix blk rest
  | .mldacc a st fmt => (s.performAcc blk e a st fmt false).endMatrix blk rest
  | .join .. => s

theorem matrixOpComplete_eq (hrun : s.enginesRun blk = true) (hq : (s.block blk).mq = e :: rest) (hready : s.matReady blk = true) :
    exec (.matrixOpComplete blk) s = .next (s.matrixStep blk e rest (2 ^ 18) e.kind) := by
  rw [exec_matrixOpComplete]
  refine congrArg Host.Outcome.next ((if_pos hrun).trans ?_)
  unfold runMatrix
  rw [hq]
  simp only [hready, Bool.not_true, Bool.false_eq_true, if_false]
  cases e.kind <;> rfl

/-- A multiply that is advanced by as many groups as it has is at its end. -/
theorem multiplied_pix {part k : Nat} {a b : DWord} {f : FmtBlock} {ws : Option (List (List Word))} (h : mmaGroups f ws.isSome ≤ k) :
    (s.multiplied part blk e a b f ws k).1.pix = mmaGroups f ws.isSome := by
  change min (mmaGroups f ws.isSome) (_ + k) = _
  exact Nat.min_eq_left (Nat.le_trans h (Nat.le_add_left ..))

theorem multiplyOn_end {r : MatEntry × State} {f : FmtBlock} {groups : Nat} (h : r.1.pix = groups) :
    multiplyOn r blk rest f groups = (r.2.endMma blk r.1 f).endMatrix blk rest := by
  unfold multiplyOn
  rw [if_neg (by omega)]

/-! ## MZACC -/

theorem cellKey_injective {sub acc row col sub' acc' row' col' : Nat} (ha : acc < 8) (ha' : acc' < 8) (hr : row < 16) (hr' : row' < 16)
    (hc : col < 16) (hc' : col' < 16) (h : cellKey sub acc row col = cellKey sub' acc' row' col') :
    sub = sub' ∧ acc = acc' ∧ row = row' ∧ col = col' := by
  unfold cellKey tagKey at h
  omega

/-- Cells of an accumulator's tile made 0, in a list of places. -/
def zeroCells (m : SMap Word) (sub acc : Nat) (l : List Nat) : SMap Word :=
  l.foldl (fun m k => SMap.set 0 m (cellKey sub acc (k / 16) (k % 16)) 0) m

theorem zeroCells_keeps_zero {m : SMap Word} {sub acc key : Nat} (l : List Nat) (h : SMap.get 0 m key = 0) :
    SMap.get 0 (zeroCells m sub acc l) key = 0 := by
  induction l generalizing m with
  | nil => exact h
  | cons k l ih =>
    refine ih ?_
    by_cases hk : key = cellKey sub acc (k / 16) (k % 16)
    · rw [hk, SMap.get_set_self]
    · rw [SMap.get_set_of_ne 0 m 0 hk, h]

theorem zeroCells_mem (m : SMap Word) (sub acc : Nat) {l : List Nat} {k : Nat} (h : k ∈ l) :
    SMap.get 0 (zeroCells m sub acc l) (cellKey sub acc (k / 16) (k % 16)) = 0 := by
  induction l generalizing m with
  | nil => cases h
  | cons j l ih =>
    rcases List.mem_cons.mp h with rfl | h
    · exact zeroCells_keeps_zero l (SMap.get_set_self ..)
    · exact ih _ h

theorem zeroCells_of_ne (m : SMap Word) {sub acc key : Nat} {l : List Nat} (h : ∀ k ∈ l, key ≠ cellKey sub acc (k / 16) (k % 16)) :
    SMap.get 0 (zeroCells m sub acc l) key = SMap.get 0 m key := by
  induction l generalizing m with
  | nil => rfl
  | cons j l ih =>
    rw [List.forall_mem_cons] at h
    exact (ih _ h.2).trans (SMap.get_set_of_ne 0 m 0 h.1)

/-- The places of a tile's cells. -/
@[irreducible] def tilePlaces : List Nat := List.range 256

theorem mem_tilePlaces {k : Nat} : k ∈ tilePlaces ↔ k < 256 := by
  unfold tilePlaces
  exact List.mem_range

/-- One tile of an accumulator made 0. -/
def zeroTile (s : State) (blk acc : Nat) (x : Tile) : State :=
  s.updBlock (s.tileBlock blk x) fun b => { b with accs := zeroCells b.accs x.sub acc tilePlaces }

theorem performZero_eq (s : State) (blk : Nat) (e : MatEntry) :
    s.performZero blk e = e.shape.tiles.foldl (fun s x => s.zeroTile blk e.acc x) s := by
  unfold zeroTile tilePlaces
  rfl

variable {acc : Nat}

theorem zeroTile_peer (x : Tile) (k : Nat) : ((s.zeroTile blk acc x).block k).peer = (s.block k).peer := by
  unfold zeroTile
  by_cases h : k = s.tileBlock blk x
  · rw [h, block_updBlock_self]
  · rw [block_updBlock_of_ne s _ h]

theorem zeroTile_tileBlock (x y : Tile) : (s.zeroTile blk acc x).tileBlock blk y = s.tileBlock blk y := by
  unfold tileBlock
  rw [zeroTile_peer]

theorem zeroTile_keeps_zero {x : Tile} {k key : Nat} (h : SMap.get 0 (s.block k).accs key = 0) :
    SMap.get 0 ((s.zeroTile blk acc x).block k).accs key = 0 := by
  unfold zeroTile
  by_cases hk : k = s.tileBlock blk x
  · subst hk
    rw [block_updBlock_self]
    exact zeroCells_keeps_zero _ h
  · rw [block_updBlock_of_ne s _ hk, h]

theorem zeroTile_self (x : Tile) {r c : Nat} (hr : r < 16) (hc : c < 16) :
    SMap.get 0 ((s.zeroTile blk acc x).block (s.tileBlock blk x)).accs (cellKey x.sub acc r c) = 0 := by
  have hmem := zeroCells_mem (s.block (s.tileBlock blk x)).accs x.sub acc (mem_tilePlaces.mpr (show 16 * r + c < 256 by omega))
  rw [show (16 * r + c) / 16 = r by omega, show (16 * r + c) % 16 = c by omega] at hmem
  unfold zeroTile
  rw [block_updBlock_self]
  exact hmem

theorem zeroTile_of_ne {x : Tile} {k sub a r c : Nat} (ha : a < 8) (hacc : acc < 8) (hne : a ≠ acc) (hr : r < 16) (hc : c < 16) :
    SMap.get 0 ((s.zeroTile blk acc x).block k).accs (cellKey sub a r c) = SMap.get 0 (s.block k).accs (cellKey sub a r c) := by
  unfold zeroTile
  by_cases hk : k = s.tileBlock blk x
  · subst hk
    rw [block_updBlock_self]
    refine zeroCells_of_ne _ fun j hj h => ?_
    have hj := mem_tilePlaces.mp hj
    obtain ⟨-, h, -, -⟩ := cellKey_injective ha hacc hr (by omega) hc (by omega) h
    exact hne h
  · rw [block_updBlock_of_ne s _ hk]

theorem zeroTiles_keeps_zero {k key : Nat} (l : List Tile) (h : SMap.get 0 (s.block k).accs key = 0) :
    SMap.get 0 ((l.foldl (fun s x => s.zeroTile blk acc x) s).block k).accs key = 0 := by
  induction l generalizing s with
  | nil => exact h
  | cons x l ih => exact ih (zeroTile_keeps_zero h)

theorem zeroTiles_mem {l : List Tile} {x : Tile} (hx : x ∈ l) {r c : Nat} (hr : r < 16) (hc : c < 16) :
    SMap.get 0 ((l.foldl (fun s x => s.zeroTile blk acc x) s).block (s.tileBlock blk x)).accs (cellKey x.sub acc r c) = 0 := by
  induction l generalizing s with
  | nil => cases hx
  | cons y l ih =>
    rcases List.mem_cons.mp hx with rfl | hx
    · exact zeroTiles_keeps_zero l (zeroTile_self x hr hc)
    · rw [← zeroTile_tileBlock (acc := acc) y x]
      exact ih hx

theorem zeroTiles_of_ne {k sub a r c : Nat} (l : List Tile) (ha : a < 8) (hacc : acc < 8) (hne : a ≠ acc) (hr : r < 16) (hc : c < 16) :
    SMap.get 0 ((l.foldl (fun s x => s.zeroTile blk acc x) s).block k).accs (cellKey sub a r c) =
      SMap.get 0 (s.block k).accs (cellKey sub a r c) := by
  induction l generalizing s with
  | nil => rfl
  | cons x l ih => exact (ih).trans (zeroTile_of_ne ha hacc hne hr hc)

theorem zeroTiles_mem_waves (l : List Tile) :
    (l.foldl (fun s x => s.zeroTile blk acc x) s).mem = s.mem ∧ (l.foldl (fun s x => s.zeroTile blk acc x) s).waves = s.waves := by
  induction l generalizing s with
  | nil => exact ⟨rfl, rfl⟩
  | cons x l ih => exact ih

/-! ## Batches -/

/-- One note of a batch's flags given to the wave that issued its operation. -/
def giveFlags (s : State) (p : Word × Nat × BitVec 5) : State :=
  if (SMap.find? s.waves p.2.1).isSome then s.updWaveK p.2.1 fun w => w.setMstat (s.cycle w.part) p.2.2 else s

/-- Every bit of the one is a bit of the other. -/
def FlagsIn (x y : BitVec 5) : Prop := y &&& x = x

theorem FlagsIn.refl (x : BitVec 5) : FlagsIn x x := BitVec.and_self

theorem FlagsIn.trans {x y z : BitVec 5} (h : FlagsIn x y) (h' : FlagsIn y z) : FlagsIn x z := by
  unfold FlagsIn at *
  calc z &&& x = z &&& (y &&& x) := by rw [h]
    _ = x := by rw [← BitVec.and_assoc, h', h]

theorem flagsIn_or_left (x y : BitVec 5) : FlagsIn x (x ||| y) := by
  unfold FlagsIn
  ext i
  simp
  grind

theorem flagsIn_or_right (x y : BitVec 5) : FlagsIn y (x ||| y) := by
  unfold FlagsIn
  ext i
  simp
  grind

theorem giveFlags_grows (p : Word × Nat × BitVec 5) (k : Nat) : FlagsIn (s.waveK k).mstat ((s.giveFlags p).waveK k).mstat := by
  unfold giveFlags
  split
  · by_cases hk : k = p.2.1
    · rw [hk, waveK_updWaveK_self]
      exact flagsIn_or_left ..
    · rw [waveK_updWaveK_of_ne s _ hk]
      exact FlagsIn.refl _
  · exact FlagsIn.refl _

theorem giveFlags_gives {p : Word × Nat × BitVec 5} (h : (SMap.find? s.waves p.2.1).isSome = true) :
    FlagsIn p.2.2 ((s.giveFlags p).waveK p.2.1).mstat := by
  unfold giveFlags
  rw [if_pos h, waveK_updWaveK_self]
  exact flagsIn_or_right ..

theorem giveFlags_live {p : Word × Nat × BitVec 5} {k : Nat} (h : (SMap.find? s.waves k).isSome = true) :
    (SMap.find? (s.giveFlags p).waves k).isSome = true := by
  unfold giveFlags
  split
  · by_cases hk : k = p.2.1
    · rw [hk, updWaveK_waves, SMap.find?_put_self]
      rfl
    · rw [updWaveK_waves, SMap.find?_put_of_ne _ _ hk, h]
  · exact h

theorem giveFlags_frame (p : Word × Nat × BitVec 5) : (s.giveFlags p).blocks = s.blocks ∧ (s.giveFlags p).mem = s.mem := by
  unfold giveFlags
  split <;> exact ⟨rfl, rfl⟩

theorem giveAll_grows (l : List (Word × Nat × BitVec 5)) (k : Nat) : FlagsIn (s.waveK k).mstat ((l.foldl giveFlags s).waveK k).mstat := by
  induction l generalizing s with
  | nil => exact FlagsIn.refl _
  | cons p l ih => exact (giveFlags_grows p k).trans ih

theorem giveAll_gives {l : List (Word × Nat × BitVec 5)} {p : Word × Nat × BitVec 5} (hp : p ∈ l) (h : (SMap.find? s.waves p.2.1).isSome = true) :
    FlagsIn p.2.2 ((l.foldl giveFlags s).waveK p.2.1).mstat := by
  induction l generalizing s with
  | nil => cases hp
  | cons q l ih =>
    rcases List.mem_cons.mp hp with rfl | hp
    · exact (giveFlags_gives h).trans (giveAll_grows l _)
    · exact ih hp (giveFlags_live h)

theorem giveAll_frame (l : List (Word × Nat × BitVec 5)) : (l.foldl giveFlags s).blocks = s.blocks ∧ (l.foldl giveFlags s).mem = s.mem := by
  induction l generalizing s with
  | nil => exact ⟨rfl, rfl⟩
  | cons p l ih => exact ⟨(ih).1.trans (giveFlags_frame p).1, (ih).2.trans (giveFlags_frame p).2⟩

/-- The notes of a block's next batch. -/
def batchNotes (s : State) (blk : Nat) : List (Word × Nat × BitVec 5) :=
  (s.block blk).batchFlags.filter fun p => p.1 = (s.block blk).batchDone + 1

/-- A block's next batch counted as completed. -/
def countBatch (s : State) (blk : Nat) (n : Word) : State :=
  s.updBlock blk fun b => { b with batchDone := n, batchFlags := b.batchFlags.filter fun p => p.1 != n }

theorem batchComplete_eq (hrun : s.enginesRun blk = true) (hb : (s.block blk).batchReady = true) :
    exec (.batchComplete blk) s = .next (((s.batchNotes blk).foldl giveFlags s).countBatch blk ((s.block blk).batchDone + 1)) := by
  rw [exec_batchComplete]
  exact congrArg Host.Outcome.next (if_neg (by simp [hrun, hb]))

end State

/-- Settles O46: an operation by its kind, MZACC tile by tile, a batch note by note. -/
theorem matrixCompletions : Obligations.MatrixCompletions := by
  unfold Obligations.MatrixCompletions
  refine fun blk s hrun => ⟨fun e rest hq hready => ?_, fun e => ?_, fun hb => ?_⟩
  · have runs {k : MatKind} (h : e.kind = k) : exec (.matrixOpComplete blk) s = .next (s.matrixStep blk e rest (2 ^ 18) k) := by
      rw [State.matrixOpComplete_eq hrun hq hready, h]
    refine ⟨fun a b f h => ?_, fun a b f ws h => ?_, fun h => runs h, fun a st fmt h => runs h, fun a st fmt h => runs h⟩
    · intro hle
      exact (runs h).trans (congrArg Host.Outcome.next (State.multiplyOn_end (State.multiplied_pix (ws := none) hle)))
    · intro hle
      exact (runs h).trans (congrArg Host.Outcome.next (State.multiplyOn_end (State.multiplied_pix (ws := some ws) hle)))
  · obtain ⟨hmem, hwaves⟩ := State.zeroTiles_mem_waves (s := s) (blk := blk) (acc := e.acc) e.shape.tiles
    intro t cell
    have ht : t = e.shape.tiles.foldl (fun s x => s.zeroTile blk e.acc x) s := s.performZero_eq blk e
    rw [ht]
    exact ⟨hmem, hwaves, fun x hx r c hr hc => State.zeroTiles_mem hx hr hc,
      fun k sub acc r c ha he hne hr hc => State.zeroTiles_of_ne _ ha he hne hr hc⟩
  · obtain ⟨hblocks, hmem⟩ := State.giveAll_frame (s := s) (s.batchNotes blk)
    have hblock (k : Nat) : ((s.batchNotes blk).foldl State.giveFlags s).block k = s.block k := congrArg (fun m => SMap.get ({} : Block) m k) hblocks
    refine ⟨_, State.batchComplete_eq hrun hb, ?_, ?_, hmem, fun k fl hfl hk => ?_, fun k => State.giveAll_grows _ k⟩
    · unfold State.countBatch
      rw [State.block_updBlock_self]
    · unfold State.countBatch
      rw [State.block_updBlock_self, hblock]
    · exact State.giveAll_gives (p := ((s.block blk).batchDone + 1, k, fl)) (List.mem_filter.mpr ⟨hfl, by simp⟩) hk

end Sys2Proof.Machine
end

section
/-!
# Events of a launch packet
-/
namespace Sys2Proof.Machine

namespace State

variable {s : State} {id : Nat}

theorem updPkt_congr {p : Packet} {f g : Packet → Packet} (hp : s.pkt id = some p) (h : f p = g p) : s.updPkt id f = s.updPkt id g := by
  unfold updPkt
  simp only [hp, h]

/-- A packet taken from its queue, after the reading of its ring. -/
def takePkt (u : State) (vi q : Nat) (x : Packet) : State :=
  let t := u.updQueue vi q fun l => { l with cons := l.cons + 1 }
  { t with packets := SMap.put t.packets t.nextPkt x, nextPkt := t.nextPkt + 1 }

/-- The packet that a ring entry gives. -/
def gotPkt (vi p q : Nat) (idx : Word) : Option (List Byte) → Packet
  | some l => Packet.ofBytes l vi p q idx
  | none => { vi := vi, part := p, q := q, idx := idx, err := true }

theorem takePkt_takes (u : State) (vi q : Nat) (x : Packet) : (u.takePkt vi q x).pkt u.nextPkt = some x ∧
    (u.takePkt vi q x).nextPkt = u.nextPkt + 1 ∧
    (SMap.get {} ((u.takePkt vi q x).vi vi).queues q : LQueue) =
      { (SMap.get {} (u.vi vi).queues q : LQueue) with cons := (SMap.get {} (u.vi vi).queues q : LQueue).cons + 1 } ∧
    (u.takePkt vi q x).mem = u.mem ∧ (u.takePkt vi q x).waves = u.waves := by
  refine ⟨SMap.find?_put_self .., rfl, ?_, rfl, rfl⟩
  have hvi : (u.takePkt vi q x).vi vi = (u.updQueue vi q fun l => { l with cons := l.cons + 1 }).vi vi := rfl
  rw [hvi]
  unfold updQueue updVi State.vi
  simp

theorem packetAccept_eq {vi q p k : Nat} {got : Option (List Byte)} {u : State} (hp : (s.vi vi).part = some p)
    (hk : (s.part p).slotOf vi q = some k) (hres : (s.part p).resident = some vi)
    (hen : (SMap.get {} (s.vi vi).queues q : LQueue).enable = true)
    (hprod : (SMap.get ⟨vi, q, (SMap.get {} (s.vi vi).queues q : LQueue).cons⟩ (s.part p).slots k : QSlot).prod ≠
      (SMap.get {} (s.vi vi).queues q : LQueue).cons)
    (hf : s.fetchVirt p vi ((SMap.get {} (s.vi vi).queues q : LQueue).base.toNat +
      (SMap.get {} (s.vi vi).queues q : LQueue).cons.toNat % 2 ^ (SMap.get {} (s.vi vi).queues q : LQueue).size * 128) 128 = (u, got)) :
    exec (.packetAccept vi q) s = .next (u.takePkt vi q (gotPkt vi p q (SMap.get {} (s.vi vi).queues q : LQueue).cons got)) := by
  rw [exec_packetAccept]
  unfold execPacketAccept
  simp only [hp, hk, hres, hen, hprod, hf, bne_self_eq_false, Bool.not_true, Bool.or_self, decide_false,
    Bool.false_eq_true, if_false]
  cases got <;> rfl

/-! ## The start of a packet -/

/-- A packet that starts, when, and whether its start is that of its first unit. -/
def startPkt (s : State) (id : Nat) (grid : Packet → Bool) : State :=
  s.updPkt id fun p =>
    { p with
      state := .started
      began := 1 + s.packets.foldl (fun k x => max k x.2.began) 0
      startedAt := s.cycle p.part
      start := if grid p then none else some (s.cycle p.part) }

theorem packetStart_eq {p : Packet} (hp : s.pkt id = some p) (h : s.mayStart id p = true) : exec (.packetStart id) s = .next
    (if p.err then (s.startPkt id fun p => p.kind = 1 && !p.err).endStart id 2 else s.startPkt id fun p => p.kind = 1 && !p.err) := by
  rw [exec_packetStart]
  unfold execPacketStart
  simp only [hp, h, Bool.not_true, Bool.false_eq_true, if_false]
  rfl

/-- A grid that breaks a rule ends with status 2, and its start is the cycle at which it started. -/
def gridFails (s : State) (id : Nat) : State := (s.endStart id 2).updPkt id fun x => { x with start := some x.startedAt }

/-- A grid whose units are split over the chiplets. -/
def gridSplit (u : State) (id : Nat) (p : Packet) (d : UnitDesc) : State :=
  let cs := u.chipletsOf p.part
  let n := (if d.duet then p.x / 2 else p.x) * p.y * p.z
  u.updPkt id fun x =>
    { x with
      desc := d
      seq := 1 + u.packets.foldl (fun k x => max k x.2.seq) 0
      tickets := cs.zipIdx.map fun c => (c.1, n * c.2 / cs.length, n * (c.2 + 1) / cs.length) }

section

variable {p : Packet} (hf : s.fresh id 1 = some p)
include hf

theorem grid_unread {u : State} (h : s.fetchVirt p.part p.vi p.unit.toNat 32 = (u, none)) : exec (.grid id) s = .next (u.gridFails id) := by
  rw [exec_grid]
  unfold execGrid
  simp only [hf, h]
  rfl

theorem grid_read {u : State} {l : List Byte} (h : s.fetchVirt p.part p.vi p.unit.toNat 32 = (u, some l)) : exec (.grid id) s = .next
    (if p.gridBad (UnitDesc.ofBytes l) then u.gridFails id else u.gridSplit id p (UnitDesc.ofBytes l)) := by
  rw [exec_grid]
  unfold execGrid
  simp only [hf, h]
  rfl

end

/-! ## Heaps -/

section

variable {p : Packet}

theorem heapConfigure_unread (hf : s.fresh id 2 = some p) {r : Raise} (h : s.readVirt p.vi p.hdesc.toNat 64 = .error r) :
    exec (.heapConfigure id) s = .next ((s.stoppedVirt p.part p.vi p.hdesc.toNat 64 r).endStart id 2) := by
  rw [exec_heapConfigure]
  unfold execHeapConfigure
  simp only [hf, h]

/-- A heap that its descriptor configures, where the descriptor obeys its rules and the heap does not exist. -/
def configureHeap (u : State) (id : Nat) (p : Packet) (l : List Byte) : State :=
  if heapBad l || (u.heap p.part p.heap).isSome then u.endStart id 2
  else (u.updPart p.part fun y => { y with heaps := SMap.put y.heaps p.heap (Heap.ofBytes l p.vi p.hdesc) }).endStart id 0

theorem heapConfigure_read (hf : s.fresh id 2 = some p) {l : List Byte} (h : s.readVirt p.vi p.hdesc.toNat 64 = .ok l) :
    exec (.heapConfigure id) s = .next ((s.countVirt p.part p.vi p.hdesc.toNat 64 false).configureHeap id p l) := by
  rw [exec_heapConfigure]
  unfold execHeapConfigure
  simp only [hf, h]
  rfl

/-- A run of a heap, where the descriptor that is read again obeys its rules. -/
def runHeap (r : State × Bool) (id : Nat) (p : Packet) : State :=
  if r.2 then (r.1.updHeap p.part p.heap fun h => { h with run := some { packet := id }, dropped := 0 }).updPkt id fun p => { p with seq := 1 }
  else r.1.endStart id 2

theorem heapRun_eq (hf : s.fresh id 3 = some p) : exec (.heapRun id) s = .next
    (match s.heap p.part p.heap with
      | none => s.endStart id 2
      | some h => if h.run.isSome then s.endStart id 2 else runHeap (s.hdescOk p) id p) := by
  rw [exec_heapRun]
  unfold execHeapRun runHeap
  simp only [hf]
  cases s.heap p.part p.heap with
  | none => rfl
  | some h => cases (s.hdescOk p).2 <;> rfl

theorem heapRelease_eq (hf : s.fresh id 4 = some p) {h : Heap} (hh : s.heap p.part p.heap = some h) : exec (.heapRelease id) s = .next
    (if h.run.isSome then s.endStart id 2
      else ((((s.heapWriteBack p.part p.heap).imageWriteBack p.part p.heap).failArrivals p.part p.heap).updPart p.part fun y =>
        { y with heaps := SMap.erase y.heaps p.heap }).endStart id 0) := by
  rw [exec_heapRelease]
  unfold execHeapRelease
  simp only [hf, hh]

end

theorem fetchVirt_read {part vi va n : Nat} {l : List Byte} (h : s.readVirt vi va n = .ok l) :
    s.fetchVirt part vi va n = (s.homeVirt part vi va n, some l) := by
  unfold fetchVirt
  rw [h]

theorem fetchVirt_fault {part vi va n : Nat} {r : Raise} (h : s.readVirt vi va n = .error r) :
    s.fetchVirt part vi va n = (if r.cause = .mcheck then s.homeVirt part vi va n else s.walkVirt part vi va n, none) := by
  unfold fetchVirt
  rw [h]

section

variable {p : Packet}

theorem hdescOk_fault {r : Raise} (h : s.readVirt p.vi p.hdesc.toNat 64 = .error r) :
    s.hdescOk p = (s.stoppedVirt p.part p.vi p.hdesc.toNat 64 r, false) := by
  unfold hdescOk
  rw [h]

theorem hdescOk_read {l : List Byte} (h : s.readVirt p.vi p.hdesc.toNat 64 = .ok l) :
    s.hdescOk p = (s.countVirt p.part p.vi p.hdesc.toNat 64 false, !heapBad l) := by
  unfold hdescOk
  rw [h]

theorem heapRun_idle (hf : s.fresh id 3 = some p) {h : Heap} (hh : s.heap p.part p.heap = some h) (hr : h.run = none) :
    exec (.heapRun id) s = .next (runHeap (s.hdescOk p) id p) := by
  rw [heapRun_eq hf, hh]
  simp only [hr, Option.isSome_none, Bool.false_eq_true, if_false]

end

theorem packetComplete_of {p : Packet} (hp : s.pkt id = some p)
    (h : p.state = .done ∨ p.state = .started ∧ p.kind = 1 ∧ p.seq ≠ 0 ∧ p.count = p.x * p.y * p.z) :
    exec (.packetComplete id) s = .next (s.completePkt id) := by
  rw [exec_packetComplete]
  unfold execPacketComplete
  have hdone : (decide (p.state = .done) || decide (p.state = .started) && p.gridDone) = true := by
    rcases h with h | ⟨hs, hk, hq, hc⟩
    · simp [h]
    · simp [Packet.gridDone, hs, hk, hq, hc]
  simp only [hp, hdone, if_true]

/-! ## Tickets -/

/-- A core of a partition has taken a unit in this cycle, and the grid is one unit further. -/
def ticketTaken (s : State) (part core id : Nat) (p : Packet) : State :=
  (s.updCore core fun k => { k with tookAt := some (s.cycle part) }).updPkt id fun _ => p

theorem ticketDispatch_eq {part core : Nat} {p : Packet} {pl : Place} {pl2 : Option Place}
    (hg : (s.part part).resident.bind s.oldestGrid = some (id, p)) (hlo : 20 * part ≤ core) (hhi : core < 20 * (part + (s.part part).size))
    (hroom : s.unitRoom p core = some (pl, pl2)) (hturn : s.inTurn part p core = true) (hsteal : s.stealWaits part p core = false) :
    exec (.ticketDispatch part core) s = .next
      ((s.ticketTaken part core id (p.take (core / 40)).2).placeUnit (p.take (core / 40)).2 id core (p.take (core / 40)).1 pl pl2) := by
  have hcore : (s.coresOf part).contains core = true := by
    unfold coresOf
    simp only [List.contains_eq_mem, decide_eq_true_eq, List.mem_map, List.mem_range]
    exact ⟨core - 20 * part, by omega, by omega⟩
  rw [exec_ticketDispatch]
  unfold execTicketDispatch
  simp only [hg, hcore, hturn, hsteal, hroom, Bool.not_true, Bool.or_self, Bool.false_eq_true, if_false]
  rfl

theorem unitRoom_some {core : Nat} {p : Packet} {pl : Place} {pl2 : Option Place} (h : s.unitRoom p core = some (pl, pl2)) :
    pl2.isSome = p.desc.duet ∧ (p.desc.duet = true → core % 2 = 0) ∧ s.room core p.desc false p.left = some pl ∧
      ∀ y, pl2 = some y → s.room (core + 1) p.desc false p.left = some y := by
  unfold unitRoom at h
  split at h
  case isTrue hd =>
    split at h
    · cases h
    · next hc =>
      obtain ⟨a, ha, h⟩ := Option.bind_eq_some_iff.mp h
      obtain ⟨b, hb, h⟩ := Option.map_eq_some_iff.mp h
      cases h
      exact ⟨hd.symm, fun _ => by omega, ha, fun y hy => by cases hy; exact hb⟩
  case isFalse hd =>
    obtain ⟨a, ha, h⟩ := Option.map_eq_some_iff.mp h
    cases h
    refine ⟨?_, fun h => absurd h hd, ha, fun y hy => by cases hy⟩
    simpa using hd

theorem take_own {p : Packet} {chiplet : Nat} (h : (p.rangeOf chiplet).1 < (p.rangeOf chiplet).2) :
    (p.take chiplet).1 = (p.rangeOf chiplet).1 := by
  unfold Packet.take
  rw [if_pos h]

end State

/-- Settles O49, event by event, each by what its reading gives and which rule its packet breaks. -/
theorem packetEvents : Obligations.PacketEvents := by
  unfold Obligations.PacketEvents
  intro s id vi q
  refine ⟨fun p k l => ?_, fun part vi va n => ⟨fun l h => State.fetchVirt_read h, fun r h => State.fetchVirt_fault h⟩, fun p hp h => ?_,
    fun p hf => ?_, fun p hf => ?_, fun p hf => ?_, fun p h hf hh => ?_, fun p hf => ?_, fun p hp h => State.packetComplete_of hp h,
    fun part core p pl pl2 hg hlo hhi hroom hturn hsteal => ⟨State.ticketDispatch_eq hg hlo hhi hroom hturn hsteal,
      State.unitRoom_some hroom, State.take_own⟩⟩
  · intro lq i slot hp hk hres hen hprod va takes
    have taken {u : State} {got : Option (List Byte)} (h : s.fetchVirt p vi va 128 = (u, got)) : takes u (State.gotPkt vi p q lq.cons got) :=
      ⟨_, State.packetAccept_eq hp hk hres hen hprod h, State.takePkt_takes u vi q _⟩
    exact ⟨fun h => taken (State.fetchVirt_read h), fun r h => taken (State.fetchVirt_error h)⟩
  · rw [State.packetStart_eq hp h]
    refine ⟨fun he => congrArg Host.Outcome.next ?_, fun he => congrArg Host.Outcome.next ?_⟩
    · rw [if_pos he]
      exact congrArg (State.endStart · id 2) (State.updPkt_congr hp (by simp [he]))
    · rw [if_neg (by simp [he])]
      exact State.updPkt_congr hp (by simp [he])
  · refine ⟨fun r h => State.grid_unread hf (State.fetchVirt_error h), fun l h => ⟨fun hb => ?_, fun hb => ?_⟩⟩
    · rw [State.grid_read hf (State.fetchVirt_read h), if_pos hb]
      rfl
    · rw [State.grid_read hf (State.fetchVirt_read h), if_neg (by simp [hb])]
      rfl
  · refine ⟨fun r h => State.heapConfigure_unread hf h, fun l h => ?_⟩
    have hread := State.heapConfigure_read hf h
    refine ⟨fun hb => hread.trans (congrArg Host.Outcome.next (if_pos ?_)), fun hb hn => hread.trans (congrArg Host.Outcome.next (if_neg ?_))⟩
    · simpa using hb
    · simp [hb, hn]
  · refine ⟨fun h => ?_, fun h hh hr => ?_, fun h hh hr => ?_⟩
    · rw [State.heapRun_eq hf, h]
    · rw [State.heapRun_eq hf, hh]
      exact congrArg Host.Outcome.next (if_pos hr)
    · have hrun := State.heapRun_idle hf hh hr
      refine ⟨fun r h => ?_, fun l h => ⟨fun hb => ?_, fun hb => ?_⟩⟩
      · rw [hrun, State.hdescOk_fault h]
        rfl
      · rw [hrun, State.hdescOk_read h, hb]
        rfl
      · rw [hrun, State.hdescOk_read h, hb]
        rfl
  · have hrel := State.heapRelease_eq hf hh
    exact ⟨fun hr => hrel.trans (congrArg Host.Outcome.next (if_pos hr)),
      fun hr => hrel.trans (congrArg Host.Outcome.next (if_neg (by simp [hr])))⟩
  · exact congrArg Host.Outcome.next (if_pos (by rw [hf]; rfl))

end Sys2Proof.Machine
end

section
/-!
# What an access to memory leaves of the work of blocks and virtual interfaces

No access of the memory hierarchy, no recall, no error record and no trace record changes anything of a block but its stash, its counts and
its windows, or of a virtual interface but its meters, its retention counts, its page owners, its error queue's counters and its trace; and
each keeps memory in its canonical form.
-/
namespace Sys2Proof.Machine

/-- A block as an access may leave it: its stash, the counts and errors of its lines, and its windows may differ. -/
def Block.SameWork (b c : Block) : Prop :=
  ∃ stash bad counts countVa wins, c = { b with stash := stash, bad := bad, counts := counts, countVa := countVa, wins := wins }

theorem Block.SameWork.refl (b : Block) : b.SameWork b := ⟨_, _, _, _, _, rfl⟩

theorem Block.SameWork.trans {a b c : Block} (h : a.SameWork b) (g : b.SameWork c) : a.SameWork c := by
  obtain ⟨_, _, _, _, _, rfl⟩ := h
  obtain ⟨_, _, _, _, _, rfl⟩ := g
  exact ⟨_, _, _, _, _, rfl⟩

/-- A virtual interface as an access may leave it: its meters, retention counts, page owners, error counters and trace may differ. -/
def Vi.SameWork (u v : Vi) : Prop :=
  ∃ meters sat ret eqprod eqlost owners trace,
    v = { u with meters := meters, sat := sat, ret := ret, eqprod := eqprod, eqlost := eqlost, owners := owners, trace := trace }

theorem Vi.SameWork.refl (v : Vi) : v.SameWork v := ⟨_, _, _, _, _, _, _, rfl⟩

theorem Vi.SameWork.trans {a b c : Vi} (h : a.SameWork b) (g : b.SameWork c) : a.SameWork c := by
  obtain ⟨_, _, _, _, _, _, _, rfl⟩ := h
  obtain ⟨_, _, _, _, _, _, _, rfl⟩ := g
  exact ⟨_, _, _, _, _, _, _, rfl⟩

theorem Vi.sameWork_addMeter (v : Vi) (m inc : Nat) : v.SameWork (v.addMeter m inc) := by
  unfold Vi.addMeter
  simp only
  split <;> exact ⟨_, _, _, _, _, _, _, rfl⟩

/-- Two states of which an access can have led from the one to the other. -/
structure KeepsWork (s t : State) : Prop where
  blocks : ∀ k, (s.block k).SameWork (t.block k)
  vis : ∀ k, (s.vi k).SameWork (t.vi k)
  canonical : s.Canonical → t.Canonical

theorem KeepsWork.of_eq {s t : State} (hb : t.blocks = s.blocks) (hv : t.vis = s.vis) (hm : t.mem = s.mem) (hc : t.capDev = s.capDev) :
    KeepsWork s t where
  blocks k := by
    rw [show t.block k = s.block k from congrArg (fun m => SMap.get ({} : Block) m k) hb]
    exact .refl _
  vis k := by
    rw [show t.vi k = s.vi k from congrArg (fun m => SMap.get ({} : Vi) m k) hv]
    exact .refl _
  canonical h := by
    unfold State.Canonical
    rw [hm, hc]
    exact h

theorem KeepsWork.refl (s : State) : KeepsWork s s := .of_eq rfl rfl rfl rfl

theorem KeepsWork.trans {s t u : State} (h : KeepsWork s t) (g : KeepsWork t u) : KeepsWork s u :=
  ⟨fun k => (h.blocks k).trans (g.blocks k), fun k => (h.vis k).trans (g.vis k), fun c => g.canonical (h.canonical c)⟩

theorem KeepsWork.foldl {β : Type} {f : State → β → State} (h : ∀ s x, KeepsWork s (f s x)) (l : List β) (s : State) :
    KeepsWork s (l.foldl f s) := by
  induction l generalizing s with
  | nil => exact .refl s
  | cons a t ih => exact (h s a).trans (ih _)

/-! ## Updates -/

theorem State.updCore_keepsWork (s : State) (c : Nat) (f : Core → Core) : KeepsWork s (s.updCore c f) := .of_eq rfl rfl rfl rfl

theorem State.updPkt_keepsWork (s : State) (p : Nat) (f : Packet → Packet) : KeepsWork s (s.updPkt p f) := by
  unfold State.updPkt
  split <;> exact .of_eq rfl rfl rfl rfl

theorem State.updWaveK_keepsWork (s : State) (k : Nat) (f : Wave → Wave) : KeepsWork s (s.updWaveK k f) := .of_eq rfl rfl rfl rfl

theorem State.vi_updVi_of_ne (s : State) {v k : Nat} (f : Vi → Vi) (h : k ≠ v) : (s.updVi v f).vi k = s.vi k :=
  SMap.get_upd_of_ne _ _ _ h

theorem State.updVi_keepsWork (s : State) (v : Nat) {f : Vi → Vi} (h : ∀ u : Vi, u.SameWork (f u)) : KeepsWork s (s.updVi v f) where
  blocks _ := .refl _
  vis k := by
    by_cases hk : k = v
    · subst hk
      rw [State.vi_updVi_self]
      exact h _
    · rw [s.vi_updVi_of_ne _ hk]
      exact .refl _
  canonical h := h

theorem State.updBlock_keepsWork (s : State) (b : Nat) {f : Block → Block} (h : ∀ x : Block, x.SameWork (f x)) :
    KeepsWork s (s.updBlock b f) where
  blocks k := by
    by_cases hk : k = b
    · subst hk
      rw [State.block_updBlock_self]
      exact h _
    · rw [State.block_updBlock_of_ne s _ hk]
      exact .refl _
  vis _ := .refl _
  canonical h := h

/-- Memory written so that it stays canonical. -/
theorem State.mem_keepsWork (s : State) {m : List Host.Cell} (h : Memory.wf s.mem = true → Memory.wf m = true) :
    KeepsWork s { s with mem := m } :=
  ⟨fun _ => .refl _, fun _ => .refl _, fun c => ⟨h c.1, c.2⟩⟩

/-! ## Lines and tags -/

theorem State.addMeter_keepsWork (s : State) (vi m inc : Nat) : KeepsWork s (s.addMeter vi m inc) := by
  unfold State.addMeter; split
  · exact .refl s
  · exact s.updVi_keepsWork _ fun u => u.sameWork_addMeter m inc

theorem State.setHomeLine_keepsWork (s : State) (l : Nat) (d : LineData) : KeepsWork s (s.setHomeLine l d) := by
  unfold State.setHomeLine
  split
  · exact .of_eq rfl rfl rfl rfl
  · exact s.mem_keepsWork (Memory.wf_setLine _ _)

theorem State.setL1_keepsWork (s : State) (c l : Nat) (x : Option L1Line) : KeepsWork s (s.setL1 c l x) := s.updCore_keepsWork ..

theorem State.markBad_keepsWork (s : State) (l : Nat) : KeepsWork s (s.markBad l) := .of_eq rfl rfl rfl rfl

theorem State.dropTile_keepsWork (s : State) (l : Nat) : KeepsWork s (s.dropTile l) := by
  unfold State.dropTile; split <;> exact .of_eq rfl rfl rfl rfl

theorem State.handIn_keepsWork (s : State) (l : Nat) (y : L1Line) : KeepsWork s (s.handIn l y) := by
  have h : KeepsWork s (if y.bad && y.ahead != 0 then s.markBad l else s) := by
    split
    · exact s.markBad_keepsWork l
    · exact .refl s
  unfold State.handIn
  generalize (if y.bad && y.ahead != 0 then s.markBad l else s) = u at h ⊢
  simp only
  have g : KeepsWork s (if y.ahead = 0 then u else u.dropTile l) := by
    split
    · exact h
    · exact h.trans (u.dropTile_keepsWork l)
  generalize (if y.ahead = 0 then u else u.dropTile l) = v at g ⊢
  split
  · exact g.trans (v.setHomeLine_keepsWork ..)
  · split
    · exact g
    · exact g.trans (v.setHomeLine_keepsWork ..)

theorem State.recallOne_keepsWork (s : State) (l : Nat) (keep : Bool) (h : Nat × L1Line) : KeepsWork s (s.recallOne l keep h) := by
  unfold State.recallOne
  split
  · exact (s.handIn_keepsWork ..).trans (State.setL1_keepsWork ..)
  · exact (s.handIn_keepsWork ..).trans (State.setL1_keepsWork ..)
  · exact s.setL1_keepsWork ..
  · split
    · exact .refl s
    · exact s.setL1_keepsWork ..
  · exact .refl s

theorem State.tlbFill_keepsWork (s : State) (core : Nat) (e : TlbEntry) : KeepsWork s (s.tlbFill core e) := by
  unfold State.tlbFill
  simp only
  split <;> exact .of_eq rfl rfl rfl rfl

theorem State.chargeBytes_keepsWork (s : State) (vi line n : Nat) : KeepsWork s (s.chargeBytes vi line n) := by
  unfold State.chargeBytes
  split
  · exact s.addMeter_keepsWork ..
  · exact s.addMeter_keepsWork ..
  · exact .refl s

theorem State.pushSpent_keepsWork (s : State) (key line : Nat) : KeepsWork s (s.pushSpent key line) := .of_eq rfl rfl rfl rfl

theorem State.l2_keepsWork (s : State) (x : SMap (List Way)) : KeepsWork s { s with l2 := x } := .of_eq rfl rfl rfl rfl

/-! ## Recalls and error records -/

theorem State.setWinLine_keepsWork (s : State) (blk win j : Nat) (st : WinLine) : KeepsWork s (s.setWinLine blk win j st) :=
  s.updBlock_keepsWork _ fun _ => ⟨_, _, _, _, _, rfl⟩

theorem State.setWinPhys_keepsWork (s : State) (blk win j : Nat) (x : Nat × Nat) : KeepsWork s (s.setWinPhys blk win j x) :=
  s.updBlock_keepsWork _ fun _ => ⟨_, _, _, _, _, rfl⟩

theorem State.winWriteHome_keepsWork (s : State) (blk win j line : Nat) : KeepsWork s (s.winWriteHome blk win j line) := s.setHomeLine_keepsWork ..

theorem State.recallWin_keepsWork (s : State) (l : Nat) (keep : Bool) (c : Nat × Nat × Nat × WinLine) : KeepsWork s (s.recallWin l keep c).1 := by
  unfold State.recallWin
  simp only
  split
  · split
    · exact (s.winWriteHome_keepsWork ..).trans (State.setWinLine_keepsWork ..)
    · exact s.setWinLine_keepsWork ..
  · split
    · exact .refl s
    · exact s.setWinLine_keepsWork ..

theorem State.recallCopies_keepsWork (s : State) (l : Nat) (keep : Bool) (c : Option Nat) (w : Option (Nat × Nat × Nat)) :
    KeepsWork s (s.recallCopies l keep c w).1 := by
  unfold State.recallCopies
  simp only
  have go (ls : List (Nat × Nat × Nat × WinLine)) (a : State × List LostLine) : KeepsWork a.1
      (ls.foldl (fun a c => ((a.1.recallWin l keep c).1, a.2 ++ (a.1.recallWin l keep c).2)) a).1 := by
    induction ls generalizing a with
    | nil => exact .refl _
    | cons x t ih =>
      refine (a.1.recallWin_keepsWork l keep x).trans ?_
      exact ih ((a.1.recallWin l keep x).1, a.2 ++ (a.1.recallWin l keep x).2)
  have h (ls : List (Nat × L1Line)) := KeepsWork.foldl (f := fun s h => s.recallOne l keep h) (fun t h => t.recallOne_keepsWork l keep h) ls
  have h0 : KeepsWork s (if keep then s else s.dropTile l) := by
    split
    · exact .refl s
    · exact s.dropTile_keepsWork l
  exact (h0.trans (h _ _)).trans (go _ (_, _))

theorem State.homeByte_keepsWork (s : State) (pa : Nat) (b : Byte) : KeepsWork s (s.homeByte pa b) := by
  unfold State.homeByte
  split
  · exact .of_eq rfl rfl rfl rfl
  · exact s.mem_keepsWork (Memory.wf_setByte _ _)

theorem State.writeRec_keepsWork (s : State) (vi va : Nat) (l : List Byte) {p : State × List LostLine} (h : s.writeRec vi va l = some p) :
    KeepsWork s p.1 := by
  induction l generalizing va p with
  | nil => simp only [State.writeRec, Option.some.injEq] at h; subst h; exact .refl s
  | cons b t ih =>
    simp only [State.writeRec] at h
    split at h
    · cases h
    · split at h
      · cases h
      · rename_i u f hu
        have hk : KeepsWork s u := ih _ hu
        cases h
        refine KeepsWork.trans ?_ (State.homeByte_keepsWork ..)
        split
        · exact hk.trans (State.recallCopies_keepsWork ..)
        · exact hk

theorem State.postRec_keepsWork (s : State) (vi : Nat) (r : ErrRec) : KeepsWork s (s.postRec vi r).1 := by
  unfold State.postRec
  simp only
  split
  · exact s.updVi_keepsWork _ fun _ => ⟨_, _, _, _, _, _, _, rfl⟩
  · split
    · rename_i u f hu
      exact (s.writeRec_keepsWork _ _ _ hu).trans (State.updVi_keepsWork _ _ fun _ => ⟨_, _, _, _, _, _, _, rfl⟩)
    · exact s.updVi_keepsWork _ fun _ => ⟨_, _, _, _, _, _, _, rfl⟩

theorem State.postLost_keepsWork (s : State) (f : LostLine) : KeepsWork s (s.postLost f).1 :=
  (s.postRec_keepsWork ..).trans (State.updPkt_keepsWork ..)

theorem State.postLosts_keepsWork (n : Nat) (s : State) (l : List LostLine) : KeepsWork s (State.postLosts n s l) := by
  induction n generalizing s l with
  | zero => exact .refl s
  | succ n ih =>
    cases l with
    | nil => exact .refl s
    | cons f t => exact (s.postLost_keepsWork f).trans (ih _ _)

theorem State.takeBack_keepsWork (s : State) (l : Nat) (keep : Bool) (c : Option Nat) (w : Option (Nat × Nat × Nat)) :
    KeepsWork s (s.takeBack l keep c w) := (s.recallCopies_keepsWork l keep c w).trans (State.postLosts_keepsWork ..)

theorem State.putError_keepsWork (s : State) (vi : Nat) (r : ErrRec) : KeepsWork s (s.putError vi r) :=
  (s.postRec_keepsWork vi r).trans (State.postLosts_keepsWork ..)

/-! ## L2 tags -/

theorem State.request_keepsWork (s : State) (key limit n : Nat) : KeepsWork s (s.request key limit n) := by
  unfold State.request; split
  · exact .refl s
  · exact .of_eq rfl rfl rfl rfl

theorem State.sliceRequest_keepsWork (s : State) (key : Nat) : KeepsWork s (s.sliceRequest key) := s.request_keepsWork ..

theorem State.toDevice_keepsWork (s : State) (line : Nat) : KeepsWork s (s.toDevice line) := by
  unfold State.toDevice; split
  · exact .refl s
  · split
    · split
      · exact .refl s
      · exact ⟨fun _ => .refl _, fun _ => .refl _, fun c => ⟨c.1, Memory.wf_setLine _ _ c.2⟩⟩
    · exact .refl s

theorem State.sendMeter_keepsWork (s : State) (vi : Nat) (t : Target) (n : Nat) : KeepsWork s (s.sendMeter vi t n) := by
  unfold State.sendMeter; split
  · exact s.addMeter_keepsWork ..
  · exact .refl s

theorem State.evictWay_keepsWork (s : State) (key : Nat) (w : Way) : KeepsWork s (s.evictWay key w) := by
  have out (d : BitVec 4) : KeepsWork s
      (let t := (s.takeBack w.line false none none).chargeBytes w.vi w.line (popSectors d)
       if d = 0 then t else (t.sliceRequest key).toDevice w.line) := by
    have h := (s.takeBack_keepsWork w.line false none none).trans (State.chargeBytes_keepsWork _ w.vi w.line (popSectors d))
    simp only
    split
    · exact h
    · exact (h.trans (State.sliceRequest_keepsWork ..)).trans (State.toDevice_keepsWork ..)
  have h (x : State) (hx : KeepsWork s x) : KeepsWork s (match w.slot with
      | some (v, k) => x.updVi v fun x => { x with ret := SMap.upd {} x.ret k fun r => { r with ovf := (r.ovf + 1) % 2 ^ 48 } }
      | none => x) := by
    split
    · exact hx.trans (State.updVi_keepsWork _ _ fun _ => ⟨_, _, _, _, _, _, _, rfl⟩)
    · exact hx
  unfold State.evictWay
  refine h _ ?_
  split
  · exact s.pushSpent_keepsWork ..
  · exact out _

theorem State.insertWay_keepsWork (s : State) (key : Nat) (w : Way) : KeepsWork s (s.insertWay key w) := by
  unfold State.insertWay
  simp only
  split
  · exact s.l2_keepsWork _
  · split
    · refine KeepsWork.trans ?_ (State.l2_keepsWork _ _)
      split
      · exact s.evictWay_keepsWork ..
      · exact .refl s
    · exact .refl s

theorem State.retCount_keepsWork (s : State) (vi : Nat) (slot : Option (Nat × Nat)) (f : Retention → Retention) :
    KeepsWork s (s.retCount vi slot f) := by
  unfold State.retCount
  split
  · exact s.updVi_keepsWork _ fun _ => ⟨_, _, _, _, _, _, _, rfl⟩
  · exact .refl s

/-- A step that one of two conditions may leave out. -/
theorem KeepsWork.ite {s t : State} (c : Prop) [Decidable c] {f : State → State} (h : KeepsWork s t) (hf : ∀ u, KeepsWork u (f u)) :
    KeepsWork s (if c then t else f t) := by
  split
  · exact h
  · exact h.trans (hf t)

theorem State.l2Hit_keepsWork (s : State) (key vi line : Nat) (sec : BitVec 4) (write : Bool) (w : Way) :
    KeepsWork s (s.l2Hit key vi line sec write w) := by
  unfold State.l2Hit
  exact ((s.chargeBytes_keepsWork ..).ite _ fun u => u.sliceRequest_keepsWork key).trans (State.l2_keepsWork ..)

theorem State.dropSpent_keepsWork (s : State) (key line : Nat) : KeepsWork s (s.dropSpent key line) := by
  unfold State.dropSpent
  simp only
  split
  · exact (s.pushSpent_keepsWork ..).trans (State.l2_keepsWork ..)
  · exact .refl s

theorem State.l2Fill_keepsWork (s : State) (key vi line : Nat) (sec : BitVec 4) (write : Bool) (pol : Policy) (slot : Option (Nat × Nat)) :
    KeepsWork s (s.l2Fill key vi line sec write pol slot) := by
  unfold State.l2Fill
  simp only
  refine KeepsWork.trans ?_ (State.insertWay_keepsWork ..)
  split
  · split
    · exact .refl s
    · exact s.l2_keepsWork _
  · exact s.retCount_keepsWork ..

theorem State.ask_keepsWork (s : State) (line : Nat) (sec : BitVec 4) : KeepsWork s (s.ask line sec) := .of_eq rfl rfl rfl rfl

theorem State.l2Touch_keepsWork (s : State) (counts : Bool) (part vi line : Nat) (sec : BitVec 4) (write : Bool) (pol : Policy) :
    KeepsWork s (s.l2Touch counts part vi line sec write pol) := by
  unfold State.l2Touch
  simp only
  generalize s.newSectors line sec = fresh
  generalize (s.hasAsked line || !counts) = again
  refine (s.ask_keepsWork line sec).trans ?_
  generalize s.ask line sec = s
  have count (t : State) (slot : Option (Nat × Nat)) (f : Retention → Retention) :
      KeepsWork t (if again then t else t.retCount vi slot f) := by
    split
    · exact .refl t
    · exact t.retCount_keepsWork ..
  split
  · split
    · exact (count ..).trans (State.l2Hit_keepsWork ..)
    · rename_i key _ _ _
      have h := (count s ((s.vi vi).retSlot line) fun r => { r with miss := (r.miss + 1) % 2 ^ 48 }).trans (State.dropSpent_keepsWork _ key line)
      split
      · exact h.trans (State.l2Hit_keepsWork ..)
      · have h := (h.trans (State.chargeBytes_keepsWork _ vi line (if write && pol != .none then 0 else popSectors fresh))).ite
          ((if write && pol != .none then 0 else popSectors fresh) = 0) fun u => u.sliceRequest_keepsWork key
        split
        · exact h
        · exact (h.trans (State.l2_keepsWork ..)).trans (State.l2Fill_keepsWork ..)
  · exact .refl s

theorem State.l2Access_keepsWork (s : State) (part vi line : Nat) (sec : BitVec 4) (write : Bool) (pol : Policy) :
    KeepsWork s (s.l2Access part vi line sec write pol) := s.l2Touch_keepsWork ..

theorem State.dirTag_keepsWork (s : State) (part vi line : Nat) : KeepsWork s (s.dirTag part vi line) := by
  unfold State.dirTag
  split
  · split
    · exact .refl s
    · exact (s.dropSpent_keepsWork ..).trans (State.insertWay_keepsWork ..)
  · exact .refl s

theorem State.countLine_keepsWork (s : State) (vi line : Nat) (here : Bool) : KeepsWork s (s.countLine vi line here) := by
  unfold State.countLine
  split
  · exact .refl s
  · exact s.retCount_keepsWork ..

theorem State.l2Write_keepsWork (s : State) (part vi line : Nat) (sec : BitVec 4) : KeepsWork s (s.l2Write part vi line sec) := by
  have go (key : Nat) : KeepsWork s
      (let t := s.dropSpent key line
       if (SMap.get [] t.l2 key).any fun w => w.line = line then
         { t with l2 := SMap.upd [] t.l2 key fun ws => ws.map fun w =>
             if w.line = line then { w with valid := w.valid ||| sec, dirty := w.dirty ||| sec } else w }
       else
         let u := t.l2Fill key vi line sec true .normal ((t.vi vi).retSlot line)
         if u.inL2 part line then u else u.toDevice line) := by
    simp only
    split
    · exact (s.dropSpent_keepsWork ..).trans (State.l2_keepsWork ..)
    · exact ((s.dropSpent_keepsWork ..).trans (State.l2Fill_keepsWork ..)).ite _ fun u => u.toDevice_keepsWork line
  unfold State.l2Write
  split
  · exact go _
  · exact .refl s

theorem State.recall_keepsWork (s : State) (l : Nat) (keep : Bool) (c : Option Nat) (w : Option (Nat × Nat × Nat)) :
    KeepsWork s (s.recall l keep c w) := by
  unfold State.recall
  split
  · exact (s.takeBack_keepsWork ..).trans (State.l2Write_keepsWork ..)
  · exact s.takeBack_keepsWork ..

/-! ## Translation -/

theorem State.ownPage_keepsWork (s : State) (core vi : Nat) (x : Xlat) : KeepsWork s (s.ownPage core vi x).2 := by
  unfold State.ownPage
  split
  · exact s.updVi_keepsWork _ fun _ => ⟨_, _, _, _, _, _, _, rfl⟩
  · exact .refl s

theorem State.walkL2_keepsWork (s : State) (part vi va : Nat) : KeepsWork s (s.walkL2 part vi va) := by
  unfold State.walkL2
  split
  · exact KeepsWork.foldl (fun t _ => (t.recall_keepsWork ..).trans (State.l2Access_keepsWork ..)) _ s
  · exact .refl s

theorem State.walked_keepsWork (s : State) (core vi va : Nat) : KeepsWork s (s.walked core vi va) := by
  unfold State.walked
  split
  · exact .refl s
  · exact s.walkL2_keepsWork ..

theorem State.walkedFor_keepsWork (s : State) (core vi : Nat) (r : Raise) : KeepsWork s (s.walkedFor core vi r) := by
  have h : KeepsWork s (if r.val.toNat < 0xFFFFFF0000000000 then s.walked core vi r.val.toNat else s) := by
    split
    · exact s.walked_keepsWork ..
    · exact .refl s
  unfold State.walkedFor
  split
  · exact h
  · exact h
  · exact h
  · exact h
  · exact .refl s

/-- A translation changes the TLBs, the tags of L2 and the owners of pages alone. -/
theorem State.translate_keepsWork {s u : State} {core vi va : Nat} {need : Need} {x : Xlat} (h : s.translate core vi va need = .ok (x, u)) :
    KeepsWork s u := by
  have own (t : State) (x : Xlat) : KeepsWork t
      (if x.region = 0 && need != .fetch && need != .any then t.ownPage core vi x else (true, t)).2 := by
    split
    · exact t.ownPage_keepsWork ..
    · exact .refl t
  have go (pte size : Nat) (t : State) (hk : KeepsWork s t)
      (h : (match t.xlatOf va pte size with
        | none => Except.error ⟨.translate, BitVec.ofNat 64 va⟩
        | some x =>
          let p := if x.region = 0 && need != .fetch && need != .any then t.ownPage core vi x else (true, t)
          match t.accessFault vi x (need.ok pte) p.1 with
          | some c => Except.error (x.fault va c)
          | none => Except.ok (x, p.2) : Except Raise (Xlat × State)) = .ok (x, u)) : KeepsWork s u := by
    split at h
    · cases h
    · rename_i y _
      simp only at h
      split at h
      · cases h
      · cases h
        exact hk.trans (own t _)
  unfold State.translate at h
  simp only at h
  split at h
  · exact go _ _ _ (s.tlbFill_keepsWork ..) h
  · split at h
    · cases h
    · exact go _ _ _ ((s.walked_keepsWork core vi va).trans (State.tlbFill_keepsWork _ core _)) h

/-! ## Reads and writes -/

theorem KeepsWork.setL1 {s t : State} (h : KeepsWork s t) (c l : Nat) (x : Option L1Line) : KeepsWork s (t.setL1 c l x) :=
  h.trans (t.setL1_keepsWork c l x)

theorem KeepsWork.l2Access {s t : State} (h : KeepsWork s t) (part vi line : Nat) (sec : BitVec 4) (write : Bool) (pol : Policy) :
    KeepsWork s (t.l2Access part vi line sec write pol) := h.trans (t.l2Access_keepsWork part vi line sec write pol)


theorem State.flushL1_keepsWork (s : State) (core l : Nat) : KeepsWork s (s.flushL1 core l) := by
  unfold State.flushL1
  split
  · split
    · exact ((s.handIn_keepsWork ..).setL1 ..).trans (State.l2Write_keepsWork ..)
    · exact ((s.handIn_keepsWork ..).setL1 ..).trans (State.l2Write_keepsWork ..)
    · exact ((s.handIn_keepsWork ..).setL1 ..).trans (State.l2Write_keepsWork ..)
    · exact s.setL1_keepsWork ..
  · exact .refl s

theorem State.putL1_keepsWork (s : State) (g : Agent) (l : Nat) (y : L1Line) : KeepsWork s (s.putL1 g l y) := by
  have go (u : State) (h : KeepsWork s u) (f : Core → Core) : KeepsWork s
      (if (SMap.find? (u.core g.core).l1 l).isSome then u.setL1 g.core l (some y) else u.updCore g.core f) := by
    split
    · exact h.trans (u.setL1_keepsWork ..)
    · exact h.trans (u.updCore_keepsWork ..)
  have h : KeepsWork s (match (s.core g.core).l1Victim l with | some v => s.flushL1 g.core v | none => s) := by
    split
    · exact s.flushL1_keepsWork ..
    · exact .refl s
  exact go _ h _

theorem KeepsWork.putL1 {s t : State} (h : KeepsWork s t) (g : Agent) (l : Nat) (y : L1Line) : KeepsWork s (t.putL1 g l y) :=
  h.trans (t.putL1_keepsWork g l y)

theorem State.fillSectors_keepsWork (s : State) (g : Agent) (l : Nat) (sec : BitVec 4) (y : L1Line) : KeepsWork s (s.fillSectors g l sec y).2 := by
  unfold State.fillSectors
  simp only
  split
  · exact .refl s
  · dsimp only
    split
    · exact (s.l2Access_keepsWork ..).trans (State.dirTag_keepsWork ..)
    · exact s.l2Access_keepsWork ..

theorem State.fillC_keepsWork (s : State) (g : Agent) (l : Nat) (sec : BitVec 4) : KeepsWork s (s.fillC g l sec).2 := by
  unfold State.fillC
  simp only
  split
  · dsimp only
    apply KeepsWork.putL1
    split
    · exact (s.recall_keepsWork l false none none).trans (State.fillSectors_keepsWork ..)
    · exact s.fillSectors_keepsWork ..
  · dsimp only
    apply KeepsWork.putL1
    exact (s.recall_keepsWork l true (some g.core) none).trans (State.fillSectors_keepsWork ..)

theorem State.ownC_keepsWork (s : State) (g : Agent) (l : Nat) (sec : BitVec 4) : KeepsWork s (s.ownC g l sec).2 := by
  have fresh : KeepsWork s ((s.recall l false none none).fillSectors g l sec (g.newLine .m)).2 :=
    (s.recall_keepsWork l false none none).trans (State.fillSectors_keepsWork ..)
  unfold State.ownC
  simp only
  split
  · split
    · exact s.fillSectors_keepsWork ..
    · exact s.fillSectors_keepsWork ..
    · refine KeepsWork.trans ?_ (State.fillSectors_keepsWork ..)
      split
      · exact (s.recall_keepsWork ..).trans (State.l2Access_keepsWork ..)
      · exact s.recall_keepsWork ..
    · exact fresh
  · exact fresh

theorem State.readGlobal_keepsWork (s : State) (g : Agent) (x : Xlat) (n : Nat) (home : Bool) : KeepsWork s (s.readGlobal g x n home).2 := by
  unfold State.readGlobal
  simp only
  split
  · exact s.l2Access_keepsWork ..
  · split
    · exact s.fillC_keepsWork ..
    · exact (s.fillSectors_keepsWork ..).putL1 ..

theorem State.writeHome_keepsWork (s : State) (g : Agent) (x : Xlat) (n v : Nat) : KeepsWork s (s.writeHome g x n v) := by
  have h : KeepsWork s (if x.region = 2 then s.recall x.line false none none else s.dropTile x.line) := by
    split
    · exact s.recall_keepsWork ..
    · exact s.dropTile_keepsWork ..
  have go (u : State) (h : KeepsWork s u) : KeepsWork s (match SMap.find? u.counted x.line with
      | some c => { u with counted := SMap.put u.counted x.line { c with data := lineSet c.data (x.pa % 128) n v } }
      | none =>
        let u := { u with mem := Memory.write u.mem x.pa n v }
        if x.target != .cap || u.inL2 g.part x.line then u else u.toDevice x.line) := by
    split
    · exact h.trans (.of_eq rfl rfl rfl rfl)
    · have h2 : KeepsWork u { u with mem := Memory.write u.mem x.pa n v } := u.mem_keepsWork (Memory.wf_write _ _ _)
      simp only
      split
      · exact h.trans h2
      · exact (h.trans h2).trans (State.toDevice_keepsWork ..)
  unfold State.writeHome
  exact go _ ((h.trans (State.l2Access_keepsWork ..)).trans (State.sendMeter_keepsWork ..))

theorem State.writeGlobal_keepsWork (s : State) (g : Agent) (x : Xlat) (n v : Nat) : KeepsWork s (s.writeGlobal g x n v) := by
  unfold State.writeGlobal
  simp only
  split
  · exact s.writeHome_keepsWork ..
  · split
    · exact (s.ownC_keepsWork ..).putL1 ..
    · split
      · split
        · exact (s.writeHome_keepsWork ..).trans (State.setL1_keepsWork ..)
        · exact s.writeHome_keepsWork ..
      · split
        · exact (s.readGlobal_keepsWork ..).trans (State.setL1_keepsWork ..)
        · exact s.readGlobal_keepsWork ..

theorem State.recallForU_keepsWork (s : State) (l : Nat) (op : AtomOp) : KeepsWork s (s.recallForU l op) := by
  have go (ls : List (Nat × Nat × Nat × WinLine)) (a : State × List LostLine) : KeepsWork a.1
      (ls.foldl (fun a c => ((a.1.recallWin l false c).1, a.2 ++ (a.1.recallWin l false c).2)) a).1 := by
    induction ls generalizing a with
    | nil => exact .refl _
    | cons x t ih =>
      refine (a.1.recallWin_keepsWork l false x).trans ?_
      exact ih ((a.1.recallWin l false x).1, a.2 ++ (a.1.recallWin l false x).2)
  have h0 := (s.dropTile_keepsWork l).trans (KeepsWork.foldl (f := fun s h => s.recallOne l false h) (fun t h => t.recallOne_keepsWork l false h)
    (((s.dropTile l).holders l).filter fun h => h.2.st.tracked && h.2.st != .u op) (s.dropTile l))
  have fin (p : State × List LostLine) (hp : KeepsWork s p.1) (who : Option (Nat × Nat × BitVec 4)) (d : Bool) : KeepsWork s
      (match who with
       | some w => if d then (State.postLosts maxWinLines p.1 p.2).l2Write w.1 w.2.1 l w.2.2 else State.postLosts maxWinLines p.1 p.2
       | none => State.postLosts maxWinLines p.1 p.2) := by
    have h := hp.trans (State.postLosts_keepsWork maxWinLines p.1 p.2)
    split
    · split
      · exact h.trans (State.l2Write_keepsWork ..)
      · exact h
    · exact h
  unfold State.recallForU
  exact fin _ (h0.trans (go _ (_, []))) _ _

theorem State.atomGlobal_keepsWork (s : State) (g : Agent) (x : Xlat) (op : AtomOp) (v e : Nat) (near red : Bool) :
    KeepsWork s (s.atomGlobal g x op v e near red).2 := by
  have far (t : State) (h : KeepsWork s t) (w : Nat) : KeepsWork s
      (if x.region = 1 then (t.writeHome g x (atomSize op) w).setL1 g.core x.line none else t.writeHome g x (atomSize op) w) := by
    split
    · exact (h.trans (State.writeHome_keepsWork ..)).trans (State.setL1_keepsWork ..)
    · exact h.trans (State.writeHome_keepsWork ..)
  have back : KeepsWork s (if x.region = 2 then s.recall x.line false none none else s) := by
    split
    · exact s.recall_keepsWork ..
    · exact .refl s
  have grant (y : L1Line) : KeepsWork s
      (((s.recallForU x.line op).l2Access g.part g.vi x.line 0 false (if g.pol = .none then .normal else g.pol)).putL1 g x.line y) :=
    ((s.recallForU_keepsWork ..).trans (State.l2Access_keepsWork ..)).putL1 ..
  unfold State.atomGlobal
  dsimp only
  by_cases hu : s.uncached x
  · rw [if_pos hu]
    exact far _ back _
  · rw [if_neg hu]
    by_cases h0 : x.region = 0
    · rw [if_pos h0]
      exact (s.readGlobal_keepsWork ..).trans (State.writeGlobal_keepsWork ..)
    · rw [if_neg h0]
      by_cases h2 : x.region = 2
      · rw [if_pos h2]
        cases SMap.find? (s.core g.core).l1 x.line with
        | none =>
          dsimp only
          by_cases hr : red = true
          · rw [if_pos hr]; exact grant _
          · rw [if_neg hr]; exact far _ back _
        | some y =>
          dsimp only
          by_cases hn : (near && (y.st = .e || y.st = .m)) = true
          · rw [if_pos hn]; dsimp only; exact (s.fillSectors_keepsWork ..).trans (State.setL1_keepsWork ..)
          · rw [if_neg hn]
            by_cases hy : (red && decide (y.st = .u op)) = true
            · rw [if_pos hy]; dsimp only; exact s.setL1_keepsWork ..
            · rw [if_neg hy]
              by_cases hz : (red && y.st.isU) = true
              · rw [if_pos hz]; exact grant _
              · rw [if_neg hz]; exact far _ back _
      · rw [if_neg h2]
        exact far _ back _

/-! ## Stash accesses -/

theorem State.fillWin_keepsWork (s : State) (owner wn j : Nat) (x : Option Xlat) (d : Nat) : KeepsWork s (s.fillWin owner wn j x d) :=
  ((s.updBlock_keepsWork _ fun _ => ⟨_, _, _, _, _, rfl⟩).trans (State.setWinLine_keepsWork ..)).trans (State.setWinPhys_keepsWork ..)

theorem State.winOwned_keepsWork (s : State) (owner wn j va : Nat) : KeepsWork s (s.winOwned owner wn j va).2 := by
  unfold State.winOwned
  simp only
  split
  · split
    · split
      · exact s.ownPage_keepsWork ..
      · exact .refl s
    · exact .refl s
  · exact .refl s

theorem State.winTouch_keepsWork {s : State} {owner off : Nat} {write : Bool} {p : Option Xlat × State}
    (h : s.winTouch owner off write = .ok p) : KeepsWork s p.2 := by
  have dirty (wn j : Nat) (me : Option (Nat × Nat × Nat)) (t : State) (q : Option Xlat × State)
      (hq : (if write then
          let b := t.block owner
          let p := t.winPhys b.vi (SMap.get {} b.wins wn) j
          let u := if p.2 = 2 then t.recall p.1 false none me else t
          .ok (none, u.setWinLine owner wn j .dirty)
        else .ok (none, t) : Except Raise (Option Xlat × State)) = .ok q) : KeepsWork t q.2 := by
    simp only at hq
    split at hq
    · cases hq
      refine KeepsWork.trans ?_ (State.setWinLine_keepsWork ..)
      split
      · exact t.recall_keepsWork ..
      · exact .refl t
    · cases hq; exact .refl t
  have home (b : Block) (va : Nat) (t : State) (q : Option Xlat × State)
      (hq : (t.translate b.core b.vi va (if write then .wr else .rd)).map (fun p => (some p.1, p.2)) = .ok q) : KeepsWork t q.2 := by
    obtain ⟨a, ha, rfl⟩ := map_ok hq
    exact State.translate_keepsWork ha
  have own (c : Prop) [Decidable c] (t : State) (core vi : Nat) (x : Xlat) :
      KeepsWork t (if c then t.ownPage core vi x else (true, t)).2 := by
    split
    · exact t.ownPage_keepsWork ..
    · exact .refl t
  have back (c : Prop) [Decidable c] (t : State) (l : Nat) (me : Option (Nat × Nat × Nat)) :
      KeepsWork t (if c then t.recall l true none me else t) := by
    split
    · exact t.recall_keepsWork ..
    · exact .refl t
  have tagged (c : Prop) [Decidable c] (t : State) (l : Nat) (me : Option (Nat × Nat × Nat)) (part vi : Nat) :
      KeepsWork t (if c then (t.recall l true none me).dirTag part vi l else t) := by
    split
    · exact (t.recall_keepsWork ..).trans (State.dirTag_keepsWork ..)
    · exact .refl t
  unfold State.winTouch at h
  simp only at h
  split at h
  · cases h; exact .refl s
  · split at h
    · split at h
      · cases h
      · split at h
        · cases h; exact s.winOwned_keepsWork ..
        · exact (s.winOwned_keepsWork ..).trans (dirty _ _ _ _ _ h)
    · split at h
      · split at h
        · exact ((s.walked_keepsWork ..).trans (State.fillWin_keepsWork ..)).trans (dirty _ _ _ _ _ h)
        · split at h
          · exact (s.walked_keepsWork ..).trans (home _ _ _ _ h)
          · rename_i w _ _ _ _ x _ _
            have ho := own (x.region = 0) (s.walked (s.block owner).core (s.block owner).vi (w.base.toNat + 128 * ((off - w.off) / 128)))
              (s.block owner).core (s.block owner).vi x
            generalize (if x.region = 0 then (s.walked (s.block owner).core (s.block owner).vi
              (w.base.toNat + 128 * ((off - w.off) / 128))).ownPage (s.block owner).core (s.block owner).vi x
              else (true, s.walked (s.block owner).core (s.block owner).vi (w.base.toNat + 128 * ((off - w.off) / 128)))) = q at h ho
            split at h
            · cases h
            · exact ((((s.walked_keepsWork ..).trans ho).trans (tagged ..)).trans (State.fillWin_keepsWork ..)).trans (dirty _ _ _ _ _ h)
      · split at h
        · cases h
        · rename_i x t hx
          have hk := State.translate_keepsWork hx
          split at h
          · exact hk.trans (home _ _ _ _ h)
          · split at h
            · cases h
            · exact (((hk.trans (back ..)).trans (State.l2Access_keepsWork ..)).trans (State.fillWin_keepsWork ..)).trans (dirty _ _ _ _ _ h)

/-! ## One access -/

theorem State.accessGlobal_keepsWork {s : State} {g : Agent} {op : MemOp} {a : Acc} {x : Xlat} {p : Nat × State}
    (h : s.accessGlobal g op a x = .ok p) : KeepsWork s p.2 := by
  unfold State.accessGlobal at h
  simp only at h
  split at h
  · cases h
  · split at h
    · split at h
      · cases h; exact s.l2Access_keepsWork ..
      · cases h; exact s.readGlobal_keepsWork ..
    · cases h; exact s.readGlobal_keepsWork ..
    · cases h; exact s.readGlobal_keepsWork ..
    · cases h; exact s.readGlobal_keepsWork ..
    · cases h; exact s.writeGlobal_keepsWork ..
    · cases h; exact s.writeGlobal_keepsWork ..
    · cases h; exact s.writeGlobal_keepsWork ..
    · cases h; exact s.atomGlobal_keepsWork ..
    · cases h; exact s.atomGlobal_keepsWork ..
    · cases h; exact .refl s

theorem State.accessStash_keepsWork {s : State} {g : Agent} {op : MemOp} {a : Acc} {owner o : Nat} {p : Nat × State}
    (h : s.accessStash g op a owner o = .ok p) : KeepsWork s p.2 := by
  have touch (write : Bool) (f : State → Nat × State) (hf : ∀ t, KeepsWork t (f t).2)
      (ht : (match s.winTouch owner o write with
        | .error r => .error r
        | .ok (some x, s) => s.accessGlobal g op a { x with pa := x.pa + o % 128 }
        | .ok (none, s) =>
          if op.kind.takesData && (s.block owner).bad.contains (o / 128) then .error ⟨.mcheck, a.addr⟩ else .ok (f s) :
        Except Raise (Nat × State)) = .ok p) : KeepsWork s p.2 := by
    split at ht
    · cases ht
    · rename_i t hw
      exact (State.winTouch_keepsWork hw).trans (State.accessGlobal_keepsWork ht)
    · rename_i t hw
      split at ht
      · cases ht
      · cases ht
        exact (State.winTouch_keepsWork hw).trans (hf t)
  have put (t : State) (n v : Nat) : KeepsWork t (t.updBlock owner fun b => { b with stash := Memory.write b.stash o n v }) :=
    t.updBlock_keepsWork _ fun _ => ⟨_, _, _, _, _, rfl⟩
  unfold State.accessStash at h
  simp only at h
  split at h
  · split at h
    · split at h
      · cases h; exact .refl s
      · obtain ⟨q, hq, rfl⟩ := map_ok h
        exact State.winTouch_keepsWork hq
    · cases h; exact .refl s
  · exact touch _ _ (fun t => .refl t) h
  · exact touch _ _ (fun t => .refl t) h
  · exact touch _ _ (fun t => .refl t) h
  · exact touch _ _ (fun t => put t _ _) h
  · exact touch _ _ (fun t => put t _ _) h
  · exact touch _ _ (fun t => put t _ _) h
  · exact touch _ _ (fun t => put t _ _) h
  · exact touch _ _ (fun t => put t _ _) h
  · cases h; exact .refl s

/-- One access of a memory operation, whatever its address. -/
theorem State.access1_keepsWork {s : State} {g : Agent} {op : MemOp} {a : Acc} {p : Nat × State} (h : s.access1 g op a = .ok p) :
    KeepsWork s p.2 := by
  unfold State.access1 at h
  split at h
  · split at h
    · cases h
    · exact State.accessStash_keepsWork h
  · split at h
    · cases h
    · rename_i x t hx
      exact (State.translate_keepsWork hx).trans (State.accessGlobal_keepsWork h)

/-! ## Futures -/

theorem State.tryCell_keepsWork (s : State) (g : Agent) (op : MemOp) (a : Acc) : KeepsWork s (s.tryCell g op a).2 := by
  unfold State.tryCell
  split
  · exact .refl s
  · split
    · rename_i v t h
      split
      · exact State.access1_keepsWork h
      · exact State.access1_keepsWork h
    · exact .refl s

theorem State.tryCells_keepsWork (s : State) (g : Agent) (op : MemOp) (l : List Acc) : KeepsWork s (s.tryCells g op l).2 := by
  induction l generalizing s with
  | nil => exact .refl s
  | cons a t ih => exact (s.tryCell_keepsWork g op a).trans (ih _)

theorem State.wakeCell_keepsWork (s : State) (g : Agent) (op : MemOp) (a : Acc) : KeepsWork s (s.wakeCell g op a).2 := by
  unfold State.wakeCell
  split
  · exact .refl s
  · split
    · rename_i v t h
      split
      · exact .refl s
      · dsimp only
        split
        · exact State.access1_keepsWork h
        · split
          · split
            · exact s.recall_keepsWork ..
            · exact .refl s
          · exact .refl s
    · exact .refl s

theorem State.wakeCells_keepsWork (s : State) (g : Agent) (op : MemOp) (l : List Acc) : KeepsWork s (s.wakeCells g op l).2 := by
  induction l generalizing s with
  | nil => exact .refl s
  | cons a t ih => exact (s.wakeCell_keepsWork g op a).trans (ih _)

/-- Waking the waiters of futures changes their queue entries, and what their loads move in the memory hierarchy. -/
theorem State.wakeFutures_keepsWork (s : State) : KeepsWork s s.wakeFutures := by
  unfold State.wakeFutures
  split
  · refine KeepsWork.foldl (fun s p => KeepsWork.foldl (fun s q => ?_) _ s) _ s
    split
    · split
      · exact (s.wakeCells_keepsWork ..).trans (State.updWaveK_keepsWork ..)
      · exact .refl s
    · exact .refl s
  · exact .refl s

/-! ## Frames and trace records -/

theorem State.storeBytes_keepsWork (s : State) (core slot n fuel va : Nat) (l : List Byte) {u : State}
    (h : s.storeBytes core slot n fuel va l = .ok u) : KeepsWork s u := by
  induction fuel generalizing s va l with
  | zero => cases h; exact .refl _
  | succ k ih =>
    unfold State.storeBytes at h
    split at h
    · cases h; exact .refl _
    · simp only at h
      split at h
      · cases h
      · rename_i x t hx
        exact (((State.translate_keepsWork hx).trans (State.writeGlobal_keepsWork ..)).trans (State.wakeFutures_keepsWork _)).trans (ih _ _ _ h)

theorem State.siblingHeader_keepsWork (s : State) (core slot : Nat) {u : State} (h : s.siblingHeader core slot = .ok u) : KeepsWork s u := by
  unfold State.siblingHeader at h
  obtain ⟨a, ha, h⟩ := except_bind_ok h
  obtain ⟨b, hb, ha⟩ := except_bind_ok ha
  exact ((s.storeBytes_keepsWork _ _ _ _ _ _ hb).trans (b.storeBytes_keepsWork _ _ _ _ _ _ ha)).trans (a.storeBytes_keepsWork _ _ _ _ _ _ h)

theorem State.writeVirt_keepsWork (s : State) (vi va : Nat) (l : List Byte) {u : State} (h : s.writeVirt vi va l = .ok u) : KeepsWork s u := by
  induction l generalizing va u with
  | nil => cases h; exact .refl s
  | cons b t ih =>
    simp only [State.writeVirt] at h
    split at h
    · cases h
    · split at h
      · cases h
      · rename_i v hv
        cases h
        refine KeepsWork.trans ?_ (State.homeByte_keepsWork ..)
        split
        · exact (ih _ hv).trans (State.recall_keepsWork ..)
        · exact ih _ hv

theorem State.homeVirt_keepsWork (s : State) (part vi va n : Nat) (write : Bool) : KeepsWork s (s.homeVirt part vi va n write) := by
  refine (KeepsWork.foldl (fun t _ => t.walkL2_keepsWork ..) _ s).trans (KeepsWork.foldl (fun t i => ?_) _ _)
  simp only
  split
  · refine (KeepsWork.trans ?_ (State.l2Touch_keepsWork ..)).trans (State.sendMeter_keepsWork ..)
    split
    · exact t.recall_keepsWork ..
    · exact .refl t
  · exact .refl t

/-- A list of operations that can fail. -/
theorem KeepsWork.foldBind {f : β → State → Except Raise State} (hf : ∀ x s u, f x s = .ok u → KeepsWork s u) (l : List β)
    {a : Except Raise State} {u : State} (h : l.foldl (fun a x => a.bind (f x)) a = .ok u) : ∃ s, a = .ok s ∧ KeepsWork s u := by
  induction l generalizing a with
  | nil => exact ⟨u, h, .refl u⟩
  | cons x t ih =>
    obtain ⟨s, hs, hk⟩ := ih h
    obtain ⟨b, hb, hx⟩ := except_bind_ok hs
    exact ⟨b, hb, (hf _ _ _ hx).trans hk⟩

theorem State.ringWrite_keepsWork (s : State) (vi : Nat) (recs : List (List Byte)) {u : State} (h : s.ringWrite vi recs = some u) :
    KeepsWork s u := by
  unfold State.ringWrite at h
  simp only at h
  split at h
  · cases h
  · split at h
    · cases h
    · split at h
      · rename_i r hr
        cases h
        obtain ⟨a, ha, h⟩ := except_bind_ok hr
        obtain ⟨b, hb, hk⟩ := KeepsWork.foldBind (fun x s u hx => (s.writeVirt_keepsWork _ _ _ hx)) _ ha
        cases hb
        refine (hk.trans ?_).trans (State.wakeFutures_keepsWork _)
        exact (((((a.writeVirt_keepsWork _ _ _ h).trans (State.homeVirt_keepsWork ..)).trans (State.homeVirt_keepsWork ..)).trans
          (KeepsWork.foldl (fun t _ => t.homeVirt_keepsWork ..) _ _)))
      · cases h

theorem State.traceRec_keepsWork (s : State) (core slot kind strand : Nat) (payload : Word) (pc : DWord) (aux : Nat) :
    KeepsWork s (s.traceRec core slot kind strand payload pc aux) := by
  unfold State.traceRec
  simp only
  split
  · exact .refl s
  · split
    · rename_i u hu
      exact (s.ringWrite_keepsWork _ _ hu).trans (State.updVi_keepsWork _ _ fun _ => ⟨_, _, _, _, _, _, _, rfl⟩)
    · exact s.updVi_keepsWork _ fun _ => ⟨_, _, _, _, _, _, _, rfl⟩

theorem State.writeFrames_keepsWork {s u : State} {core slot : Nat} {ks : List Nat} (h : s.writeFrames core slot ks = .ok u) :
    KeepsWork s u := by
  unfold State.writeFrames at h
  obtain ⟨a, ha, h⟩ := except_bind_ok h
  obtain ⟨b, hb, hk⟩ := KeepsWork.foldBind (f := fun k s => if k = waveKey core slot then .ok s else s.siblingHeader (k / 64) (k % 64))
    (fun k s u hx => by
      split at hx
      · cases hx; exact .refl s
      · exact s.siblingHeader_keepsWork _ _ hx) _ h
  cases hb
  exact (State.storeBytes_keepsWork _ _ _ _ _ _ _ ha).trans hk
end Sys2Proof.Machine
end

section
/-!
# Events of the scheduler

A scheduling pass takes the queues that leave off their slots before it reads the notify words of the queues that come.  The clause on the
producer index reads the notify word in the state before the pass.  The two readings agree where no two partitions hold one domain of HBM; but
the statement speaks of every state, and there the owner of a domain is the first partition that holds it in the order of their list, which an
update of a partition sorts.
-/
namespace Sys2Proof.Machine

/-- The first byte of HBM of the second domain. -/
def secondDomain : Nat := 0x1200000000

/-- Tables of three levels in the second domain, which give virtual address 0 the page of 1 GiB that holds them. -/
def passTables : List Host.Cell :=
  Memory.write (Memory.write (Memory.write [] secondDomain 8 (secondDomain + 0x1001)) (secondDomain + 0x1000) 8 (secondDomain + 0x2001))
    (secondDomain + 0x2000) 8 (secondDomain + 64 + 8 + 3)

/-- Partition 1 stands before partition 0, which holds the second domain too.  A queue of VI 0 leaves slot 5 and its queue 0, whose notify word
is at address 0, comes to slot 3. -/
def passState : State :=
  { State.reset with
    mem := passTables
    parts := [(1, { size := 1, slots := [(5, ⟨0, 1, 0⟩)] }), (0, { size := 2 })]
    vis := [(0, { part := some 1, root := BitVec.ofNat 64 secondDomain, queues := [(0, { enable := true })] })] }

/-- The producer index of a slot of a partition after a step. -/
def Outcome.slotProd (part k : Nat) : Host.Outcome State Fault Refusal → Option Word
  | .next t => (SMap.find? (t.part part).slots k).map fun z => z.prod
  | _ => none

theorem passState_mapsOk : passState.mapsOk 1 [(3, 0, 0)] = true := by decide +kernel

theorem passState_readVirt : (passState.readVirt 0 0 4).toOption = some [1, 16, 0, 0] := by decide +kernel

theorem passState_slotProd : Outcome.slotProd 1 3 (exec (.schedulingPass 1 [(3, 0, 0)]) passState) = some 0 := by decide +kernel

/-- Refutes O51: where two partitions that stand out of order hold the domain of a queue's notify word, the pass does not map the queue with the
index that the word holds before it. -/
theorem not_schedulingEvents : ¬ Obligations.SchedulingEvents := by
  unfold Obligations.SchedulingEvents
  intro h
  obtain ⟨-, -, hpass, -, -, -, -⟩ := h passState 1
  obtain ⟨t, ht, -, -, hmaps⟩ := hpass [(3, 0, 0)] passState_mapsOk
  obtain ⟨-, -, hnew⟩ := hmaps 3 0 0 (List.mem_singleton.mpr rfl)
  have hslot : SMap.find? (passState.part 1).slots 3 = none := by decide +kernel
  obtain ⟨z, hz, -, -, hprod⟩ := hnew fun hkeeps => by
    obtain ⟨⟨z, hz, -, -⟩, -⟩ := hkeeps
    exact absurd (hslot.symm.trans hz) (by simp)
  have hread : passState.readVirt 0 0 4 = .ok [1, 16, 0, 0] := by
    have hopt := passState_readVirt
    cases hr : passState.readVirt 0 0 4 with
    | error r => rw [hr] at hopt; cases hopt
    | ok l => rw [hr] at hopt; exact congrArg Except.ok (Option.some.inj hopt)
  have hword := hprod (fun m hm hne => absurd (congrArg Prod.fst (List.mem_singleton.mp hm)) hne) _ hread
  have hzero := passState_slotProd
  rw [ht] at hzero
  have hz0 : some z.prod = some 0 := by
    rw [← hzero]
    exact (congrArg (Option.map fun z : QSlot => z.prod) hz).symm
  rw [hword] at hz0
  exact absurd hz0 (by decide)

end Sys2Proof.Machine
end

section
/-!
# Accesses of the host and of other devices
-/
namespace Sys2Proof.Machine

namespace State

variable {s : State}

/-- An answer to the host, or to a device at a port. -/
def answerHost (s : State) (l : List Byte) : State := { s with outbox := s.outbox ++ [.hostData l] }
@[inherit_doc answerHost] def answerLink (s : State) (dev : Nat) (l : List Byte) : State := { s with outbox := s.outbox ++ [.link dev l] }

/-! ## The host's windows -/

theorem hostWrite_outside {w : Window} {off : Nat} {data : List Byte} (h : windowHolds w off data.length = false) :
    exec (.hostWrite w off data) s = .next s := by
  rw [exec_hostWrite]
  exact congrArg Host.Outcome.next (if_pos (by simp [h]))

theorem hostRead_outside {w : Window} {off n : Nat} (h : windowHolds w off n = false) : exec (.hostRead w off n) s = .next s := by
  rw [exec_hostRead]
  exact congrArg Host.Outcome.next (if_pos (by simp [h]))

theorem hostWrite_pf {off : Nat} {data : List Byte} (h : windowHolds .pf off data.length = true) :
    exec (.hostWrite .pf off data) s = .next (s.physWrite off (data.take (hbmEnd - off))).wakeFutures := by
  rw [exec_hostWrite]
  exact congrArg Host.Outcome.next (if_neg (by simp [h]))

theorem hostRead_pf {off n : Nat} (h : windowHolds .pf off n = true) : exec (.hostRead .pf off n) s = .next
    ((s.physTouch off (min n (hbmEnd - off)) false).answerHost
      (s.physRead off (min n (hbmEnd - off)) ++ List.replicate (n - (hbmEnd - off)) 0)) := by
  rw [exec_hostRead]
  exact congrArg Host.Outcome.next (if_neg (by simp [h]))

section

variable {v off : Nat} {data : List Byte} (h : windowHolds (.vi v) off data.length = true)
include h

theorem hostWrite_vi {t : State} (hw : s.writeVirt v off data = .ok t) :
    exec (.hostWrite (.vi v) off data) s = .next (t.countVirt (t.viPart v) v off data.length true).wakeFutures := by
  rw [exec_hostWrite]
  unfold execHostWrite
  simp only [h, hw, Bool.not_true, Bool.false_eq_true, if_false]

theorem hostWrite_vi_fault {r : Raise} (hw : s.writeVirt v off data = .error r) :
    exec (.hostWrite (.vi v) off data) s = .next ((s.walkVirt (s.viPart v) v off data.length).hostError v off r) := by
  rw [exec_hostWrite]
  unfold execHostWrite
  simp only [h, hw, Bool.not_true, Bool.false_eq_true, if_false]

end

section

variable {v off n : Nat} (h : windowHolds (.vi v) off n = true)
include h

theorem hostRead_vi {l : List Byte} (hr : s.readVirt v off n = .ok l) :
    exec (.hostRead (.vi v) off n) s = .next ((s.countVirt (s.viPart v) v off n false).answerHost l) := by
  rw [exec_hostRead]
  unfold execHostRead
  simp only [h, hr, Bool.not_true, Bool.false_eq_true, if_false]
  rfl

theorem hostRead_vi_fault {r : Raise} (hr : s.readVirt v off n = .error r) :
    exec (.hostRead (.vi v) off n) s =
      .next (((s.stoppedVirt (s.viPart v) v off n r).hostError v off r).answerHost (List.replicate n 0xFF)) := by
  rw [exec_hostRead]
  unfold execHostRead
  simp only [h, hr, Bool.not_true, Bool.false_eq_true, if_false]
  rfl

end

theorem windowHolds_pf {off n : Nat} : windowHolds .pf off n = true ↔ off + n ≤ 2 ^ 40 := by
  unfold windowHolds
  exact decide_eq_true_iff

theorem windowHolds_vi {v off n : Nat} : windowHolds (.vi v) off n = true ↔ v < 64 ∧ off + n ≤ 2 ^ 48 := by
  unfold windowHolds
  simp

theorem windowHolds_pf_false {off n : Nat} (h : 2 ^ 40 < off + n) : windowHolds .pf off n = false := by
  rw [Bool.eq_false_iff, ne_eq, windowHolds_pf]
  omega

theorem windowHolds_vi_false {v off n : Nat} (h : 64 ≤ v ∨ 2 ^ 48 < off + n) : windowHolds (.vi v) off n = false := by
  rw [Bool.eq_false_iff, ne_eq, windowHolds_vi]
  omega

/-! ## Other devices -/

theorem mayReach_iff {port dev part off : Nat} : s.mayReach port dev part off = true ↔
    ∃ p, s.hbmOwner off = some p ∧ (dev, part, p) ∈ (SMap.get {} s.dev.ports port : Port).reach := by
  unfold mayReach
  simp [Option.any_eq_true]

section

variable {port dev part : Nat} {op : RemoteOp} (hport : port < 16) (hdev : dev < 1024) (hpart : part < 8)
  (hup : (SMap.get {} s.dev.ports port : Port).up = true)
include hport hdev hpart hup

/-- An access of a request that may come, at the home of its address. -/
def remoteServed (s : State) (dev : Nat) : RemoteOp → State
  | .load off n => if hbmEnd < off + n then s else ((s.physTouch off n false).sendPayload off n).answerLink dev (s.physRead off n)
  | .store off l => if hbmEnd < off + l.length then s else (s.physWrite off l).wakeFutures.answerLink dev []
  | .atomic ao off v c =>
    let k := atomSize ao
    if hbmEnd < off + k || off % k != 0 then s
    else
      let old := leNat (s.physRead off k)
      ((s.physWrite off (leBytes k (atomNew ao old (v.toNat % 2 ^ (8 * k)) (c.toNat % 2 ^ (8 * k))))).wakeFutures.sendPayload off k).answerLink dev
        (leBytes k old)

theorem remoteAccess_refused (h : s.mayReach port dev part (remoteOff op) = false) :
    exec (.remoteAccess ⟨port, dev, part⟩ op) s = .next { s with outbox := s.outbox ++ [.refuse dev] } := by
  rw [exec_remoteAccess]
  refine congrArg Host.Outcome.next ((if_neg ?_).trans (if_pos (by simp [h])))
  simp only [hup, Bool.not_true, Bool.or_false, Bool.or_eq_true, decide_eq_true_eq]
  omega

theorem remoteAccess_served (h : s.mayReach port dev part (remoteOff op) = true) :
    exec (.remoteAccess ⟨port, dev, part⟩ op) s = .next (s.remoteServed dev op) := by
  rw [exec_remoteAccess]
  refine congrArg Host.Outcome.next ((if_neg ?_).trans ((if_neg (by simp [h])).trans ?_))
  · simp only [hup, Bool.not_true, Bool.or_false, Bool.or_eq_true, decide_eq_true_eq]
    omega
  cases op <;> rfl

end

theorem remoteServed_load {dev off n : Nat} (h : off + n ≤ hbmEnd) :
    s.remoteServed dev (.load off n) = ((s.physTouch off n false).sendPayload off n).answerLink dev (s.physRead off n) := if_neg (by omega)

theorem remoteServed_store {dev off : Nat} {l : List Byte} (h : off + l.length ≤ hbmEnd) :
    s.remoteServed dev (.store off l) = (s.physWrite off l).wakeFutures.answerLink dev [] := if_neg (by omega)

theorem remoteServed_atomic {dev off : Nat} {ao : AtomOp} {v c : DWord} (h : off + atomSize ao ≤ hbmEnd) (ha : off % atomSize ao = 0) :
    s.remoteServed dev (.atomic ao off v c) = (((s.physWrite off (leBytes (atomSize ao) (atomNew ao (leNat (s.physRead off (atomSize ao)))
      (v.toNat % 2 ^ (8 * atomSize ao)) (c.toNat % 2 ^ (8 * atomSize ao))))).wakeFutures.sendPayload off (atomSize ao)).answerLink dev
        (leBytes (atomSize ao) (leNat (s.physRead off (atomSize ao))))) := if_neg (by simp [ha]; omega)

end State

/-- Settles O38, by the window or the port of the access, and whether it holds it. -/
theorem hostAndRemoteAccesses : Obligations.HostAndRemoteAccesses := by
  unfold Obligations.HostAndRemoteAccesses
  refine ⟨fun s off n v data => ⟨fun h => State.hostWrite_pf (State.windowHolds_pf.mpr h), fun h => State.hostRead_pf (State.windowHolds_pf.mpr h),
    fun h => State.hostWrite_outside (State.windowHolds_pf_false h), fun h => State.hostRead_outside (State.windowHolds_pf_false h),
    fun h => State.hostWrite_outside (State.windowHolds_vi_false h), fun h => State.hostRead_outside (State.windowHolds_vi_false h),
    fun hv h => ?_, fun hv h => ?_⟩, fun s port dev part off n data ao v c => ?_⟩
  · have hw : windowHolds (.vi v) off data.length = true := State.windowHolds_vi.mpr ⟨hv, h⟩
    exact ⟨fun t ht => State.hostWrite_vi hw ht, fun r hr => State.hostWrite_vi_fault hw hr⟩
  · have hw : windowHolds (.vi v) off n = true := State.windowHolds_vi.mpr ⟨hv, h⟩
    exact ⟨fun l hl => State.hostRead_vi hw hl, fun r hr => State.hostRead_vi_fault hw hr⟩
  · intro i answer may k old hport hdev hpart hup
    refine ⟨fun op hno => State.remoteAccess_refused hport hdev hpart hup ?_, fun hmay => ?_⟩
    · rw [Bool.eq_false_iff, ne_eq, State.mayReach_iff]
      exact hno
    · have served (op : RemoteOp) (ho : remoteOff op = off) {t : State} (ht : s.remoteServed dev op = t) : i op = .next t := by
        refine (State.remoteAccess_served hport hdev hpart hup ?_).trans (congrArg _ ht)
        rw [ho, State.mayReach_iff]
        exact hmay
      exact ⟨fun h => served _ rfl (State.remoteServed_load h), fun h => served _ rfl (State.remoteServed_store h),
        fun h ha => served _ rfl (State.remoteServed_atomic h ha)⟩

end Sys2Proof.Machine
end

section
/-!
# Events of a wave

What a parked strand does as it wakes, by the word at which it is parked; what a fetch fill installs; and the end of a wave.
-/
namespace Sys2Proof.Machine

namespace State

variable {s : State} {core slot n : Nat}

/-! ## A strand that wakes -/

/-- What a strand that wakes behind a word does, by the word. -/
def wakeAt (s : State) (core slot n : Nat) (i : Instr) : State :=
  let w := s.wave core slot
  match i with
  | .ends m => s.tryEnd core slot n (.ends m) false
  | .exit m => s.tryEnd core slot n (.exit m) true
  | .mwait m r => (s.completeWord core slot n (.mwait m r)).afterWord core slot n (w.coveredNotes (w.strand n).parkArg) false
  | .joins m d a f =>
    if d != 63 && w.isPending d.toNat then s.joinsFault core slot n (.joins m d a f) d
    else (s.completeWord core slot n (.joins m d a f)).afterWord core slot n [] false
  | .join m d a b =>
    match lowest (w.vranges d.toNat 1 ++ [w.vrange a.toNat, w.vrange b.toNat]) with
    | some r => s.waitFault core slot n (.join m d a b) r
    | none => (s.completeWord core slot n (.join m d a b)).afterWord core slot n [] false
  | .vclaim m k =>
    if 128 < w.vbudget + 8 * k.toNat then s.waitFault core slot n (.vclaim m k) ⟨.vregrange, BitVec.ofNat 64 (8 * k.toNat)⟩
    else (s.completeWord core slot n (.vclaim m k)).afterWord core slot n [] false
  | i => (s.completeWord core slot n i).afterWord core slot n [] false

theorem strandWake_eq (hslot : slot < 64) : exec (.strandWake core slot n) s = .next ((s.wakeStrand core slot n).settle core slot) := by
  rw [exec_strandWake]
  exact congrArg Host.Outcome.next (if_pos hslot)

section

variable (hcan : s.canWake core slot n = true)
include hcan

theorem wakeStrand_retries (hr : ((s.wave core slot).strand n).retries = true) :
    s.wakeStrand core slot n = s.updStrand core slot n fun st => st.wake (s.cycle (s.wave core slot).part) := by
  unfold wakeStrand
  simp only [hcan, hr, Bool.not_true, Bool.false_eq_true, if_false, if_true]

variable (hr : ((s.wave core slot).strand n).retries = false)
include hr

theorem wakeStrand_marker (hp : ((s.wave core slot).strand n).parkI = none) :
    s.wakeStrand core slot n = s.afterWord core slot n [] true := by
  unfold wakeStrand
  simp only [hcan, hr, hp, Bool.not_true, Bool.false_eq_true, if_false]

theorem wakeStrand_at {i : Instr} (hp : ((s.wave core slot).strand n).parkI = some i) :
    s.wakeStrand core slot n = s.wakeAt core slot n i := by
  unfold wakeStrand wakeAt
  simp only [hcan, hr, hp, Bool.not_true, Bool.false_eq_true, if_false]
  cases i <;> rfl

end

theorem wakeAt_joins_pending {m armF : Bool} {d a : SReg} (hd : d ≠ 63) (hpend : (s.wave core slot).isPending d.toNat = true) :
    s.wakeAt core slot n (.joins m d a armF) = s.waitFault core slot n (.joins m d a armF) ⟨.tokenwrite, BitVec.ofNat 64 d.toNat⟩ :=
  if_pos (by rw [hpend, Bool.and_true]; exact bne_iff_ne.mpr hd)

theorem wakeAt_joins {m armF : Bool} {d a : SReg} (h : d = 63 ∨ (s.wave core slot).isPending d.toNat = false) :
    s.wakeAt core slot n (.joins m d a armF) = (s.completeWord core slot n (.joins m d a armF)).afterWord core slot n [] false := by
  refine if_neg ?_
  rcases h with h | h <;> simp [h]

theorem wakeAt_join_range {m : Bool} {d a b : VReg} {r : Raise}
    (hl : lowest ((s.wave core slot).vranges d.toNat 1 ++ [(s.wave core slot).vrange a.toNat, (s.wave core slot).vrange b.toNat]) = some r) :
    s.wakeAt core slot n (.join m d a b) = s.waitFault core slot n (.join m d a b) r := by
  unfold wakeAt
  simp only [hl]

theorem wakeAt_join {m : Bool} {d a b : VReg}
    (hl : NoCause ((s.wave core slot).vranges d.toNat 1 ++ [(s.wave core slot).vrange a.toNat, (s.wave core slot).vrange b.toNat])) :
    s.wakeAt core slot n (.join m d a b) = (s.completeWord core slot n (.join m d a b)).afterWord core slot n [] false := by
  unfold wakeAt
  simp only [lowest_eq_none.mpr hl]

theorem completeWord_joins {m armF : Bool} {d a : SReg} : s.completeWord core slot n (.joins m d a armF) =
    s.updWave core slot fun w => w.addOut
      { strand := n
        vec := []
        sca := if d = 63 then [] else [(d.toNat, (s.wave core slot).sreg n a.toNat)]
        word := encode (.joins m d a armF)
        after := ((s.wave core slot).strand n).pc
        am := ((s.wave core slot).strand n).am
        seq := ((s.wave core slot).strand n).issued } := by
  unfold completeWord
  simp only [scalarOut, BitVec.ofNat_toNat, BitVec.setWidth_eq]

theorem completeWord_fget {m acq : Bool} {t a : VReg} {b : BitVec 5} {q : QEntry} (hq : (s.wave core slot).fgetEntry n = some q) :
    s.completeWord core slot n (.fget m t a b acq) = s.runEntry core slot q := by
  unfold completeWord
  simp only [hq]

/-! ## Ends -/

theorem tryEnd_parks {i : Instr} {isExit : Bool} (h : s.endReady core slot n isExit = false) :
    s.tryEnd core slot n i isExit = s.updStrand core slot n fun st => { st with state := .parked, park := .marker, parkI := some i } := by
  unfold tryEnd
  rw [if_pos (by simp [h])]

theorem tryEnd_ends {i : Instr} {isExit : Bool} (h : s.endReady core slot n isExit = true) (hn : ((s.wave core slot).strand n).noted = [])
    (hm : (s.wave core slot).lastStrand n = true → (s.wave core slot).matNotes = []) :
    s.tryEnd core slot n i isExit = s.endStrand core slot n := by
  have hextra : (((s.wave core slot).strand n).noted ++
      if (s.wave core slot).lastStrand n then (s.wave core slot).matNotes.map (·.2) else []).isEmpty = true := by
    rw [hn]
    split
    · next hl => rw [hm hl]; rfl
    · rfl
  unfold tryEnd
  rw [if_neg (by simp [h])]
  exact if_pos hextra

theorem afterWord_plain (h : ((s.wave core slot).strand n).parkM = false) :
    s.afterWord core slot n [] false = s.updStrand core slot n fun st => st.wake (s.cycle (s.wave core slot).part) := by
  unfold afterWord
  simp only [h, Bool.false_and, Bool.false_or, Bool.false_eq_true, if_false, List.isEmpty_nil, if_true]

/-! ## Entries of the queue -/

theorem strandCapped_caps (hslot : slot < 64) (hst : ((s.wave core slot).strand n).state = .ready)
    (hcap : ((s.wave core slot).strand n).cappedAt = none) (hw : 64 ≤ ((s.wave core slot).strand n).waits) :
    exec (.strandCapped core slot n) s =
      .next (s.updStrand core slot n fun st => { st with cappedAt := some (s.cycle (s.wave core slot).part) }) := by
  rw [exec_strandCapped]
  exact congrArg Host.Outcome.next (if_pos (by simp [hslot, hst, hcap, hw]))

section

variable {id : Nat}

theorem ssqEntryRelease_performs {q : QEntry} (hslot : slot < 64) (hs : s.isStopped core slot = false)
    (he : (s.wave core slot).entry id = some q)
    (h : (q.ssq && s.ripeNow core slot q && s.releasable core slot q && s.tlbReady core (s.wave core slot) q.op) = true) :
    exec (.ssqEntryRelease core slot id) s = .next ((s.runEntry core slot q).settle core slot) := by
  have hcond : (decide (64 ≤ slot) || s.isStopped core slot) = false := by simp [hslot, hs]
  rw [exec_ssqEntryRelease]
  unfold execSsqEntryRelease
  simp only [hcond, Bool.false_eq_true, if_false, he, h, if_true]

theorem pageWalk_performs {q : QEntry} (hslot : slot < 64) (hs : s.isStopped core slot = false)
    (he : (s.wave core slot).entry id = some q) (h : (s.ripeNow core slot q && s.releasable core slot q) = true) :
    exec (.pageWalk core slot id) s = .next ((s.runEntry core slot q).settle core slot) := by
  have hcond : (decide (64 ≤ slot) || s.isStopped core slot) = false := by simp [hslot, hs]
  rw [exec_pageWalk]
  unfold execPageWalk
  simp only [hcond, Bool.false_eq_true, if_false, he, h, if_true]

variable (hs : s.isStopped core slot = true)
include hs

theorem ssqEntryRelease_stopped : exec (.ssqEntryRelease core slot id) s = .next s := by
  rw [exec_ssqEntryRelease]
  unfold execSsqEntryRelease
  simp only [hs, Bool.or_true, if_true]

theorem pageWalk_stopped : exec (.pageWalk core slot id) s = .next s := by
  rw [exec_pageWalk]
  unfold execPageWalk
  simp only [hs, Bool.or_true, if_true]

theorem canWake_stopped : s.canWake core slot n = false := by
  have hb : (s.block (s.wave core slot).blk).stopped = true := hs
  unfold canWake
  simp [hb]

end

/-! ## Fetch fills -/

theorem core_updCore_of_ne (s : State) {c k : Nat} (f : Core → Core) (h : k ≠ c) : (s.updCore c f).core k = s.core k :=
  SMap.get_upd_of_ne _ _ _ h

/-- A line installed in the instruction caches of a list of cores. -/
def installAll (t : State) (l : List Nat) (key : Nat) (d : LineData) : State :=
  l.foldl (fun s c => s.updCore c fun k => k.install key d) t

theorem install_icache (k : Core) (key : Nat) (d : LineData) : SMap.get 0 (k.install key d).icache key = d := by
  unfold Core.install
  simp only
  split <;> exact SMap.get_put_self ..

theorem installAll_keeps {t : State} {key c : Nat} {d : LineData} (l : List Nat) (h : SMap.get 0 (t.core c).icache key = d) :
    SMap.get 0 ((t.installAll l key d).core c).icache key = d := by
  induction l generalizing t with
  | nil => exact h
  | cons x l ih =>
    refine ih ?_
    by_cases hx : c = x
    · subst hx
      rw [core_updCore_self, install_icache]
    · rw [core_updCore_of_ne _ _ hx, h]

theorem installAll_icache {t : State} {key c : Nat} {d : LineData} {l : List Nat} (hc : c ∈ l) :
    SMap.get 0 ((t.installAll l key d).core c).icache key = d := by
  induction l generalizing t with
  | nil => cases hc
  | cons x l ih =>
    rcases List.mem_cons.mp hc with rfl | hc
    · refine installAll_keeps l ?_
      rw [core_updCore_self, install_icache]
    · exact ih hc

theorem installAll_frame {t : State} {key : Nat} {d : LineData} (l : List Nat) :
    (t.installAll l key d).waves = t.waves ∧ (t.installAll l key d).mem = t.mem := by
  induction l generalizing t with
  | nil => exact ⟨rfl, rfl⟩
  | cons x l ih => exact ih

/-- The state in which a fetched line is read: the line's other copies recalled, and its access counted at L2. -/
def fetched (u : State) (vi : Nat) (x : Xlat) : State :=
  let v := if x.region = 2 then u.recall x.line true none none else u
  v.l2Access (v.partOf core) vi x.line 15 false .normal

theorem fetchFill_eq {vi : Nat} {va : DWord} {u : State} {x : Xlat} (hcore : core < 176) (hpart : s.partOf core ≠ noPart)
    (ht : s.translate core vi (va.toNat / 128 * 128) .fetch = .ok (x, u)) (hbad : u.bad.contains x.line = false) :
    exec (.fetchFill core vi va) s = .next ((u.fetched (core := core) vi x).installAll
      (core :: (u.fetched (core := core) vi x).rangeCores (core / 40) vi (va.toNat / 128 * 128)) (icacheKey vi (va.toNat / 128 * 128))
      ((u.fetched (core := core) vi x).homeData x)) := by
  rw [exec_fetchFill]
  refine congrArg Host.Outcome.next ((if_pos hcore).trans ?_)
  unfold fetchFill
  simp only [if_neg hpart, ht, hbad, Bool.false_eq_true, if_false]
  rfl

/-! ## The end of a wave -/

/-- The state of a wave's end before it frees its slot. -/
def beforeFree (s : State) (core slot : Nat) : State :=
  let w := s.wave core slot
  let d := s.dropBarriers core slot w.lastEnded (w.strand w.lastEnded).pc
  let u := d.taskDones core slot
  if (d.block w.blk).task = true then u.runWaveEnds w.part w.heapId false else u

theorem waveEnd_eq (hslot : slot < 64) (hfin : (s.wave core slot).finished = true) (hq : (s.wave core slot).queue = [])
    (hstop : s.isStopped core slot = false) :
    exec (.waveEnd core slot) s = .next (
      let x := (s.beforeFree core slot).freeWave core slot
      if (x.block (s.wave core slot).blk).waves = [] then x.blockExit (s.wave core slot).blk else x) := by
  have hstop : (s.block (s.wave core slot).blk).stopped = false := hstop
  rw [exec_waveEnd]
  refine congrArg Host.Outcome.next ((if_pos hslot).trans ?_)
  unfold endWave
  rw [if_neg (by simp [hfin, hq, hstop])]
  simp only [List.isEmpty_iff]
  rfl

theorem freeWave_find (s : State) : SMap.find? (s.freeWave core slot).waves (waveKey core slot) = none := SMap.find?_erase_self ..

theorem beforeFree_plain (ht : (s.wave core slot).tasks = []) (htask : (s.block (s.wave core slot).blk).task = false)
    (hbar : (List.range 20).filter (s.block (s.wave core slot).blk).hasBarrier = []) : s.beforeFree core slot = s := by
  have hd : s.dropBarriers core slot (s.wave core slot).lastEnded ((s.wave core slot).strand (s.wave core slot).lastEnded).pc = s := by
    unfold dropBarriers
    simp only [hbar, List.foldl_nil]
  have hu : s.taskDones core slot = s := by
    unfold taskDones
    simp only [ht, List.isEmpty_nil, if_true, List.foldl_nil]
  unfold beforeFree
  simp only [hd, hu, htask, Bool.false_eq_true, if_false]

theorem freeWave_blockWaves (s : State) : ((s.freeWave core slot).block (s.wave core slot).blk).waves =
    (s.block (s.wave core slot).blk).waves.filter (fun k => k != waveKey core slot) := by
  unfold freeWave
  rw [block_updBlock_self]
  rfl

end State

/-- Settles O35, by the event, and for a strand that wakes by the word at which it is parked. -/
theorem waveEvents : Obligations.WaveEvents := by
  unfold Obligations.WaveEvents
  refine ⟨fun core slot s hslot => ?_, fun core vi va s u x => ?_, fun core slot s => ?_⟩
  · intro w now wakes faults out ends
    have woken {n : Nat} {i : Instr} {u : State} (h : s.wakeAt core slot n i = u.afterWord core slot n [] false) : wakes n i u := by
      intro hcan hr hp
      rw [State.strandWake_eq hslot, State.wakeStrand_at hcan hr hp, h]
    have faulted {n : Nat} {i : Instr} {c : Cause} {val : DWord} (h : s.wakeAt core slot n i = s.waitFault core slot n i ⟨c, val⟩) :
        faults n i c val := by
      intro hcan hr hp
      rw [State.strandWake_eq hslot, State.wakeStrand_at hcan hr hp, h]
      rfl
    have ended {n : Nat} {i : Instr} {isExit : Bool} (h : s.wakeAt core slot n i = s.tryEnd core slot n i isExit) : ends n i isExit := by
      intro hcan hr hp
      rw [State.strandWake_eq hslot, State.wakeStrand_at hcan hr hp, h]
      exact ⟨fun he => by rw [State.tryEnd_parks he], fun he hn hm => by rw [State.tryEnd_ends he hn hm]⟩
    refine ⟨fun idx lanes hs hl => ?_, fun n hcan hr hl => ?_, fun n hcan hr hp => ?_,
      fun n m => ⟨ended rfl, ended rfl, woken rfl, woken rfl⟩, fun n m v vc r sc => woken rfl, fun n m d a b => ⟨fun h => ?_, fun v h => ?_⟩,
      fun n m d a armF => ⟨fun h => ?_, fun hd hp => ?_⟩, fun n m d a ring => ⟨woken rfl, woken rfl⟩, fun n m r => woken rfl,
      fun n m r hcan hr hp => ?_, fun n m id => woken rfl, fun n m id r => woken rfl, fun n m k => ⟨fun h => ?_, fun h => ?_⟩,
      fun n m t a b acq q hq => woken ?_, fun n u h => State.afterWord_plain h, fun st c => ⟨rfl, rfl, rfl, rfl⟩,
      fun id q hs he hssq hripe hrel htlb => ?_, fun id q hs he hripe hrel => ?_, fun n hst hcap hw => ?_, fun hs n idx id lanes => ?_⟩
    · exact congrArg Host.Outcome.next (if_pos (by simp [hslot, hs, hl]))
    · rw [State.strandWake_eq hslot, State.wakeStrand_retries hcan hr]
      refine congrArg Host.Outcome.next (State.settle_calm ?_)
      rw [State.updStrand, State.wave_updWave_self]
      exact hl
    · rw [State.strandWake_eq hslot, State.wakeStrand_marker hcan hr hp]
    · exact woken (State.wakeAt_join h)
    · exact faulted (State.wakeAt_join_range h)
    · exact woken ((State.wakeAt_joins h).trans (congrArg (State.afterWord · core slot n [] false) State.completeWord_joins))
    · exact faulted (State.wakeAt_joins_pending hd hp)
    · rw [State.strandWake_eq hslot, State.wakeStrand_at hcan hr hp]
      rfl
    · exact woken (if_neg (Nat.not_lt.mpr h))
    · exact faulted (if_pos h)
    · exact congrArg (State.afterWord · core slot n [] false) (State.completeWord_fget hq)
    · exact State.ssqEntryRelease_performs hslot hs he (by rw [hssq, show s.ripeNow core slot q = true from hripe, hrel, htlb]; rfl)
    · exact State.pageWalk_performs hslot hs he (by rw [show s.ripeNow core slot q = true from hripe, hrel]; rfl)
    · exact State.strandCapped_caps hslot hst hcap hw
    · exact ⟨congrArg Host.Outcome.next (if_neg (by simp [hs])), State.ssqEntryRelease_stopped hs,
        State.pageWalk_stopped hs, State.canWake_stopped hs⟩
  · intro line hcore hpart ht hbad v t
    obtain ⟨hwaves, hmem⟩ := State.installAll_frame (t := t) (key := icacheKey vi line) (d := t.homeData x)
      (core :: t.rangeCores (core / 40) vi line)
    exact ⟨_, State.fetchFill_eq hcore hpart ht hbad, State.installAll_icache (List.mem_cons_self ..),
      fun c hc => State.installAll_icache (List.mem_cons_of_mem _ hc), hwaves, hmem⟩
  · intro w st hslot hfin hq hstop d u v x
    refine ⟨State.freeWave_find _, State.waveEnd_eq hslot hfin hq hstop, fun ht htask hbar => ?_⟩
    have hx : x = s.freeWave core slot := congrArg (State.freeWave · core slot) (State.beforeFree_plain ht htask hbar)
    rw [hx]
    exact ⟨rfl, State.freeWave_blockWaves s, rfl⟩

end Sys2Proof.Machine
end

section
/-!
# Barrier words

The clause on a BAR.w that flips its barrier as it issues asks that the wave's queue is empty, not that no access is left to be performed: an
access whose page was refused has left the queue, and its fault, pending in its strand, holds every arrival of the wave back until the access
has been replayed (R33).
-/
namespace Sys2Proof.Machine

/-- The strand has a restartable fault of an earlier access pending (R301). -/
def faultedState : State := withStrand fun st => { st with pend := [aFault .translate] }

/-- The arrival of BAR.w at barrier 1 of the faulted strand. -/
def faultedArrival : State := faultedState.arriveHere (.barW false 1) 1 0 none faultedState.advance

theorem faultedState_awake : faultedState.Awake := ⟨by decide +kernel, by decide +kernel, by decide +kernel, by decide +kernel⟩

theorem faultedState_issues : faultedState.Issues (.barW false 1) [] [] [] :=
  issues_of [.barW false 1] (by decide) (by decide +kernel) _ (List.mem_singleton.mpr rfl)

/-- The arrival does not count. -/
theorem faultedArrival_phase : (faultedArrival.barrier faultedState.cw.blk 1).p = 0 := by decide +kernel

/-- Refutes O20: the barrier's phase stays while the pending fault holds the arrival back. -/
theorem not_barrierWords : ¬ Obligations.BarrierWords := by
  unfold Obligations.BarrierWords
  intro h
  obtain ⟨hword, -, -⟩ := h
  obtain ⟨-, -, -, -, -, hawake⟩ :=
    hword false 1 faultedState (by decide +kernel) (by decide +kernel) (by decide +kernel)
  obtain ⟨-, hflip⟩ := hawake faultedState_awake
  obtain ⟨-, hphase, -⟩ := hflip (by decide +kernel) (by decide +kernel) (by decide +kernel) (by decide +kernel) (by decide +kernel)
    faultedState_issues
  have hzero : (faultedState.barrier faultedState.cw.blk 1).p = 0 := by decide +kernel
  have hone : (faultedArrival.barrier faultedState.cw.blk 1).p = (faultedState.barrier faultedState.cw.blk 1).p + 1 := hphase
  rw [faultedArrival_phase, hzero] at hone
  exact absurd hone (by decide)

end Sys2Proof.Machine
end

section
/-!
# Strand words

The clause on an ENDS whose conditions hold as it issues leaves out that the trace record of the strand's end may wake futures (R167), and that a
waking FGET takes its place in the queue by its number: in a queue where an entry of the ending strand has the number of an FGET that waits at the
home, the strand then has a result outstanding and waits.
-/
namespace Sys2Proof.Machine

/-- Tables of three levels in the second domain, which give virtual address 0 the page of 1 GiB that holds them, to read and to write. -/
def traceTables : List Host.Cell :=
  Memory.write (Memory.write (Memory.write [] secondDomain 8 (secondDomain + 0x1001)) (secondDomain + 0x1000) 8 (secondDomain + 0x2001))
    (secondDomain + 0x2000) 8 (secondDomain + 2 * 64 + 8 * 3 + 3)

/-- An FGET of strand 1 that waits at the home. -/
def wokenFget : QEntry :=
  { id := 0, strand := 1, op := .mem { kind := .fget 0, accs := [] }, lanes := 0, ssq := false, atHome := true, pc := 0, after := 0, word := 0, seq := 0 }

/-- A fence of strand 0 with the number of that FGET. -/
def sharedFence : QEntry := { wokenFget with strand := 0, op := .fence .wv, atHome := false }

/-- Strand 0 is about to end; the trace of its VI keeps the ends of strands in a ring of one record. -/
def endingState : State :=
  { (base.updVi 0 fun v => { v with root := BitVec.ofNat 64 secondDomain, trace := { base := 0x100000, size := 112, kinds := 0x20 } }).updCw
      (fun w => { w with queue := [wokenFget, sharedFence] }) with
    mem := traceTables
    parts := [(0, { size := 2, resident := some 0 })] }

theorem endingState_awake : endingState.Awake := ⟨by decide +kernel, by decide +kernel, by decide +kernel, by decide +kernel⟩

theorem endingState_issues : endingState.Issues (.ends false) [] [] [] :=
  issues_of [.ends false] (by decide) (by decide +kernel) _ (List.mem_singleton.mpr rfl)

/-- What strand 0 of the issuing wave is after a step. -/
def Outcome.strandState : Host.Outcome State Fault Refusal → Option SlotState
  | .next t => some (t.cw.strand 0).state
  | _ => none

/-- The strand has not ended. -/
theorem endingState_parks : Outcome.strandState (exec (.ends false) endingState) = some .parked := by decide +kernel

/-- Refutes O19: the record of the end wakes an FGET that shares its number with an entry of the strand, and the strand waits for its result. -/
theorem not_strandWords : ¬ Obligations.StrandWords := by
  unfold Obligations.StrandWords
  intro h
  obtain ⟨-, -, -, -, -, -, -, -, -, -, -, -, -, -, hawake⟩ := h false endingState
  obtain ⟨hends, -, -, -, -, -⟩ := hawake endingState_awake
  obtain ⟨hexec, hended⟩ := hends (.inl (by decide +kernel)) endingState_issues (by decide +kernel) (by decide +kernel) (by decide +kernel)
    (by decide +kernel)
  have hstate := endingState_parks
  rw [hexec] at hstate
  exact absurd ((congrArg some hended).symm.trans hstate) (by decide)

end Sys2Proof.Machine
end

section
/-!
# The canonical form of memory

Every operation of the model keeps memory and the capacity devices in their canonical form: each writes bytes by the operations that keep it
(log entry 2), or takes bytes away.
-/
namespace Sys2Proof.Machine

/-! ## Maps with entries taken away or put in -/

theorem SMap.sorted_filter {α : Type} {m : SMap α} (f : Nat × α → Bool) (h : SMap.sorted m = true) : SMap.sorted (m.filter f) = true := by
  induction m with
  | nil => rfl
  | cons p t ih =>
    obtain ⟨ha, hs⟩ := SMap.sorted_cons.mp h
    cases hp : f p with
    | false => rw [List.filter_cons_of_neg (by simp [hp])]; exact ih hs
    | true =>
      rw [List.filter_cons_of_pos hp, SMap.sorted_cons]
      exact ⟨fun q hq => ha q (List.mem_of_mem_filter hq), ih hs⟩

theorem Memory.wf_filter {m : List Host.Cell} (f : Nat × Byte → Bool) (h : Memory.wf m = true) : Memory.wf (m.filter f) = true := by
  obtain ⟨hs, hd⟩ := SMap.wf_iff.mp h
  exact SMap.wf_iff.mpr ⟨SMap.sorted_filter f hs, fun p hp => hd p (List.mem_of_mem_filter hp)⟩

theorem Memory.wf_put {m : List Host.Cell} (a : Nat) {b : Byte} (h : Memory.wf m = true) (hb : b ≠ 0) : Memory.wf
    (SMap.put m a b) = true := by
  have hset : SMap.set 0 m a b = SMap.put m a b := if_neg hb
  rw [← hset]
  exact SMap.wf_set a b h

theorem Memory.wf_putAll {m n : List Host.Cell} (h : Memory.wf m = true) (hn : Memory.wf n = true) : Memory.wf
    (SMap.putAll m n) = true := by
  obtain ⟨-, hd⟩ := SMap.wf_iff.mp hn
  clear hn
  induction n generalizing m with
  | nil => exact h
  | cons p t ih => exact ih (Memory.wf_put p.1 h (hd p List.mem_cons_self)) fun q hq => hd q (List.mem_cons_of_mem p hq)

/-! ## States -/

/-- What a step answers keeps the canonical form. -/
structure Outcome.Canonical (o : Host.Outcome State Fault Refusal) : Prop where
  next : ∀ t, o = .next t → t.Canonical

theorem Outcome.canonical_next {t : State} (h : t.Canonical) : Outcome.Canonical (.next t) := by
  constructor
  rintro _ ⟨⟩
  exact h

theorem State.Canonical.of_mem_eq {s t : State} (h : s.Canonical) (hm : t.mem = s.mem) (hc : t.capDev = s.capDev) : t.Canonical := by
  unfold State.Canonical
  rw [hm, hc]
  exact h

theorem State.Canonical.ite {s t : State} {c : Prop} [Decidable c] (hs : s.Canonical) (ht : t.Canonical) :
    (if c then s else t).Canonical := by
  split
  · exact hs
  · exact ht

/-- A fold keeps the canonical form of the state that it carries when each of its steps does. -/
theorem State.Canonical.foldl_of {γ β : Type} (get : γ → State) {f : γ → β → γ}
    (hf : ∀ a x, (get a).Canonical → (get (f a x)).Canonical) (l : List β) {a : γ} (h : (get a).Canonical) :
    (get (l.foldl f a)).Canonical := by
  induction l generalizing a with
  | nil => exact h
  | cons x t ih => exact ih (hf a x h)

theorem State.Canonical.foldl {β : Type} {f : State → β → State} (hf : ∀ s x, s.Canonical → (f s x).Canonical) (l : List β) {s : State}
    (h : s.Canonical) : (l.foldl f s).Canonical := State.Canonical.foldl_of id hf l h

theorem Except.foldl_bind_error {ε α β : Type} (f : β → α → Except ε α) (l : List β) (r : ε) :
    l.foldl (fun (a : Except ε α) x => a.bind (f x)) (.error r) = .error r := by
  induction l with
  | nil => rfl
  | cons x t ih => exact ih

theorem State.Canonical.foldBind {ε β : Type} {f : β → State → Except ε State}
    (hf : ∀ x s u, s.Canonical → f x s = .ok u → u.Canonical) (l : List β) {s u : State} (h : s.Canonical)
    (hu : l.foldl (fun (a : Except ε State) x => a.bind (f x)) (.ok s) = .ok u) : u.Canonical := by
  induction l generalizing s with
  | nil =>
    cases hu
    exact h
  | cons x t ih =>
    cases hx : f x s with
    | ok v => exact ih (hf x s v h hx) (by rw [← hu, List.foldl_cons, ← hx]; rfl)
    | error r =>
      have he := Except.foldl_bind_error f t r
      rw [List.foldl_cons, Except.bind, hx, he] at hu
      cases hu

theorem State.Canonical.updVi {s : State} (h : s.Canonical) (v : Nat) (f : Vi → Vi) : (s.updVi v f).Canonical := h

theorem State.Canonical.ownPage {s : State} (h : s.Canonical) (core vi : Nat) (x : Xlat) : (s.ownPage core vi x).2.Canonical :=
  (s.ownPage_keepsWork core vi x).canonical h

theorem State.Canonical.updCore {s : State} (h : s.Canonical) (c : Nat) (f : Core → Core) : (s.updCore c f).Canonical :=
  (s.updCore_keepsWork c f).canonical h

theorem State.Canonical.tlbFill {s : State} (h : s.Canonical) (core : Nat) (e : TlbEntry) : (s.tlbFill core e).Canonical :=
  (s.tlbFill_keepsWork core e).canonical h

theorem State.Canonical.setL1 {s : State} (h : s.Canonical) (c l : Nat) (x : Option L1Line) : (s.setL1 c l x).Canonical :=
  (s.setL1_keepsWork c l x).canonical h

theorem State.Canonical.markBad {s : State} (h : s.Canonical) (l : Nat) : (s.markBad l).Canonical := (s.markBad_keepsWork l).canonical h

theorem State.Canonical.dropTile {s : State} (h : s.Canonical) (l : Nat) : (s.dropTile l).Canonical := (s.dropTile_keepsWork l).canonical h

theorem State.Canonical.setHomeLine {s : State} (h : s.Canonical) (l : Nat) (d : LineData) : (s.setHomeLine l d).Canonical :=
  (s.setHomeLine_keepsWork l d).canonical h

theorem State.Canonical.handIn {s : State} (h : s.Canonical) (l : Nat) (y : L1Line) : (s.handIn l y).Canonical :=
  (s.handIn_keepsWork l y).canonical h

theorem State.Canonical.recallOne {s : State} (h : s.Canonical) (l : Nat) (keep : Bool) (c : Nat × L1Line) :
    (s.recallOne l keep c).Canonical := by
  unfold State.recallOne
  grind [State.Canonical, State.Canonical.setL1, State.Canonical.handIn]

theorem State.Canonical.ask {s : State} (h : s.Canonical) (line : Nat) (sectors : BitVec 4) : (s.ask line sectors).Canonical :=
  (s.ask_keepsWork line sectors).canonical h

theorem State.Canonical.retCount {s : State} (h : s.Canonical) (vi : Nat) (slot : Option (Nat × Nat)) (f : Retention → Retention) :
    (s.retCount vi slot f).Canonical :=
  (s.retCount_keepsWork vi slot f).canonical h

theorem State.Canonical.addMeter {s : State} (h : s.Canonical) (vi m inc : Nat) : (s.addMeter vi m inc).Canonical :=
  (s.addMeter_keepsWork vi m inc).canonical h

theorem State.Canonical.chargeBytes {s : State} (h : s.Canonical) (vi line sectors : Nat) : (s.chargeBytes vi line sectors).Canonical :=
  (s.chargeBytes_keepsWork vi line sectors).canonical h

theorem State.Canonical.request {s : State} (h : s.Canonical) (key limit n : Nat) : (s.request key limit n).Canonical :=
  (s.request_keepsWork key limit n).canonical h

theorem State.Canonical.sliceRequest {s : State} (h : s.Canonical) (key : Nat) : (s.sliceRequest key).Canonical :=
  (s.sliceRequest_keepsWork key).canonical h

theorem State.Canonical.l2Hit {s : State} (h : s.Canonical) (key vi line : Nat) (sectors : BitVec 4) (write : Bool) (w : Way) :
    (s.l2Hit key vi line sectors write w).Canonical :=
  (s.l2Hit_keepsWork key vi line sectors write w).canonical h

theorem State.Canonical.pushSpent {s : State} (h : s.Canonical) (key line : Nat) : (s.pushSpent key line).Canonical :=
  (s.pushSpent_keepsWork key line).canonical h

theorem State.Canonical.dropSpent {s : State} (h : s.Canonical) (key line : Nat) : (s.dropSpent key line).Canonical :=
  (s.dropSpent_keepsWork key line).canonical h

theorem State.Canonical.updBlock {s : State} (h : s.Canonical) (b : Nat) (f : Block → Block) : (s.updBlock b f).Canonical := h

theorem State.Canonical.setWinLine {s : State} (h : s.Canonical) (blk win j : Nat) (st : WinLine) : (s.setWinLine blk win j st).Canonical :=
  (s.setWinLine_keepsWork blk win j st).canonical h

theorem State.Canonical.winWriteHome {s : State} (h : s.Canonical) (blk win j line : Nat) : (s.winWriteHome blk win j line).Canonical :=
  (s.winWriteHome_keepsWork blk win j line).canonical h

theorem State.Canonical.recallWin {s : State} (h : s.Canonical) (l : Nat) (keep : Bool) (c : Nat × Nat × Nat × WinLine) :
    (s.recallWin l keep c).1.Canonical :=
  (s.recallWin_keepsWork l keep c).canonical h

theorem State.Canonical.recallCopies {s : State} (h : s.Canonical) (l : Nat) (keep : Bool) (exceptCore : Option Nat)
    (exceptWin : Option (Nat × Nat × Nat)) : (s.recallCopies l keep exceptCore exceptWin).1.Canonical :=
  (s.recallCopies_keepsWork l keep exceptCore exceptWin).canonical h

theorem State.Canonical.homeByte {s : State} (h : s.Canonical) (pa : Nat) (b : Byte) : (s.homeByte pa b).Canonical :=
  (s.homeByte_keepsWork pa b).canonical h

theorem State.Canonical.postRec {s : State} (h : s.Canonical) (vi : Nat) (r : ErrRec) : (s.postRec vi r).1.Canonical :=
  (s.postRec_keepsWork vi r).canonical h

theorem State.Canonical.updPkt {s : State} (h : s.Canonical) (p : Nat) (f : Packet → Packet) : (s.updPkt p f).Canonical :=
  (s.updPkt_keepsWork p f).canonical h

theorem State.Canonical.postLost {s : State} (h : s.Canonical) (f : LostLine) : (s.postLost f).1.Canonical :=
  (s.postLost_keepsWork f).canonical h

theorem State.Canonical.postLosts {s : State} (h : s.Canonical) (n : Nat) (l : List LostLine) : (State.postLosts n s l).Canonical :=
  (State.postLosts_keepsWork n s l).canonical h

theorem State.Canonical.takeBack {s : State} (h : s.Canonical) (l : Nat) (keep : Bool) (exceptCore : Option Nat)
    (exceptWin : Option (Nat × Nat × Nat)) : (s.takeBack l keep exceptCore exceptWin).Canonical :=
  (s.takeBack_keepsWork l keep exceptCore exceptWin).canonical h

theorem State.Canonical.toDevice {s : State} (h : s.Canonical) (line : Nat) : (s.toDevice line).Canonical :=
  (s.toDevice_keepsWork line).canonical h

theorem State.Canonical.evictWay {s : State} (h : s.Canonical) (key : Nat) (w : Way) : (s.evictWay key w).Canonical :=
  (s.evictWay_keepsWork key w).canonical h

theorem State.Canonical.insertWay {s : State} (h : s.Canonical) (key : Nat) (w : Way) : (s.insertWay key w).Canonical :=
  (s.insertWay_keepsWork key w).canonical h

theorem State.Canonical.l2Fill {s : State} (h : s.Canonical) (key vi line : Nat) (sectors : BitVec 4) (write : Bool) (pol : Policy)
    (slot : Option (Nat × Nat)) : (s.l2Fill key vi line sectors write pol slot).Canonical :=
  (s.l2Fill_keepsWork key vi line sectors write pol slot).canonical h

theorem State.Canonical.l2Touch {s : State} (h : s.Canonical) (counts : Bool) (part vi line : Nat) (sectors : BitVec 4) (write : Bool)
    (pol : Policy) : (s.l2Touch counts part vi line sectors write pol).Canonical :=
  (s.l2Touch_keepsWork counts part vi line sectors write pol).canonical h

theorem State.Canonical.l2Access {s : State} (h : s.Canonical) (part vi line : Nat) (sectors : BitVec 4) (write : Bool) (pol : Policy) :
    (s.l2Access part vi line sectors write pol).Canonical :=
  (s.l2Access_keepsWork part vi line sectors write pol).canonical h

theorem State.Canonical.l2Write {s : State} (h : s.Canonical) (part vi line : Nat) (sectors : BitVec 4) :
    (s.l2Write part vi line sectors).Canonical :=
  (s.l2Write_keepsWork part vi line sectors).canonical h

theorem State.Canonical.recall {s : State} (h : s.Canonical) (l : Nat) (keep : Bool) (exceptCore : Option Nat)
    (exceptWin : Option (Nat × Nat × Nat)) : (s.recall l keep exceptCore exceptWin).Canonical :=
  (s.recall_keepsWork l keep exceptCore exceptWin).canonical h

theorem State.Canonical.walkL2 {s : State} (h : s.Canonical) (part vi va : Nat) : (s.walkL2 part vi va).Canonical :=
  (s.walkL2_keepsWork part vi va).canonical h

theorem State.Canonical.walked {s : State} (h : s.Canonical) (core vi va : Nat) : (s.walked core vi va).Canonical :=
  (s.walked_keepsWork core vi va).canonical h

theorem State.Canonical.translate {s : State} (h : s.Canonical) {core vi va : Nat} {need : Need} {x : Xlat} {u : State}
    (hu : s.translate core vi va need = .ok (x, u)) : u.Canonical := (State.translate_keepsWork hu).canonical h

theorem State.Canonical.fetchFill {s : State} (h : s.Canonical) (core vi va : Nat) : (s.fetchFill core vi va).Canonical := by
  unfold State.fetchFill
  dsimp only
  split
  · exact h
  · split
    · exact h
    · next x t ht =>
      have ht := h.translate ht
      split
      · exact ht
      · refine State.Canonical.foldl (fun _ _ h => h.updCore ..) _ (State.Canonical.l2Access ?_ ..)
        split
        · exact ht.recall ..
        · exact ht

theorem State.Canonical.fetch {s : State} (h : s.Canonical) {u : State} (hu : s.fetch = .ok u) : u.Canonical := by
  unfold State.fetch at hu
  grind [State.Canonical.fetchFill]

theorem State.Canonical.updSet {s : State} (h : s.Canonical) (part line : Nat) (f : List Way → List Way) :
    (s.updSet part line f).Canonical := by
  unfold State.updSet
  split <;> exact h

theorem State.Canonical.unpinLines {s : State} (h : s.Canonical) (part : Nat) (lines : List Nat) : (s.unpinLines part lines).Canonical :=
  h.foldl (fun _ _ h => h.updSet ..) _

theorem State.Canonical.unreserve {s : State} (h : s.Canonical) (part : Nat) (lines : List Nat) : (s.unreserve part lines).Canonical :=
  h.foldl (fun _ _ h => h.updSet ..) _

theorem State.Canonical.updWaveK {s : State} (h : s.Canonical) (k : Nat) (f : Wave → Wave) : (s.updWaveK k f).Canonical :=
  (s.updWaveK_keepsWork k f).canonical h

theorem State.Canonical.setWave {s : State} (h : s.Canonical) (core slot : Nat) (w : Wave) : (s.setWave core slot w).Canonical := h

theorem State.Canonical.waveMeter {s : State} (h : s.Canonical) (key vi m inc : Nat) : (s.waveMeter key vi m inc).Canonical := by
  unfold State.waveMeter
  grind [State.Canonical, State.Canonical.addMeter, State.Canonical.updVi]

theorem State.Canonical.updWave {s : State} (h : s.Canonical) (core slot : Nat) (f : Wave → Wave) : (s.updWave core slot f).Canonical := h

theorem State.Canonical.latch {s : State} (h : s.Canonical) (core slot : Nat) (f : FaultRec) : (s.latch core slot f).Canonical := h

theorem State.Canonical.land {s : State} (h : s.Canonical) (core slot idx : Nat) (lanes : Lanes) :
    (s.land core slot idx lanes).Canonical := by
  unfold State.land
  dsimp only
  split
  · exact h
  · split
    · exact h
    · split
      · exact State.Canonical.foldl (fun _ _ h => h.waveMeter ..) _ (h.setWave ..)
      · exact (State.Canonical.foldl (fun _ _ h => h.waveMeter ..) _ (h.setWave ..)).latch ..

theorem State.Canonical.landAll {s : State} (h : s.Canonical) (core slot i : Nat) : (s.landAll core slot i).Canonical := by
  induction i generalizing s with
  | zero => exact h
  | succ n ih =>
    rw [State.landAll]
    split
    · exact ih (h.land ..)
    · exact h

theorem State.Canonical.landQuarter {s : State} (h : s.Canonical) (core slot i : Nat) : (s.landQuarter core slot i).Canonical := by
  induction i generalizing s with
  | zero => exact h
  | succ n ih =>
    rw [State.landQuarter]
    split
    · exact h
    · exact ih (h.foldl (fun _ _ h => h.landAll ..) _)

theorem State.Canonical.landWave {s : State} (h : s.Canonical) (core slot : Nat) : (s.landWave core slot).Canonical := by
  unfold State.landWave
  grind [State.Canonical, State.Canonical.landAll, State.Canonical.landQuarter]

theorem State.Canonical.winOwned {s : State} (h : s.Canonical) (owner wn j va : Nat) : (s.winOwned owner wn j va).2.Canonical :=
  (s.winOwned_keepsWork owner wn j va).canonical h

theorem State.Canonical.setWinPhys {s : State} (h : s.Canonical) (blk win j : Nat) (x : Nat × Nat) : (s.setWinPhys blk win j x).Canonical :=
  (s.setWinPhys_keepsWork blk win j x).canonical h

theorem State.Canonical.fillWin {s : State} (h : s.Canonical) (owner wn j : Nat) (x : Option Xlat) (d : Nat) :
    (s.fillWin owner wn j x d).Canonical :=
  (s.fillWin_keepsWork owner wn j x d).canonical h

theorem State.Canonical.dirTag {s : State} (h : s.Canonical) (part vi line : Nat) : (s.dirTag part vi line).Canonical :=
  (s.dirTag_keepsWork part vi line).canonical h

theorem State.Canonical.winTouch {s : State} (h : s.Canonical) {owner off : Nat} {write : Bool} {x : Option Xlat} {u : State}
    (hu : s.winTouch owner off write = .ok (x, u)) : u.Canonical := (State.winTouch_keepsWork hu).canonical h

theorem State.Canonical.fillSectors {s : State} (h : s.Canonical) (g : Agent) (l : Nat) (sec : BitVec 4) (y : L1Line) :
    (s.fillSectors g l sec y).2.Canonical :=
  (s.fillSectors_keepsWork g l sec y).canonical h

theorem State.Canonical.flushL1 {s : State} (h : s.Canonical) (core l : Nat) : (s.flushL1 core l).Canonical :=
  (s.flushL1_keepsWork core l).canonical h

theorem State.Canonical.putL1 {s : State} (h : s.Canonical) (g : Agent) (l : Nat) (y : L1Line) : (s.putL1 g l y).Canonical :=
  (s.putL1_keepsWork g l y).canonical h

theorem State.Canonical.fillC {s : State} (h : s.Canonical) (g : Agent) (l : Nat) (sec : BitVec 4) : (s.fillC g l sec).2.Canonical :=
  (s.fillC_keepsWork g l sec).canonical h

theorem State.Canonical.readGlobal {s : State} (h : s.Canonical) (g : Agent) (x : Xlat) (n : Nat) (home : Bool) :
    (s.readGlobal g x n home).2.Canonical :=
  (s.readGlobal_keepsWork g x n home).canonical h

theorem State.Canonical.sendMeter {s : State} (h : s.Canonical) (vi : Nat) (t : Target) (n : Nat) : (s.sendMeter vi t n).Canonical :=
  (s.sendMeter_keepsWork vi t n).canonical h

theorem State.Canonical.writeHome {s : State} (h : s.Canonical) (g : Agent) (x : Xlat) (n v : Nat) : (s.writeHome g x n v).Canonical :=
  (s.writeHome_keepsWork g x n v).canonical h

theorem State.Canonical.ownC {s : State} (h : s.Canonical) (g : Agent) (l : Nat) (sec : BitVec 4) : (s.ownC g l sec).2.Canonical :=
  (s.ownC_keepsWork g l sec).canonical h

theorem State.Canonical.writeGlobal {s : State} (h : s.Canonical) (g : Agent) (x : Xlat) (n v : Nat) : (s.writeGlobal g x n v).Canonical :=
  (s.writeGlobal_keepsWork g x n v).canonical h

theorem State.Canonical.recallForU {s : State} (h : s.Canonical) (l : Nat) (op : AtomOp) : (s.recallForU l op).Canonical :=
  (s.recallForU_keepsWork l op).canonical h

theorem State.Canonical.atomGlobal {s : State} (h : s.Canonical) (g : Agent) (x : Xlat) (op : AtomOp) (v expected : Nat)
    (near red : Bool) : (s.atomGlobal g x op v expected near red).2.Canonical :=
  (s.atomGlobal_keepsWork g x op v expected near red).canonical h

theorem State.Canonical.access1 {s : State} (h : s.Canonical) {g : Agent} {op : MemOp} {a : Acc} {v : Nat} {u : State}
    (hu : s.access1 g op a = .ok (v, u)) : u.Canonical := (State.access1_keepsWork hu).canonical h

theorem State.Canonical.wakeCell {s : State} (h : s.Canonical) (g : Agent) (op : MemOp) (a : Acc) : (s.wakeCell g op a).2.Canonical :=
  (s.wakeCell_keepsWork g op a).canonical h

theorem State.Canonical.wakeCells {s : State} (h : s.Canonical) (g : Agent) (op : MemOp) (as : List Acc) :
    (s.wakeCells g op as).2.Canonical :=
  (s.wakeCells_keepsWork g op as).canonical h

theorem State.Canonical.wakeFutures {s : State} (h : s.Canonical) : (s.wakeFutures).Canonical := (s.wakeFutures_keepsWork).canonical h

theorem State.Canonical.walkedFor {s : State} (h : s.Canonical) (core vi : Nat) (r : Raise) : (s.walkedFor core vi r).Canonical :=
  (s.walkedFor_keepsWork core vi r).canonical h

theorem State.Canonical.accesses {s : State} (h : s.Canonical) (g : Agent) (op : MemOp) (as : List Acc) :
    (s.accesses g op as).2.Canonical := by
  induction as generalizing s with
  | nil => exact h
  | cons a t ih => grind [State.accesses, State.Canonical.access1, State.Canonical.wakeFutures, State.Canonical.walkedFor]

theorem State.Canonical.cleanL1 {s : State} (h : s.Canonical) (core l : Nat) : (s.cleanL1 core l).Canonical := by
  unfold State.cleanL1
  grind [State.Canonical, State.Canonical.l2Write, State.Canonical.setL1, State.Canonical.handIn]

theorem State.Canonical.winWriteBack {s : State} (h : s.Canonical) (blk win j : Nat) {u : State} (hu : s.winWriteBack blk win j = .ok u) :
    u.Canonical := by
  unfold State.winWriteBack at hu
  grind [State.Canonical, State.Canonical.walkL2, State.Canonical.ownPage, State.Canonical.recall, State.Canonical.sendMeter,
    State.Canonical.l2Write, State.Canonical.winWriteHome]

theorem State.Canonical.putError {s : State} (h : s.Canonical) (vi : Nat) (r : ErrRec) : (s.putError vi r).Canonical :=
  (s.putError_keepsWork vi r).canonical h

theorem State.Canonical.linesVirt {s : State} (h : s.Canonical) (vi va n : Nat) {f : State → Xlat → Nat → Nat → State}
    (hf : ∀ s x lo len, s.Canonical → (f s x lo len).Canonical) : (s.linesVirt vi va n f).Canonical := by
  refine h.foldl (fun s i h => ?_) _
  dsimp only
  split
  · exact hf _ _ _ _ h
  · exact h

theorem State.Canonical.walkVirt {s : State} (h : s.Canonical) (part vi va n : Nat) : (s.walkVirt part vi va n).Canonical :=
  h.foldl (fun _ _ h => h.walkL2 ..) _

theorem State.Canonical.homeVirt {s : State} (h : s.Canonical) (part vi va n : Nat) (write : Bool) :
    (s.homeVirt part vi va n write).Canonical :=
  (s.homeVirt_keepsWork part vi va n write).canonical h

theorem State.Canonical.postError {s : State} (h : s.Canonical) (vi : Nat) (r : ErrRec) : (s.postError vi r).Canonical := by
  unfold State.postError
  grind [State.Canonical, State.Canonical.putError, State.Canonical.wakeFutures, State.Canonical.homeVirt]

theorem State.Canonical.postBlockError {s : State} (h : s.Canonical) (blk : Nat) (r : ErrRec) : (s.postBlockError blk r).Canonical := by
  unfold State.postBlockError
  grind [State.Canonical, State.Canonical.updPkt, State.Canonical.postError]

theorem State.Canonical.winWriteBackOr {s : State} (h : s.Canonical) (blk win j : Nat) (word : ErrRec) (after : WinLine) :
    (s.winWriteBackOr blk win j word after).Canonical := by
  unfold State.winWriteBackOr
  grind [State.Canonical, State.Canonical.winWriteBack, State.Canonical.wakeFutures, State.Canonical.setWinLine,
    State.Canonical.postBlockError, State.Canonical.walkedFor]

theorem State.Canonical.release {s : State} (h : s.Canonical) (core blk : Nat) (scope : Scope) (word : ErrRec) :
    (s.release core blk scope word).Canonical := by
  unfold State.release
  split
  · exact h
  · exact h
  · exact h.foldl (fun _ _ h => h.cleanL1 ..) _
  all_goals exact (h.foldl (fun _ _ h => h.cleanL1 ..) _).foldl (fun _ _ h => h.winWriteBackOr ..) _

theorem State.Canonical.updPart {s : State} (h : s.Canonical) (p : Nat) (f : Part → Part) : (s.updPart p f).Canonical := h

theorem State.Canonical.ticket {s : State} (h : s.Canonical) (g : Agent) (op : MemOp) : (s.ticket g op).Canonical := by
  unfold State.ticket
  grind [State.Canonical, State.Canonical.updCore, State.Canonical.updPart]

theorem State.Canonical.consumeStash {s : State} (h : s.Canonical) (owner off : Nat) : (s.consumeStash owner off).2.Canonical := by
  unfold State.consumeStash
  dsimp only
  split <;> exact h

theorem State.Canonical.spendLine {s : State} (h : s.Canonical) (part line : Nat) : (s.spendLine part line).Canonical := by
  unfold State.spendLine
  dsimp only
  split <;> exact h

theorem State.Canonical.countLine {s : State} (h : s.Canonical) (vi line : Nat) (here : Bool) : (s.countLine vi line here).Canonical :=
  (s.countLine_keepsWork vi line here).canonical h

theorem State.Canonical.consumeGlobal {s : State} (h : s.Canonical) (g : Agent) (x : Xlat) : (s.consumeGlobal g x).2.Canonical := by
  unfold State.consumeGlobal
  grind [State.Canonical, State.Canonical.l2Access, State.Canonical.spendLine, State.Canonical.recall, State.Canonical.countLine]

theorem State.Canonical.consume1 {s : State} (h : s.Canonical) {g : Agent} {memo : List (Nat × Consumed)} {a : Acc}
    {c : Consumed} {memo' : List (Nat × Consumed)} {u : State} (hu : s.consume1 g memo a = .ok (c, memo', u)) : u.Canonical := by
  unfold State.consume1 at hu
  dsimp only at hu
  split at hu
  · split at hu
    · cases hu
    · split at hu
      · cases hu
      · next ht =>
        have ht := h.winTouch ht
        split at hu
        · cases hu
        · split at hu
          · cases hu
            exact ht
          · cases hu
            exact ht.consumeStash ..
  · split at hu
    · cases hu
    · next ht =>
      have ht := h.translate ht
      split at hu
      · cases hu
      · split at hu
        · cases hu
          exact ht
        · cases hu
          exact ht.consumeGlobal ..

theorem State.Canonical.consumes {s : State} (h : s.Canonical) (g : Agent) (n : Nat) (memo : List (Nat × Consumed)) (as : List Acc) :
    (s.consumes g n memo as).2.Canonical := by
  induction as generalizing s memo with
  | nil => exact h
  | cons a t ih => grind [State.consumes, State.Canonical.consume1, State.Canonical.walkedFor]

theorem State.Canonical.acquire {s : State} (h : s.Canonical) (core blk : Nat) (scope : Scope) : (s.acquire core blk scope).Canonical := by
  unfold State.acquire
  split
  · exact State.Canonical.foldl (fun _ _ h => h.setWinLine ..) _ h
  · exact h

theorem State.Canonical.coreRequest {s : State} (h : s.Canonical) (core n : Nat) : (s.coreRequest core n).Canonical := by
  unfold State.coreRequest
  grind [State.Canonical, State.Canonical.request]

theorem State.Canonical.updStrand {s : State} (h : s.Canonical) (core slot n : Nat) (f : Strand → Strand) :
    (s.updStrand core slot n f).Canonical :=
  h

theorem State.Canonical.note {s : State} (h : s.Canonical) (core slot n : Nat) (x : Note) : (s.note core slot n x).Canonical := h

theorem State.Canonical.performMem {s : State} (h : s.Canonical) (core slot : Nat) (q : QEntry) (op : MemOp) :
    (s.performMem core slot q op).Canonical := by
  delta State.performMem
  extract_lets g rel acq s1 src s2 miss dropped
  have h1 : s1.Canonical := State.Canonical.ite (h.release ..) h
  have h2 : s2.Canonical := h1.ticket ..
  split
  next d t hd =>
  have ht : t.Canonical := by
    have hd := congrArg Prod.snd hd
    simp only at hd
    rw [← hd]
    split
    · exact h2.consumes ..
    · split
      · exact h2
      · split
        · exact h2
        · exact h2.accesses ..
      · exact h2.accesses ..
  extract_lets s3 s4
  have h3 : s4.Canonical := State.Canonical.ite (State.Canonical.acquire (s := s3) ht ..) ht
  split
  next vec sca _ =>
  extract_lets s5 s6
  have h5 : s5.Canonical := State.Canonical.ite (h3.updWave ..) (State.Canonical.ite h3 (h3.coreRequest ..))
  have h6 : s6.Canonical := h5.foldl (fun _ _ h => h.note ..) _
  split
  · exact h6
  · split
    · exact h6
    · exact (h6.updWave ..).latch ..

theorem State.Canonical.tryCell {s : State} (h : s.Canonical) (g : Agent) (op : MemOp) (a : Acc) : (s.tryCell g op a).2.Canonical :=
  (s.tryCell_keepsWork g op a).canonical h

theorem State.Canonical.tryCells {s : State} (h : s.Canonical) (g : Agent) (op : MemOp) (as : List Acc) :
    (s.tryCells g op as).2.Canonical :=
  (s.tryCells_keepsWork g op as).canonical h

theorem State.Canonical.clearJoins {s : State} (h : s.Canonical) (blk i : Nat) : (s.clearJoins blk i).Canonical := by
  induction i generalizing s with
  | zero => exact h
  | succ n ih =>
    rw [State.clearJoins]
    split
    · exact h
    · dsimp only
      split
      · exact ih (h.release ..)
      · exact ih h

theorem State.Canonical.pinLine {s : State} (h : s.Canonical) (part vi line : Nat) : (s.pinLine part vi line).2.2.Canonical := by
  unfold State.pinLine
  grind [State.Canonical, State.Canonical.l2Access]

theorem State.Canonical.pinLines {s : State} (h : s.Canonical) (part vi : Nat) (e : MatEntry) : (s.pinLines part vi e).2.Canonical := by
  refine State.Canonical.foldl_of (fun a : MatEntry × State => a.2) (fun a l h => ?_) _ h
  dsimp only
  split
  · exact h
  · exact h.pinLine ..

theorem State.Canonical.pushMatrix {s : State} (h : s.Canonical) (blk : Nat) (e : MatEntry) : (s.pushMatrix blk e).Canonical := by
  unfold State.pushMatrix
  grind [State.Canonical, State.Canonical.pinLines, State.Canonical.updBlock]

theorem State.Canonical.pushEngine {s : State} (h : s.Canonical) (blk q : Nat) (e : EngEntry) : (s.pushEngine blk q e).Canonical := h

theorem State.Canonical.sendHeap {s : State} (h : s.Canonical) (core slot : Nat) (q : QEntry) (kind : HeapKind)
    (x1 : List (Nat × Word × Word)) : (s.sendHeap core slot q kind x1).Canonical := by
  induction x1 generalizing s with
  | nil => exact h
  | cons p t ih =>
    obtain ⟨lane, handle, v⟩ := p
    rw [State.sendHeap]
    dsimp only
    split
    · exact ih h
    · exact ih (h.note ..)

theorem State.Canonical.addScalar {s : State} (h : s.Canonical) (key strand d : Nat) (x : Word) (seq : Nat) :
    (s.addScalar key strand d x seq).Canonical :=
  h

theorem State.Canonical.ringOp {s : State} (h : s.Canonical) (core slot : Nat) (q : QEntry) (prod : Bool) (ring : Nat) (n : Word)
    (d : Nat) : (s.ringOp core slot q prod ring n d).Canonical := by
  unfold State.ringOp
  dsimp only
  split
  · exact h.addScalar ..
  · split
    · exact h.addScalar ..
    · split
      · split
        · exact h.updBlock ..
        · split
          · exact (h.updBlock ..).addScalar ..
          · exact ((h.updBlock ..).acquire ..).addScalar ..
      · exact State.Canonical.foldl (fun _ _ h => h.addScalar ..) _ (((h.release ..).updBlock ..).addScalar ..)

theorem State.Canonical.wbLines {s : State} (h : s.Canonical) (blk win : Nat) (op : PortOp) (base : DWord) (ls : List Nat) :
    (s.wbLines blk win op base ls).2.Canonical := by
  induction ls generalizing s with
  | nil => exact h
  | cons j t ih => grind [State.wbLines, State.Canonical.winWriteBack, State.Canonical.wakeFutures, State.Canonical.walkedFor]

theorem State.Canonical.dropWin {s : State} (h : s.Canonical) (blk win : Nat) : (s.dropWin blk win).Canonical := h

theorem State.Canonical.sunmap {s : State} (h : s.Canonical) (blk : Nat) (op : PortOp) (wb : Bool) : (s.sunmap blk op wb).2.Canonical := by
  unfold State.sunmap
  grind [State.Canonical, State.Canonical.wbLines, State.Canonical.dropWin]

theorem State.Canonical.ackLine {s : State} (h : s.Canonical) (part : Nat) (x : Xlat) : (s.ackLine part x).Canonical := by
  unfold State.ackLine
  grind [State.Canonical, State.Canonical.toDevice, State.Canonical.sliceRequest, State.Canonical.chargeBytes]

theorem State.Canonical.ackWin {s : State} (h : s.Canonical) (blk win j : Nat) : (s.ackWin blk win j).Canonical := by
  unfold State.ackWin
  grind [State.Canonical, State.Canonical.ackLine]

theorem State.Canonical.dropCount {s : State} (h : s.Canonical) (g : Agent) (va : Nat) {u : State} (hu : s.dropCount g va = .ok u) :
    u.Canonical := by
  unfold State.dropCount at hu
  grind [State.Canonical.translate, State.Canonical.spendLine, State.Canonical.updBlock]

theorem State.Canonical.maintainLine {s : State} (h : s.Canonical) (g : Agent) (kind : PortKind) (va : Nat) {u : State}
    (hu : s.maintainLine g kind va = .ok u) : u.Canonical := by
  have hwins : ∀ (t v : State), t.Canonical → ((t.winLinesIn g va).foldl (fun (a : Except Raise State) c =>
      a.bind fun s => (s.winWriteBack c.1 c.2.1 c.2.2).map fun s =>
        ((s.setWinLine c.1 c.2.1 c.2.2 .clean).ackWin c.1 c.2.1 c.2.2).wakeFutures) (.ok t)) = .ok v → v.Canonical := by
    intro t v ht hv
    refine ht.foldBind (fun c s w hs hw => ?_) _ hv
    cases hb : s.winWriteBack c.1 c.2.1 c.2.2 with
    | error r => rw [hb] at hw; cases hw
    | ok z =>
      rw [hb] at hw
      cases hw
      exact (((hs.winWriteBack _ _ _ hb).setWinLine ..).ackWin ..).wakeFutures
  unfold State.maintainLine at hu
  dsimp only at hu
  split at hu
  · cases hu
    exact h.updCore ..
  · exact h.dropCount _ _ hu
  · split at hu
    · cases hu
      exact h
    · cases ht : s.translate g.core g.vi va .any with
      | error r => rw [ht] at hu; cases hu
      | ok p =>
        rw [ht] at hu
        cases hu
        exact (h.translate ht).flushL1 ..
  · split at hu
    · exact hwins _ _ h hu
    · split at hu
      · cases hu
      · next x t ht =>
        cases hw : (t.cleanL1 g.core x.line).winLinesIn g va |>.foldl (fun (a : Except Raise State) c =>
          a.bind fun s => (s.winWriteBack c.1 c.2.1 c.2.2).map fun s =>
            ((s.setWinLine c.1 c.2.1 c.2.2 .clean).ackWin c.1 c.2.1 c.2.2).wakeFutures) (.ok (t.cleanL1 g.core x.line)) with
        | error r => rw [hw] at hu; cases hu
        | ok v =>
          rw [hw] at hu
          cases hu
          exact (hwins _ _ ((h.translate ht).cleanL1 ..) hw).ackLine ..
  · cases hu
    exact h

theorem State.Canonical.maintain {s : State} (h : s.Canonical) (g : Agent) (kind : PortKind) (stop n va : Nat) :
    (s.maintain g kind stop n va).2.Canonical := by
  induction n generalizing s va with
  | zero => exact h
  | succ n ih => grind [State.maintain, State.Canonical.maintainLine]

theorem State.Canonical.actPort {s : State} (h : s.Canonical) (core slot : Nat) (op : PortOp) : (s.actPort core slot op).2.Canonical := by
  unfold State.actPort
  grind [State.Canonical, State.Canonical.sunmap, State.Canonical.maintain, State.Canonical.walkedFor]

theorem State.Canonical.actBefore {s : State} (h : s.Canonical) (core slot : Nat) (lanes : Lanes) :
    (s.actBefore core slot lanes).Canonical := by
  refine h.foldl (fun _ _ h => ?_) _
  exact h.actPort ..

theorem State.Canonical.startPort {s : State} (h : s.Canonical) (core slot : Nat) (op : PortOp) (lanes : Lanes) :
    (s.startPort core slot op lanes).Canonical := by
  unfold State.startPort
  grind [State.Canonical, State.Canonical.actPort, State.Canonical.actBefore, State.Canonical.updWave]

theorem State.Canonical.unretain {s : State} (h : s.Canonical) (vi slot : Nat) : (s.unretain vi slot).Canonical := h

theorem State.Canonical.unpin {s : State} (h : s.Canonical) (vi slot : Nat) : (s.unpin vi slot).Canonical := h

theorem State.Canonical.pin {s : State} (h : s.Canonical) (vi slot ways base size : Nat) : (s.pin vi slot ways base size).Canonical := by
  unfold State.pin
  split <;> exact h

theorem State.Canonical.writeVirt {s : State} (h : s.Canonical) (vi va : Nat) (bs : List Byte) {u : State}
    (hu : s.writeVirt vi va bs = .ok u) : u.Canonical :=
  (s.writeVirt_keepsWork vi va bs hu).canonical h

theorem State.Canonical.ringWrite {s : State} (h : s.Canonical) (vi : Nat) (recs : List (List Byte)) {u : State}
    (hu : s.ringWrite vi recs = some u) : u.Canonical :=
  (s.ringWrite_keepsWork vi recs hu).canonical h

theorem State.Canonical.traceRec {s : State} (h : s.Canonical) (core slot kind strand : Nat) (payload : Word) (pc : DWord) (aux : Nat) :
    (s.traceRec core slot kind strand payload pc aux).Canonical :=
  (s.traceRec_keepsWork core slot kind strand payload pc aux).canonical h

theorem State.Canonical.arrive {s : State} (h : s.Canonical) (core slot id : Nat) (adj : Int) (strand : Nat) (pc : DWord) :
    (s.arrive core slot id adj strand pc).2.Canonical := by
  unfold State.arrive
  grind [State.Canonical, State.Canonical.release, State.Canonical.updBlock, State.Canonical.updWave, State.Canonical.traceRec]

theorem State.Canonical.performQ {s : State} (h : s.Canonical) (core slot : Nat) (q : QEntry) : (s.performQ core slot q).Canonical := by
  unfold State.performQ
  dsimp only
  split
  · exact h.performMem ..
  · exact (h.release ..).acquire ..
  · refine State.Canonical.clearJoins (State.Canonical.foldl (fun _ _ h => ?_) _ (h.updBlock ..)) ..
    exact State.Canonical.ite (h.pushMatrix ..) (h.pushEngine ..)
  · exact h.pushEngine ..
  · exact h.pushMatrix ..
  · exact State.Canonical.sendHeap (State.Canonical.ite (h.release ..) h) ..
  · exact h.ringOp ..
  · exact h.startPort ..
  · exact h.pin ..
  · split
    · exact ((h.arrive ..).updStrand ..).updWave ..
    · exact (h.arrive ..).updStrand ..

theorem State.Canonical.runEntry {s : State} (h : s.Canonical) (core slot : Nat) (q : QEntry) : (s.runEntry core slot q).Canonical := by
  have hr : State.Canonical (s.updWave core slot fun w => { w with queue := w.queue.filter fun e => e.id != q.id }) := h.updWave ..
  unfold State.runEntry
  dsimp only
  split
  · split
    · split
      · split
        · refine State.Canonical.latch (State.Canonical.performMem (State.Canonical.updWave ?_ ..) ..) ..
          exact h.foldl (fun _ _ h => h.walkedFor ..) _
        · exact h
      · split
        · split
          · refine State.Canonical.performMem (State.Canonical.updWave ?_ ..) ..
            exact h.wakeCells ..
          · refine State.Canonical.updWave ?_ ..
            exact h.wakeCells ..
        · split
          · refine State.Canonical.performMem (State.Canonical.updWave ?_ ..) ..
            exact State.Canonical.tryCells (s := { s with asked := some [] }) h ..
          · refine State.Canonical.updWave ?_ ..
            exact State.Canonical.tryCells (s := { s with asked := some [] }) h ..
    · exact hr.performQ ..
  · exact hr.performQ ..

theorem State.Canonical.drainPass {s : State} (h : s.Canonical) (core slot : Nat) : (s.drainPass core slot).Canonical := by
  refine h.foldl (fun _ _ h => ?_) _
  split
  · split
    · exact h.runEntry ..
    · exact h
  · exact h

theorem State.Canonical.drainPasses {s : State} (h : s.Canonical) (core slot k : Nat) : (s.drainPasses core slot k).Canonical := by
  induction k generalizing s with
  | zero => exact h
  | succ n ih =>
    rw [State.drainPasses]
    split
    · exact h.drainPass ..
    · exact ih (h.drainPass ..)

theorem State.Canonical.drainQueue {s : State} (h : s.Canonical) (core slot : Nat) : (s.drainQueue core slot).Canonical := by
  unfold State.drainQueue
  grind [State.Canonical, State.Canonical.drainPasses]

theorem State.Canonical.served {s : State} (h : s.Canonical) : (s.served).Canonical := h

theorem State.Canonical.landMisses {s : State} (h : s.Canonical) : (s.landMisses).Canonical := h.served.foldl (fun _ _ h => h.landWave ..) _

theorem State.Canonical.drainRounds {s : State} (h : s.Canonical) (core slot k : Nat) : (s.drainRounds core slot k).Canonical := by
  induction k generalizing s with
  | zero => exact h
  | succ n ih => grind [State.drainRounds, State.Canonical.drainQueue, State.Canonical.landWave, State.Canonical.landMisses]

theorem State.Canonical.drainWave {s : State} (h : s.Canonical) (core slot : Nat) : (s.drainWave core slot).Canonical := by
  unfold State.drainWave
  grind [State.Canonical, State.Canonical.landWave, State.Canonical.drainRounds]

theorem State.Canonical.dropBarriers {s : State} (h : s.Canonical) (core slot strand : Nat) (pc : DWord) :
    (s.dropBarriers core slot strand pc).Canonical :=
  h.foldl (fun _ _ h => h.arrive ..) _

theorem State.Canonical.runWaveEnds {s : State} (h : s.Canonical) (part heap : Nat) (failed : Bool) :
    (s.runWaveEnds part heap failed).Canonical :=
  h

theorem State.Canonical.detachHeapOps {s : State} (h : s.Canonical) (part blk : Nat) : (s.detachHeapOps part blk).Canonical := h

theorem State.Canonical.updateRanges {s : State} (h : s.Canonical) (core : Nat) : (s.updateRanges core).Canonical := h

theorem State.Canonical.reportCounts {s : State} (h : s.Canonical) (blk : Nat) : (s.reportCounts blk).Canonical := by
  unfold State.reportCounts
  grind [State.Canonical, State.Canonical.updBlock, State.Canonical.updPkt]

theorem State.Canonical.releaseStash {s : State} (h : s.Canonical) (blk : Nat) : (s.releaseStash blk).Canonical := by
  unfold State.releaseStash
  exact ((h.foldl (fun _ _ h => h.winWriteBackOr ..) _).updBlock ..).reportCounts _

theorem State.Canonical.blockExit {s : State} (h : s.Canonical) (blk : Nat) : (s.blockExit blk).Canonical := by
  unfold State.blockExit
  grind [State.Canonical, State.Canonical.updBlock, State.Canonical.updateRanges, State.Canonical.updPkt, State.Canonical.releaseStash]

theorem State.Canonical.endBlock {s : State} (h : s.Canonical) (core slot : Nat) (f : FaultRec) (tskid : Nat) :
    (s.endBlock core slot f tskid).Canonical := by
  delta State.endBlock
  extract_lets w blk b s1 s2 s3 s4 s5 s6 s7 r s8 s9 s10 s11 s12 s13
  have h2 : s2.Canonical := (h.unpinLines ..).unreserve ..
  have h3 : s3.Canonical := h2.updBlock ..
  have h4 : s4.Canonical := h3.foldl (fun _ _ h => h.updWaveK ..) _
  have h5 : s5.Canonical := h4.foldl (fun _ _ h => h.drainWave ..) _
  have h6 : s6.Canonical := h5.foldl (fun _ _ h => State.Canonical.ite (h.dropBarriers ..) (h.dropBarriers ..)) _
  have h8 : s8.Canonical := State.Canonical.postBlockError (s := s7) (h6.updBlock ..) ..
  have h9 : s9.Canonical := State.Canonical.ite (h8.updPart ..) h8
  have h11 : s11.Canonical := State.Canonical.ite (State.Canonical.runWaveEnds (s := s10) (h9.updPkt ..) ..) (h9.updPkt ..)
  have h12 : s12.Canonical := h11.detachHeapOps ..
  have h13 : s13.Canonical := h12
  exact (h13.updBlock ..).blockExit _

theorem State.Canonical.haltBlock {s : State} (h : s.Canonical) (blk key : Nat) : (s.haltBlock blk key).Canonical := by
  refine State.Canonical.foldl (fun _ _ h => ?_) _ (h.updBlock ..)
  dsimp only
  split
  · split
    · exact h.updWaveK ..
    · exact (h.updWaveK ..).latch ..
  · exact h.updWaveK ..

theorem State.Canonical.haltForTrap {s : State} (h : s.Canonical) (core slot : Nat) (f : FaultRec) (skid : Nat) :
    (s.haltForTrap core slot f skid).Canonical :=
  State.Canonical.foldl (fun _ _ h => h.drainWave ..) _ (h.haltBlock ..)

theorem State.Canonical.storeBytes {s : State} (h : s.Canonical) (core slot n va k : Nat) (bs : List Byte) {u : State}
    (hu : s.storeBytes core slot n va k bs = .ok u) : u.Canonical :=
  (s.storeBytes_keepsWork core slot n va k bs hu).canonical h

theorem State.Canonical.siblingHeader {s : State} (h : s.Canonical) (core slot : Nat) {u : State}
    (hu : s.siblingHeader core slot = .ok u) : u.Canonical :=
  (s.siblingHeader_keepsWork core slot hu).canonical h

theorem State.Canonical.writeFrames {s : State} (h : s.Canonical) (core slot : Nat) (ks : List Nat) {u : State}
    (hu : s.writeFrames core slot ks = .ok u) : u.Canonical :=
  (State.writeFrames_keepsWork hu).canonical h

theorem State.Canonical.startHandler {s : State} (h : s.Canonical) (core slot : Nat) (f : FaultRec) :
    (s.startHandler core slot f).Canonical :=
  h

theorem State.Canonical.takeTrap {s : State} (h : s.Canonical) (core slot : Nat) : (s.takeTrap core slot).Canonical := by
  unfold State.takeTrap
  grind [State.Canonical, State.Canonical.endBlock, State.Canonical.haltForTrap, State.Canonical.writeFrames, State.Canonical.walkedFor,
    State.Canonical.startHandler, State.Canonical.traceRec]

theorem State.Canonical.settle {s : State} (h : s.Canonical) (core slot : Nat) : (s.settle core slot).Canonical := by
  unfold State.settle
  grind [State.Canonical, State.Canonical.takeTrap]

theorem State.Canonical.updCw {s : State} (h : s.Canonical) (f : Wave → Wave) : (s.updCw f).Canonical := h

theorem State.Canonical.updCs {s : State} (h : s.Canonical) (f : Strand → Strand) : (s.updCs f).Canonical := h

theorem State.Canonical.fetchFault {s : State} (h : s.Canonical) (r : Raise) : (s.fetchFault r).Canonical := by
  unfold State.fetchFault
  grind [State.Canonical, State.Canonical.settle, State.Canonical.latch, State.Canonical.updCs]

theorem State.Canonical.fetchNext {s : State} (h : s.Canonical) (core slot n : Nat) : (s.fetchNext core slot n).Canonical := by
  have ht : State.Canonical { s with cur := (core, slot, n) } := h
  unfold State.fetchNext
  dsimp only
  split
  · exact h
  · split
    · next hu => exact ht.fetch hu
    · exact (ht.walkedFor ..).fetchFault _

theorem State.Canonical.laneCycle {s : State} (h : s.Canonical) (core quarter : Nat) : (s.laneCycle core quarter).Canonical := by
  unfold State.laneCycle
  dsimp only
  split <;> exact h

theorem State.Canonical.roleToCompute {s : State} (h : s.Canonical) (blk : Nat) : (s.roleToCompute blk).Canonical := by
  unfold State.roleToCompute
  grind [State.Canonical, State.Canonical.updBlock, State.Canonical.updWaveK]

theorem State.Canonical.roleToLoader {s : State} (h : s.Canonical) (blk : Nat) : (s.roleToLoader blk).Canonical := by
  unfold State.roleToLoader
  grind [State.Canonical, State.Canonical.updBlock, State.Canonical.updWaveK]

theorem State.Canonical.roleChanges {s : State} (h : s.Canonical) : (s.roleChanges).Canonical := by
  refine h.foldl (fun _ _ h => ?_) _
  split
  · exact (h.roleToLoader _).roleToCompute _
  · exact h

theorem State.Canonical.cycle1 {s : State} (h : s.Canonical) : (s.cycle1).Canonical := by
  delta State.cycle1
  extract_lets s1 t s2
  have h1 : s1.Canonical := h.foldl
    (fun _ _ h => State.Canonical.ite h (h.foldl (fun _ _ h => h.foldl (fun _ _ h => h.laneCycle ..) _) _)) _
  have ht : t.Canonical := h1
  exact ht.roleChanges.of_mem_eq rfl rfl

theorem State.Canonical.cycles {s : State} (h : s.Canonical) (k : Nat) : (s.cycles k).Canonical := by
  induction k generalizing s with
  | zero => exact h
  | succ n ih => exact ih h.cycle1

theorem State.Canonical.tick {s : State} (h : s.Canonical) (n : Nat) : (s.tick n).Canonical := by
  unfold State.tick
  grind [State.Canonical, State.Canonical.served, State.Canonical.cycles]

theorem State.Canonical.issueCycle {s : State} (h : s.Canonical) (core slot : Nat) : (s.issueCycle core slot).Canonical := by
  unfold State.issueCycle
  grind [State.Canonical, State.Canonical.tick]

theorem State.Canonical.raiseHere {s : State} (h : s.Canonical) (i : Instr) (r : Raise) : (s.raiseHere i r).Canonical := by
  unfold State.raiseHere
  grind [State.Canonical, State.Canonical.settle, State.Canonical.latch, State.Canonical.updCs]

theorem State.Canonical.parkHere {s : State} (h : s.Canonical) (p : Park) (i : Instr) (arg : Nat) : (s.parkHere p i arg).Canonical := h

theorem State.Canonical.marker {s : State} (h : s.Canonical) (m : Bool) : (s.marker m).Canonical := by
  unfold State.marker
  split <;> exact h

theorem State.Canonical.advance {s : State} (h : s.Canonical) : (s.advance).Canonical := h

theorem State.Canonical.run {s : State} (h : s.Canonical) {i : Instr} {m : Bool} {static : List (Option Raise)} {reads : List Nat}
    {dynamic : List (Option Raise)} {eff : State → State} {busy : Option Park} (heff : ∀ t, t.Canonical → (eff t).Canonical) :
    Outcome.Canonical (s.run i m static reads dynamic eff busy) := by
  refine Outcome.canonical_next ?_
  split
  · exact h.raiseHere ..
  · split
    · exact h.parkHere ..
    · split
      · exact h.raiseHere ..
      · split
        · exact h.parkHere ..
        · exact ((heff _ h.advance).marker m).settle ..

theorem State.Canonical.result {s0 : State} {s : State} (h : s.Canonical) (i : Instr) (r : Result) : (s0.result i r s).Canonical := h

theorem State.Canonical.floatOp {s : State} (h : s.Canonical) (i : Instr) (m : Bool) (ty : FTy) (d a : VReg) (b : Code) (fused : Bool)
    (f : FloatFn) : Outcome.Canonical (s.floatOp i m ty d a b fused f) := by
  unfold State.floatOp
  exact h.run fun _ ht => ht.result ..

theorem State.Canonical.intOp {s : State} (h : s.Canonical) (i : Instr) (m : Bool) (ty : ITy) (d a : VReg) (b : Code) (fused : Bool)
    (f : IntFn) : Outcome.Canonical (s.intOp i m ty d a b fused f) := by
  unfold State.intOp
  exact h.run fun _ ht => ht.result ..

theorem State.Canonical.shiftOp {s : State} (h : s.Canonical) (i : Instr) (m : Bool) (ty : ITy) (d a : VReg) (b : Code)
    (f : Nat → Nat → Nat → Nat) : Outcome.Canonical (s.shiftOp i m ty d a b f) := by
  unfold State.shiftOp
  exact h.run fun _ ht => ht.result ..

theorem State.Canonical.miscOp {s : State} (h : s.Canonical) (i : Instr) (m : Bool) (d : VReg) (srcs : List VReg) (k : Kind)
    (b : Option Code) (f : Nat → Nat) : Outcome.Canonical (s.miscOp i m d srcs k b f) :=
  h.run fun _ ht => ht.result ..

theorem State.Canonical.convOp {s : State} (h : s.Canonical) (i : Instr) (m : Bool) (d a : VReg) (sw dw : Bool) (f : Nat → Nat → FRes) :
    Outcome.Canonical (s.convOp i m d a sw dw f) :=
  h.run fun _ ht => ht.result ..

theorem State.Canonical.sfuOp {s : State} (h : s.Canonical) (i : Instr) (m : Bool) (d : VReg) (b : Code) (f : FVal → FRes) :
    Outcome.Canonical (s.sfuOp i m d b f) := by
  unfold State.sfuOp
  exact h.run fun _ ht => ht.result ..

theorem State.Canonical.cmpOp {s : State} (h : s.Canonical) (i : Instr) (m : Bool) (k : KReg) (a : VReg) (b : Code) (kd : Kind)
    (f : Nat → Nat → Bool × BitVec 5) : Outcome.Canonical (s.cmpOp i m k a b kd f) :=
  h.run fun _ ht => ht.result ..

theorem State.Canonical.parkOn {s : State} (h : s.Canonical) (p : Park) (i : Instr) (arg : Word) : (s.parkOn p i arg).Canonical := h

theorem State.Canonical.parkFget {s0 : State} {s : State} (h : s.Canonical) (i : Instr) (q : QEntry) : (s0.parkFget i q s).Canonical := by
  unfold State.parkFget
  grind [State.Canonical, State.Canonical.parkOn]

theorem State.Canonical.pushQ {s : State} (h : s.Canonical) (core slot : Nat) (q : QEntry) : (s.pushQ core slot q).Canonical := h

theorem State.Canonical.issueQ {s : State} (h : s.Canonical) (core slot : Nat) (q : QEntry) : (s.issueQ core slot q).Canonical := by
  unfold State.issueQ
  grind [State.Canonical, State.Canonical.pushQ, State.Canonical.runEntry]

theorem State.Canonical.vecMem {s : State} (h : s.Canonical) (i : Instr) (m : Bool) (kind : MemKind) (ord : Ordq) (ssq : Bool) (a : VReg)
    (b : BitVec 5) (static : List (Option Raise)) (data : Nat → BitVec 128) (cmp : Nat → Word) : Outcome.Canonical
    (s.vecMem i m kind ord ssq a b static data cmp) := by
  unfold State.vecMem
  exact h.run fun _ ht => (ht.issueQ ..).parkFget ..

theorem State.Canonical.vload {s : State} (h : s.Canonical) (i : Instr) (m : Bool) (n : Nat) (sgn : Bool) (t a : VReg) (b : BitVec 5)
    (q : LdQ) : Outcome.Canonical (s.vload i m n sgn t a b q) := by
  unfold State.vload
  grind [State.Canonical, State.Canonical.vecMem]

theorem State.Canonical.vstore {s : State} (h : s.Canonical) (i : Instr) (m : Bool) (n : Nat) (t a : VReg) (b : BitVec 5) (q : StQ) :
    Outcome.Canonical (s.vstore i m n t a b q) := by
  unfold State.vstore
  grind [State.Canonical, State.Canonical.vecMem]

theorem State.Canonical.scal {s : State} (h : s.Canonical) (i : Instr) (m : Bool) (d a : SReg) (b : SOp) (f : Word → Word → Word) :
    Outcome.Canonical (s.scal i m d a b f) :=
  h.run fun _ ht => ht.result ..

theorem State.Canonical.scal64 {s : State} (h : s.Canonical) (i : Instr) (m : Bool) (d : SReg) (reads : List Nat) (x : DWord) :
    Outcome.Canonical (s.scal64 i m d reads x) :=
  h.run fun _ ht => ht.result ..

theorem State.Canonical.scalUn {s : State} (h : s.Canonical) (i : Instr) (m : Bool) (d a : SReg) (f : Word → Nat) : Outcome.Canonical
    (s.scalUn i m d a f) :=
  h.run fun _ ht => ht.result ..

theorem State.Canonical.kop {s : State} (h : s.Canonical) (i : Instr) (m : Bool) (d : KReg) (reads : List Nat) (x : Lanes) :
    Outcome.Canonical (s.kop i m d reads x) :=
  h.run fun _ ht => ht.result ..

theorem State.Canonical.runQ {s : State} (h : s.Canonical) {i : Instr} {m : Bool} {static : List (Option Raise)} {reads : List Nat}
    {dynamic : List (Option Raise)} {q : QEntry} {before : State → State} (hb : ∀ t, t.Canonical → (before t).Canonical) :
    Outcome.Canonical (s.runQ i m static reads dynamic q before) := h.run fun t ht => (hb t ht).issueQ ..

theorem State.Canonical.scaMem {s : State} (h : s.Canonical) (i : Instr) (m : Bool) (kind : MemKind) (ssq : Bool) (addr : DWord)
    (static : List (Option Raise)) (reads : List Nat) (data : BitVec 128) (cmp : Word) : Outcome.Canonical
    (s.scaMem i m kind ssq addr static reads data cmp) :=
  h.runQ fun _ ht => ht

theorem State.Canonical.sload {s : State} (h : s.Canonical) (i : Instr) (m : Bool) (n : Nat) (d a : SReg) (b : SOp) : Outcome.Canonical
    (s.sload i m n d a b) := by
  unfold State.sload
  grind [State.Canonical, State.Canonical.scaMem]

theorem State.Canonical.satom {s : State} (h : s.Canonical) (i : Instr) (m : Bool) (op : AtomOp) (d a b : SReg) (reads : List Nat)
    (expected : Word) : Outcome.Canonical (s.satom i m op d a b reads expected) := by
  unfold State.satom
  grind [State.Canonical, State.Canonical.scaMem]

theorem State.Canonical.branch {n : Nat} {s : State} (h : s.Canonical) (i : Instr) (m : Bool) (reads : List Nat) (field : BitVec n)
    (taken : Bool) : Outcome.Canonical (s.branch i m reads field taken) := by
  unfold State.branch
  refine h.run fun _ ht => ?_
  split
  · exact ht.updCs _
  · exact ht

theorem State.Canonical.overtake {s0 : State} {s : State} (h : s.Canonical) (rs : List Nat) : (s0.overtake rs s).Canonical := h

theorem State.Canonical.setsAm {s0 : State} {s : State} (h : s.Canonical) : (s0.setsAm s).Canonical := h

theorem State.Canonical.report {s : State} (h : s.Canonical) (core slot n : Nat) (l : List Note) (tpc : DWord) :
    (s.report core slot n l tpc).Canonical := by
  unfold State.report
  split <;> exact h

theorem State.Canonical.reportNoted {s : State} (h : s.Canonical) (core slot n : Nat) (extra : List Note) (tpc : DWord) :
    (s.reportNoted core slot n extra tpc).Canonical := by
  unfold State.reportNoted
  grind [State.Canonical, State.Canonical.report, State.Canonical.updStrand]

theorem State.Canonical.afterWord {s : State} (h : s.Canonical) (core slot n : Nat) (mwait : List Note) (wasMarker : Bool) :
    (s.afterWord core slot n mwait wasMarker).Canonical := by
  unfold State.afterWord
  grind [State.Canonical, State.Canonical.updStrand, State.Canonical.reportNoted, State.Canonical.report]

theorem State.Canonical.endStrand {s : State} (h : s.Canonical) (core slot n : Nat) : (s.endStrand core slot n).Canonical := h

theorem State.Canonical.tryEnd {s : State} (h : s.Canonical) (core slot n : Nat) (i : Instr) (isExit : Bool) :
    (s.tryEnd core slot n i isExit).Canonical := by
  unfold State.tryEnd
  grind [State.Canonical, State.Canonical.updStrand, State.Canonical.endStrand, State.Canonical.updWave, State.Canonical.reportNoted]

theorem State.Canonical.takeRegs {s : State} (h : s.Canonical) (core slot n : Nat) : (s.takeRegs core slot n).Canonical := h

theorem State.Canonical.completeWord {s : State} (h : s.Canonical) (core slot n : Nat) (i : Instr) :
    (s.completeWord core slot n i).Canonical := by
  unfold State.completeWord
  grind [State.Canonical, State.Canonical.updWave, State.Canonical.updStrand, State.Canonical.acquire, State.Canonical.runEntry,
    State.Canonical.takeRegs]

theorem State.Canonical.waitFault {s : State} (h : s.Canonical) (core slot n : Nat) (i : Instr) (r : Raise) :
    (s.waitFault core slot n i r).Canonical :=
  h

theorem State.Canonical.joinsFault {s : State} (h : s.Canonical) (core slot n : Nat) (i : Instr) (d : SReg) :
    (s.joinsFault core slot n i d).Canonical :=
  h

theorem State.Canonical.wakeStrand {s : State} (h : s.Canonical) (core slot n : Nat) : (s.wakeStrand core slot n).Canonical := by
  unfold State.wakeStrand
  grind [State.Canonical, State.Canonical.updStrand, State.Canonical.afterWord, State.Canonical.tryEnd, State.Canonical.completeWord,
    State.Canonical.joinsFault, State.Canonical.waitFault]

theorem State.Canonical.parkUntil {s : State} (h : s.Canonical) (p : Park) (i : Instr) (arg : Word) : (s.parkUntil p i arg).Canonical := by
  unfold State.parkUntil
  grind [State.Canonical, State.Canonical.wakeStrand, State.Canonical.parkOn]

theorem State.Canonical.endRec {s0 : State} {s : State} (h : s.Canonical) : (s0.endRec s).Canonical := by
  unfold State.endRec
  grind [State.Canonical, State.Canonical.traceRec]

theorem State.Canonical.arriveHere {s0 : State} {t : State} (h : t.Canonical) (i : Instr) (id : Nat) (adj : Int) (d : Option Nat) :
    (s0.arriveHere i id adj d t).Canonical := by
  unfold State.arriveHere
  grind [State.Canonical, State.Canonical.drainQueue, State.Canonical.pushQ]

theorem State.Canonical.giveRegs {s : State} (h : s.Canonical) (core slot n : Nat) : (s.giveRegs core slot n).Canonical := h

theorem State.Canonical.applyRole {s : State} (h : s.Canonical) (core slot role budget : Nat) :
    (s.applyRole core slot role budget).Canonical := by
  unfold State.applyRole
  dsimp only
  split <;> exact h

theorem State.Canonical.raiseAfter {s0 : State} {t : State} (h : t.Canonical) (i : Instr) (r : Raise) : (s0.raiseAfter i r t).Canonical := h

theorem State.Canonical.loadBytes {s : State} (h : s.Canonical) {core slot n c va : Nat} {l : List Byte} {u : State}
    (hu : s.loadBytes core slot n c va = .ok (l, u)) : u.Canonical := by
  induction c generalizing s va l with
  | zero => cases hu; exact h
  | succ c ih => grind [State.loadBytes, State.Canonical.translate, State.Canonical.readGlobal]

theorem State.Canonical.resumeBlock {s : State} (h : s.Canonical) (blk : Nat) : (s.resumeBlock blk).Canonical := by
  have hw : ∀ (t : State) (k : Nat), t.Canonical → (t.updWaveK k fun w => { w with halted := false, sinceHalt := 0 }).Canonical :=
    fun _ _ h => h.updWaveK ..
  unfold State.resumeBlock
  dsimp only
  split
  · exact State.Canonical.foldl hw _ (h.updBlock ..)
  · exact (State.Canonical.foldl hw _ (h.updBlock ..)).updWaveK ..

theorem State.Canonical.returnTrap {s : State} (h : s.Canonical) (core slot : Nat) (word : Word) :
    (s.returnTrap core slot word).Canonical := by
  unfold State.returnTrap
  grind [State.Canonical.drainWave, State.Canonical.loadBytes, State.Canonical.walkedFor, State.Canonical.latch, State.Canonical.traceRec,
    State.Canonical.updWave, State.Canonical.resumeBlock]

theorem State.Canonical.token {s0 : State} {s : State} (h : s.Canonical) (r : Nat) : (s0.token r s).Canonical := h

theorem State.Canonical.issueEngine {s : State} (h : s.Canonical) (i : Instr) (m : Bool) (d : SReg) (reads : List Nat) (q : Nat)
    (op : EngOp) : Outcome.Canonical (s.issueEngine i m d reads q op) :=
  h.runQ fun _ ht => ht

theorem State.Canonical.matCheck {s : State} (h : s.Canonical) (core blk : Nat) (need : Need) (pages : List (Nat × Nat)) :
    (s.matCheck core blk need pages).2.2.Canonical := by
  induction pages generalizing s with
  | nil => exact h
  | cons p t ih =>
    obtain ⟨va, n⟩ := p
    rw [State.matCheck]
    refine ih ?_
    refine State.Canonical.foldl_of (fun a : List Raise × List TlbEntry × State => a.2.2) (fun a i h => ?_) _ h
    obtain ⟨rs, ps, s⟩ := a
    dsimp only at h ⊢
    split
    · split
      · exact h
      · split
        · exact h
        · next ht =>
          split
          · exact h.winTouch ht
          · next hx => exact (h.winTouch ht).translate hx
        · next ht => exact h.winTouch ht
    · split
      · exact h.walkedFor ..
      · next hx => exact h.translate hx

theorem State.Canonical.issueMatrix {s : State} (h : s.Canonical) (i : Instr) (m : Bool) (sh : Shape) (acc : BitVec 3) (reads : List Nat)
    (early : List (Option Raise)) (need : Need) (ranges : List (Nat × Nat)) (operands : Bool) (kind : MatKind) : Outcome.Canonical
    (s.issueMatrix i m sh acc reads early need ranges operands kind) := by
  unfold State.issueMatrix
  refine State.Canonical.runQ ?_ fun t ht => ht.matCheck ..
  split
  · exact h
  · exact h.foldl (fun _ _ h => h.walkedFor ..) _

theorem State.Canonical.issueMma {s : State} (h : s.Canonical) (i : Instr) (m : Bool) (sh : Shape) (acc : BitVec 3) (a b : BitVec 5)
    (f : BitVec 3) (metadata : Option (Nat × Nat)) : Outcome.Canonical (s.issueMma i m sh acc a b f metadata) := by
  unfold State.issueMma
  grind [State.Canonical, State.Canonical.issueMatrix]

theorem State.Canonical.issueAcc {s : State} (h : s.Canonical) (i : Instr) (m : Bool) (sh : Shape) (acc : BitVec 3) (a b : BitVec 5)
    (fmt : AccFmt) (store : Bool) : Outcome.Canonical (s.issueAcc i m sh acc a b fmt store) := by
  unfold State.issueAcc
  grind [State.Canonical, State.Canonical.issueMatrix]

theorem State.Canonical.issueHeap {s : State} (h : s.Canonical) (i : Instr) (m : Bool) (a : VReg) (kind : HeapKind) (k : Kind)
    (b : Option Code) : Outcome.Canonical (s.issueHeap i m a kind k b) :=
  h.runQ fun _ ht => ht

theorem State.Canonical.updHeap {s : State} (h : s.Canonical) (part id : Nat) (f : Heap → Heap) : (s.updHeap part id f).Canonical := h

theorem State.Canonical.issueRing {s : State} (h : s.Canonical) (i : Instr) (m : Bool) (d a : SReg) (prod : Bool) (ring : BitVec 2) :
    Outcome.Canonical (s.issueRing i m d a prod ring) := by
  unfold State.issueRing
  refine h.run fun t ht => ?_
  dsimp only
  split
  · exact (ht.issueQ ..).parkUntil ..
  · exact ht.issueQ ..

theorem State.Canonical.issuePort {s : State} (h : s.Canonical) (i : Instr) (m : Bool) (d : SReg) (reads : List Nat) (kind : PortKind)
    (base : DWord) (len : Nat) : Outcome.Canonical (s.issuePort i m d reads kind base len) :=
  h.runQ fun _ ht => ht

theorem State.Canonical.hint {s : State} (h : s.Canonical) (p : Pfx) : (s.hint p).Canonical := h

theorem State.Canonical.wideHint {s : State} (h : s.Canonical) (i : Instr) (w : Wide) : Outcome.Canonical (s.wideHint i w) := by
  refine Outcome.canonical_next ?_
  split
  · exact h.raiseHere ..
  · exact h.hint _

theorem State.Canonical.flushWins {s : State} (h : s.Canonical) (vi : Nat) (o : Owner) (b : Block) : (s.flushWins vi o b).Canonical := by
  unfold State.flushWins
  split
  · exact h
  · exact h.foldl (fun _ _ h => ((h.setHomeLine ..).l2Write ..).wakeFutures) _

theorem State.Canonical.flushPage {s : State} (h : s.Canonical) (o : Owner) : (s.flushPage o).Canonical :=
  h.foldl (fun _ _ h => h.flushL1 ..) _

theorem State.Canonical.dropOwner {s : State} (h : s.Canonical) (vi page : Nat) (o : Owner) : (s.dropOwner vi page o).Canonical := by
  unfold State.dropOwner
  refine State.Canonical.updVi (State.Canonical.flushPage ?_ o) ..
  exact h.foldl (fun _ _ h => h.flushWins ..) _

theorem State.Canonical.tlbInvalidate {s : State} (h : s.Canonical) (vi : Nat) (all : Bool) (va : Nat) :
    (s.tlbInvalidate vi all va).Canonical :=
  h.foldl (fun _ _ h => h.dropOwner ..) _

theorem State.Canonical.taskDones {s : State} (h : s.Canonical) (core slot : Nat) : (s.taskDones core slot).Canonical := by
  refine State.Canonical.foldl (fun _ _ h => h.updPart ..) _ ?_
  split
  · exact h
  · exact h.release ..

theorem State.Canonical.freeWave {s : State} (h : s.Canonical) (core slot : Nat) : (s.freeWave core slot).Canonical := h

theorem State.Canonical.endWave {s : State} (h : s.Canonical) (core slot : Nat) : (s.endWave core slot).Canonical := by
  unfold State.endWave
  grind [State.Canonical, State.Canonical.dropBarriers, State.Canonical.taskDones, State.Canonical.runWaveEnds, State.Canonical.freeWave,
    State.Canonical.blockExit]

theorem State.Canonical.endEntry {s : State} (h : s.Canonical) (blk q status : Nat) : (s.endEntry blk q status).Canonical := by
  unfold State.endEntry
  grind [State.Canonical, State.Canonical.updBlock, State.Canonical.clearJoins, State.Canonical.updWave]

theorem State.Canonical.updHead {s : State} (h : s.Canonical) (blk q : Nat) (f : EngEntry → EngEntry) : (s.updHead blk q f).Canonical := h

theorem State.Canonical.fillLines {s : State} (h : s.Canonical) (g : Agent) (dst n off : Nat) :
    (s.fillLines g dst n off).2.2.Canonical := by
  induction n generalizing s off with
  | zero => exact h
  | succ n ih => grind [State.fillLines, State.Canonical.translate, State.Canonical.walkedFor]

theorem State.Canonical.startFill {s : State} (h : s.Canonical) {g : Agent} {dst len : Nat} {p : List Nat × Option (Nat × Raise) × State}
    (hu : s.startFill g dst len = .ok p) : p.2.2.Canonical := by
  unfold State.startFill at hu
  grind [State.Canonical.fillLines]

theorem State.Canonical.startCopy {s : State} (h : s.Canonical) (blk q : Nat) (g : Agent) (e : EngEntry) (dst src len cnt : Nat)
    {u : State} (hu : s.startCopy blk q g e dst src len cnt = .ok u) : u.Canonical := by
  unfold State.startCopy at hu
  split at hu
  · cases hu
    exact h
  · split at hu
    · cases hu
    · split at hu
      · cases hu
        exact h.updHead ..
      · cases hf : s.startFill g dst len with
        | error r =>
          rw [hf] at hu
          cases hu
        | ok p =>
          rw [hf] at hu
          cases hu
          exact (h.startFill hf).updHead ..

theorem State.Canonical.reserveLine {s : State} (h : s.Canonical) (part line : Nat) {u : State} (hu : s.reserveLine part line = some u) :
    u.Canonical := by
  unfold State.reserveLine at hu
  grind [State.Canonical, State.Canonical.insertWay]

theorem State.Canonical.reserveAll {s : State} (h : s.Canonical) (part : Nat) (lns : List Nat) {u : State}
    (hu : s.reserveAll part lns = some u) : u.Canonical := by
  induction lns generalizing s with
  | nil => cases hu; exact h
  | cons l t ih => grind [State.reserveAll, State.Canonical.reserveLine, Option.bind_eq_some_iff]

theorem State.Canonical.reserveSome {s : State} (h : s.Canonical) {blk q part n : Nat} {b : Bool} {u : State}
    (hu : s.reserveSome blk q part n = some (b, u)) : u.Canonical := by
  unfold State.reserveSome at hu
  grind [State.Canonical.reserveAll, State.Canonical.updHead, Option.map_eq_some_iff]

theorem State.Canonical.stopFill {s : State} (h : s.Canonical) (blk q part : Nat) : (s.stopFill blk q part).Canonical := by
  unfold State.stopFill
  grind [State.Canonical, State.Canonical.unreserve]

theorem State.Canonical.engRequest {s : State} (h : s.Canonical) (g : Agent) (x : Xlat) (op : MemOp) : (s.engRequest g x op).Canonical := by
  unfold State.engRequest
  grind [State.Canonical, State.Canonical.coreRequest]

theorem State.Canonical.engRead {s : State} (h : s.Canonical) (g : Agent) (va n : Nat) {y : Nat} {u : State}
    (hu : s.engRead g va n = .ok (y, u)) : u.Canonical := by
  unfold State.engRead at hu
  grind [State.Canonical.translate, State.Canonical.readGlobal, State.Canonical.engRequest]

theorem State.Canonical.engReads {s : State} (h : s.Canonical) (g : Agent) (va k m : Nat) {y : Nat} {u : State}
    (hu : s.engReads g va k m = .ok (y, u)) : u.Canonical := by
  induction va generalizing s k m y with
  | zero => cases hu; exact h
  | succ n ih => grind [State.engReads, State.Canonical.engRead]

theorem State.Canonical.engWrite {s : State} (h : s.Canonical) (g : Agent) (va n v : Nat) {u : State} (hu : s.engWrite g va n v = .ok u) :
    u.Canonical := by
  unfold State.engWrite at hu
  grind [State.Canonical.translate, State.Canonical.writeGlobal, State.Canonical.engRequest, State.Canonical.wakeFutures,
    State.Canonical.updBlock]

theorem State.Canonical.dropCopies {s : State} (h : s.Canonical) (l : Nat) : (s.dropCopies l).Canonical := h

theorem State.Canonical.markFilled {s : State} (h : s.Canonical) (part line : Nat) : (s.markFilled part line).Canonical := by
  unfold State.markFilled
  dsimp only
  split <;> exact h

theorem State.Canonical.fillLine {s : State} (h : s.Canonical) (g : Agent) (va cnt v : Nat) {u : State}
    (hu : s.fillLine g va cnt v = .ok u) : u.Canonical := by
  unfold State.fillLine at hu
  grind [State.Canonical, State.Canonical.translate, State.Canonical.recall, State.Canonical.dropCopies, State.Canonical.countLine,
    State.Canonical.markFilled, State.Canonical.wakeFutures, State.Canonical.updBlock]

theorem State.Canonical.copyFrom {s : State} (h : s.Canonical) (g : Agent) (dst src len cnt : Nat) (stop : Option (Nat × Raise))
    (x1 x2 x3 : Nat) : (s.copyFrom g dst src len cnt stop x1 x2 x3).2.2.Canonical := by
  induction x1 generalizing s x2 x3 with
  | zero => exact h
  | succ n ih =>
    rw [State.copyFrom]
    split
    · exact h
    · split
      · exact h
      · dsimp only
        split
        · exact h
        · next hstep =>
          refine ih ?_ _ _
          split at hstep
          · cases hstep
          · next hr =>
            split at hstep
            · exact (h.engReads _ _ _ _ hr).engWrite _ _ _ _ hstep
            · exact (h.engReads _ _ _ _ hr).fillLine _ _ _ _ hstep

theorem State.Canonical.setPix {s : State} (h : s.Canonical) (blk q pix : Nat) : (s.setPix blk q pix).Canonical := h

theorem State.Canonical.engCheck {s : State} (h : s.Canonical) (core slot : Nat) (val pc : DWord) (opcode : Nat) :
    (s.engCheck core slot val pc opcode).Canonical :=
  h

theorem State.Canonical.failEntry {s : State} (h : s.Canonical) (blk q : Nat) (r : Raise) (lost : Bool) :
    (s.failEntry blk q r lost).Canonical := by
  unfold State.failEntry
  grind [State.Canonical, State.Canonical.walkL2, State.Canonical.walkedFor, State.Canonical.engCheck, State.Canonical.endEntry,
    State.Canonical.postBlockError]

theorem State.Canonical.runAcopy {s : State} (h : s.Canonical) (blk q n : Nat) : (s.runAcopy blk q n).Canonical := by
  unfold State.runAcopy
  split
  · exact h
  · split
    · dsimp only
      split
      · exact h
      · split
        · exact h.endEntry ..
        · split
          · exact h.endEntry ..
          · next hs =>
            have hs := h.startCopy _ _ _ _ _ _ _ _ hs
            split
            · exact (hs.stopFill ..).endEntry ..
            · next hr => exact hs.reserveSome hr
            · next hr =>
              have hr := hs.reserveSome hr
              split
              · exact (((hr.copyFrom ..).setPix ..).stopFill ..).failEntry ..
              · split
                · exact (((hr.copyFrom ..).setPix ..).stopFill ..).endEntry ..
                · exact (hr.copyFrom ..).setPix ..
    · exact h

theorem State.Canonical.engAtom {s : State} (h : s.Canonical) (g : Agent) (va : Nat) (op : AtomOp) (v : Nat) {u : State}
    (hu : s.engAtom g va op v = .ok u) : u.Canonical := by
  unfold State.engAtom at hu
  grind [State.Canonical.translate, State.Canonical.atomGlobal, State.Canonical.engRequest, State.Canonical.wakeFutures,
    State.Canonical.updBlock]

theorem State.Canonical.gathStep {s : State} (h : s.Canonical) (g : Agent) (table index arr es iw i : Nat) (op : Option Nat) {u : State}
    (hu : s.gathStep g table index arr es iw i op = .ok u) : u.Canonical := by
  unfold State.gathStep at hu
  dsimp only at hu
  split at hu
  · cases hu
  · next hk =>
    have hk := h.engRead _ _ _ hk
    split at hu
    · cases hu
    · split at hu
      · split at hu
        · cases hu
        · next hv => exact (hk.engRead _ _ _ hv).engWrite _ _ _ _ hu
      · split at hu
        · cases hu
        · next hv =>
          split at hu
          · exact (hk.engRead _ _ _ hv).engWrite _ _ _ _ hu
          · exact (hk.engRead _ _ _ hv).engAtom _ _ _ _ hu

theorem State.Canonical.gathFrom {s : State} (h : s.Canonical) (g : Agent) (table index arr n es iw : Nat) (op : Option Nat)
    (x1 x2 : Nat) : (s.gathFrom g table index arr n es iw op x1 x2).2.2.Canonical := by
  induction x1 generalizing s x2 with
  | zero => exact h
  | succ n ih => grind [State.gathFrom, State.Canonical.gathStep]

theorem State.Canonical.runGath {s : State} (h : s.Canonical) (blk m : Nat) : (s.runGath blk m).Canonical := by
  unfold State.runGath
  grind [State.Canonical, State.Canonical.endEntry, State.Canonical.gathFrom, State.Canonical.updHead, State.Canonical.setPix,
    State.Canonical.failEntry]

theorem State.Canonical.endPort {s : State} (h : s.Canonical) (core slot : Nat) (op : PortOp) : (s.endPort core slot op).Canonical := by
  unfold State.endPort
  grind [State.Canonical, State.Canonical.postBlockError, State.Canonical.updWave]

theorem State.Canonical.completePort {s : State} (h : s.Canonical) (core slot id : Nat) (own : PortKind → Bool) :
    (s.completePort core slot id own).Canonical := by
  unfold State.completePort
  grind [State.Canonical, State.Canonical.actPort, State.Canonical.endPort]

theorem State.Canonical.snapshot {s : State} (h : s.Canonical) (part vi trigger : Nat) {u : State}
    (hu : s.snapshot part vi trigger = some u) : u.Canonical := by
  unfold State.snapshot at hu
  grind [State.Canonical, State.Canonical.updPart]

theorem State.Canonical.snapNow {s : State} (h : s.Canonical) (vi trigger : Nat) {u : State} (hu : s.snapNow vi trigger = some u) :
    u.Canonical := by
  unfold State.snapNow at hu
  grind [State.Canonical.snapshot, State.Canonical.tick, Option.map_eq_some_iff, Option.bind_eq_some_iff]

theorem State.Canonical.rotatePin {s : State} (h : s.Canonical) (part vi : Nat) (e : MatEntry) (l : Nat) :
    (s.rotatePin part vi e l).2.Canonical := by
  unfold State.rotatePin
  grind [State.Canonical, State.Canonical.unpinLines, State.Canonical.l2Access, State.Canonical.pinLine]

theorem State.Canonical.pinAll {s : State} (h : s.Canonical) (part vi : Nat) (e : MatEntry) : (s.pinAll part vi e).2.Canonical :=
  State.Canonical.foldl_of (fun a : MatEntry × State => a.2) (fun _ _ h => h.rotatePin ..) _ (h.pinLines ..)

theorem State.Canonical.shareOwn {s : State} (h : s.Canonical) (core l : Nat) : (s.shareOwn core l).Canonical := by
  unfold State.shareOwn
  grind [State.Canonical, State.Canonical.setL1]

theorem State.Canonical.bufferTile {s : State} (h : s.Canonical) (core : Nat) (t : TileLine) : (s.bufferTile core t).Canonical := h

theorem State.Canonical.tileRead {s : State} (h : s.Canonical) (g : Agent) (e : MatEntry) (x : Xlat) : (s.tileRead g e x).2.Canonical := by
  unfold State.tileRead
  grind [State.Canonical, State.Canonical.shareOwn, State.Canonical.recall, State.Canonical.coreRequest, State.Canonical.l2Access,
    State.Canonical.bufferTile]

theorem State.Canonical.matGlobal {s : State} (h : s.Canonical) (g : Agent) (e : MatEntry) (va : Nat) (x : Xlat) (consume : Bool) :
    (s.matGlobal g e va x consume).2.2.Canonical := by
  unfold State.matGlobal
  grind [State.Canonical, State.Canonical.consumeGlobal, State.Canonical.tileRead]

theorem State.Canonical.matLine {s : State} (h : s.Canonical) (g : Agent) (e : MatEntry) (va : Nat) (consume : Bool) :
    (s.matLine g e va consume).2.2.Canonical := by
  unfold State.matLine
  dsimp only
  split
  · split
    · exact h
    · split
      · split
        · exact h.matGlobal ..
        · exact h
      · next ht => exact (h.winTouch ht).matGlobal ..
      · next ht =>
        have ht := h.winTouch ht
        split
        · exact ht
        · split
          · split
            · exact (ht.consumeStash ..).bufferTile ..
            · exact ht.consumeStash ..
            · exact ht.consumeStash ..
          · exact ht.bufferTile ..
  · split
    · exact h
    · exact h.matGlobal ..

theorem State.Canonical.matBytes {s : State} (h : s.Canonical) (g : Agent) (e : MatEntry) (consume : Bool) (k : Nat) (rls : List ReadLine)
    (va i : Nat) : (s.matBytes g e consume k rls va i).2.2.Canonical := by
  induction k generalizing s rls va i with
  | zero => exact h
  | succ n ih => grind [State.matBytes, State.Canonical.matLine]

theorem State.Canonical.matRows {s : State} (h : s.Canonical) (g : Agent) (e : MatEntry) (consume : Bool) (base stride len : Nat)
    (rls : List ReadLine) (rows : List Nat) : (s.matRows g e consume base stride len rls rows).2.2.Canonical := by
  induction rows generalizing s rls with
  | nil => exact h
  | cons r t ih =>
    rw [State.matRows]
    exact ih (h.matBytes ..) _

theorem State.Canonical.matOperand {s : State} (h : s.Canonical) (g : Agent) (e : MatEntry) (consume : Bool)
    (base stride len rows : Nat) : (s.matOperand g e consume base stride len rows).2.2.Canonical := by
  unfold State.matOperand
  grind [State.Canonical, State.Canonical.matRows]

theorem State.Canonical.performMma {s : State} (h : s.Canonical) (blk : Nat) (e : MatEntry) (a b : DWord) (f : FmtBlock)
    (metadata : Option (List (List Word))) (k : Nat) : (s.performMma blk e a b f metadata k).2.Canonical := by
  have hop : ∀ {t u : State} {g : Agent} {e e' : MatEntry} {c : Bool} {a st len rows : Nat} {l : List Nat}, t.Canonical →
      t.matOperand g e c a st len rows = (l, e', u) → u.Canonical := by
    intro t u g e e' c a st len rows l ht hu
    have hm := ht.matOperand g e c a st len rows
    rw [hu] at hm
    exact hm
  delta State.performMma
  extract_lets g n sparse groups nb isScaled
  split
  next h1 =>
  have h1 := hop h h1
  split
  next h2 =>
  have h2 := hop h1 h2
  split
  next h3 =>
  have h3 := hop h2 h3
  split
  next h4 =>
  have h4 := hop h3 h4
  extract_lets now ga gb cellUp
  split
  next fl t ht =>
  have ht : t.Canonical := by
    have hs : _ = t := congrArg Prod.snd ht
    rw [← hs]
    refine State.Canonical.foldl_of (fun a : BitVec 5 × State => a.2) (fun _ _ h => ?_) _ ?_
    · exact State.Canonical.updBlock h ..
    · exact h4
  exact State.Canonical.ite ht (ht.updBlock ..)

theorem State.Canonical.matNote {s : State} (h : s.Canonical) (e : MatEntry) (r : Raise) : (s.matNote e r).Canonical := by
  unfold State.matNote
  split <;> exact h

theorem State.Canonical.endMma {s : State} (h : s.Canonical) (blk : Nat) (e : MatEntry) (f : FmtBlock) : (s.endMma blk e f).Canonical := by
  refine State.Canonical.waveMeter (State.Canonical.foldl (fun _ _ h => ?_) _ h) ..
  split
  · exact h.matNote ..
  · exact h

theorem State.Canonical.performZero {s : State} (h : s.Canonical) (blk : Nat) (e : MatEntry) : (s.performZero blk e).Canonical :=
  h.foldl (fun _ _ h => h.updBlock ..) _

theorem State.Canonical.matAccess {s : State} (h : s.Canonical) (g : Agent) (e : MatEntry) (va n : Nat) (v : Option Nat) {y : Nat}
    {u : State} (hu : s.matAccess g e va n v = .ok (y, u)) : u.Canonical := by
  revert hu
  have hglobal : ∀ (t : State) (x : Xlat), t.Canonical →
      (match v with
       | some y => .ok (0, ((t.engRequest g x (engStore n)).writeGlobal g x n y).wakeFutures)
       | none => if t.badFor g x n false then .error (x.fault va .mcheck)
          else .ok ((t.engRequest g x (engLoad n .rlx)).readGlobal g x n false) : Except Raise
          (Nat × State)) = .ok (y, u) → u.Canonical := by
    intro t x ht hu
    split at hu
    · cases hu
      exact ((ht.engRequest ..).writeGlobal ..).wakeFutures
    · split at hu
      · cases hu
      · have hr : _ = u := congrArg Prod.snd (Except.ok.inj hu)
        rw [← hr]
        exact (ht.engRequest ..).readGlobal ..
  intro hu
  unfold State.matAccess at hu
  dsimp only at hu
  split at hu
  · split at hu
    · cases hu
    · split at hu
      · cases hx : s.winKept g.vi e _ _ _ with
        | error r => rw [hx] at hu; cases hu
        | ok x => rw [hx] at hu; exact hglobal _ _ h hu
      · next ht => exact hglobal _ _ (h.winTouch ht) hu
      · next ht =>
        have hw := h.winTouch ht
        split at hu
        · cases hu
          exact (hw.updBlock ..).wakeFutures
        · split at hu
          · cases hu
          · cases hu
            exact hw
  · cases hx : s.matXlat g.vi e va with
    | error r => rw [hx] at hu; cases hu
    | ok x => rw [hx] at hu; exact hglobal _ _ h hu

theorem State.Canonical.performAcc {s : State} (h : s.Canonical) (blk : Nat) (e : MatEntry) (addr : DWord) (stride : Nat) (fmt : AccFmt)
    (store : Bool) : (s.performAcc blk e addr stride fmt store).Canonical := by
  refine h.foldl (fun s p h => ?_) _
  obtain ⟨i, j, t⟩ := p
  grind [State.Canonical.matAccess, State.Canonical.matNote, State.Canonical.updBlock]

theorem State.Canonical.runMatrix {s : State} (h : s.Canonical) (blk k : Nat) : (s.runMatrix blk k).Canonical := by
  unfold State.runMatrix
  grind [State.Canonical, State.Canonical.clearJoins, State.Canonical.updBlock, State.Canonical.pinAll, State.Canonical.performMma,
    State.Canonical.unpinLines, State.Canonical.endMma, State.Canonical.performZero, State.Canonical.performAcc]

theorem State.Canonical.failHeapOp {s : State} (h : s.Canonical) (o : HeapOp) : (s.failHeapOp o).Canonical := by
  unfold State.failHeapOp
  split <;> exact h

theorem State.Canonical.countVirt {s : State} (h : s.Canonical) (part vi va n : Nat) (write : Bool) :
    (s.countVirt part vi va n write).Canonical := by
  unfold State.countVirt
  grind [State.Canonical, State.Canonical.linesVirt, State.Canonical.walkVirt, State.Canonical.sendMeter, State.Canonical.l2Access,
    State.Canonical.recall]

theorem State.Canonical.taskSeen {s : State} (h : s.Canonical) (part : Nat) (x : Heap) (idx : Nat) : (s.taskSeen part x idx).Canonical := by
  unfold State.taskSeen
  grind [State.Canonical, State.Canonical.countVirt]

theorem State.Canonical.postHeap {s : State} (h : s.Canonical) (vi : Nat) (pkt : Option Nat) (va cause : Nat) :
    (s.postHeap vi pkt va cause).Canonical := by
  unfold State.postHeap
  grind [State.Canonical, State.Canonical.postError, State.Canonical.updPkt]

theorem State.Canonical.taskWrite {s : State} (h : s.Canonical) (part id idx : Nat) (r : TaskRec) :
    (s.taskWrite part id idx r).Canonical := by
  unfold State.taskWrite
  grind [State.Canonical, State.Canonical.writeVirt, State.Canonical.wakeFutures, State.Canonical.updHeap, State.Canonical.countVirt,
    State.Canonical.postHeap, State.Canonical.walkVirt]

theorem State.Canonical.residual {s : State} (h : s.Canonical) (part id : Nat) (v old : Word) : (s.residual part id v old).Canonical := h

theorem State.Canonical.taskDone {s : State} (h : s.Canonical) (part id idx : Nat) (x : Heap) (r : TaskRec) :
    (s.taskDone part id idx x r).Canonical := by
  unfold State.taskDone
  grind [State.Canonical, State.Canonical.residual, State.Canonical.taskWrite, State.Canonical.updHeap]

theorem State.Canonical.heapOp {s : State} (h : s.Canonical) (part id : Nat) (x : Heap) (o : HeapOp) :
    (s.heapOp part id x o).Canonical := by
  unfold State.heapOp
  grind [State.Canonical, State.Canonical.updWave, State.Canonical.failHeapOp, State.Canonical.walkVirt, State.Canonical.taskSeen,
    State.Canonical.taskWrite, State.Canonical.residual, State.Canonical.updHeap, State.Canonical.taskDone]

theorem State.Canonical.performHeap {s : State} (h : s.Canonical) (part id : Nat) : (s.performHeap part id).Canonical := by
  unfold State.performHeap
  grind [State.Canonical, State.Canonical.updHeap, State.Canonical.heapOp, State.Canonical.updWave]

theorem State.Canonical.parentUpdate {s : State} (h : s.Canonical) (part id : Nat) : (s.parentUpdate part id).Canonical := by
  unfold State.parentUpdate
  grind [State.Canonical, State.Canonical.updHeap, State.Canonical.postHeap, State.Canonical.walkVirt, State.Canonical.taskSeen,
    State.Canonical.taskWrite, State.Canonical.residual]

theorem State.Canonical.fetchVirt {s : State} (h : s.Canonical) (part vi va n : Nat) : (s.fetchVirt part vi va n).1.Canonical := by
  unfold State.fetchVirt
  grind [State.Canonical, State.Canonical.homeVirt, State.Canonical.walkVirt]

theorem State.Canonical.placeTasks {s : State} (hs : s.Canonical) (part heap : Nat) (h : Heap) (r : HeapRun) (d : UnitDesc) (core : Nat)
    (pl : Place) (l : List (Nat × TaskRec)) : (s.placeTasks part heap h r d core pl l).Canonical := by
  unfold State.placeTasks
  refine State.Canonical.updHeap (State.Canonical.foldl (fun _ _ h => h.taskWrite ..) _ ?_) ..
  refine State.Canonical.acquire (State.Canonical.updateRanges ?_ _) ..
  exact hs

theorem State.Canonical.heapWriteBack {s : State} (h : s.Canonical) (part id : Nat) : (s.heapWriteBack part id).Canonical := by
  unfold State.heapWriteBack
  split
  · exact h
  · next hp _ =>
    have hr := h.foldl (f := fun s (r : Nat × TaskRec) => s.taskWrite part id r.1 r.2) (fun _ _ h => h.taskWrite ..) hp.recs
    dsimp only
    split
    · next hw => exact ((hr.writeVirt _ _ _ hw).countVirt ..).wakeFutures
    · exact (hr.walkVirt ..).postHeap ..

theorem State.Canonical.endCounts {s : State} (h : s.Canonical) (id : Nat) : (s.endCounts id).Canonical := by
  refine State.Canonical.updPkt (h.foldl (fun s p h => ?_) _) ..
  exact State.Canonical.unreserve h ..

theorem State.Canonical.syncVi {s : State} (h : s.Canonical) (part vi : Nat) : (s.syncVi part vi).Canonical :=
  h.foldl (fun _ _ h => h.foldl (fun _ _ h => h.cleanL1 ..) _) _

theorem State.Canonical.postVirt {s : State} (h : s.Canonical) (part vi va : Nat) (l : List Byte) :
    (s.postVirt part vi va l).Canonical := by
  unfold State.postVirt
  grind [State.Canonical, State.Canonical.writeVirt, State.Canonical.homeVirt, State.Canonical.walkVirt]

theorem State.Canonical.completePkt {s : State} (h : s.Canonical) (id : Nat) : (s.completePkt id).Canonical := by
  unfold State.completePkt
  grind [State.Canonical, State.Canonical.endCounts, State.Canonical.syncVi, State.Canonical.wakeFutures, State.Canonical.postVirt]

theorem State.Canonical.endRun {s : State} (h : s.Canonical) (part heap status : Nat) : (s.endRun part heap status).Canonical := by
  unfold State.endRun
  grind [State.Canonical, State.Canonical.heapWriteBack, State.Canonical.updHeap, State.Canonical.completePkt, State.Canonical.updPkt]

theorem State.Canonical.updQueue {s : State} (h : s.Canonical) (vi q : Nat) (f : LQueue → LQueue) : (s.updQueue vi q f).Canonical := h

theorem State.Canonical.notify {s : State} (h : s.Canonical) (vi q : Nat) (idx : Word) : (s.notify vi q idx).Canonical := by
  unfold State.notify
  grind [State.Canonical, State.Canonical.wakeFutures, State.Canonical.postVirt, State.Canonical.updQueue, State.Canonical.updPart]

theorem State.Canonical.viWrite {s : State} (h : s.Canonical) (vi off : Nat) (val : DWord) : (s.viWrite vi off val).Canonical := by
  unfold State.viWrite
  grind [State.Canonical, State.Canonical.updQueue, State.Canonical.notify, State.Canonical.updVi]

theorem State.Canonical.imgGo {s : State} (h : s.Canonical) : (s.imgGo).Canonical := by
  unfold State.imgGo
  split <;> exact h

theorem State.Canonical.pfWrite {s : State} (h : s.Canonical) (off : Nat) (val : DWord) : (s.pfWrite off val).Canonical := by
  unfold State.pfWrite
  grind [State.Canonical, State.Canonical.imgGo]

theorem State.Canonical.endStart {s : State} (h : s.Canonical) (id status : Nat) : (s.endStart id status).Canonical := by
  unfold State.endStart
  grind [State.Canonical, State.Canonical.updPkt]

theorem State.Canonical.stoppedVirt {s : State} (h : s.Canonical) (part vi va n : Nat) (r : Raise) :
    (s.stoppedVirt part vi va n r).Canonical := by
  unfold State.stoppedVirt
  grind [State.Canonical, State.Canonical.countVirt, State.Canonical.walkVirt]

theorem State.Canonical.hdescOk {s : State} (h : s.Canonical) (p : Packet) : (s.hdescOk p).1.Canonical := by
  unfold State.hdescOk
  grind [State.Canonical, State.Canonical.stoppedVirt, State.Canonical.countVirt]

theorem State.Canonical.failArrivals {s : State} (h : s.Canonical) (part id : Nat) : (s.failArrivals part id).Canonical := by
  unfold State.failArrivals
  split
  · exact h
  · refine State.Canonical.foldl (fun _ _ h => h.postHeap ..) _ (h.foldl (fun _ _ h => ?_) _)
    dsimp only
    split
    · exact h.failHeapOp _
    · exact h.failHeapOp _

theorem State.Canonical.imageWriteBack {s : State} (h : s.Canonical) (part id : Nat) : (s.imageWriteBack part id).Canonical := by
  unfold State.imageWriteBack
  grind [State.Canonical, State.Canonical.writeVirt, State.Canonical.wakeFutures, State.Canonical.countVirt, State.Canonical.postHeap,
    State.Canonical.walkVirt]

theorem State.Canonical.setSplit {s : State} (h : s.Canonical) (core n : Nat) : (s.setSplit core n).Canonical := by
  unfold State.setSplit
  split
  · exact h
  · exact h.foldl (fun _ _ h => h.flushL1 ..) _

theorem State.Canonical.placeBlock {s : State} (h : s.Canonical) (p : Packet) (id core : Nat) (pl : Place) (x y z : Nat)
    (peer : Option Nat) (follower : Bool) : (s.placeBlock p id core pl x y z peer follower).Canonical := by
  unfold State.placeBlock
  grind [State.Canonical, State.Canonical.setSplit, State.Canonical.updateRanges]

theorem State.Canonical.placeUnit {s : State} (h : s.Canonical) (p : Packet) (id core i : Nat) (pl : Place) (pl2 : Option Place) :
    (s.placeUnit p id core i pl pl2).Canonical := by
  unfold State.placeUnit
  grind [State.Canonical, State.Canonical.updPkt, State.Canonical.placeBlock]

theorem State.Canonical.updateAllRanges {s : State} (h : s.Canonical) (part : Nat) : (s.updateAllRanges part).Canonical :=
  h.foldl (fun _ _ h => h.updateRanges ..) _

theorem State.Canonical.restoreVi {s : State} (h : s.Canonical) (part vi : Nat) : (s.restoreVi part vi).Canonical := by
  unfold State.restoreVi
  dsimp only
  refine State.Canonical.updateAllRanges ?_ part
  exact h.foldl (fun _ _ h => h.setSplit ..) _

theorem State.Canonical.saveVi {s : State} (h : s.Canonical) (part vi : Nat) : (s.saveVi part vi).Canonical := by
  unfold State.saveVi
  dsimp only
  refine State.Canonical.updateAllRanges ?_ part
  exact h.foldl (fun _ _ h => h.drainWave ..) _

theorem State.Canonical.takeTraps {s : State} (h : s.Canonical) (ks : List Nat) : (s.takeTraps ks).Canonical := by
  refine h.foldl (fun _ _ h => ?_) _
  split
  · exact h.takeTrap ..
  · exact h

theorem State.Canonical.unmapQueue {s : State} (h : s.Canonical) (part slot : Nat) : (s.unmapQueue part slot).Canonical := by
  unfold State.unmapQueue
  split <;> exact h

theorem State.Canonical.mapQueue {s : State} (h : s.Canonical) (part slot vi q : Nat) : (s.mapQueue part slot vi q).Canonical := by
  unfold State.mapQueue
  grind [State.Canonical, State.Canonical.fetchVirt, State.Canonical.updPart, State.Canonical.updQueue]

theorem State.Canonical.discardBlock {s : State} (h : s.Canonical) (blk : Nat) : (s.discardBlock blk).Canonical := by
  unfold State.discardBlock
  grind [State.Canonical, State.Canonical.reportCounts, State.Canonical.unpinLines]

theorem State.Canonical.discardWork {s : State} (h : s.Canonical) (vi : Nat) : (s.discardWork vi).Canonical := by
  delta State.discardWork
  extract_lets s1 s2 s3
  have h1 : s1.Canonical := by
    unfold s1
    split
    · exact h
    · exact h
  have h2 : s2.Canonical := h1.foldl (fun _ _ h => h.discardBlock _) _
  have h3 : s3.Canonical := h2
  split
  · exact h3
  · exact (h3.updPart ..).updateAllRanges _

theorem State.Canonical.settleContexts {s : State} (h : s.Canonical) (part : Nat) (vs saves : List Nat) :
    (s.settleContexts part vs saves).Canonical := by
  refine h.foldl (fun s v h => ?_) _
  split
  · refine State.Canonical.foldl (f := fun s id => s.endCounts id) (fun _ _ h => h.endCounts _) _ ?_
    split
    · exact h.saveVi ..
    · exact h
  · exact h.discardWork _

theorem State.Canonical.drainL2 {s : State} (h : s.Canonical) (part size : Nat) : (s.drainL2 part size).Canonical := by
  refine h.foldl (fun _ _ h => h.foldl (fun _ _ h => ?_) _) _
  split
  · exact h
  · exact (h.chargeBytes ..).toDevice _

theorem State.Canonical.resetPart {s : State} (h : s.Canonical) (part : Nat) (saves : List Nat) : (s.resetPart part saves).Canonical :=
  State.Canonical.foldl (f := fun s k => s.unmapQueue part k) (fun _ _ h => h.unmapQueue ..) _ ((h.settleContexts ..).drainL2 ..)

theorem State.Canonical.rekey {s : State} (h : s.Canonical) (vi base len : Nat) : (s.rekey vi base len).Canonical := by
  refine h.foldl (fun _ _ h => ?_) _
  exact ⟨Memory.wf_setLine _ _ h.1, h.2⟩

theorem State.Canonical.assignVi {s : State} (h : s.Canonical) (vi part : Nat) (keep : Bool) : (s.assignVi vi part keep).Canonical :=
  State.Canonical.foldl (fun _ _ h => h.rekey ..) _ (by split <;> exact h)

theorem State.Canonical.collRead {s : State} (h : s.Canonical) (g : Agent) (va k m : Nat) {y : Nat} {u : State}
    (hu : s.collRead g va k m = .ok (y, u)) : u.Canonical := by
  induction va generalizing s k m y with
  | zero => cases hu; exact h
  | succ fuel ih =>
    rw [State.collRead] at hu
    dsimp only at hu
    split at hu
    · cases hu
      exact h
    · split at hu
      · cases hu
      · next v t hp =>
        have ht : t.Canonical := by
          split at hp
          · split at hp
            · cases hp
            · split at hp
              · cases hp
              · next hw =>
                split at hp
                · cases hp
                · have hr : _ = t := congrArg Prod.snd (Except.ok.inj hp)
                  rw [← hr]
                  exact (h.winTouch hw).readGlobal ..
              · next hw =>
                split at hp
                · cases hp
                · cases hp
                  exact h.winTouch hw
          · cases hv : s.readVirt g.vi k (min m (toLineEnd k)) with
            | error r => rw [hv] at hp; cases hp
            | ok l =>
              rw [hv] at hp
              cases hp
              exact h.countVirt ..
        cases hc : t.collRead g fuel (k + min m (toLineEnd k)) (m - min m (toLineEnd k)) with
        | error r => rw [hc] at hu; cases hu
        | ok p =>
          rw [hc] at hu
          cases hu
          exact ih ht _ _ hc

theorem State.Canonical.collWrite {s : State} (h : s.Canonical) (g : Agent) (va k m i : Nat) {u : State}
    (hu : s.collWrite g va k m i = .ok u) : u.Canonical := by
  induction va generalizing s k m i with
  | zero => cases hu; exact h
  | succ fuel ih =>
    rw [State.collWrite] at hu
    dsimp only at hu
    split at hu
    · cases hu
      exact h
    · split at hu
      · cases hu
      · next t hp =>
        have ht : t.Canonical := by
          split at hp
          · split at hp
            · cases hp
            · next owner o _ =>
              cases hw : s.winTouch owner o true with
              | error r => rw [hw] at hp; cases hp
              | ok p =>
                obtain ⟨x, w⟩ := p
                rw [hw] at hp
                cases x with
                | none => cases hp; exact (h.winTouch hw).updBlock ..
                | some x => cases hp; exact (h.winTouch hw).writeHome ..
          · cases hv : s.writeVirt g.vi k (leBytes (min m (toLineEnd k)) i) with
            | error r => rw [hv] at hp; cases hp
            | ok w =>
              rw [hv] at hp
              cases hp
              exact (h.writeVirt _ _ _ hv).countVirt ..
        exact ih ht.wakeFutures _ _ _ hu

theorem State.Canonical.runColl {s : State} (h : s.Canonical) (blk : Nat) (inp : CollInput) : (s.runColl blk inp).Canonical := by
  unfold State.runColl
  split
  · exact h
  · split
    · dsimp only
      split
      · exact h
      · split
        · exact h.endEntry ..
        · split
          · exact h.endEntry ..
          · exact h.failEntry ..
          · split
            · exact h
            · split
              · exact h.failEntry ..
              · next hr =>
                have hr := h.collRead _ _ _ _ hr
                split
                · exact hr.failEntry ..
                · next hw => exact ((hr.collWrite _ _ _ _ _ hw).addMeter ..).endEntry ..
    · exact h

theorem State.Canonical.physPut {s : State} (h : s.Canonical) (pa : Nat) (bs : List Byte) : (s.physPut pa bs).Canonical := by
  induction bs generalizing s pa with
  | nil => exact h
  | cons b t ih => exact ih (h.homeByte ..) _

theorem State.Canonical.physTouch {s : State} (h : s.Canonical) (a n : Nat) (write : Bool) : (s.physTouch a n write).Canonical := by
  refine h.foldl (fun _ _ h => ?_) _
  dsimp only
  split
  · exact (h.recall ..).l2Access ..
  · exact h.recall ..

theorem State.Canonical.physWrite {s : State} (h : s.Canonical) (a : Nat) (l : List Byte) : (s.physWrite a l).Canonical := by
  unfold State.physWrite
  grind [State.Canonical, State.Canonical.physPut, State.Canonical.physTouch]

theorem State.Canonical.hostError {s : State} (h : s.Canonical) (vi off : Nat) (r : Raise) : (s.hostError vi off r).Canonical := by
  unfold State.hostError
  grind [State.Canonical, State.Canonical.postError]

theorem State.Canonical.sendPayload {s : State} (h : s.Canonical) (a n : Nat) : (s.sendPayload a n).Canonical := by
  refine h.foldl (fun _ _ h => ?_) _
  dsimp only
  split
  · exact h.addMeter ..
  · exact h

theorem State.Canonical.reply {s : State} (h : s.Canonical) (status : Nat) (data : List Byte) : (s.reply status data).Canonical := h

theorem State.Canonical.message {s : State} (h : s.Canonical) (vi : Nat) (f : State → State) (hf : ∀ t, t.Canonical → (f t).Canonical) :
    (s.message vi f).Canonical := by
  unfold State.message
  grind [State.Canonical, State.Canonical.reply]

theorem State.Canonical.sendDump {s : State} (h : s.Canonical) (target : DumpTarget) (cs : List (List Byte)) :
    (s.sendDump target cs).Canonical := by
  unfold State.sendDump
  grind [State.Canonical, State.Canonical.wakeFutures, State.Canonical.physPut]

theorem State.Canonical.stopWave {s : State} (h : s.Canonical) (k : Nat) : (s.stopWave k).Canonical := by
  unfold State.stopWave
  grind [State.Canonical, State.Canonical.drainWave, State.Canonical.updWaveK]

theorem State.Canonical.stopBlocks {s : State} (h : s.Canonical) (bs : List Nat) : (s.stopBlocks bs).Canonical := by
  unfold State.stopBlocks
  dsimp only
  split
  · exact h
  · refine State.Canonical.reply (State.Canonical.foldl (fun _ _ h => ?_) _ ((h.takeTraps _).foldl (fun _ _ h => h.stopWave _) _)) ..
    split
    · exact h
    · exact h

theorem State.Canonical.formMemb {s : State} (h : s.Canonical) (vi : Nat) : (s.formMemb vi).Canonical := h

theorem State.Canonical.formMembs {s : State} (h : s.Canonical) (port : Nat) : (s.formMembs port).Canonical :=
  h.foldl (fun _ _ h => h.formMemb _) _

theorem State.Canonical.dropExtent {s : State} (h : s.Canonical) (e : Extent) : (s.dropExtent e).Canonical := h

theorem State.Canonical.fenceExtent {s : State} (h : s.Canonical) (e : Extent) : (s.fenceExtent e).Canonical := by
  have hd : (s.dropExtent e).Canonical := h
  exact ⟨Memory.wf_putAll (Memory.wf_filter _ hd.1) (Memory.wf_filter _ hd.2), hd.2⟩

theorem State.Canonical.extentRecord {s : State} (h : s.Canonical) (vi base status : Nat) : (s.extentRecord vi base status).Canonical := by
  unfold State.extentRecord
  grind [State.Canonical, State.Canonical.postError]

theorem State.Canonical.serve {s : State} (h : s.Canonical) (code : Nat) {f : State → Nat → List Byte → Nat × State}
    (hf : ∀ vi l, (f s vi l).2.Canonical) : (s.serve code f).Canonical := by
  have hreply (vi : Nat) (l : List Byte) : (if 64 ≤ vi then (1, s) else f s vi l).2.Canonical := by
    split
    · exact h
    · exact hf vi l
  unfold State.serve
  split
  · exact h
  · next l _ =>
    split
    · exact h
    · extract_lets vi
      have hp := hreply vi l
      generalize (if 64 ≤ vi then (1, s) else f s vi l) = p at hp
      obtain ⟨status, t⟩ := p
      refine (hp.physWrite (s.dev.reqAddr + 4) (leBytes 4 status)).wakeFutures.of_mem_eq ?_ ?_
      · rfl
      · rfl

theorem State.Canonical.onSaved {s : State} (h : s.Canonical) (part vi : Nat) (f : State → State)
    (hf : ∀ t, t.Canonical → (f t).Canonical) : (s.onSaved part vi f).Canonical := by
  unfold State.onSaved
  grind [State.Canonical, State.Canonical.updPart, State.Canonical.updVi]

theorem State.Canonical.endRuns {s : State} (h : s.Canonical) (part vi status : Nat) : (s.endRuns part vi status).Canonical :=
  h.foldl (fun _ _ h => h.endRun ..) _

theorem State.Canonical.resetVi {s : State} (h : s.Canonical) (vi : Nat) : (s.resetVi vi).Canonical := by
  delta State.resetVi
  extract_lets s1 s2
  have h1 : s1.Canonical := h.discardWork vi
  have h2 : s2.Canonical := by
    unfold s2
    split
    · exact (h1.endRuns ..).onSaved _ _ _ fun _ ht => ht.endRuns ..
    · exact h1
  exact h2.foldl (fun _ _ h => (h.updPkt ..).completePkt _) _

theorem State.Canonical.reset : (State.reset).Canonical := by
  unfold State.Canonical
  decide

theorem State.Canonical.countSkid {s : State} (h : s.Canonical) : (s.countSkid).Canonical := by
  unfold State.countSkid
  grind [State.Canonical, State.Canonical.updCw]

theorem State.Canonical.countWaits {s : State} (h : s.Canonical) : (s.countWaits).Canonical := by
  refine h.foldl (fun _ _ h => ?_) _
  dsimp only
  split
  · exact h
  · exact h

theorem State.Canonical.account {s : State} (h : s.Canonical) (i : Instr) : (s.account i).Canonical := by
  unfold State.account
  grind [State.Canonical, State.Canonical.updCore, State.Canonical.countSkid, State.Canonical.countWaits]

theorem State.Canonical.progressQ {s : State} (h : s.Canonical) (blk q n : Nat) : (s.progressQ blk q n).Canonical := by
  unfold State.progressQ
  grind [State.Canonical, State.Canonical.runAcopy, State.Canonical.runGath, State.Canonical.runMatrix]

theorem State.Canonical.scatMixed {s : State} (h : s.Canonical) (blk : Nat) (order : List Nat) : (s.scatMixed blk order).Canonical := by
  unfold State.scatMixed
  split
  · exact h
  · split
    · dsimp only
      split
      · exact h
      · split
        · exact h
        · next hu => exact (h.foldBind (fun _ _ _ hs hg => hs.gathStep _ _ _ _ _ _ _ _ hg) _ hu).setPix ..
    · exact h

theorem State.Canonical.ownerWrites {s : State} (h : s.Canonical) (pa : Nat) (data : List Byte) : (s.ownerWrites pa data).Canonical := by
  unfold State.ownerWrites
  grind [State.Canonical, State.Canonical.wakeFutures, State.Canonical.physPut]

theorem State.Canonical.carryPort {s : State} (h : s.Canonical) (core slot id : Nat) : (s.carryPort core slot id).Canonical := by
  unfold State.carryPort
  grind [State.Canonical, State.Canonical.actPort]

theorem State.Canonical.activate {s : State} (h : s.Canonical) (stack chan bank : Nat) : (s.activate stack chan bank).Canonical := by
  unfold State.activate
  split <;> exact h

theorem State.Canonical.refreshBank {s : State} (h : s.Canonical) (stack chan bank : Nat) : (s.refreshBank stack chan bank).Canonical := by
  unfold State.refreshBank
  split <;> exact h

theorem State.Canonical.setResetting {s : State} (h : s.Canonical) (part : Nat) (on : Bool) : (s.setResetting part on).Canonical := by
  unfold State.setResetting
  split <;> exact h

theorem State.Canonical.ready {s : State} (h : s.Canonical) : (s.ready).Canonical := h

theorem State.Canonical.training {s : State} (h : s.Canonical) (m : BitVec 256) (v : Word) : (s.training m v).Canonical := h

theorem State.Canonical.bootMove {s : State} (h : s.Canonical) : (s.bootMove).Canonical := by
  unfold State.bootMove
  grind [State.Canonical, State.Canonical.ready, State.Canonical.training]

end Sys2Proof.Machine
end

section
/-! SUPPORT. The canonical form of memory, of every instruction. -/
namespace Sys2Proof.Machine

theorem execScmov_canonical {s : State} (h : s.Canonical) (m : Bool) (d a : SReg) (b : SOp) : Outcome.Canonical (execScmov m d a b s) := by
  unfold execScmov
  refine h.run fun t ht => ?_
  split
  · exact ht.result ..
  · exact ht

theorem execSget_canonical {s : State} (h : s.Canonical) (m : Bool) (d : SReg) (x : BitVec 9) : Outcome.Canonical (execSget m d x s) := by
  unfold execSget
  exact h.run fun _ ht => State.Canonical.ite ((ht.result ..).updCw _) (ht.result ..)

theorem execSset_canonical {s : State} (h : s.Canonical) (m : Bool) (a : SReg) (x : BitVec 9) : Outcome.Canonical (execSset m a x s) := by
  unfold execSset
  exact h.run fun _ ht => ht.updCw _

theorem execCall_canonical {s : State} (h : s.Canonical) (m : Bool) (p : SReg) (off : BitVec 17) : Outcome.Canonical
    (execCall m p off s) := by
  unfold execCall
  exact h.run fun _ ht => (ht.result ..).updCs _

theorem execJmpr_canonical {s : State} (h : s.Canonical) (m : Bool) (p : SReg) : Outcome.Canonical (execJmpr m p s) := by
  unfold execJmpr
  exact h.run fun _ ht => ht.updCs _

theorem execSplit_canonical {s : State} (h : s.Canonical) (m : Bool) (k : KReg) (offA offC : BitVec 9) : Outcome.Canonical
    (execSplit m k offA offC s) := by
  unfold execSplit
  exact h.run fun _ ht => State.Canonical.ite (((ht.setsAm ..).updCw _).traceRec ..) ((ht.setsAm ..).updCs _)

theorem execEnds_canonical {s : State} (h : s.Canonical) (m : Bool) : Outcome.Canonical (execEnds m s) := by
  unfold execEnds
  refine h.run fun _ ht => State.Canonical.ite ((ht.endRec ..).parkUntil ..) ?_
  split
  · exact (ht.setsAm ..).updCs _
  · exact ((ht.endRec ..).updCs _).parkUntil ..

theorem execPub_canonical {s : State} (h : s.Canonical) (m : Bool) (v : VReg) (vcnt : BitVec 5) (r : SReg) (scnt : BitVec 4) :
    Outcome.Canonical (execPub m v vcnt r scnt s) := by
  unfold execPub
  exact h.run fun _ ht => State.Canonical.ite (ht.parkUntil ..) ht

theorem execJoin_canonical {s : State} (h : s.Canonical) (m : Bool) (d a b : VReg) : Outcome.Canonical (execJoin m d a b s) := by
  unfold execJoin
  exact h.run fun _ ht => State.Canonical.ite (ht.parkUntil ..) (ht.result ..)

theorem execJoins_canonical {s : State} (h : s.Canonical) (m : Bool) (d a : SReg) (armF : Bool) : Outcome.Canonical
    (execJoins m d a armF s) := by
  unfold execJoins
  exact h.run fun _ ht => State.Canonical.ite (ht.parkUntil ..) (ht.result ..)

theorem execBarW_canonical {s : State} (h : s.Canonical) (m : Bool) (id : BitVec 5) : Outcome.Canonical (execBarW m id s) := by
  unfold execBarW
  exact h.run fun _ ht => (ht.arriveHere ..).parkUntil ..

theorem execBarA_canonical {s : State} (h : s.Canonical) (m : Bool) (id : BitVec 5) (d : SReg) : Outcome.Canonical (execBarA m id d s) := by
  unfold execBarA
  exact h.run fun _ ht => ht.arriveHere ..

theorem execBarD_canonical {s : State} (h : s.Canonical) (m : Bool) (id : BitVec 5) : Outcome.Canonical (execBarD m id s) := by
  unfold execBarD
  exact h.run fun _ ht => ht.arriveHere ..

theorem execBarJ_canonical {s : State} (h : s.Canonical) (m : Bool) (id : BitVec 5) : Outcome.Canonical (execBarJ m id s) := by
  unfold execBarJ
  exact h.run fun _ ht => ht.arriveHere ..

theorem execBarwp_canonical {s : State} (h : s.Canonical) (m : Bool) (id : BitVec 5) (r : SReg) : Outcome.Canonical
    (execBarwp m id r s) := by
  unfold execBarwp
  exact h.run fun _ ht => ht.parkUntil ..

theorem execMwait_canonical {s : State} (h : s.Canonical) (m : Bool) (r : SReg) : Outcome.Canonical (execMwait m r s) := by
  unfold execMwait
  exact h.run fun _ ht => ht.parkUntil ..

theorem execRpoll_canonical {s : State} (h : s.Canonical) (m : Bool) (d : SReg) : Outcome.Canonical (execRpoll m d s) := by
  unfold execRpoll
  refine h.run fun _ ht => ?_
  dsimp only
  split
  · exact State.Canonical.ite ((ht.applyRole ..).result ..) (ht.result ..)
  · exact ht.result ..

theorem execVgive_canonical {s : State} (h : s.Canonical) (m : Bool) (n : BitVec 4) : Outcome.Canonical (execVgive m n s) := by
  unfold execVgive
  exact h.run fun _ ht => ht.giveRegs ..

theorem execVclaim_canonical {s : State} (h : s.Canonical) (m : Bool) (n : BitVec 4) : Outcome.Canonical (execVclaim m n s) := by
  unfold execVclaim
  exact h.run fun _ ht => ht.parkUntil ..

theorem execExit_canonical {s : State} (h : s.Canonical) (m : Bool) : Outcome.Canonical (execExit m s) := by
  unfold execExit
  exact h.run fun _ ht => ((ht.endRec ..).updCs _).parkUntil ..

theorem execTrap_canonical {s : State} (h : s.Canonical) (m : Bool) (code : BitVec 8) : Outcome.Canonical (execTrap m code s) := by
  unfold execTrap
  exact h.run fun _ ht => ht.raiseAfter ..

theorem execTret_canonical {s : State} (h : s.Canonical) (m : Bool) : Outcome.Canonical (execTret m s) := by
  unfold execTret
  exact h.run fun _ ht => ht.returnTrap ..

theorem execMfence_canonical {s : State} (h : s.Canonical) (m : Bool) (d : SReg) : Outcome.Canonical (execMfence m d s) := by
  unfold execMfence
  exact h.run fun _ ht => (ht.updBlock ..).result ..

theorem execHres_canonical {s : State} (h : s.Canonical) (m : Bool) (d : SReg) (heap : BitVec 6) : Outcome.Canonical
    (execHres m d heap s) := by
  unfold execHres
  exact h.run fun _ ht => State.Canonical.ite ((ht.updHeap ..).updCw _) (ht.note ..)

theorem execSmap_canonical {s : State} (h : s.Canonical) (m : Bool) (d a : SReg) (zero : Bool) : Outcome.Canonical
    (execSmap m d a zero s) := by
  unfold execSmap
  refine h.run fun _ ht => State.Canonical.ite (ht.result ..) ?_
  split
  · exact ht.result ..
  · exact (ht.updBlock ..).result ..

theorem execXmod_canonical {s : State} (h : s.Canonical) (k : BitVec 5) (z : Bool) (rnd : BitVec 3) (v4 : VReg) (v4ok : Bool)
    (aux : BitVec 5) : Outcome.Canonical (execXmod k z rnd v4 v4ok aux s) := by
  refine Outcome.canonical_next ?_
  split
  · exact h.raiseHere ..
  · exact h.hint _

theorem execLimml_canonical {s : State} (hs : s.Canonical) (h : BitVec 16) : Outcome.Canonical (execLimml h s) := by
  refine Outcome.canonical_next ?_
  split
  · exact hs.hint _
  · exact hs.raiseHere ..

theorem execSysst_canonical {s : State} (h : s.Canonical) (m : Bool) (d a : SReg) : Outcome.Canonical (execSysst m d a s) := by
  unfold execSysst
  refine h.run fun t ht => ?_
  exact ht

theorem execTlbinv_canonical {s : State} (h : s.Canonical) (m : Bool) (a : SReg) : Outcome.Canonical (execTlbinv m a s) := by
  unfold execTlbinv
  exact h.run fun _ ht => ht.tlbInvalidate ..

theorem execBrkpt_canonical {s : State} (h : s.Canonical) (m : Bool) : Outcome.Canonical (execBrkpt m s) := by
  unfold execBrkpt
  exact h.run fun _ ht => ht.raiseAfter ..

theorem execMetsnap_canonical {s : State} (h : s.Canonical) (m : Bool) (t : SReg) : Outcome.Canonical (execMetsnap m t s) := by
  unfold execMetsnap
  exact h.run fun _ ht => (ht.token ..).updCw _

theorem execSsqEntryRelease_canonical {s : State} (h : s.Canonical) (core slot id : Nat) : Outcome.Canonical
    (execSsqEntryRelease core slot id s) := by
  refine Outcome.canonical_next ?_
  split
  · exact State.Canonical.ite ((h.runEntry ..).settle ..) h
  · exact h

theorem execPageWalk_canonical {s : State} (h : s.Canonical) (core slot id : Nat) : Outcome.Canonical (execPageWalk core slot id s) := by
  refine Outcome.canonical_next ?_
  split
  · exact State.Canonical.ite ((h.runEntry ..).settle ..) h
  · exact h

theorem execMetsnapComplete_canonical {s : State} (h : s.Canonical) (core slot id : Nat) : Outcome.Canonical
    (execMetsnapComplete core slot id s) := by
  refine Outcome.canonical_next ?_
  split
  · exact h
  · dsimp only
    split
    · next ht => exact (h.snapNow _ _ ht).updWave ..
    · exact h.updWave ..

theorem execBatchComplete_canonical {s : State} (h : s.Canonical) (blk : Nat) : Outcome.Canonical (execBatchComplete blk s) :=
  Outcome.canonical_next <| State.Canonical.ite h <|
    State.Canonical.updBlock (h.foldl (fun _ _ h => State.Canonical.ite (h.updWaveK ..) h) _) ..

theorem execTurnstilePop_canonical {s : State} (h : s.Canonical) (part heap : Nat) : Outcome.Canonical (execTurnstilePop part heap s) := by
  refine Outcome.canonical_next ?_
  split
  · exact h
  · next hp _ =>
    split
    · exact h
    · refine State.Canonical.ite h ?_
      split
      · exact h
      · next t _ _ =>
        have hf := h.fetchVirt part hp.vi t.2.code.toNat 32
        split
        · next he => rw [he] at hf; exact hf
        · next he =>
          rw [he] at hf
          dsimp only
          split
          · exact hf
          · exact State.Canonical.placeTasks hf ..

theorem execHeapRunEnd_canonical {s : State} (h : s.Canonical) (part heap : Nat) : Outcome.Canonical (execHeapRunEnd part heap s) := by
  refine Outcome.canonical_next ?_
  split
  · exact h.endRun ..
  · exact h

theorem execRegisterWrite_canonical {s : State} (h : s.Canonical) (space : RegSpace) (off : Nat) (val : DWord) : Outcome.Canonical
    (execRegisterWrite space off val s) := by
  refine Outcome.canonical_next ?_
  split
  · exact State.Canonical.ite (h.viWrite ..) h
  · exact h.pfWrite ..

theorem execPacketAccept_canonical {s : State} (h : s.Canonical) (vi q : Nat) : Outcome.Canonical (execPacketAccept vi q s) := by
  refine Outcome.canonical_next ?_
  split
  · exact h
  · dsimp only
    split
    · exact h
    · refine State.Canonical.ite h ?_
      exact State.Canonical.of_mem_eq (s := (s.fetchVirt _ vi _ 128).1) (h.fetchVirt ..) rfl rfl

theorem execPacketStart_canonical {s : State} (h : s.Canonical) (id : Nat) : Outcome.Canonical (execPacketStart id s) := by
  refine Outcome.canonical_next ?_
  split
  · exact h
  · exact State.Canonical.ite h (State.Canonical.ite ((h.updPkt ..).endStart ..) (h.updPkt ..))

theorem execGrid_canonical {s : State} (h : s.Canonical) (id : Nat) : Outcome.Canonical (execGrid id s) := by
  refine Outcome.canonical_next ?_
  split
  · exact h
  · next p _ =>
    have hf := h.fetchVirt p.part p.vi p.unit.toNat 32
    dsimp only
    split
    · next he => rw [he] at hf; exact (hf.endStart ..).updPkt ..
    · next he =>
      rw [he] at hf
      exact State.Canonical.ite ((hf.endStart ..).updPkt ..) (hf.updPkt ..)

theorem execHeapConfigure_canonical {s : State} (h : s.Canonical) (id : Nat) : Outcome.Canonical (execHeapConfigure id s) := by
  refine Outcome.canonical_next ?_
  split
  · exact h
  · split
    · exact (h.stoppedVirt ..).endStart ..
    · exact State.Canonical.ite ((h.countVirt ..).endStart ..) (((h.countVirt ..).updPart ..).endStart ..)

theorem execHeapRun_canonical {s : State} (h : s.Canonical) (id : Nat) : Outcome.Canonical (execHeapRun id s) := by
  refine Outcome.canonical_next ?_
  split
  · exact h
  · split
    · exact h.endStart ..
    · exact State.Canonical.ite (h.endStart ..)
        (State.Canonical.ite ((h.hdescOk _).endStart ..) (((h.hdescOk _).updHeap ..).updPkt ..))

theorem execHeapRelease_canonical {s : State} (h : s.Canonical) (id : Nat) : Outcome.Canonical (execHeapRelease id s) := by
  refine Outcome.canonical_next ?_
  split
  · exact h
  · split
    · exact h.endStart ..
    · exact State.Canonical.ite (h.endStart ..)
        (((((h.heapWriteBack ..).imageWriteBack ..).failArrivals ..).updPart ..).endStart ..)

theorem execPacketComplete_canonical {s : State} (h : s.Canonical) (id : Nat) : Outcome.Canonical (execPacketComplete id s) := by
  refine Outcome.canonical_next ?_
  split
  · exact State.Canonical.ite (h.completePkt _) h
  · exact h

theorem execTicketDispatch_canonical {s : State} (h : s.Canonical) (part core : Nat) : Outcome.Canonical
    (execTicketDispatch part core s) := by
  refine Outcome.canonical_next ?_
  split
  · exact h
  · refine State.Canonical.ite h ?_
    split
    · exact h
    · exact ((h.updCore ..).updPkt ..).placeUnit ..

theorem execContextSwitch_canonical {s : State} (h : s.Canonical) (part : Nat) : Outcome.Canonical (execContextSwitch part s) := by
  refine Outcome.canonical_next ?_
  split
  · exact h
  · split
    · exact h.restoreVi ..
    · exact State.Canonical.ite h (((h.takeTraps _).saveVi ..).restoreVi ..)

theorem execSchedulingPass_canonical {s : State} (h : s.Canonical) (part : Nat) (maps : List (Nat × Nat × Nat)) : Outcome.Canonical
    (execSchedulingPass part maps s) :=
  Outcome.canonical_next <| State.Canonical.ite h <|
    (h.foldl (fun _ _ h => h.unmapQueue ..) _).foldl (fun _ _ h => State.Canonical.ite h (h.mapQueue ..)) _

theorem execPartitionReconfigure_canonical {s : State} (h : s.Canonical) (layout : List PartSpec) : Outcome.Canonical
    (execPartitionReconfigure layout s) := by
  refine Outcome.canonical_next (State.Canonical.ite h ?_)
  refine State.Canonical.foldl (fun _ _ h => h.foldl (fun _ _ h => h.assignVi ..) _) _ ?_
  refine State.Canonical.foldl (fun s p h => ?_) _ (h.foldl (fun _ _ h => h.resetPart ..) _)
  exact h.of_mem_eq rfl rfl

theorem execHostWrite_canonical {s : State} (h : s.Canonical) (w : Window) (off : Nat) (data : List Byte) : Outcome.Canonical
    (execHostWrite w off data s) := by
  refine Outcome.canonical_next (State.Canonical.ite h ?_)
  split
  · exact (h.physWrite ..).wakeFutures
  · split
    · next hu => exact ((h.writeVirt _ _ _ hu).countVirt ..).wakeFutures
    · exact (h.walkVirt ..).hostError ..

theorem execHostRead_canonical {s : State} (h : s.Canonical) (w : Window) (off n : Nat) : Outcome.Canonical (execHostRead w off n s) := by
  unfold execHostRead
  extract_lets answer
  have ha (t : State) (l : List Byte) (ht : t.Canonical) : (answer t l).Canonical := ht
  refine Outcome.canonical_next (State.Canonical.ite h ?_)
  clear_value answer
  split
  · exact ha _ _ (h.physTouch ..)
  · split
    · exact ha _ _ (h.countVirt ..)
    · exact ha _ _ ((h.stoppedVirt ..).hostError ..)

theorem execRemoteAccess_canonical {s : State} (h : s.Canonical) (src : RemoteSource) (op : RemoteOp) : Outcome.Canonical
    (execRemoteAccess src op s) := by
  refine Outcome.canonical_next (State.Canonical.ite h (State.Canonical.ite (h.of_mem_eq rfl rfl) ?_))
  split
  · exact State.Canonical.ite h (((h.physTouch ..).sendPayload ..).of_mem_eq rfl rfl)
  · exact State.Canonical.ite h ((h.physWrite ..).wakeFutures.of_mem_eq rfl rfl)
  · exact State.Canonical.ite h (((h.physWrite ..).wakeFutures.sendPayload ..).of_mem_eq rfl rfl)

theorem execDump_canonical {s : State} (h : s.Canonical) (req : DumpRequest) : Outcome.Canonical (execDump req s) := by
  refine Outcome.canonical_next (h.message _ _ fun t ht => ?_)
  split
  · refine State.Canonical.ite (ht.reply ..) ?_
    refine State.Canonical.sendDump (State.Canonical.reply ?_ ..) ..
    exact ht.of_mem_eq rfl rfl
  · exact ht.reply ..

theorem execResume_canonical {s : State} (h : s.Canonical) (vi q idx x y z : Nat) : Outcome.Canonical (execResume vi q idx x y z s) := by
  refine Outcome.canonical_next (h.message _ _ fun t ht => ?_)
  split
  · exact ht.reply ..
  · exact State.Canonical.reply ((ht.foldl (fun _ _ h => h.updWaveK ..) _).foldl (fun _ _ h => h.updBlock ..) _) ..

theorem execStop_canonical {s : State} (h : s.Canonical) (vi q idx x y z : Nat) : Outcome.Canonical (execStop vi q idx x y z s) := by
  refine Outcome.canonical_next (h.message _ _ fun t ht => ?_)
  split
  · exact ht.reply ..
  · exact State.Canonical.ite (ht.reply ..) (State.Canonical.ite (ht.stopBlocks _)
      (State.Canonical.stopBlocks ((ht.foldl (fun _ _ h => h.updWaveK ..) _).foldl (fun _ _ h => h.updBlock ..) _) _))

theorem execGetbins_canonical {s : State} (h : s.Canonical) (vi : Nat) : Outcome.Canonical (execGetbins vi s) := by
  refine Outcome.canonical_next (h.message _ _ fun t ht => ?_)
  split
  · exact ht.reply ..
  · exact ht.reply ..

theorem execSetbin_canonical {s : State} (h : s.Canonical) (vi bin : Nat) (base limit : DWord) (binVi : Nat) : Outcome.Canonical
    (execSetbin vi bin base limit binVi s) := by
  refine Outcome.canonical_next (h.message _ _ fun t ht => ?_)
  split
  · exact State.Canonical.ite (ht.reply ..) ((ht.updPart ..).reply ..)
  · exact ht.reply ..

theorem execGetsnap_canonical {s : State} (h : s.Canonical) (vi : Nat) : Outcome.Canonical (execGetsnap vi s) := by
  refine Outcome.canonical_next (h.message _ _ fun t ht => ?_)
  split
  · next hu => exact (ht.snapNow _ _ hu).reply ..
  · exact ht.reply ..

theorem execOverTemperature_canonical {s : State} (h : s.Canonical) (part : Nat) : Outcome.Canonical (execOverTemperature part s) := by
  refine Outcome.canonical_next (State.Canonical.ite h ?_)
  refine State.Canonical.foldl (fun _ _ h => h.updVi ..) _ ?_
  exact ((h.foldl (fun _ _ h => h.postError ..) _).resetPart ..).of_mem_eq rfl rfl

theorem execLinkFailure_canonical {s : State} (h : s.Canonical) (port : Nat) : Outcome.Canonical (execLinkFailure port s) := by
  refine Outcome.canonical_next (State.Canonical.ite h (State.Canonical.formMembs ?_ _))
  exact State.Canonical.foldl (fun _ _ h => h.postError ..) _ (h.of_mem_eq rfl rfl)

theorem execLinkUp_canonical {s : State} (h : s.Canonical) (port partner partnerPort : Nat) (ident : BitVec 256) : Outcome.Canonical
    (execLinkUp port partner partnerPort ident s) := by
  refine Outcome.canonical_next (State.Canonical.ite h (State.Canonical.formMembs ?_ _))
  exact h.of_mem_eq rfl rfl

theorem execGracePeriodEnd_canonical {s : State} (h : s.Canonical) (base : Nat) : Outcome.Canonical (execGracePeriodEnd base s) := by
  refine Outcome.canonical_next ?_
  split
  · exact h
  · exact (h.extentRecord ..).fenceExtent _

theorem execExtentRelease_canonical {s : State} (h : s.Canonical) (base : Nat) (forced : Bool) : Outcome.Canonical
    (execExtentRelease base forced s) := by
  refine Outcome.canonical_next ?_
  split
  · exact h
  · next e _ =>
    have he : (if e.pending then s else s.extentRecord e.vi e.base 3).Canonical := State.Canonical.ite h (h.extentRecord ..)
    exact State.Canonical.ite ((he.extentRecord ..).fenceExtent _) (he.of_mem_eq rfl rfl)

theorem execExtentAdd_canonical {s : State} (h : s.Canonical) (base len vi : Nat) : Outcome.Canonical (execExtentAdd base len vi s) := by
  refine Outcome.canonical_next (State.Canonical.ite h (State.Canonical.rekey ?_ ..))
  exact h.of_mem_eq rfl rfl

theorem execSliceEnd_canonical {s : State} (h : s.Canonical) (part : Nat) : Outcome.Canonical (execSliceEnd part s) := by
  refine Outcome.canonical_next ?_
  dsimp only
  split
  · exact h
  · exact State.Canonical.ite h (State.Canonical.ite (h.updPart ..) (h.updPart ..))

theorem execSettrap_canonical {s : State} (h : s.Canonical) : Outcome.Canonical (execSettrap s) := by
  refine Outcome.canonical_next (h.serve _ fun vi l => ?_)
  dsimp only
  split
  · exact h
  · exact h.updVi ..

theorem execSetroot_canonical {s : State} (h : s.Canonical) : Outcome.Canonical (execSetroot s) := by
  refine Outcome.canonical_next (h.serve _ fun vi l => ?_)
  dsimp only
  split
  · exact h
  · exact (h.tlbInvalidate ..).updVi ..

theorem execGroup_canonical {s : State} (h : s.Canonical) : Outcome.Canonical (execGroup s) := by
  refine Outcome.canonical_next (h.serve _ fun vi l => ?_)
  have hf := h.fetchVirt (s.viPart vi) vi (field l 16 8) (8 * field l 10 2)
  dsimp only
  split
  · exact h
  · split
    · next he => rw [he] at hf; exact hf
    · next he =>
      rw [he] at hf
      split
      · exact hf
      · split
        · exact hf
        · exact hf.updVi ..

theorem execSchedp_canonical {s : State} (h : s.Canonical) : Outcome.Canonical (execSchedp s) := by
  refine Outcome.canonical_next (h.serve _ fun vi l => ?_)
  dsimp only
  split
  · exact h
  · exact h.updVi ..

theorem execAssign_canonical {s : State} (h : s.Canonical) : Outcome.Canonical (execAssign s) := by
  refine Outcome.canonical_next (h.serve _ fun vi l => ?_)
  dsimp only
  split
  · exact h
  · split
    · exact h
    · exact h.assignVi ..

theorem execExtdone_canonical {s : State} (h : s.Canonical) : Outcome.Canonical (execExtdone s) := by
  refine Outcome.canonical_next (h.serve _ fun vi l => ?_)
  split
  · exact h.fenceExtent _
  · exact h

theorem execPowerOn_canonical {s : State} (h : s.Canonical) : Outcome.Canonical (execPowerOn s) :=
  Outcome.canonical_next ⟨Memory.wf_filter _ h.1, State.Canonical.reset.2⟩

end Sys2Proof.Machine
end

section
/-! SUPPORT. The canonical form of memory, of an instruction. -/
namespace Sys2Proof.Machine

theorem execKmov_canonical {s : State} (h : s.Canonical) (m : Bool) (d : KReg) (b : SOp) : Outcome.Canonical (execKmov m d b s) := by
  unfold execKmov
  split
  · exact h.kop ..
  · exact h.kop ..

theorem execMma_canonical {s : State} (h : s.Canonical) (m : Bool) (sh : Shape) (acc : BitVec 3) (a b : BitVec 5) (f : BitVec 3) :
    Outcome.Canonical (execMma m sh acc a b f s) := by
  unfold execMma
  exact h.issueMma ..

theorem execMmasp_canonical {s : State} (h : s.Canonical) (m : Bool) (sh : Shape) (acc : BitVec 3) (a b : BitVec 5) (f : BitVec 3) :
    Outcome.Canonical (execMmasp m sh acc a b f s) := by
  unfold execMmasp
  exact h.issueMma ..

theorem exec_canonical {s : State} (h : s.Canonical) (i : Instr) : Outcome.Canonical (exec i s) := by
  cases i with
  | vadd | vsub | vmul | vfma | vfnma | vmin | vmax | vcpsgn | vscale | vabsd => unfold exec; exact h.floatOp ..
  | viadd | visub | vimul | vimad | vimulhs | vimulhn | vimins | viminn | vimaxs | vimaxn | viaddss | viaddsn | visubss =>
    unfold exec; exact h.intOp ..
  | vshl | vshr | vsra => unfold exec; exact h.shiftOp ..
  | vand | vor | vxor | vandn | vbfes | vbfen | vbfi | vpopc | vclz | vpermb | vmov | vlane | vshfl | vbcast => unfold exec; exact h.miscOp ..
  | vsel => unfold exec execVsel; exact h.run fun _ ht => ht.result ..
  | vscan => unfold exec execVscan; exact h.run fun _ ht => ht.result ..
  | vreds => unfold exec execVreds; exact h.run fun _ ht => ht.result ..
  | vrdl => unfold exec execVrdl; exact h.run fun _ ht => ht.result ..
  | vwrl => unfold exec execVwrl; exact h.run fun _ ht => ht.result ..
  | vrdi => unfold exec execVrdi; exact h.run fun _ ht => ht.result ..
  | vwri => unfold exec execVwri; exact h.run fun _ ht => ht.result ..
  | smov => unfold exec execSmov; exact h.run fun _ ht => ht.result ..
  | kpopc => unfold exec execKpopc; exact h.run fun _ ht => ht.result ..
  | kffs => unfold exec execKffs; exact h.run fun _ ht => ht.result ..
  | ringq => unfold exec execRingq; exact h.run fun _ ht => ht.result ..
  | sysld => unfold exec execSysld; exact h.run fun _ ht => ht.result ..
  | cntrd => unfold exec execCntrd; exact h.run fun _ ht => ht.result ..
  | vcvt | vqnt | vdq | vbscale => unfold exec; exact h.convOp ..
  | vrcp | vrsq | vsqrt | vex2 | vlg2 | vsin | vcos | vtanh => unfold exec; exact h.sfuOp ..
  | vcmpEqF64 | vcmpNeF64 | vcmpLtF64 | vcmpLeF64 | vcmpGtF64 | vcmpGeF64 | vclassF32 | vcmpF32 | vcmpS32 | vcmpN32 => unfold exec; exact h.cmpOp ..
  | vldB32 | vldB64 | vldB128 | vldS8 | vldN8 | vldS16 | vldN16 => unfold exec; exact h.vload ..
  | vstB32 | vstB64 | vstB128 | vstB8 | vstB16 => unfold exec; exact h.vstore ..
  | vpref => unfold exec execVpref; exact h.vecMem ..
  | fget => unfold exec execFget; exact h.vecMem ..
  | fput => unfold exec execFput; exact h.vecMem ..
  | vatom => unfold exec execVatom; exact h.vecMem ..
  | vred => unfold exec execVred; exact h.vecMem ..
  | sadd | ssub | smul | smulhs | smulhn | sand | sor | sxor | sandn | sshl | sshr | ssra | smins | sminn | smaxs | smaxn | sslt | ssltn
    | sseq | ssne | ssle | sslen | sbfen =>
    unfold exec; exact h.scal ..
  | scmov => exact execScmov_canonical h ..
  | sadd64 | ssub64 | sshl64 | sshr64 | smulw => unfold exec; exact h.scal64 ..
  | spopc | sclz => unfold exec; exact h.scalUn ..
  | kand | kor | kxor | kandn | klane => unfold exec; exact h.kop ..
  | kmov => exact execKmov_canonical h ..
  | sldB32 | sldB64 | sldB128 => unfold exec; exact h.sload ..
  | sstB32 | sstB64 | cqry => unfold exec; exact h.scaMem ..
  | satomAdd | satomCas | satomExch => unfold exec; exact h.satom ..
  | sget => exact execSget_canonical h ..
  | sset => exact execSset_canonical h ..
  | br | brany | brall | brnone | brnz | brz => unfold exec; exact h.branch ..
  | call => exact execCall_canonical h ..
  | jmpr => exact execJmpr_canonical h ..
  | split => exact execSplit_canonical h ..
  | ends => exact execEnds_canonical h ..
  | pub => exact execPub_canonical h ..
  | join => exact execJoin_canonical h ..
  | joins => exact execJoins_canonical h ..
  | joinm => unfold exec execJoinm; exact h.run fun _ ht => ht.parkUntil ..
  | twait => unfold exec execTwait; exact h.run fun _ ht => ht.parkUntil ..
  | waiti => unfold exec execWaiti; exact h.run fun _ ht => ht.parkUntil ..
  | barW => exact execBarW_canonical h ..
  | barA => exact execBarA_canonical h ..
  | barD => exact execBarD_canonical h ..
  | barJ => exact execBarJ_canonical h ..
  | barwp => exact execBarwp_canonical h ..
  | fence | qfence | l2pin | l2unpin => unfold exec; exact h.runQ fun _ ht => ht
  | mwait => exact execMwait_canonical h ..
  | rpoll => exact execRpoll_canonical h ..
  | vgive => exact execVgive_canonical h ..
  | vclaim => exact execVclaim_canonical h ..
  | exit => exact execExit_canonical h ..
  | trap => exact execTrap_canonical h ..
  | tret => exact execTret_canonical h ..
  | nop => unfold exec; exact h.run fun _ ht => ht
  | acopy | gath | scat | coll => unfold exec; exact h.issueEngine ..
  | mma => exact execMma_canonical h ..
  | mmasp => exact execMmasp_canonical h ..
  | mzacc => unfold exec; exact h.issueMatrix ..
  | mstacc | mldacc => unfold exec; exact h.issueAcc ..
  | mfence => exact execMfence_canonical h ..
  | tenq | tgaina | tgainm | tgains | tdone | tjset => unfold exec; exact h.issueHeap ..
  | hres => exact execHres_canonical h ..
  | ringp | ringc => unfold exec; exact h.issueRing ..
  | smap => exact execSmap_canonical h ..
  | sunmap | cdrop | cinv | cinvI | cwb => unfold exec; exact h.issuePort ..
  | xmod => exact execXmod_canonical h ..
  | limm | limmh | limmf => unfold exec; exact h.wideHint ..
  | limml => exact execLimml_canonical h ..
  | sched => unfold exec execSched; exact h.run fun _ ht => ht.updCs _
  | sysst => exact execSysst_canonical h ..
  | tlbinv => exact execTlbinv_canonical h ..
  | trace => unfold exec execTrace; exact h.run fun _ ht => ht.traceRec ..
  | brkpt => exact execBrkpt_canonical h ..
  | metsnap => exact execMetsnap_canonical h ..
  | vidivS32 | emulation | illegalWord => unfold exec; exact Outcome.canonical_next (h.raiseHere ..)
  | strandWake => unfold exec; exact Outcome.canonical_next (State.Canonical.ite ((h.wakeStrand ..).settle ..) h)
  | resultWrite => unfold exec; exact Outcome.canonical_next (State.Canonical.ite ((h.land ..).settle ..) h)
  | ssqEntryRelease => exact execSsqEntryRelease_canonical h ..
  | pageWalk => exact execPageWalk_canonical h ..
  | takeTrap | contextEnd => unfold exec; exact Outcome.canonical_next (State.Canonical.ite (h.takeTrap ..) h)
  | waveEnd => unfold exec; exact Outcome.canonical_next (State.Canonical.ite (h.endWave ..) h)
  | acopyComplete => unfold exec; exact Outcome.canonical_next (State.Canonical.ite (h.runAcopy ..) h)
  | gathScatComplete => unfold exec; exact Outcome.canonical_next (State.Canonical.ite (h.runGath ..) h)
  | sunmapComplete | cdropComplete | cinvCwbComplete => unfold exec; exact Outcome.canonical_next (h.completePort ..)
  | metsnapComplete => exact execMetsnapComplete_canonical h ..
  | matrixOpComplete => unfold exec; exact Outcome.canonical_next (State.Canonical.ite (h.runMatrix ..) h)
  | batchComplete => exact execBatchComplete_canonical h ..
  | heapOpPerform => unfold exec; exact Outcome.canonical_next (h.performHeap ..)
  | tdoneParentUpdate => unfold exec; exact Outcome.canonical_next (h.parentUpdate ..)
  | turnstilePop => exact execTurnstilePop_canonical h ..
  | heapRunEnd => exact execHeapRunEnd_canonical h ..
  | registerWrite => exact execRegisterWrite_canonical h ..
  | packetAccept => exact execPacketAccept_canonical h ..
  | packetStart => exact execPacketStart_canonical h ..
  | grid => exact execGrid_canonical h ..
  | heapConfigure => exact execHeapConfigure_canonical h ..
  | heapRun => exact execHeapRun_canonical h ..
  | heapRelease => exact execHeapRelease_canonical h ..
  | marker => unfold exec; exact Outcome.canonical_next (State.Canonical.ite (h.endStart ..) h)
  | packetComplete => exact execPacketComplete_canonical h ..
  | ticketDispatch => exact execTicketDispatch_canonical h ..
  | contextSwitch => exact execContextSwitch_canonical h ..
  | schedulingPass => exact execSchedulingPass_canonical h ..
  | partitionReconfigure => exact execPartitionReconfigure_canonical h ..
  | collComplete => unfold exec; exact Outcome.canonical_next (State.Canonical.ite (h.runColl ..) h)
  | notify => unfold exec; exact Outcome.canonical_next (h.notify ..)
  | hostWrite => exact execHostWrite_canonical h ..
  | hostRead => exact execHostRead_canonical h ..
  | dumpKey => unfold exec; exact Outcome.canonical_next (State.Canonical.ite (h.updVi ..) h)
  | laneCycleRecord => unfold exec; exact Outcome.canonical_next (State.Canonical.ite (h.laneCycle ..) h)
  | remoteAccess => exact execRemoteAccess_canonical h ..
  | dump => exact execDump_canonical h ..
  | resume => exact execResume_canonical h ..
  | stop => exact execStop_canonical h ..
  | settrace => unfold exec; exact Outcome.canonical_next (h.message _ _ fun _ ht => (ht.updVi ..).reply ..)
  | getbins => exact execGetbins_canonical h ..
  | setbin => exact execSetbin_canonical h ..
  | getmemb => unfold exec; exact Outcome.canonical_next (h.message _ _ fun _ ht => ht.reply ..)
  | getsnap => exact execGetsnap_canonical h ..
  | setjob => unfold exec; exact Outcome.canonical_next (h.message _ _ fun _ ht => ((ht.updVi ..).formMemb _).reply ..)
  | overTemperature => exact execOverTemperature_canonical h ..
  | linkFailure => exact execLinkFailure_canonical h ..
  | linkUp => exact execLinkUp_canonical h ..
  | activationAlert | refreshInterval => unfold exec; exact Outcome.canonical_next (State.Canonical.ite h (h.updPart ..))
  | gracePeriodEnd => exact execGracePeriodEnd_canonical h ..
  | extentRelease => exact execExtentRelease_canonical h ..
  | extentAdd => exact execExtentAdd_canonical h ..
  | sliceEnd => exact execSliceEnd_canonical h ..
  | strandCapped => unfold exec; exact Outcome.canonical_next (State.Canonical.ite (h.updStrand ..) h)
  | fetchFill => unfold exec; exact Outcome.canonical_next (State.Canonical.ite (h.fetchFill ..) h)
  | roleToLoader => unfold exec; exact Outcome.canonical_next (h.roleToLoader _)
  | roleToCompute => unfold exec; exact Outcome.canonical_next (h.roleToCompute _)
  | powerOverrun => unfold exec; exact Outcome.canonical_next h
  | settrap => exact execSettrap_canonical h
  | setroot => exact execSetroot_canonical h
  | group => exact execGroup_canonical h
  | schedp => exact execSchedp_canonical h
  | assign => exact execAssign_canonical h
  | resetvi => unfold exec; exact Outcome.canonical_next (h.serve _ fun _ _ => h.resetVi _)
  | extdone => exact execExtdone_canonical h
  | imggo => unfold exec; exact Outcome.canonical_next h.imgGo
  | powerOn => exact execPowerOn_canonical h

end Sys2Proof.Machine
end

section
/-! O59: memory stays canonical. -/
namespace Sys2Proof.Machine

theorem State.Canonical.nextOf {s : State} (h : s.Canonical) {o : Host.Outcome State Fault Refusal} (ho : Outcome.Canonical o) :
    (nextOf s o).Canonical := by
  unfold Machine.nextOf
  split
  · exact ho.next _ rfl
  · exact h

theorem State.Canonical.issueWord {s : State} (h : s.Canonical) (i : Instr) : Outcome.Canonical (s.issueWord i) := by
  have he := exec_canonical (h.account i) i
  unfold State.issueWord
  split
  next u hu =>
    split
    · exact exec_canonical h i
    · exact Outcome.canonical_next (he.next u hu)
  · exact he

theorem State.Canonical.issueNext {s : State} (h : s.Canonical) (core slot n : Nat) : Outcome.Canonical (s.issueNext core slot n) := by
  have ht := h.issueCycle core slot
  unfold State.issueNext
  generalize s.issueCycle core slot = t at ht ⊢
  split
  · exact Outcome.canonical_next (h.fetchNext ..)
  · dsimp only
    split
    · exact Outcome.canonical_next h
    · exact State.Canonical.issueWord (s := { t with cur := (core, slot, n) }) ht _

theorem State.Canonical.choose {s : State} (h : s.Canonical) (c : Choice) : Outcome.Canonical (s.choose c) := by
  cases c with
  | issue core slot n => exact h.issueNext ..
  | event i =>
    unfold State.choose
    dsimp only
    split
    · exact exec_canonical h i
    · exact Outcome.canonical_next h
  | evict core line => exact Outcome.canonical_next (h.flushL1 ..)
  | evictTlb core n => exact Outcome.canonical_next (h.updCore ..)
  | progress blk q n => exact Outcome.canonical_next (h.progressQ ..)
  | tick n => exact Outcome.canonical_next (h.tick n)
  | withhold | defer | lag | served | refused | interrupt => exact Outcome.canonical_next h
  | scat blk order => exact Outcome.canonical_next (State.Canonical.ite (h.scatMixed ..) h)
  | eccFixed part => exact Outcome.canonical_next (State.Canonical.ite h (h.updPart ..))
  | eccLine line => exact Outcome.canonical_next (h.markBad line)
  | eccCopy core line => exact Outcome.canonical_next (State.Canonical.ite (h.updCore ..) h)
  | eccTile core line => exact Outcome.canonical_next (State.Canonical.ite (h.updCore ..) h)
  | program port reach => exact Outcome.canonical_next (State.Canonical.ite h (h.of_mem_eq rfl rfl))
  | owner pa data => exact Outcome.canonical_next (h.ownerWrites ..)
  | port core slot id => exact Outcome.canonical_next (h.carryPort ..)
  | activate stack chan bank => exact Outcome.canonical_next (h.activate ..)
  | refresh stack chan bank => exact Outcome.canonical_next (h.refreshBank ..)
  | resetting part on => exact Outcome.canonical_next (h.setResetting ..)
  | holdMeters vi on => exact Outcome.canonical_next (h.updVi ..)
  | boot => exact Outcome.canonical_next h.bootMove
  | eccStash blk line => exact Outcome.canonical_next (h.updBlock ..)

/-! What a choice of the model's own leads to is canonical. -/

/-- The state that an optional step leads to, if any, is canonical. -/
def MoveCanonical (o : Option State) : Prop := ∀ u, o = some u → u.Canonical

theorem moveCanonical_none : MoveCanonical none := fun _ h => nomatch h

theorem moveCanonical_some {t : State} (h : t.Canonical) : MoveCanonical (some t) := by
  rintro _ ⟨⟩
  exact h

theorem moveCanonical_ite {c : Prop} [Decidable c] {a b : Option State} (ha : MoveCanonical a) (hb : MoveCanonical b) :
    MoveCanonical (if c then a else b) := by
  split
  · exact ha
  · exact hb

theorem moveCanonical_map {α : Type} {f : α → State} (hf : ∀ a, (f a).Canonical) (o : Option α) : MoveCanonical (o.map f) := by
  cases o with
  | none => exact moveCanonical_none
  | some a => exact moveCanonical_some (hf a)

theorem moveCanonical_bind {α : Type} {f : α → Option State} (hf : ∀ a, MoveCanonical (f a)) (o : Option α) : MoveCanonical (o.bind f) := by
  cases o with
  | none => exact moveCanonical_none
  | some a => exact hf a

theorem moveCanonical_findSome? {α : Type} {f : α → Option State} (hf : ∀ a, MoveCanonical (f a)) (l : List α) :
    MoveCanonical (l.findSome? f) := by
  intro u hu
  obtain ⟨a, -, ha⟩ := List.exists_of_findSome?_eq_some hu
  exact hf a u ha

theorem moveCanonical_orElse {a : Option State} {b : Unit → Option State} (ha : MoveCanonical a) (hb : MoveCanonical (b ())) :
    MoveCanonical (a.orElse b) := by
  cases a with
  | none => exact hb
  | some t => exact ha

theorem State.Canonical.stopDue {s : State} (h : s.Canonical) (blk : Nat) (b : Block) : MoveCanonical (s.stopDue blk b) :=
  moveCanonical_ite (moveCanonical_some (h.stopBlocks _)) moveCanonical_none

theorem State.Canonical.waveMove {s : State} (h : s.Canonical) (core slot : Nat) (w : Wave) : MoveCanonical (s.waveMove core slot w) := by
  refine moveCanonical_ite moveCanonical_none (moveCanonical_ite (moveCanonical_some (h.takeTrap ..)) ?_)
  split
  · exact moveCanonical_some ((h.land ..).settle ..)
  · split
    · exact moveCanonical_some ((h.runEntry ..).settle ..)
    · exact moveCanonical_map (fun n => (h.wakeStrand ..).settle ..) _

theorem State.Canonical.waveSlow {s : State} (h : s.Canonical) (core slot : Nat) (w : Wave) : MoveCanonical (s.waveSlow core slot w) := by
  unfold State.waveSlow
  dsimp only
  split
  · exact moveCanonical_some ((h.runEntry ..).settle ..)
  · split
    · exact moveCanonical_some (h.completePort ..)
    next x _ _ _ =>
      have hm := execMetsnapComplete_canonical h core slot x.id
      split
      next t ht => exact moveCanonical_some (hm.next t ht)
      · exact moveCanonical_none
    · exact moveCanonical_ite moveCanonical_none (moveCanonical_ite (moveCanonical_some (h.endWave ..)) moveCanonical_none)

theorem State.Canonical.blockMove {s : State} (h : s.Canonical) (blk : Nat) (b : Block) : MoveCanonical (s.blockMove blk b) := by
  refine moveCanonical_ite moveCanonical_none ?_
  split
  next q _ => exact moveCanonical_some (h.nextOf (exec_canonical h (.acopyComplete blk q)))
  · refine moveCanonical_ite (moveCanonical_some (h.nextOf (exec_canonical h (.gathScatComplete blk)))) ?_
    refine moveCanonical_ite (moveCanonical_map (fun inp => h.nextOf (exec_canonical h (.collComplete blk inp))) _) ?_
    refine moveCanonical_ite (moveCanonical_some (h.nextOf (exec_canonical h (.matrixOpComplete blk)))) ?_
    exact moveCanonical_ite (moveCanonical_some (h.nextOf (exec_canonical h (.batchComplete blk)))) moveCanonical_none

theorem State.Canonical.heapWork {s : State} (h : s.Canonical) (part id : Nat) (x : Heap) : MoveCanonical (s.heapWork part id x) :=
  moveCanonical_ite (moveCanonical_some (h.performHeap ..))
    (moveCanonical_ite (moveCanonical_some (h.parentUpdate ..)) moveCanonical_none)

theorem State.Canonical.heapMove {s : State} (h : s.Canonical) (part id : Nat) (x : Heap) : MoveCanonical (s.heapMove part id x) := by
  unfold State.heapMove
  split
  · exact moveCanonical_some (h.endRun ..)
  · exact moveCanonical_ite moveCanonical_none (moveCanonical_some (h.nextOf (exec_canonical h (.turnstilePop part id))))

theorem State.Canonical.pktMove {s : State} (h : s.Canonical) (id : Nat) (p : Packet) : MoveCanonical (s.pktMove id p) := by
  refine moveCanonical_ite (moveCanonical_some (h.nextOf (exec_canonical h (.packetStart id)))) ?_
  refine moveCanonical_ite (moveCanonical_some (h.completePkt id)) (moveCanonical_ite ?_ moveCanonical_none)
  split
  · exact moveCanonical_some (h.nextOf (exec_canonical h (.grid id)))
  · exact moveCanonical_some (h.nextOf (exec_canonical h (.heapConfigure id)))
  · exact moveCanonical_some (h.nextOf (exec_canonical h (.heapRun id)))
  · exact moveCanonical_some (h.nextOf (exec_canonical h (.heapRelease id)))
  · exact moveCanonical_some (h.nextOf (exec_canonical h (.marker id)))
  · exact moveCanonical_none

theorem State.Canonical.dispatchMove {s : State} (h : s.Canonical) (part : Nat) (p : Part) : MoveCanonical (s.dispatchMove part p) :=
  moveCanonical_bind (fun _ => moveCanonical_findSome? (fun c => moveCanonical_ite
    (moveCanonical_ite (moveCanonical_some (h.nextOf (exec_canonical h (.ticketDispatch part c)))) moveCanonical_none)
    moveCanonical_none) _) _

theorem State.Canonical.partMove {s : State} (h : s.Canonical) (part : Nat) (p : Part) : MoveCanonical (s.partMove part p) := by
  unfold State.partMove
  dsimp only
  split
  next x _ => exact moveCanonical_some (h.nextOf (exec_canonical h (.packetAccept x.2.vi x.2.q)))
  · split
    next t ht => exact moveCanonical_some (h.dispatchMove part p t ht)
    · refine moveCanonical_ite (moveCanonical_some (h.nextOf (exec_canonical h (.schedulingPass part _)))) ?_
      refine moveCanonical_ite (moveCanonical_some (h.nextOf (exec_canonical h (.contextSwitch part)))) ?_
      exact moveCanonical_ite (moveCanonical_some (h.nextOf (exec_canonical h (.sliceEnd part)))) moveCanonical_none

theorem State.Canonical.capMove {s : State} (h : s.Canonical) (ws : List (Nat × Nat × Wave)) : MoveCanonical (s.capMove ws) :=
  moveCanonical_map (fun x : Nat × Nat × Nat => h.nextOf (exec_canonical h (.strandCapped x.1 x.2.1 x.2.2))) _

theorem State.Canonical.requestMove {s : State} (h : s.Canonical) : MoveCanonical s.requestMove := by
  refine moveCanonical_ite moveCanonical_none ?_
  intro u hu
  obtain ⟨f, hf, hu⟩ := List.exists_of_findSome?_eq_some hu
  have ht : (Machine.nextOf s (f s)).Canonical := by
    simp only [List.mem_cons, List.not_mem_nil, or_false] at hf
    rcases hf with rfl | rfl | rfl | rfl | rfl | rfl | rfl
    · exact h.nextOf (exec_canonical h .settrap)
    · exact h.nextOf (exec_canonical h .setroot)
    · exact h.nextOf (exec_canonical h .group)
    · exact h.nextOf (exec_canonical h .schedp)
    · exact h.nextOf (exec_canonical h .assign)
    · exact h.nextOf (exec_canonical h .resetvi)
    · exact h.nextOf (exec_canonical h .extdone)
  exact moveCanonical_ite moveCanonical_none (moveCanonical_some ht) u hu

theorem State.Canonical.slowMove {s : State} (h : s.Canonical) (ws : List (Nat × Nat × Wave)) : MoveCanonical (s.slowMove ws) := by
  refine moveCanonical_orElse (moveCanonical_findSome? (fun _ => h.waveSlow _ _ _) _) ?_
  refine moveCanonical_orElse (moveCanonical_findSome? (fun _ => h.blockMove _ _) _) ?_
  refine moveCanonical_orElse (moveCanonical_findSome? (fun _ => moveCanonical_findSome? (fun _ => h.heapWork _ _ _) _) _) ?_
  refine moveCanonical_orElse (moveCanonical_findSome? (fun _ => moveCanonical_findSome? (fun _ => h.heapMove _ _ _) _) _) ?_
  refine moveCanonical_orElse (moveCanonical_findSome? (fun _ => h.pktMove _ _) _) ?_
  refine moveCanonical_orElse h.requestMove ?_
  refine moveCanonical_orElse (moveCanonical_ite (moveCanonical_some h.bootMove) moveCanonical_none) ?_
  exact moveCanonical_findSome? (fun _ => h.partMove _ _) _

theorem State.Canonical.issueMove {s : State} (h : s.Canonical) (ws : List (Nat × Nat × Wave)) {o : Host.Outcome State Fault Refusal}
    (ho : s.issueMove ws = some o) : Outcome.Canonical o := by
  have ht := h.served.tick 1
  unfold State.issueMove at ho
  split at ho
  · cases ho
    exact h.issueNext ..
  · split at ho
    · dsimp only at ho
      split at ho
      · cases ho
        exact ht.issueNext ..
      · cases ho
        exact Outcome.canonical_next ht
    · cases ho

theorem State.Canonical.auto {s : State} (h : s.Canonical) : Outcome.Canonical s.auto := by
  unfold State.auto
  dsimp only
  split
  next t ht =>
    refine Outcome.canonical_next (moveCanonical_orElse ?_ (moveCanonical_orElse ?_ (moveCanonical_orElse ?_ ?_)) t ht)
    · exact moveCanonical_findSome? (fun _ => h.stopDue _ _) _
    · exact moveCanonical_findSome? (fun _ => h.waveMove _ _ _) _
    · exact h.capMove _
    · exact moveCanonical_findSome? (fun _ => h.dispatchMove _ _) _
  · split
    next t ht => exact Outcome.canonical_next (moveCanonical_ite (h.slowMove _) moveCanonical_none t ht)
    · split
      next o ho => exact h.issueMove _ ho
      · split
        next t ht => exact Outcome.canonical_next (h.slowMove _ t ht)
        · exact Outcome.canonical_next ((h.served.tick 1).of_mem_eq rfl rfl)

theorem step_canonical {s : State} (h : s.Canonical) : Outcome.Canonical (step s) := by
  unfold step State.stepOnce
  split
  next c t _ => exact State.Canonical.choose (s := { s with agenda := t }) h c
  · exact h.auto

/-- Settles O59: reset has the canonical form, and every choice of the agenda, every step of the model's own and every instruction keep it. -/
theorem memoryStaysCanonical : Obligations.MemoryStaysCanonical := by
  unfold Obligations.MemoryStaysCanonical
  exact ⟨State.Canonical.reset, fun s t h hst => (step_canonical h).next t hst⟩

end Sys2Proof.Machine
end

section
/-!
# Accesses to a page whose set holds more than 16 ways

The page clauses of O15 and O60 let the line of the access be in its set, whatever the set's size.  A tag of the line without valid sectors is
taken out and its line is filled again: a set that then still holds 16 ways gives up another line, whose dirty copy in an L1 cache goes home.
-/
namespace Sys2Proof.Machine

/-- The physical line of the page at 0x30000 of the test states. -/
def pageLine : Nat := 0x600

/-- The line that the set gives up. -/
def victimLine : Nat := 0x700

/-- Seventeen ways: a tag of the line without a valid sector, and sixteen ways of the line to give up. -/
def crowdedSet : List Way := { line := pageLine } :: List.replicate 16 { line := victimLine, valid := 15 }

/-- A copy of the line to give up that its home does not have yet. -/
def dirtyLine : L1Line := { st := .m, data := 0xFF, vi := 0, dirty := 1 }

/-- The one lane of the issuing wave is about to access the page at 0x30000, by a scalar address or by a lane's; the line's set is crowded, and
core 0 holds the dirty copy. -/
def crowdedState : State :=
  let s := ((withS [(2, 0x30000), (58, 0x30000)]).updCs fun st => { st with am := 1 }).updCore 0 fun c => { c with l1 := [(victimLine, dirtyLine)] }
  { s with l2 := [(l2Key s.cw.part (s.part s.cw.part).size pageLine, crowdedSet)] }

/-- The translation of the address. -/
def pageXlat : Xlat := ⟨0x30000, 16, 0x3005B, .hbm, 0x30000⟩

/-- The byte of memory that the copy changes. -/
def Outcome.victimByte : Host.Outcome State Fault Refusal → Option Byte
  | .next t => some (Memory.byte t.mem (128 * victimLine))
  | _ => none

/-- The access to the page goes out at once, and finds its line in the set. -/
theorem crowdedState_onPage {op : MemOp} {va : DWord} (hva : va = 0x30000) (hneed : op.kind.need = .rd ∨ op.kind.need = .wr)
    (hknown : crowdedState.tlbReady crowdedState.cur.1 crowdedState.cw (.mem op) = true)
    (hroom : crowdedState.missRoom (crowdedState.agentOf crowdedState.cur.1 crowdedState.cur.2.1 .normal) op = true) :
    crowdedState.OnPage op va pageXlat := by
  subst hva
  refine ⟨hknown, hroom, by decide, ?_, by decide +kernel, by decide +kernel, by decide +kernel, by decide +kernel, .inr ?_⟩
  · rcases hneed with h | h
    · rw [h]; exact ⟨_, rfl⟩
    · rw [h]; exact ⟨_, rfl⟩
  · exact ⟨{ line := pageLine }, by decide +kernel, by decide +kernel, rfl⟩

theorem crowdedState_unordered : crowdedState.Unordered := unordered_of (by decide +kernel)

theorem crowdedState_victimByte : Memory.byte crowdedState.mem (128 * victimLine) = 0 := by decide +kernel

/-- The scalar store has changed a byte of another line. -/
theorem crowdedState_store : Outcome.victimByte (exec (.sstB32 false 0 2 (.imm 0)) crowdedState) = some 0xFF := by decide +kernel

/-- The vector load has changed a byte of memory. -/
theorem crowdedState_load : Outcome.victimByte (exec (.vldB32 false 4 1 29 .plain) crowdedState) = some 0xFF := by decide +kernel

/-- Refutes O15: in a set of 17 ways a store to a page of region RS writes the dirty copy of another line home. -/
theorem not_scalarAccesses : ¬ Obligations.ScalarAccesses := by
  unfold Obligations.ScalarAccesses
  intro h
  obtain ⟨-, -, hpage, -, -⟩ := h
  have hx := crowdedState_onPage (op := scaOp (.sstore 4) (crowdedState.saddr 2 (.imm 0) 4) ((crowdedState.sa 0).setWidth 128) 0)
    (va := crowdedState.saddr 2 (.imm 0) 4) (by decide +kernel) (.inr rfl) (by decide +kernel) (by decide +kernel)
  obtain ⟨u, hu⟩ := hx.page
  obtain ⟨hstore, -⟩ := hpage false 0 2 (.imm 0) crowdedState u pageXlat
  obtain ⟨t, hexec, -, hmem, -, -⟩ := hstore (queues_of (by decide) (by decide +kernel) (by decide +kernel)) crowdedState_unordered hx.known
    hx.room hx.flat hu (by decide) hx.cached hx.l2
  have hbyte := crowdedState_store
  rw [hexec] at hbyte
  have hsame := hmem (128 * victimLine) (by decide)
  rw [crowdedState_victimByte] at hsame
  exact absurd ((congrArg some hsame).symm.trans hbyte) (by decide)

/-- Refutes O60: in a set of 17 ways a load of a page writes the dirty copy of another line home. -/
theorem not_vectorAccesses : ¬ Obligations.VectorAccesses := by
  unfold Obligations.VectorAccesses
  intro h
  obtain ⟨hload, -⟩ := h false 4 1 29 crowdedState fun _ => (0, 0)
  obtain ⟨hb32, -⟩ := hload .plain
  have hx := crowdedState_onPage (op := crowdedState.vecOp (.load 4 false 4) .rlx 1 29 (fun _ => 0) (fun _ => 0))
    (va := crowdedState.vaddr 1 29 0) (by decide +kernel) (.inl rfl) (by decide +kernel) (by decide +kernel)
  obtain ⟨hone, -⟩ := hb32 ⟨queues_of (by decide) (by decide +kernel) (by decide +kernel), crowdedState_unordered⟩
  obtain ⟨t, hexec, hby, -, -⟩ := hone 0 pageXlat (by decide +kernel) hx (by decide) (.inl rfl)
  have hbyte := crowdedState_load
  rw [hexec] at hbyte
  have hsame : Memory.byte t.mem (128 * victimLine) = 0 := by rw [hby.mem, crowdedState_victimByte]
  exact absurd ((congrArg some hsame).symm.trans hbyte) (by decide)

end Sys2Proof.Machine
end

section
/-!
# Memory operations performed as their word issues

The entry of an access that nothing orders behind another operation, alone in its wave's queue, is performed in the cycle of its issue (R210,
R211): said of accesses to a stash, which need neither page nor miss register.
-/
namespace Sys2Proof.Machine

/-! ## An access that is alone in its queue -/

/-- No claim of a strand that waits at no ring comes before its entry. -/
theorem State.claimWaits_of_ringWaits {s : State} {core slot : Nat} {e : QEntry} (ho : e.old = [])
    (h : s.ringWaits core slot e.strand = false) : s.claimWaits core slot e = false := by
  have hp : ((s.block (s.wave core slot).blk).ringWaiters.any fun x => x.precedes core slot e) = false := by
    rw [List.any_eq_false]
    intro x hx
    obtain ⟨p, hp, hx⟩ := List.mem_flatMap.1 hx
    simp only [State.ringWaits, List.any_eq_false, List.any_eq_true, not_exists, not_and, Bool.and_eq_true, decide_eq_true_eq] at h
    have hother : x.wave = waveKey core slot → x.strand ≠ e.strand := fun hw => h p hp x hx hw
    simp only [RingWait.precedes, ho, List.any_nil, Bool.and_false, Bool.or_false, Bool.and_eq_true, decide_eq_true_eq]
    rintro ⟨⟨hw, -⟩, ⟨hs, -⟩, -⟩
    exact hother hw hs
  simp [State.claimWaits, hp]

theorem State.releasable_mem {s : State} {core slot : Nat} {e : QEntry} {op : MemOp} (hop : e.op = .mem op)
    (hq : (s.wave core slot).queue = [e]) (hb : e.before = []) (ho : e.old = []) (ha : (s.wave core slot).asleep e.strand = false)
    (hw : s.ringWaits core slot e.strand = false) (hr : s.portRoom core slot e = true) : s.releasable core slot e = true := by
  have harr : e.arrives = false := by simp [QEntry.arrives, hop]
  simp [State.releasable, Wave.free_alone hq harr hb ho, Wave.arrivalWaits, harr, ha, State.claimWaits_of_ringWaits ho hw,
    State.aliasWaits, hq, QEntry.precedes_self_eq_false harr hb ho, hop, State.roomFor, hr]

/-- An access whose pages are known and whose misses find room is performed in the cycle of its issue when its wave has nothing else under way. -/
theorem State.issueQ_mem {t : State} {core slot : Nat} {q : QEntry} {op : MemOp} (hop : q.op = .mem op)
    (hq : (t.wave core slot).queue = []) (hb : q.before = []) (ho : q.old = []) (hr : q.rel = none)
    (ha : (t.wave core slot).asleep q.strand = false) (hw : t.ringWaits core slot q.strand = false) (hlag : t.lag = false)
    (hroom : ∀ e, e.op = .mem op → (t.pushQ core slot q).portRoom core slot e = true)
    (htlb : (t.pushQ core slot q).tlbReady core ((t.pushQ core slot q).wave core slot) (.mem op) = true) :
    t.issueQ core slot q = (t.pushQ core slot q).runEntry core slot
      (q.releasedAs (t.wave core slot).nextId (t.cycle (t.wave core slot).part)) := by
  generalize he : q.releasedAs (t.wave core slot).nextId (t.cycle (t.wave core slot).part) = e
  have hpush : (t.pushQ core slot q).wave core slot =
      { t.wave core slot with queue := [e], nextId := (t.wave core slot).nextId + 1 } := by
    rw [State.pushQ_empty hq hb hr, State.wave_updWave_self, he]
  have heop : e.op = .mem op := by rw [← he]; exact hop
  have hentry : ((t.pushQ core slot q).wave core slot).entry (t.wave core slot).nextId = some e := by
    rw [hpush]; simp [Wave.entry, ← he, QEntry.releasedAs]
  have hrel : (t.pushQ core slot q).releasable core slot e = true := by
    refine State.releasable_mem heop ?_ ?_ ?_ ?_ ?_ (hroom e heop)
    · rw [hpush]
    · rw [← he]; exact hb
    · rw [← he]; exact ho
    · rw [hpush, ← he]; exact ha
    · rw [State.ringWaits, hpush, ← he]; exact hw
  have hripe : (t.pushQ core slot q).ripeNow core slot e = true := by
    rw [State.ripeNow, hpush, ← he]
    simp [QEntry.ripe, QEntry.releasedAs, State.pushQ, State.cycle, State.part]
  have hlag' : (t.pushQ core slot q).lag = false := hlag
  simp only [State.issueQ, hentry, hrel, hripe, heop, htlb, hlag', Bool.false_and, Bool.not_false, Bool.and_self, if_true]

/-! ## Accesses to a stash alone -/

/-- Every access of an operation is to a stash. -/
def MemOp.inStash (op : MemOp) : Prop := ∀ a ∈ op.accs, (stashOff a.addr.toNat).isSome = true

theorem State.missesOf_inStash {op : MemOp} (h : op.inStash) (s : State) (g : Agent) : s.missesOf g op = (0, []) := by
  unfold State.missesOf
  rw [List.flatMap_eq_nil_iff.2 fun a ha => if_pos (h a ha)]
  rfl

theorem State.portRoom_inStash {op : MemOp} (h : op.inStash) (hk : ∀ l2, op.kind ≠ .pref l2) (s : State) (core slot : Nat) {e : QEntry}
    (he : e.op = .mem op) : s.portRoom core slot e = true := by
  unfold State.portRoom
  rw [he]
  dsimp only
  split
  next l2 hl => exact absurd hl (hk l2)
  · simp [State.missRoom, State.missesOf_inStash h]

theorem State.tlbReady_inStash {op : MemOp} (h : op.inStash) (s : State) (core : Nat) (w : Wave) :
    s.tlbReady core w (.mem op) = true := by
  simp only [State.tlbReady, List.all_eq_true]
  intro a ha
  simp [h a ha]

/-- An operation on a stash that nothing orders behind another one is performed as its word issues. -/
theorem State.issueQ_inStash {s : State} {i : Instr} {op : MemOp} {lanes : Lanes} {ssq : Bool} {q : QEntry} (hu : s.Unordered)
    (hq : s.entryOf i (.mem op) lanes ssq = q) (h : op.inStash) (hk : ∀ l2, op.kind ≠ .pref l2) :
    s.advance.issueQ s.cur.1 s.cur.2.1 q = (s.advance.pushQ s.cur.1 s.cur.2.1 q).runEntry s.cur.1 s.cur.2.1
      (q.releasedAs s.cw.nextId (s.cycle s.cw.part)) := by
  obtain ⟨f, hf⟩ := s.advance_cw
  have hwave : s.advance.wave s.cur.1 s.cur.2.1 = s.cw.updStrand s.cur.2.2 f := hf
  subst hq
  have hawake : (s.advance.wave s.cur.1 s.cur.2.1).asleep s.cur.2.2 = false := by
    rw [hwave]
    rcases hu.awake with h | h
    · simp [Wave.asleep, h]
    · simp [Wave.asleep, h]
  have hclaim : s.advance.ringWaits s.cur.1 s.cur.2.1 s.cur.2.2 = false := by
    rw [State.ringWaits, hwave]
    exact hu.claims
  have hq := State.issueQ_mem (q := s.entryOf i (.mem op) lanes ssq) rfl (by rw [hwave]; exact hu.queue) hu.first hu.old rfl hawake hclaim
    hu.lag (fun e he => State.portRoom_inStash h hk _ _ _ he) (State.tlbReady_inStash h _ _ _)
  rw [hwave] at hq
  exact hq

/-! ## Accesses that read -/

/-- The operation's accesses write nothing. -/
def MemKind.reads : MemKind → Bool
  | .store _ | .sstore _ | .fput | .atom .. | .satom .. => false
  | _ => true

/-- Accesses that read, each without an effect on the state, give their values. -/
theorem State.accesses_of_reads {s : State} {g : Agent} {op : MemOp} {v : Acc → Nat} (hk : op.kind.reads = true) (l : List Acc)
    (h : ∀ a ∈ l, s.access1 g op a = .ok (v a, s)) : s.accesses g op l = ({ vals := l.map fun a => (a.lane, v a) }, s) := by
  induction l with
  | nil => rfl
  | cons a t ih =>
    have ht := ih fun x hx => h x (List.mem_cons_of_mem _ hx)
    rw [State.accesses, h a List.mem_cons_self]
    cases hkind : op.kind <;> simp_all [MemKind.reads]

/-- The stash cell of a read access: its block, its offset, neither under a window nor with an error. -/
structure State.ReadCell (s : State) (blk n : Nat) (a : Acc) (owner o : Nat) : Prop where
  off : ∃ off, stashOff a.addr.toNat = some off ∧ s.stashAt blk off n = some (owner, o)
  plain : (s.block owner).winAt o = none
  good : (s.block owner).bad.contains (o / 128) = false

/-- What only blocks tell does not depend on anything else. -/
theorem State.ReadCell.congr {s t : State} {blk n : Nat} {a : Acc} {owner o : Nat} (h : s.ReadCell blk n a owner o)
    (hb : t.blocks = s.blocks) : t.ReadCell blk n a owner o := by
  obtain ⟨⟨off, hoff, hat⟩, hplain, hgood⟩ := h
  have hblock (k : Nat) : t.block k = s.block k := by rw [State.block, hb]; rfl
  refine ⟨⟨off, hoff, ?_⟩, by rw [hblock]; exact hplain, by rw [hblock]; exact hgood⟩
  rw [← hat]
  simp only [State.stashAt, hblock]

/-- FGET reads the 8 bytes of its cell. -/
theorem State.access1_fget {s : State} {g : Agent} {op : MemOp} {a : Acc} {d owner o : Nat} (hk : op.kind = .fget d)
    (h : s.ReadCell g.blk 8 a owner o) : s.access1 g op a = .ok (Memory.read (s.block owner).stash o 8, s) := by
  obtain ⟨⟨off, hoff, hat⟩, hplain, hgood⟩ := h
  simp only [State.access1, hoff, hk, MemKind.size, hat, State.accessStash, State.winTouch, hplain, hgood, Bool.and_false]
  rfl

/-- What CQRY reports of a count (R180). -/
def Count.report : Count → Nat
  | .live n => n
  | .spent => 0
  | .none => 0xFFFFFFFF

/-- CQRY reads the count of the line. -/
theorem State.access1_cqry {s : State} {g : Agent} {op : MemOp} {a : Acc} {d off owner o : Nat} (hk : op.kind = .cqry d)
    (hoff : stashOff a.addr.toNat = some off) (hat : s.stashAt g.blk off 1 = some (owner, o)) :
    s.access1 g op a = .ok ((SMap.get .none (s.block owner).counts (o / 128)).report, s) := by
  simp only [State.access1, hoff, hk, MemKind.size, hat, State.accessStash]
  cases SMap.get .none (s.block owner).counts (o / 128) <;> rfl

/-! ## The entry performed -/

/-- The wave without an entry of its queue. -/
def Wave.dropEntry (w : Wave) (id : Nat) : Wave := { w with queue := w.queue.filter fun e => e.id != id }

/-- The entry that is performed as it enters leaves the wave with its count alone. -/
theorem State.pushQ_dropEntry {s : State} {q : QEntry} (hq : s.cw.queue = []) (hb : q.before = []) (hr : q.rel = none) :
    (s.advance.pushQ s.cur.1 s.cur.2.1 q).updWave s.cur.1 s.cur.2.1
      (fun w => w.dropEntry (q.releasedAs s.cw.nextId (s.cycle s.cw.part)).id) = s.enteredQ := by
  obtain ⟨f, hf⟩ := s.advance_cw
  have hwave : s.advance.wave s.cur.1 s.cur.2.1 = s.cw.updStrand s.cur.2.2 f := hf
  have hempty : (s.advance.wave s.cur.1 s.cur.2.1).queue = [] := by rw [hwave]; exact hq
  rw [State.pushQ_empty hempty hb hr, State.updWave_updWave, State.enteredQ]
  refine State.updWave_congr ?_
  rw [hwave]
  simp [Wave.dropEntry, QEntry.releasedAs, Wave.updStrand, hq]

/-- An access of another kind than FGET leaves the queue and is performed. -/
theorem State.runEntry_mem {s : State} {core slot : Nat} {e : QEntry} {op : MemOp} (hop : e.op = .mem op) (hk : ∀ t, op.kind ≠ .fget t) :
    s.runEntry core slot e = (s.updWave core slot fun w => w.dropEntry e.id).performMem core slot e op := by
  unfold State.runEntry
  rw [hop]
  dsimp only
  split
  next t ht => exact absurd ht (hk t)
  · simp only [State.performQ, hop]
    rfl

/-- An FGET that finds its cells full leaves the queue and is performed with what it has read. -/
theorem State.runEntry_fget {s : State} {core slot t : Nat} {e : QEntry} {op : MemOp} {l : List Acc} (hop : e.op = .mem op)
    (hk : op.kind = .fget t) (hask : s.asked = none) (hhome : e.atHome = false)
    (hacc : (s.accesses (s.agentOf core slot .normal) op op.accs).1.faults = [])
    (htry : ({ s with asked := some [] } : State).tryCells (s.agentOf core slot .normal) op op.accs = (l, { s with asked := some [] }))
    (hl : ∀ a ∈ l, a.cmp ≠ 0) :
    s.runEntry core slot e = (s.updWave core slot fun w => w.dropEntry e.id).performMem core slot
      { e with op := .mem { op with accs := l } } { op with accs := l } := by
  obtain ⟨kind, accs, ord, scope, pol, zero⟩ := op
  subst hk
  have hself : ({ s with asked := none } : State) = s := by rw [← hask]
  unfold State.runEntry
  simp only [hop, hacc, htry, hhome, List.isEmpty_nil, Bool.not_true, Bool.false_eq_true, if_false]
  rw [hself]
  refine if_pos ?_
  simp only [QEntry.fgetDone, List.all_eq_true, bne_iff_ne]
  exact hl

/-- The result of an access performed for an entry. -/
def QEntry.result (q : QEntry) (op : MemOp) (vals : List (Nat × Nat)) : Result :=
  { strand := q.strand, vec := (op.writes vals).1, sca := (op.writes vals).2, word := q.word, after := q.after, seq := q.seq }

/-- CQRY of a stash line has its count as its outstanding result. -/
theorem State.performMem_cqry {s : State} {core slot d : Nat} {q : QEntry} {addr data : _} {cmp : Word} {vals : List (Nat × Nat)}
    (hstash : (scaOp (.cqry d) addr data cmp).inStash) (hask : s.asked = none)
    (hacc : ∀ (t : State) (g : Agent), t.blocks = s.blocks → g.blk = (s.wave core slot).blk →
      t.accesses g (scaOp (.cqry d) addr data cmp) (scaOp (.cqry d) addr data cmp).accs = ({ vals := vals }, t)) :
    s.performMem core slot q (scaOp (.cqry d) addr data cmp) =
      s.updWave core slot fun w => w.addOut (q.result (scaOp (.cqry d) addr data cmp) vals) := by
  have hself : ({ s with asked := none } : State) = s := by rw [← hask]
  delta State.performMem
  extract_lets g rel acq s1 s2 s3 miss dropped
  have hs3 : s3 = { s with asked := some [] } := rfl
  have hmiss : miss = (0, []) := State.missesOf_inStash hstash s3 g
  have hdone := hacc s3 g (by rw [hs3]) rfl
  clear_value miss s3
  subst hmiss hs3
  simp only [scaOp, reduceCtorEq, if_false] at hdone ⊢
  rw [hdone]
  dsimp only
  rw [hself]
  rfl

/-- An FGET in a stash has what its cells hold as its outstanding result, after the acquire of its ordering. -/
theorem State.performMem_fget {s : State} {core slot t : Nat} {q : QEntry} {op : MemOp} (hstash : op.inStash)
    (hord : op.ord = .rlx ∨ op.ord = .acq) (hk : op.kind = .fget t) (hask : s.asked = none) :
    s.performMem core slot q op =
      (if op.ord = .acq then s.acquire core (s.wave core slot).blk op.scope else s).updWave core slot fun w =>
        w.addOut (q.result op (op.accs.map fun a => (a.lane, a.data.toNat))) := by
  have hself : ({ s with asked := none } : State) = s := by rw [← hask]
  obtain ⟨kind, accs, ord, scope, pol, zero⟩ := op
  subst hk
  delta State.performMem
  extract_lets g rel acq s1 s2 s3 miss dropped
  have hs3 : s3 = { s with asked := some [] } := by rcases hord with rfl | rfl <;> rfl
  have hmiss : miss = (0, []) := State.missesOf_inStash hstash s3 g
  have hacq : acq = decide (ord = .acq) := by rcases hord with rfl | rfl <;> rfl
  have hcn : ord ≠ .cn := by rcases hord with rfl | rfl <;> decide
  clear_value miss s3 acq
  subst hmiss hs3 hacq
  rw [if_neg hcn]
  dsimp only
  rw [hself]
  simp only [decide_eq_true_eq]
  rfl

end Sys2Proof.Machine
end

section
/-!
# CQRY and FGET at a stash (O13, O30)

What is left of a word whose access is performed as it issues: its strand has gone on, and the value is its outstanding result.
-/
namespace Sys2Proof.Machine

/-! ## The state after the access -/

/-- The word's access is performed: its wave has gone on with a result outstanding, and memory is as it was. -/
structure State.AccessDone (s v : State) (o : Result) : Prop where
  wave : v.wave s.cur.1 s.cur.2.1 = (s.enteredQ.wave s.cur.1 s.cur.2.1).addOut o
  cur : v.cur = s.cur
  mem : v.mem = s.mem

theorem State.AccessDone.cw {s v : State} {o : Result} (h : s.AccessDone v o) :
    v.cw = { s.advance.cw with nextId := s.cw.nextId + 1, outs := insertOut o s.advance.cw.outs } := by
  rw [State.cw, h.cur]
  show v.wave s.cur.1 s.cur.2.1 = _
  rw [h.wave, s.enteredQ_wave]
  rfl

theorem State.AccessDone.cs {s v : State} {o : Result} (h : s.AccessDone v o) : v.cs = s.advance.cs := by
  rw [State.cs, h.cw, h.cur]
  rfl

/-- The word ends with its park marker: no trap is latched. -/
theorem State.AccessDone.did {s v : State} {o : Result} (h : s.AccessDone v o) (m : Bool) {eff : State → State} (heff : eff s.advance = v)
    (hcalm : s.cw.latched = none) : s.did m eff = v.marker m := by
  obtain ⟨l, hl⟩ := v.marker_cw m
  obtain ⟨f, hf⟩ := s.advance_cw
  rw [State.did, heff]
  refine State.settle_calm ?_
  have hwave : (v.marker m).wave s.cur.1 s.cur.2.1 = (v.marker m).cw := by rw [State.cw, (v.marker_cur m).trans h.cur]
  rw [hwave, hl, h.cw, hf]
  exact hcalm

theorem State.AccessDone.marker_cs {s v : State} {o : Result} (h : s.AccessDone v o) (m : Bool) (hready : s.cs.state = .ready) :
    (v.marker m).cs = s.cs.past m (s.cycle s.cw.part) := by
  rw [State.marker_cs_congr h.cs, State.marker_advance m hready, State.past, State.cs_updCs]

theorem State.AccessDone.marker_regs {s v : State} {o : Result} (h : s.AccessDone v o) (m : Bool) :
    SameRegs s.cw (v.marker m).cw ∧ (v.marker m).cw.outs = insertOut o s.cw.outs := by
  obtain ⟨l, hl⟩ := v.marker_cw m
  obtain ⟨f, hf⟩ := s.advance_cw
  rw [hl, h.cw, hf]
  exact ⟨⟨rfl, rfl, rfl, rfl, rfl, rfl, rfl, rfl, rfl, rfl, rfl, rfl, rfl, rfl, rfl⟩, rfl⟩

theorem State.AccessDone.marker_mem {s v : State} {o : Result} (h : s.AccessDone v o) (m : Bool) : (v.marker m).mem = s.mem :=
  (v.marker_mem m).trans h.mem

/-- A result that the wave has as its own is the only effect of the access. -/
theorem State.accessDone_addOut {s u : State} (o : Result) (hw : u.wave s.cur.1 s.cur.2.1 = s.enteredQ.wave s.cur.1 s.cur.2.1)
    (hc : u.cur = s.cur) (hm : u.mem = s.mem) : s.AccessDone (u.updWave s.cur.1 s.cur.2.1 fun w => w.addOut o) o :=
  ⟨by rw [State.wave_updWave_self, hw], hc, hm⟩

/-! ## CQRY -/

/-- The count that CQRY of a stash line has as its result. -/
def State.lineCount (s : State) (owner o : Nat) : Nat := (SMap.get .none (s.block owner).counts (o / 128)).report

section
variable {s : State} {m : Bool} {d a : SReg} {off owner o : Nat}

/-- The operation of CQRY. -/
def State.cqryOp (s : State) (d a : SReg) : MemOp := scaOp (.cqry d.toNat) (s.sa64 a) 0 0

/-- The entry of CQRY as it is released. -/
def State.cqryEntry (s : State) (m : Bool) (d a : SReg) : QEntry :=
  (s.entryOf (.cqry m d a) (.mem (s.cqryOp d a)) s.cs.memb false).releasedAs s.cw.nextId (s.cycle s.cw.part)

theorem State.cqryOp_inStash (hoff : stashOff (s.sa64 a).toNat = some off) : (s.cqryOp d a).inStash := by
  intro x hx
  rw [List.mem_singleton.1 hx, hoff]
  rfl

/-- CQRY of a stash line that nothing orders has the count outstanding as it issues, and changes nothing but its wave. -/
theorem State.issueQ_cqry (hu : s.Unordered) (hoff : stashOff (s.sa64 a).toNat = some off)
    (hat : s.stashAt s.cw.blk off 1 = some (owner, o)) :
    s.advance.issueQ s.cur.1 s.cur.2.1 (s.entryOf (.cqry m d a) (.mem (s.cqryOp d a)) s.cs.memb false) =
      s.enteredQ.updWave s.cur.1 s.cur.2.1 fun w => w.addOut ((s.cqryEntry m d a).result (s.cqryOp d a) [(0, s.lineCount owner o)]) := by
  have hstash : (s.cqryOp d a).inStash := State.cqryOp_inStash hoff
  refine (State.issueQ_inStash hu rfl hstash fun _ => nofun).trans ?_
  refine (State.runEntry_mem (op := s.cqryOp d a) rfl fun _ => nofun).trans ?_
  rw [State.pushQ_dropEntry hu.queue hu.first rfl]
  refine State.performMem_cqry hstash hu.asked fun t g hb hg => ?_
  have hblock (k : Nat) : t.block k = s.block k := by rw [State.block, hb]; rfl
  have hat' : t.stashAt g.blk off 1 = some (owner, o) := by
    rw [hg, s.enteredQ_blk, ← hat]
    simp only [State.stashAt, hblock]
  have haccess (x : Acc) (hx : x ∈ (s.cqryOp d a).accs) : t.access1 g (s.cqryOp d a) x = .ok (s.lineCount owner o, t) := by
    rw [List.mem_singleton.1 hx, State.lineCount, ← hblock owner]
    exact State.access1_cqry rfl hoff hat'
  exact State.accesses_of_reads (v := fun _ => s.lineCount owner o) rfl _ haccess

end

/-- The result of CQRY: zr discards the count. -/
theorem State.cqryEntry_result (s : State) (m : Bool) (d a : SReg) (n : Nat) :
    (s.cqryEntry m d a).result (s.cqryOp d a) [(0, n)] =
      { strand := s.cur.2.2, word := encode (.cqry m d a), after := s.cs.pc + 4, seq := s.cs.issued + 1,
        sca := if d = 63 then [] else [(d.toNat, BitVec.ofNat 32 n)] } := by
  have hd : d.toNat = 63 ↔ d = 63 := by rw [← BitVec.toNat_inj]; rfl
  simp only [QEntry.result, State.cqryOp, scaOp, MemOp.writes, hd]
  rfl

/-! ## SMAP -/

/-- The result of SMAP, the number of a window or a code. -/
def State.smapOut (s : State) (i : Instr) (d : SReg) (x : Nat) : State → State := s.result i { strand := 0, sca := scalarOut d x }

/-- What SMAP does once it has issued. -/
def State.smapEff (s : State) (i : Instr) (d a : SReg) (zero : Bool) (t : State) : State :=
  if !(s.block s.cw.blk).smapOk (s.sr a.toNat).toNat (s.sr (a.toNat + 1)).toNat (s.sp (a.toNat + 2)) then s.smapOut i d 0xFFFFFFFE t
  else match (s.block s.cw.blk).freeWin with
    | none => s.smapOut i d 0xFFFFFFFF t
    | some n => s.smapOut i d n (t.updBlock s.cw.blk fun b =>
        { b with wins := SMap.put b.wins n ⟨(s.sr a.toNat).toNat, (s.sr (a.toNat + 1)).toNat, s.sp (a.toNat + 2), zero, [], []⟩ })

section
variable {s : State} {m : Bool} {d a : SReg} {zero : Bool}
  (h : s.Issues (.smap m d a zero) (s.sdest d.toNat 1) (blockRegs a.toNat 4) [])
include h

theorem exec_smap_issues : exec (.smap m d a zero) s = .next (s.did m (s.smapEff (.smap m d a zero) d a zero)) := by
  rw [exec_smap, execSmap]
  exact State.run_issues h

theorem exec_smap_refused
    (hok : (s.block s.cw.blk).smapOk (s.sr a.toNat).toNat (s.sr (a.toNat + 1)).toNat (s.sp (a.toNat + 2)) = false) :
    exec (.smap m d a zero) s = .next (s.wroteS (.smap m d a zero) m d 0xFFFFFFFE) := by
  have heff : s.smapEff (.smap m d a zero) d a zero = s.smapOut (.smap m d a zero) d 0xFFFFFFFE := by
    funext t
    simp [State.smapEff, hok]
  rw [exec_smap_issues h, heff, State.smapOut, State.did_result m _ h, State.wroteS, ← scalarOut_word]
  rfl

theorem exec_smap_full
    (hok : (s.block s.cw.blk).smapOk (s.sr a.toNat).toNat (s.sr (a.toNat + 1)).toNat (s.sp (a.toNat + 2)) = true)
    (hfree : (s.block s.cw.blk).freeWin = none) :
    exec (.smap m d a zero) s = .next (s.wroteS (.smap m d a zero) m d 0xFFFFFFFF) := by
  have heff : s.smapEff (.smap m d a zero) d a zero = s.smapOut (.smap m d a zero) d 0xFFFFFFFF := by
    funext t
    simp [State.smapEff, hok, hfree]
  rw [exec_smap_issues h, heff, State.smapOut, State.did_result m _ h, State.wroteS, ← scalarOut_word]
  rfl

theorem exec_smap_maps {n : Nat}
    (hok : (s.block s.cw.blk).smapOk (s.sr a.toNat).toNat (s.sr (a.toNat + 1)).toNat (s.sp (a.toNat + 2)) = true)
    (hfree : (s.block s.cw.blk).freeWin = some n) :
    exec (.smap m d a zero) s = .next ((s.wroteS (.smap m d a zero) m d (BitVec.ofNat 32 n)).updBlock s.cw.blk fun b =>
      { b with wins := SMap.put b.wins n ⟨(s.sr a.toNat).toNat, (s.sr (a.toNat + 1)).toNat, s.sp (a.toNat + 2), zero, [], []⟩ }) := by
  have heff : s.smapEff (.smap m d a zero) d a zero = fun t => s.smapOut (.smap m d a zero) d n (t.updBlock s.cw.blk fun b =>
      { b with wins := SMap.put b.wins n ⟨(s.sr a.toNat).toNat, (s.sr (a.toNat + 1)).toNat, s.sp (a.toNat + 2), zero, [], []⟩ }) := by
    funext t
    simp [State.smapEff, hok, hfree]
  rw [exec_smap_issues h, heff]
  refine (congrArg _ (State.did_result_updBlock m _ _ _ h)).trans ?_
  rw [State.wroteS, scalarOut]

end

/-! ## The words -/

section
variable {s : State} {m : Bool} {d a : SReg}
  (h : s.Queues (.cqry m d a) (s.sdest d.toNat 1) (pairRegs a.toNat) (s.addrFaults (s.cqryOp d a))
    (s.entryOf (.cqry m d a) (.mem (s.cqryOp d a)) s.cs.memb false))
include h

theorem exec_cqry_queues : exec (.cqry m d a) s = .next (s.queued m (s.entryOf (.cqry m d a) (.mem (s.cqryOp d a)) s.cs.memb false)) := by
  rw [exec_cqry, execCqry]
  exact State.scaMem_queues h

/-- CQRY of a stash line has gone on with the count outstanding. -/
theorem exec_cqry_stash {off owner o : Nat} (hu : s.Unordered) (hoff : stashOff (s.sa64 a).toNat = some off)
    (hat : s.stashAt s.cw.blk off 1 = some (owner, o)) :
    ∃ v, s.AccessDone v ((s.cqryEntry m d a).result (s.cqryOp d a) [(0, s.lineCount owner o)]) ∧ v.blocks = s.blocks ∧
      exec (.cqry m d a) s = .next (v.marker m) := by
  have hdone := State.accessDone_addOut (u := s.enteredQ) ((s.cqryEntry m d a).result (s.cqryOp d a) [(0, s.lineCount owner o)]) rfl rfl rfl
  refine ⟨_, hdone, rfl, (exec_cqry_queues h).trans (congrArg _ ?_)⟩
  exact hdone.did m (State.issueQ_cqry hu hoff hat) h.calm

end

/-- Settles O30: the three cases of SMAP's operands, and CQRY through the queue and at once. -/
theorem windowAndCountWords : Obligations.WindowAndCountWords := by
  unfold Obligations.WindowAndCountWords
  intro m d a s r b
  refine ⟨?_, ?_⟩
  · intro zero i off len h
    exact ⟨exec_smap_refused h, exec_smap_full h, fun n hok hfree => exec_smap_maps h hok hfree⟩
  · intro i op q h
    refine ⟨exec_cqry_queues h, ?_⟩
    intro off owner o hu hoff hat
    obtain ⟨v, hdone, hblocks, hexec⟩ := exec_cqry_stash h hu hoff hat
    obtain ⟨hregs, houts⟩ := hdone.marker_regs m
    refine ⟨v.marker m, hexec, hdone.marker_cs m h.ready, hregs, (v.marker_blocks m).trans hblocks, hdone.marker_mem m, ?_⟩
    rw [houts, s.cqryEntry_result, State.lineCount]
    cases SMap.get .none (s.block owner).counts (o / 128) <;> rfl

end Sys2Proof.Machine
end

section
/-!
# Class 3 words (O13)

Every word issues its operation; an FGET whose cells are full stash cells has their values as it issues.
-/
namespace Sys2Proof.Machine

/-! ## What an acquire leaves -/

/-- An acquire changes neither the waves nor the issuing strand nor memory (R228, R252). -/
theorem State.acquire_frame (s : State) (core blk : Nat) (scope : Scope) :
    (s.acquire core blk scope).waves = s.waves ∧ (s.acquire core blk scope).cur = s.cur ∧ (s.acquire core blk scope).mem = s.mem := by
  unfold State.acquire
  split
  · refine List.foldlRecOn (motive := fun t : State => t.waves = s.waves ∧ t.cur = s.cur ∧ t.mem = s.mem) _ _ ⟨rfl, rfl, rfl⟩ ?_
    intro t ht p _
    exact ht
  · exact ⟨rfl, rfl, rfl⟩

/-! ## FGET of full stash cells -/

theorem State.pushQ_blk (s : State) (q : QEntry) :
    ((s.advance.pushQ s.cur.1 s.cur.2.1 q).wave s.cur.1 s.cur.2.1).blk = s.cw.blk := by
  obtain ⟨f, hf⟩ := s.advance_cw
  have hwave : s.advance.wave s.cur.1 s.cur.2.1 = s.cw.updStrand s.cur.2.2 f := hf
  rw [State.pushQ, State.wave_updWave_self]
  show (s.advance.wave s.cur.1 s.cur.2.1).blk = s.cw.blk
  rw [hwave]
  rfl

/-- Empty lanes of an FGET whose cells hold full words take them (R167). -/
theorem State.tryCells_of_full {s : State} {g : Agent} {op : MemOp} {v : Acc → Nat} (l : List Acc) (h0 : ∀ a ∈ l, a.cmp = 0)
    (hread : ∀ a ∈ l, s.access1 g op a = .ok (v a, s)) (hfull : ∀ a ∈ l, 2 ^ 32 ≤ v a) :
    s.tryCells g op l = (l.map fun a => { a with data := BitVec.ofNat 128 (v a % 2 ^ 32), cmp := 1 }, s) := by
  induction l with
  | nil => rfl
  | cons a t ih =>
    have ht := ih (fun x hx => h0 x (List.mem_cons_of_mem _ hx)) (fun x hx => hread x (List.mem_cons_of_mem _ hx))
      fun x hx => hfull x (List.mem_cons_of_mem _ hx)
    have hpos : v a / 2 ^ 32 ≠ 0 := by
      have := hfull a List.mem_cons_self
      omega
    have hcell : s.tryCell g op a = ({ a with data := BitVec.ofNat 128 (v a % 2 ^ 32), cmp := 1 }, s) := by
      simp only [State.tryCell, h0 a List.mem_cons_self, ne_eq, not_true_eq_false, if_false, hread a List.mem_cons_self, hpos]
    simp only [State.tryCells, hcell, ht, List.map_cons]

section
variable {s : State} {m : Bool} {t a : VReg} {b : BitVec 5} {acq : Bool} {cell : Nat → Nat × Nat}

/-- The operation of FGET. -/
def State.fgetOp (s : State) (t a : VReg) (b : BitVec 5) (acq : Bool) : MemOp :=
  s.vecOp (.fget t.toNat) (if acq then .acq else .rlx) a b (fun _ => 0) (fun _ => 0)

/-- The entry of FGET. -/
def State.fgetEntry (s : State) (m : Bool) (t a : VReg) (b : BitVec 5) (acq : Bool) : QEntry :=
  s.entryOf (.fget m t a b acq) (.mem (s.fgetOp t a b acq)) s.exm acq

/-- The word and the marker of a lane's cell. -/
def State.cellValue (s : State) (cell : Nat → Nat × Nat) (l : Nat) : Nat := Memory.read (s.block (cell l).1).stash (cell l).2 8

/-- The operation of FGET with what its cells hold. -/
def State.fgetFilled (s : State) (t a : VReg) (b : BitVec 5) (acq : Bool) (cell : Nat → Nat × Nat) : MemOp :=
  { s.fgetOp t a b acq with
    accs := (s.fgetOp t a b acq).accs.map fun x => { x with data := BitVec.ofNat 128 (s.cellValue cell x.lane % 2 ^ 32), cmp := 1 } }

theorem State.mem_fgetOp {x : Acc} (h : x ∈ (s.fgetOp t a b acq).accs) : ∃ l ∈ lanesOf s.exm, x = ⟨l, s.vaddr a b l, 0, 0⟩ := by
  obtain ⟨l, hl, rfl⟩ := List.mem_map.1 h
  exact ⟨l, hl, rfl⟩

/-- Every lane of EXM has a readable stash cell of 8 bytes. -/
def State.CellsRead (s : State) (a : VReg) (b : BitVec 5) (cell : Nat → Nat × Nat) : Prop :=
  ∀ l ∈ lanesOf s.exm, s.ReadCell s.cw.blk 8 ⟨l, s.vaddr a b l, 0, 0⟩ (cell l).1 (cell l).2

theorem State.CellsRead.inStash (h : s.CellsRead a b cell) : (s.fgetOp t a b acq).inStash := by
  intro x hx
  obtain ⟨l, hl, rfl⟩ := State.mem_fgetOp hx
  obtain ⟨off, hoff, -⟩ := (h l hl).off
  rw [hoff]
  rfl

/-- The access of a lane gives the cell's value, in every state with the same blocks. -/
theorem State.CellsRead.access1 (h : s.CellsRead a b cell) {u : State} {g : Agent} (hu : u.blocks = s.blocks) (hg : g.blk = s.cw.blk)
    {x : Acc} (hx : x ∈ (s.fgetOp t a b acq).accs) : u.access1 g (s.fgetOp t a b acq) x = .ok (s.cellValue cell x.lane, u) := by
  obtain ⟨l, hl, rfl⟩ := State.mem_fgetOp hx
  have hcell := (h l hl).congr hu
  rw [← hg] at hcell
  have hblock : u.block (cell l).1 = s.block (cell l).1 := by rw [State.block, hu]; rfl
  rw [State.access1_fget rfl hcell, hblock]
  rfl

theorem State.mem_fgetFilled {x : Acc} (h : x ∈ (s.fgetFilled t a b acq cell).accs) :
    ∃ l ∈ lanesOf s.exm, x = ⟨l, s.vaddr a b l, BitVec.ofNat 128 (s.cellValue cell l % 2 ^ 32), 1⟩ := by
  obtain ⟨y, hy, rfl⟩ := List.mem_map.1 h
  obtain ⟨l, hl, rfl⟩ := State.mem_fgetOp hy
  exact ⟨l, hl, rfl⟩

theorem State.CellsRead.filled_inStash (h : s.CellsRead a b cell) : (s.fgetFilled t a b acq cell).inStash := by
  intro x hx
  obtain ⟨l, hl, rfl⟩ := State.mem_fgetFilled hx
  obtain ⟨off, hoff, -⟩ := (h l hl).off
  rw [hoff]
  rfl

/-- An entry of FGET whose cells are full takes them and is performed. -/
theorem State.CellsRead.runEntry (h : s.CellsRead a b cell) (hfull : ∀ l ∈ lanesOf s.exm, 2 ^ 32 ≤ s.cellValue cell l) {p : State}
    {core slot : Nat} {e : QEntry} (hb : p.blocks = s.blocks) (hblk : (p.wave core slot).blk = s.cw.blk) (hask : p.asked = none)
    (hop : e.op = .mem (s.fgetOp t a b acq)) (hhome : e.atHome = false) :
    p.runEntry core slot e = (p.updWave core slot fun w => w.dropEntry e.id).performMem core slot
      { e with op := .mem (s.fgetFilled t a b acq cell) } (s.fgetFilled t a b acq cell) := by
  have hacc := State.accesses_of_reads (s := p) (g := p.agentOf core slot .normal) (op := s.fgetOp t a b acq) rfl
    (s.fgetOp t a b acq).accs fun x hx => h.access1 hb hblk hx
  have htry := State.tryCells_of_full (s := { p with asked := some [] }) (g := p.agentOf core slot .normal) (op := s.fgetOp t a b acq)
    (v := fun x => s.cellValue cell x.lane) (s.fgetOp t a b acq).accs
    (fun x hx => by obtain ⟨l, -, rfl⟩ := State.mem_fgetOp hx; rfl) (fun x hx => h.access1 (u := { p with asked := some [] }) hb hblk hx)
    (fun x hx => by obtain ⟨l, hl, rfl⟩ := State.mem_fgetOp hx; exact hfull l hl)
  refine (State.runEntry_fget hop rfl hask hhome (by rw [hacc]) htry ?_)
  intro x hx
  obtain ⟨y, -, rfl⟩ := List.mem_map.1 hx
  exact (by decide : (1 : Word) ≠ 0)

/-- The entry of FGET as it is performed. -/
def State.fgetReleased (s : State) (m : Bool) (t a : VReg) (b : BitVec 5) (acq : Bool) (cell : Nat → Nat × Nat) : QEntry :=
  { (s.fgetEntry m t a b acq).releasedAs s.cw.nextId (s.cycle s.cw.part) with op := .mem (s.fgetFilled t a b acq cell) }

/-- The outstanding result of FGET. -/
def State.fgetResult (s : State) (m : Bool) (t a : VReg) (b : BitVec 5) (acq : Bool) (cell : Nat → Nat × Nat) : Result :=
  (s.fgetReleased m t a b acq cell).result (s.fgetFilled t a b acq cell)
    ((s.fgetFilled t a b acq cell).accs.map fun x => (x.lane, x.data.toNat))

/-- The state in which the result comes: after the acquire of FGET.a. -/
def State.fgetAcquired (s : State) (acq : Bool) : State :=
  if acq then s.enteredQ.acquire s.cur.1 s.cw.blk s.scopeOf else s.enteredQ

theorem State.fgetAcquired_frame (s : State) (acq : Bool) :
    (s.fgetAcquired acq).waves = s.enteredQ.waves ∧ (s.fgetAcquired acq).cur = s.cur ∧ (s.fgetAcquired acq).mem = s.mem := by
  cases acq with
  | false => exact ⟨rfl, rfl, rfl⟩
  | true => exact s.enteredQ.acquire_frame ..

/-- An FGET of full cells that nothing orders has their values outstanding as it issues. -/
theorem State.issueQ_fget (hu : s.Unordered) (h : s.CellsRead a b cell) (hfull : ∀ l ∈ lanesOf s.exm, 2 ^ 32 ≤ s.cellValue cell l) :
    s.advance.issueQ s.cur.1 s.cur.2.1 (s.fgetEntry m t a b acq) =
      (s.fgetAcquired acq).updWave s.cur.1 s.cur.2.1 fun w => w.addOut (s.fgetResult m t a b acq cell) := by
  refine (State.issueQ_inStash hu rfl h.inStash fun _ => nofun).trans ?_
  refine (h.runEntry (acq := acq) (p := s.advance.pushQ s.cur.1 s.cur.2.1 (s.fgetEntry m t a b acq)) hfull rfl (s.pushQ_blk _) hu.asked rfl rfl).trans ?_
  have hdrop := State.pushQ_dropEntry (q := s.fgetEntry m t a b acq) hu.queue hu.first rfl
  refine (congrArg (fun u : State => u.performMem s.cur.1 s.cur.2.1 (s.fgetReleased m t a b acq cell) (s.fgetFilled t a b acq cell))
    hdrop).trans ?_
  refine (State.performMem_fget (s := s.enteredQ) h.filled_inStash ?_ rfl hu.asked).trans ?_
  · cases acq
    · exact .inl rfl
    · exact .inr rfl
  · rw [s.enteredQ_blk]
    cases acq <;> rfl

/-- The strand does not wait: its entry has left the queue. -/
theorem State.parkFget_of_empty {s u : State} {i : Instr} {q : QEntry} (h : u.cw.queue = []) : s.parkFget i q u = u := by
  simp [State.parkFget, h]

/-- The word's access is performed, with the values of the cells as its result. -/
theorem State.fget_accessDone (s : State) (m : Bool) (t a : VReg) (b : BitVec 5) (acq : Bool) (cell : Nat → Nat × Nat) :
    s.AccessDone ((s.fgetAcquired acq).updWave s.cur.1 s.cur.2.1 fun w => w.addOut (s.fgetResult m t a b acq cell))
      (s.fgetResult m t a b acq cell) := by
  obtain ⟨hwaves, hcur, hmem⟩ := s.fgetAcquired_frame acq
  refine State.accessDone_addOut _ ?_ hcur hmem
  simp only [State.wave, hwaves]

/-- The result holds the word of every lane's cell. -/
theorem State.mem_fgetResult {l : Nat} (hl : l ∈ lanesOf s.exm) :
    (vkey t.toNat l, BitVec.ofNat 32 (s.cellValue cell l)) ∈ (s.fgetResult m t a b acq cell).vec := by
  have hacc : (⟨l, s.vaddr a b l, BitVec.ofNat 128 (s.cellValue cell l % 2 ^ 32), 1⟩ : Acc) ∈ (s.fgetFilled t a b acq cell).accs :=
    List.mem_map.2 ⟨⟨l, s.vaddr a b l, 0, 0⟩, List.mem_map.2 ⟨l, hl, rfl⟩, rfl⟩
  have hword : BitVec.ofNat 32 (BitVec.ofNat 128 (s.cellValue cell l % 2 ^ 32)).toNat = BitVec.ofNat 32 (s.cellValue cell l) := by
    apply BitVec.eq_of_toNat_eq
    simp only [BitVec.toNat_ofNat]
    omega
  refine List.mem_append_left _ (List.mem_flatMap.2 ⟨_, List.mem_map.2 ⟨_, hacc, rfl⟩, ?_⟩)
  rw [← hword]
  exact List.mem_singleton.2 rfl

/-- FGET of full stash cells that nothing orders goes on with their values outstanding. -/
theorem exec_fget_full (hq : s.Queues (.fget m t a b acq) (s.vdest t.toNat 1 ++ [s.cw.vrange a.toNat]) (pairRegs (2 * b.toNat) ++ s.xmodRegs)
    (s.addrFaults (s.fgetOp t a b acq)) (s.fgetEntry m t a b acq)) (hu : s.Unordered) (h : s.CellsRead a b cell)
    (hfull : ∀ l ∈ lanesOf s.exm, 2 ^ 32 ≤ s.cellValue cell l) :
    ∃ v, s.AccessDone v (s.fgetResult m t a b acq cell) ∧ exec (.fget m t a b acq) s = .next (v.marker m) := by
  have hdone := s.fget_accessDone m t a b acq cell
  refine ⟨_, hdone, ?_⟩
  rw [exec_fget, execFget]
  refine (State.vecMem_queues hq).trans (congrArg _ (hdone.did m ?_ hq.calm))
  refine (congrArg _ (State.issueQ_fget hu h hfull)).trans (State.parkFget_of_empty ?_)
  rw [hdone.cw]
  obtain ⟨f, hf⟩ := s.advance_cw
  rw [hf]
  exact hu.queue

end

/-! ## The words -/

/-- The operation of a class 3 word has entered the queue, or has been performed (R209, R210). -/
def State.vecIssued (s : State) (i : Instr) (m : Bool) (op : MemOp) (ssq : Bool) : State :=
  s.did m fun u => s.parkFget i (s.entryOf i (.mem op) s.exm ssq) (u.issueQ s.cur.1 s.cur.2.1 (s.entryOf i (.mem op) s.exm ssq))

/-- A class 3 word issues: what it needs of the operation that it sends. -/
abbrev State.VecIssues (s : State) (i : Instr) (a : VReg) (b : BitVec 5) (static : List (Option Raise)) (op : MemOp) (ssq : Bool) : Prop :=
  s.Queues i (static ++ [s.cw.vrange a.toNat]) (pairRegs (2 * b.toNat) ++ s.xmodRegs) (s.addrFaults op) (s.entryOf i (.mem op) s.exm ssq)

section
variable {s : State} {i : Instr} {m : Bool} {t a : VReg} {b : BitVec 5}

/-- The loads of which the SSQ takes an entry are the ordered ones (R213). -/
theorem ldQ_ordered (q : LdQ) : (q == .acq || q == .sc) = decide (q = .acq ∨ q = .sc) := by cases q <;> rfl

/-- A load. -/
theorem State.vload_issues {n : Nat} {sgn : Bool} {q : LdQ}
    (h : s.VecIssues i a b (s.vdest t.toNat (max 1 (n / 4))) (s.vecOp (.load n sgn t.toNat) (ldOrd q) a b (fun _ => 0) fun _ => 0)
      (q = .acq ∨ q = .sc)) :
    s.vload i m n sgn t a b q =
      .next (s.vecIssued i m (s.vecOp (.load n sgn t.toNat) (ldOrd q) a b (fun _ => 0) fun _ => 0) (q = .acq ∨ q = .sc)) := by
  rw [State.vload, ldQ_ordered]
  exact State.vecMem_queues h

/-- A store. -/
theorem State.vstore_issues {n : Nat} {q : StQ}
    (h : s.VecIssues i a b (s.cw.vranges t.toNat (max 1 (n / 4))) (s.vecOp (.store n) (stOrd q) a b (s.vdata t n) fun _ => 0) true) :
    s.vstore i m n t a b q = .next (s.vecIssued i m (s.vecOp (.store n) (stOrd q) a b (s.vdata t n) fun _ => 0) true) :=
  State.vecMem_queues h

end

/-- Settles O13: every word issues its operation, and an FGET of full stash cells has their values. -/
theorem vectorMemoryWords : Obligations.VectorMemoryWords := by
  unfold Obligations.VectorMemoryWords
  intro m t a b s gives load store
  refine ⟨fun q => ?_, fun q => ?_, fun l2 h => (exec_vpref ..).trans (State.vecMem_queues h),
    fun acq h => (exec_fget ..).trans (State.vecMem_queues h), fun rel h => (exec_fput ..).trans (State.vecMem_queues h),
    fun op q h => (exec_vatom ..).trans (State.vecMem_queues h), fun op q h => (exec_vred ..).trans (State.vecMem_queues h), ?_⟩
  · exact ⟨fun h => (exec_vldB32 ..).trans (State.vload_issues h), fun h => (exec_vldB64 ..).trans (State.vload_issues h),
      fun h => (exec_vldB128 ..).trans (State.vload_issues h), fun h => (exec_vldS8 ..).trans (State.vload_issues h),
      fun h => (exec_vldN8 ..).trans (State.vload_issues h), fun h => (exec_vldS16 ..).trans (State.vload_issues h),
      fun h => (exec_vldN16 ..).trans (State.vload_issues h)⟩
  · exact ⟨fun h => (exec_vstB32 ..).trans (State.vstore_issues h), fun h => (exec_vstB64 ..).trans (State.vstore_issues h),
      fun h => (exec_vstB128 ..).trans (State.vstore_issues h), fun h => (exec_vstB8 ..).trans (State.vstore_issues h),
      fun h => (exec_vstB16 ..).trans (State.vstore_issues h)⟩
  · intro acq cell i op value hq hu hcell _
    have hread : s.CellsRead a b cell := fun l hl => by
      obtain ⟨off, hoff, hat, hplain, hgood, -⟩ := hcell l hl
      exact ⟨⟨off, hoff, hat⟩, hplain, hgood⟩
    have hfull : ∀ l ∈ lanesOf s.exm, 2 ^ 32 ≤ s.cellValue cell l := fun l hl => by
      obtain ⟨_, _, _, _, _, hfull⟩ := hcell l hl
      exact hfull
    obtain ⟨v, hdone, hexec⟩ := exec_fget_full hq hu hread hfull
    obtain ⟨hregs, houts⟩ := hdone.marker_regs m
    exact ⟨v.marker m, hexec, hdone.marker_cs m hq.ready, hregs, hdone.marker_mem m, _, houts, rfl, fun l hl => State.mem_fgetResult hl⟩

end Sys2Proof.Machine
end
